-- ==== Sys2Proof/Word.lean ====
section
/-! DEFINITION. The machine's words and their plainest arithmetic (00_scope.md R3, R6). -/

namespace Sys2Proof

/-- A 64-bit word: a syllable, an x register, a control register. -/
abbrev Word := BitVec 64

/-- One 32-bit lane of a vector register (R151). -/
abbrev Lane := BitVec 32

/-- A lineage tag or a fold (R166). -/
abbrev Tag := BitVec 32

/-- One byte of memory. -/
abbrev Byte := BitVec 8

/-- The 64 lanes of a vector register (R105, R151). -/
abbrev Lanes := Vector Lane 64

/-- The 64 by 64 elements of an accumulator, row by row (R105). -/
abbrev Grid := Vector (Vector Lane 64) 64

end Sys2Proof
end

