-- ==== Sys2Proof/Config.lean ====
section
/-! DEFINITION. What a part fixes (fuses) and the values the spec leaves free. -/

namespace Sys2Proof

/-- FREE VALUE (log 8): the byte that a read under a regenerated key returns (R342, R347); the argument is a fresh number. -/
opaque Config.staleKeyByte : Nat → BitVec 8

/-- FREE VALUE (log 8): numbers drawn or signed by the root of trust: ephemeral keys and random values (R348), signature words (R349). -/
opaque Config.crypto : Nat → BitVec 64

/-- FREE VALUE (log 8): SHA-384 of a byte string, as a number of 48 bytes, little-endian (R348, R349 name it by its standard). -/
opaque Config.sha384 : List (BitVec 8) → Nat

/-- FREE VALUE (log 8): the public key of an ephemeral private key, and the ECDH shared secret with a peer's public key (R348, SP 800-56A). -/
opaque Config.ecdhPub : Nat → Nat
/-- FREE VALUE (log 8): see `Config.ecdhPub`. -/
opaque Config.ecdh : Nat → Nat → Nat

/-- FREE VALUE (log 8): this device's identity certificate, and the order of a certificate's device identity (R348). -/
opaque Config.certificate : Nat
/-- FREE VALUE (log 8): see `Config.certificate`. -/
opaque Config.identity : Nat → Nat

/-- FREE VALUE (log 8): a certificate's chain ends in Cherel's root (R348). -/
opaque Config.chainOk : Nat → Bool

/-- FREE VALUE (log 8): a signature of a hash verifies under a certificate's key (R348, ECDSA P-384). -/
opaque Config.sigOk : Nat → Nat → Nat → Bool

/-- FREE VALUE (log 8): HKDF with SHA-384 of key material, salt and info (R348, RFC 5869): the 104 bytes as a number, little-endian. -/
opaque Config.hkdf : Nat → Nat → List (BitVec 8) → Nat

/-- FREE VALUE (log 8): HMAC-SHA-384 under a key (R348). -/
opaque Config.hmac : Nat → Nat → Nat

/-- FREE VALUE (log 8): the bytes of a keying message: public key in uncompressed form, random value, certificate and link number (R348). -/
opaque Config.keyingBytes : Nat → Nat → Nat → Nat → List (BitVec 8)

/-- FREE VALUE (log 8): whether a phaser of a peer device refuses a byte addition (R356); the argument is a fresh number. -/
opaque Config.peerRefuses : Nat → Bool

/-- FREE VALUE (log 8): the root of trust's signature of a hash under this device's identity key (R348, ECDSA P-384). -/
opaque Config.signature : Nat → Nat

/-- FREE VALUE (log 8): the birth frequency of a cluster's ring oscillators (R381). -/
opaque Config.birthFrequency : Nat → Nat

/-- FREE VALUE (log 8): the measured latency of a slice access, entry n of the slice distance table (R200). -/
opaque Config.sliceDistance : Nat → BitVec 16

/-- DESIGN CHOICE (log 4): the first of the four fused spare sites of each die. R12 fixes their number only; the worked example of R13
puts those of die C1 at sites 140 to 143 and Table 22.1 those of die C0 at 132 to 135; dies C2 and C3 are taken alike. -/
def Config.spareSite (die : Nat) : Nat :=
  match die with
  | 0 => 132
  | 1 => 140
  | 2 => 276
  | _ => 284

/-- FREE VALUE (log 8): the fused drift limit of a cluster, in 1/1,024 of the birth frequency (Table 18.5). -/
opaque Config.driftLimit : Nat → BitVec 8

/-- FREE VALUE (log 8): how many entries an undo-log region of that many bytes holds (R204 states no entry size). -/
opaque Config.undoEntries : Nat → Nat

/-- DESIGN CHOICE (log 4): this package's number in its load-store domain (R16, R241). -/
def Config.device : Nat := 0

/-- FREE VALUE (log 55): the Wale link that carries packets to a device of the domain, modulo 12 (R350 names no routing). -/
opaque Config.linkOf : Nat → Nat

end Sys2Proof
end

