-- ==== Sys2Proof/Syntax.lean ====
section
/-! DEFINITION. The instructions and events of spec/opcode_table.json, one constructor a row. -/

namespace Sys2Proof

/-! ## Operand forms (04_encoding.md) -/

/-- The five slot classes of Table 4.2. -/
inductive Slot where
  | S | A | B | V | M
  deriving DecidableEq, Repr

/-- The fields every slot syllable carries besides its form's own (Table 4.1): where it issues and under which guard. -/
structure Hdr where
  slot : Slot
  guard : BitVec 4
  sense : Bool
  deriving DecidableEq, Repr

/-- The format codes of Table 3.1. -/
inductive Fmt where
  | i8 | i16 | i32 | i64 | n8 | n16 | n32 | n64 | f32 | bf16 | f8e4 | f8e5 | i4x
  deriving DecidableEq, Repr

/-- The rounding modes of Table 3.5. -/
inductive Rnd where
  | rne | rtz | rup | rdn | dither
  deriving DecidableEq, Repr

/-- The condition codes of Table 4.13. -/
inductive Cond where
  | eq | ne | lt | le | gt | ge | un
  deriving DecidableEq, Repr

/-- The spaces of Table 4.10. -/
inductive Space where
  | loc | tile | slice | glob
  deriving DecidableEq, Repr

/-- The policy hints of Table 4.12. -/
inductive Hint where
  | normal | noAlloc | evictFirst
  deriving DecidableEq, Repr

/-- The scopes of Table 4.14. -/
inductive Scope where
  | context | tile | die | device | domain | system
  deriving DecidableEq, Repr

/-- An immediate of format I: the 16-bit field alone, or with a 48-bit extension payload (R75). -/
inductive Imm where
  | short (i : BitVec 16)
  | long (i : BitVec 16) (payload : BitVec 48)
  deriving DecidableEq, Repr

/-- The memory operand of layouts M0 and M1 (Table 4.7); M0 with its optional 44-bit extension (R75). -/
inductive MemOp where
  | m0 (xb : BitVec 6) (off : BitVec 20)
  | m0x (xb : BitVec 6) (off : BitVec 20) (payload : BitVec 44)
  | m1 (xb xi : BitVec 6) (sh : BitVec 2)
  deriving DecidableEq, Repr

/-- The fields of a read-modify-write form, layout MA (Table 4.7). -/
structure Rmw where
  rd : BitVec 6
  space : Space
  xb : BitVec 6
  ret : Bool
  xs : BitVec 6
  off : BitVec 14
  ty : Fmt
  hint : Hint
  deriving DecidableEq, Repr

/-- The operations of the read-modify-write forms (Table 11.2 and R234). -/
inductive RmwOp where
  | add | fadd | min | max | and | or | xor | swp | cas | bfins | ffcs | plset
  deriving DecidableEq, Repr

/-- The operation format, rounding and modifier bits of format V (Table 4.8). -/
structure VMod where
  fmt : Fmt
  rnd : Rnd
  fi : Bool
  fo : Bool
  sat : Bool
  deriving DecidableEq, Repr

/-- A phaser reference (R353): an index on the issuing tile, or a register that holds the remote form. -/
inductive PhRef where
  | here (idx : BitVec 12)
  | remote (xr : BitVec 6)
  deriving DecidableEq, Repr

/-- The block-product formats fixed by a major opcode (R83, R301). -/
inductive Prod where
  | bf16 | f8e4 | f8e5 | i8 | i4x
  deriving DecidableEq, Repr

/-- The register file that `ltag` reads (Table 9.4). -/
inductive TagFile where
  | x | v | p | a
  deriving DecidableEq, Repr

/-- The fields of `mblk` (Table 14.5). -/
structure MblkOp where
  acc : BitVec 3
  s1 : BitVec 6
  s2 : BitVec 6
  selA : BitVec 2
  selB : BitVec 2
  imA : BitVec 2
  imB : BitVec 2
  deriving DecidableEq, Repr

/-- The reduction operations of Table 13.8. -/
inductive RedOp where
  | fadd | iadd | fmax | fmin | imax | imin
  deriving DecidableEq, Repr

/-- The last command of a chained copy carries a retry count and the expected Fletcher-32 word (R243). -/
structure ChainEnd where
  retries : BitVec 3
  word : BitVec 32
  deriving DecidableEq, Repr

/-! ## Payloads of the events (95_what_each_step_holds.md) -/

/-- The context that sent a message: its site and context number. -/
structure Src where
  site : Nat
  cid : Nat
  deriving DecidableEq, Repr

/-- The home of a location (R211, R214): one agent that serves it in one order. -/
inductive Home where
  | dram
  | host
  | slice (k : Nat)
  | pool (site : Nat)
  | custodian (site : Nat)
  | peerMem (dev : Nat)
  | peerPool (dev logical : Nat)
  deriving DecidableEq, Repr

/-- What a remote access does at its home; the last two are the reads `phexp` and `phrd` of a sync engine, whose phaser index
stands in the offset (R364). -/
inductive Access where
  | load (n : Nat)
  | store (data : List Byte) (tag : Tag) (ws : BitVec 8) (poison : Bool)
  | rmw (op : RmwOp) (ty : Fmt) (d e : Word) (fi fo ret : Bool) (tag : Tag) (ws : BitVec 8) (poison : Bool)
  | phexp (p : BitVec 32)
  | phrd (w : BitVec 2)
  deriving DecidableEq, Repr

/-- One remote load, store or read-modify-write on its way to its home (R194, R214).
`addr` is the address that the instruction formed and that a log shows (R209); `tile` the logical number it names, which its source router
maps as it leaves (R344). -/
structure Req where
  src : Src
  id : Nat
  home : Home
  off : Nat
  tile : Option Nat
  pas : Nat
  part : BitVec 4
  expE : Bool
  addr : Word
  body : Access
  deriving DecidableEq, Repr

/-- The answer to a request: what arrives under R35. -/
structure Answer where
  src : Src
  id : Nat
  words : List Word
  poison : Bool
  flags : BitVec 7
  deriving DecidableEq, Repr

/-- A message to a phaser: sender, the site and index that it goes to, the sender's partition, and the reference as
the log shows it (R353, R437). `dev` is the device the phaser stands on; `tile` the logical number of a remote reference, which the source
router maps as the message leaves (R344). -/
structure PhMsg where
  src : Src
  dev : Nat
  tile : Option Nat
  site : Nat
  idx : Nat
  part : BitVec 4
  ref : Word
  deriving DecidableEq, Repr

/-- The clasp request forms (R323, R335). -/
inductive ClForm where
  | acq | upg | try | qry
  deriving DecidableEq, Repr

/-- A clasp request or release on its way to its unit (R318). -/
structure ClReq where
  src : Src
  id : Nat
  part : BitVec 4
  rank : Nat
  name : Word
  form : ClForm
  mode : BitVec 3
  all : Bool
  deriving DecidableEq, Repr

/-- A reduction contribution (R292). -/
structure Packet where
  lanes : Lanes
  op : RedOp
  part : BitVec 4
  poison : Bool
  flags : BitVec 7
  touts : BitVec 8
  site : BitVec 10
  mask : BitVec 5
  inc : Bool
  deriving DecidableEq, Repr

/-- The eight words of a task record (Table 12.1). -/
abbrev RecWords := Vector Word 8

/-- R371, R373: the bundle that owns a replayed stage: its context, and how many schedule cycles before that context's latest bundle it
issued. -/
structure BundleRef where
  ctx  : BitVec 2
  back : Nat
  deriving DecidableEq, Repr

/-- What the debug port writes (R120, R394); `mark`: the pending mark of the n-th awaited result, which it clears. -/
inductive DebugReg where
  | x (n : BitVec 6) | v (n : BitVec 6) | p (n : BitVec 4) | a (n : BitVec 3) | vl | es (n : BitVec 2) | ws | pc
  | lf | ps | q (k : BitVec 3) | ctl (n : BitVec 16) | guardMask | mark (n : Nat)
  deriving DecidableEq, Repr

/-- An edit of a snapshot entry that the port may make (R285, R394). -/
inductive SnapEdit where
  | delete
  | value (w : List Word)
  | poison (b : Bool)
  | flags (f : BitVec 7)
  | tag (t : Tag)
  | ignored (field : Nat) (w : Word)
  deriving DecidableEq, Repr

/-- The condition in which a patrol read finds a line (R202). -/
inductive Ecc where
  | clean | corrected | uncorrectable
  deriving DecidableEq, Repr

/-- A write of system software to the hub's configuration window (16_system_tables.md): the tables and registers it names; and, as
its own further acts (log 66), the partition interfaces on which IDE is established (R21), an image that the loader places, a write to memory, a
page of the host's IOMMU and its ATS invalidation (R341), and an ECC error that an access meets (R195, R199, R202). What comes in over a Wale
link, and what the custodian reads of its reports, stands here too (log 81): a granule of a peer's copy, bytes of one counted down at a phaser
of this device, bits that a copy's next granule lands with flipped (R241, R243, R396). -/
inductive WindowReg where
  | pasidTable
  | queueBase (part q : Nat)
  | queuePasid (part q : Nat)
  | queueSize (part q : Nat)
  | queueReset (part q : Nat)
  | attestHead (part : Nat)
  | collective (part : Nat)
  | saveRequest (site cid : Nat)
  | measured (image : Nat) (digest : List (BitVec 8))
  | ide
  | ats (frame pages : Nat)
  | power (cluster : Nat)
  | linkTrain (link : Nat)
  | image (part base phys data dbase tables : Nat) (bytes : List (BitVec 8))
  | store (host : Bool) (addr : Nat) (bytes : List (BitVec 8))
  | iommu (pasid : BitVec 20) (page : Nat) (frame : Option Nat)
  | distances
  | upset (h : Home) (off : Nat) (corrected : Bool)
  | upsetReg (c : Src) (acc : Bool) (n : Nat)
  | peerGranule (dev : Nat) (part : BitVec 4) (tile off : Nat) (bytes : List (BitVec 8)) (stamp : BitVec 8) (tag : Tag)
  | peerLanded (m : PhMsg) (n : Nat)
  | flip (site job : Nat) (mask : List (BitVec 8))
  | takeReport (site : Nat)
  deriving DecidableEq, Repr

/-- The keying message of a Wale link (R348, step 1): ephemeral public key, random value, identity certificate and link number. -/
structure KeyMsg where
  pub : Nat
  rand : Nat
  cert : Nat
  link : Nat
  deriving DecidableEq, Repr

/-- What the peer's root of trust sends in a link's keying (R348, steps 1, 3 and 5). -/
inductive KeyStep where
  | hello (m : KeyMsg)
  | signature (sig : Nat)
  | confirm (mac : Nat)
  deriving DecidableEq, Repr

end Sys2Proof

namespace Sys2Proof

/-- An instruction form issued in a slot, or an event of the device: one constructor for each row of the table, in its order. -/
inductive Instr where
  -- 07_scalar_control.md
  | nop (h : Hdr)
  | add (h : Hdr) (ty : Fmt) (sat : Bool) (d s1 s2 : BitVec 6)
  | sub (h : Hdr) (ty : Fmt) (sat : Bool) (d s1 s2 : BitVec 6)
  | mul (h : Hdr) (ty : Fmt) (d s1 s2 : BitVec 6)
  | mulh (h : Hdr) (ty : Fmt) (d s1 s2 : BitVec 6)
  | div (h : Hdr) (ty : Fmt) (d s1 s2 : BitVec 6)
  | rem (h : Hdr) (ty : Fmt) (d s1 s2 : BitVec 6)
  | min (h : Hdr) (ty : Fmt) (d s1 s2 : BitVec 6)
  | max (h : Hdr) (ty : Fmt) (d s1 s2 : BitVec 6)
  | and (h : Hdr) (d s1 s2 : BitVec 6)
  | or (h : Hdr) (d s1 s2 : BitVec 6)
  | xor (h : Hdr) (d s1 s2 : BitVec 6)
  | shl (h : Hdr) (ty : Fmt) (d s1 s2 : BitVec 6)
  | shr (h : Hdr) (ty : Fmt) (d s1 s2 : BitVec 6)
  | sra (h : Hdr) (ty : Fmt) (d s1 s2 : BitVec 6)
  | sel (h : Hdr) (d s1 s2 : BitVec 6) (pn : BitVec 4)
  | clz (h : Hdr) (ty : Fmt) (d s1 : BitVec 6)
  | ctz (h : Hdr) (ty : Fmt) (d s1 : BitVec 6)
  | popc (h : Hdr) (ty : Fmt) (d s1 : BitVec 6)
  | cmp (h : Hdr) (c : Cond) (ty : Fmt) (pd : BitVec 4) (s1 s2 : BitVec 6)
  | pand (h : Hdr) (pd p1 p2 : BitVec 4)
  | por (h : Hdr) (pd p1 p2 : BitVec 4)
  | pxor (h : Hdr) (pd p1 p2 : BitVec 4)
  | pandn (h : Hdr) (pd p1 p2 : BitVec 4)
  | tfence (h : Hdr)
  | addi (h : Hdr) (ty : Fmt) (d s1 : BitVec 6) (imm : Imm)
  | andi (h : Hdr) (d s1 : BitVec 6) (imm : Imm)
  | ori (h : Hdr) (d s1 : BitVec 6) (imm : Imm)
  | xori (h : Hdr) (d s1 : BitVec 6) (imm : Imm)
  | shli (h : Hdr) (ty : Fmt) (d s1 : BitVec 6) (k : BitVec 16)
  | shri (h : Hdr) (ty : Fmt) (d s1 : BitVec 6) (k : BitVec 16)
  | srai (h : Hdr) (ty : Fmt) (d s1 : BitVec 6) (k : BitVec 16)
  | cmpi (h : Hdr) (c : Cond) (ty : Fmt) (pd : BitVec 4) (s1 : BitVec 6) (imm : Imm)
  | movi (h : Hdr) (d : BitVec 6) (imm : Imm)
  | bfx (h : Hdr) (ty : Fmt) (d s1 : BitVec 6) (pos wm1 : BitVec 6)
  | bfi (h : Hdr) (d s1 : BitVec 6) (pos wm1 : BitVec 6)
  | mfc (h : Hdr) (d : BitVec 6) (n : BitVec 16)
  | mtc (h : Hdr) (n : BitVec 16) (s1 : BitVec 6)
  | trap (h : Hdr) (imm : BitVec 16)
  | br (h : Hdr) (tsel : Bool)
  | jr (h : Hdr) (xr : BitVec 6)
  | call (h : Hdr) (xr : BitVec 6) (tsel : Bool)
  | ret (h : Hdr) (xr : BitVec 6)
  | loop (h : Hdr) (xr : BitVec 6) (tsel : Bool)
  | loopi (h : Hdr) (n : BitVec 16) (tsel : Bool)
  | swp (h : Hdr) (xr : BitVec 6) (tsel : Bool) (stg : BitVec 3)
  | eret (h : Hdr)
  -- 09_lineage.md and the audit forms of class S
  | lstamp (h : Hdr) (d : BitVec 3) (s1 : BitVec 6) (imm : BitVec 8)
  | lseed (h : Hdr) (vec : Bool) (d : BitVec 6) (imm : Imm)
  | ltag (h : Hdr) (file : TagFile) (d s1 : BitVec 6)
  | ltagG (h : Hdr) (d s1 : BitVec 6) (imm : BitVec 16)
  | lfold (h : Hdr) (d : BitVec 6)
  | mark (h : Hdr) (imm : Imm)
  | dgrd (h : Hdr) (g : BitVec 8)
  -- 11_memory_instructions.md
  | lea (h : Hdr) (d : BitVec 6) (m : MemOp)
  | ld (h : Hdr) (ty : Fmt) (sp : Space) (d : BitVec 6) (m : MemOp) (ssel : BitVec 2) (hint : Hint)
  | st (h : Hdr) (ty : Fmt) (sp : Space) (xs : BitVec 6) (m : MemOp) (hint : Hint)
  | vld (h : Hdr) (ty : Fmt) (sp : Space) (vd : BitVec 6) (m : MemOp) (ssel : BitVec 2) (hint : Hint)
  | vst (h : Hdr) (ty : Fmt) (sp : Space) (vs : BitVec 6) (m : MemOp) (hint : Hint)
  | vgath (h : Hdr) (ty : Fmt) (vd xb vi : BitVec 6) (off : BitVec 14) (ssel : BitVec 2) (hint : Hint)
  | vscat (h : Hdr) (ty : Fmt) (vs xb vi : BitVec 6) (off : BitVec 14) (hint : Hint)
  | ldblk (h : Hdr) (s1 s2 : BitVec 6) (k : BitVec 4) (ph : Option (BitVec 12)) (hint : Hint)
  | ldl (h : Hdr) (ty : Fmt) (d : BitVec 6) (m : MemOp) (hint : Hint)
  | evblk (h : Hdr) (k : BitVec 4)
  | bfins (h : Hdr) (o : Rmw)
  | ffcs (h : Hdr) (o : Rmw)
  | plset (h : Hdr) (o : Rmw)
  | mwait (h : Hdr) (ty : Fmt) (xd : BitVec 6) (m : MemOp) (ssel : BitVec 2) (hint : Hint)
  | atomAdd (h : Hdr) (o : Rmw)
  | atomFadd (h : Hdr) (o : Rmw)
  | atomMin (h : Hdr) (o : Rmw)
  | atomMax (h : Hdr) (o : Rmw)
  | atomAnd (h : Hdr) (o : Rmw)
  | atomOr (h : Hdr) (o : Rmw)
  | atomXor (h : Hdr) (o : Rmw)
  | atomSwp (h : Hdr) (o : Rmw)
  | atomCas (h : Hdr) (o : Rmw)
  | copy (h : Hdr) (out slice : Bool) (s1 v2 s3 : BitVec 6) (ph : BitVec 12)
  | copyr (h : Hdr) (s1 s2 s3 : BitVec 6) (ph : BitVec 12)
  | copyx (h : Hdr) (s1 s2 s3 : BitVec 6) (ph : BitVec 12)
  | copyc (h : Hdr) (s1 s2 s3 : BitVec 6) (ph : BitVec 12) (last : Option ChainEnd)
  | fence (h : Hdr) (sc : Scope)
  | drain (h : Hdr) (sc : Scope)
  -- 12_task_queues.md
  | spawn (h : Hdr) (s1 : BitVec 6)
  | join (h : Hdr) (s1 : BitVec 6)
  | tend (h : Hdr)
  | cancel (h : Hdr) (s1 : BitVec 6) (level : BitVec 4)
  | ccrd (h : Hdr) (d s1 : BitVec 6) (level : BitVec 4)
  | yield (h : Hdr)
  -- 13_engine_queues.md
  | sbind (h : Hdr) (k : BitVec 3) (s1 : BitVec 6)
  | sunbind (h : Hdr) (k : BitVec 3)
  | sadv (h : Hdr) (k : BitVec 3) (n : BitVec 12)
  | rsend (h : Hdr) (vs : BitVec 6) (t : BitVec 4) (op : RedOp)
  | rrecv (h : Hdr) (vd xs : BitVec 6) (t : BitVec 4)
  -- 15_clasp.md
  | clacq (h : Hdr) (d s1 : BitVec 6) (mode : BitVec 4)
  | clupg (h : Hdr) (d s1 : BitVec 6) (mode : BitVec 4)
  | clrel (h : Hdr) (d s1 : BitVec 6) (all : Bool)
  | cltry (h : Hdr) (d s1 : BitVec 6) (mode : BitVec 4)
  | clqry (h : Hdr) (d s1 : BitVec 6)
  -- 17_phasers.md
  | phreg (h : Hdr) (ref : PhRef) (sc : Scope) (mode : BitVec 2)
  | phdrop (h : Hdr) (ref : PhRef) (mode : BitVec 2)
  | phsig (h : Hdr) (ref : PhRef)
  | phwait (h : Hdr) (d : BitVec 6) (ref : PhRef) (s2 : BitVec 6)
  | phsw (h : Hdr) (d : BitVec 6) (ref : PhRef) (s2 s3 : BitVec 6)
  | phexp (h : Hdr) (d : BitVec 6) (ref : PhRef) (s2 : BitVec 6)
  | phrd (h : Hdr) (d : BitVec 6) (ref : PhRef) (w : BitVec 2)
  -- 08_vector.md
  | vadd (h : Hdr) (m : VMod) (vd vs1 vs2 : BitVec 6)
  | vsub (h : Hdr) (m : VMod) (vd vs1 vs2 : BitVec 6)
  | vmul (h : Hdr) (m : VMod) (vd vs1 vs2 : BitVec 6)
  | vfma (h : Hdr) (m : VMod) (vd vs1 vs2 vs3 : BitVec 6)
  | vfms (h : Hdr) (m : VMod) (vd vs1 vs2 vs3 : BitVec 6)
  | vmin (h : Hdr) (m : VMod) (vd vs1 vs2 : BitVec 6)
  | vmax (h : Hdr) (m : VMod) (vd vs1 vs2 : BitVec 6)
  | vabs (h : Hdr) (m : VMod) (vd vs1 : BitVec 6)
  | vneg (h : Hdr) (m : VMod) (vd vs1 : BitVec 6)
  | vcmp (h : Hdr) (c : Cond) (m : VMod) (vd vs1 vs2 : BitVec 6)
  | vsel (h : Hdr) (vd vs1 vs2 vs3 : BitVec 6)
  | vand (h : Hdr) (vd vs1 vs2 : BitVec 6)
  | vor (h : Hdr) (vd vs1 vs2 : BitVec 6)
  | vxor (h : Hdr) (vd vs1 vs2 : BitVec 6)
  | vnot (h : Hdr) (vd vs1 : BitVec 6)
  | vshl (h : Hdr) (fmt : Fmt) (vd vs1 vs2 : BitVec 6)
  | vshr (h : Hdr) (fmt : Fmt) (vd vs1 vs2 : BitVec 6)
  | vsra (h : Hdr) (fmt : Fmt) (vd vs1 vs2 : BitVec 6)
  | vcvt (h : Hdr) (m : VMod) (sfmt : Fmt) (vd vs1 : BitVec 6)
  | vnarrow (h : Hdr) (m : VMod) (sfmt : Fmt) (vd vs1 : BitVec 6) (scale : Option (BitVec 6))
  | vexp2 (h : Hdr) (m : VMod) (vd vs1 : BitVec 6)
  | vrcp (h : Hdr) (m : VMod) (vd vs1 : BitVec 6)
  | vredsum (h : Hdr) (m : VMod) (vd vs1 : BitVec 6)
  | vredmax (h : Hdr) (m : VMod) (vd vs1 : BitVec 6)
  | vperm (h : Hdr) (vd vs1 vs2 : BitVec 6)
  | vbcast (h : Hdr) (vd xs1 : BitVec 6)
  | vext (h : Hdr) (fmt : Fmt) (xd vs1 : BitVec 6) (k : BitVec 6)
  | vins (h : Hdr) (vd xs1 : BitVec 6) (k : BitVec 6)
  | vlane (h : Hdr) (vd : BitVec 6)
  | setvl (h : Hdr) (xs1 : BitVec 6)
  | vmov (h : Hdr) (vd vs1 : BitVec 6)
  | scacc (h : Hdr) (acc : Option (BitVec 3)) (ver vec : BitVec 6) (rnd : Rnd) (sat : Bool)
  | vdefer (h : Hdr) (vm vs1 : BitVec 6) (nm1 : BitVec 2) (id : BitVec 8)
  | vdrain (h : Hdr) (vd vmap : BitVec 6) (nm1 : BitVec 2) (id : BitVec 8)
  -- 14_matrix_tables.md, 19_audit_counters.md
  | mnest (h : Hdr) (s1 : BitVec 6)
  | mgoBf16 (h : Hdr)
  | mgoF8e4 (h : Hdr)
  | mgoF8e5 (h : Hdr)
  | mgoI8 (h : Hdr)
  | mgoI4x (h : Hdr)
  | mblkBf16 (h : Hdr) (o : MblkOp)
  | mblkF8e4 (h : Hdr) (o : MblkOp)
  | mblkF8e5 (h : Hdr) (o : MblkOp)
  | mblkI8 (h : Hdr) (o : MblkOp)
  | mblkI4x (h : Hdr) (o : MblkOp)
  | mzero (h : Hdr) (acc : BitVec 3)
  | mdrain (h : Hdr) (fmt : Fmt) (rnd : Rnd) (sat : Bool) (acc : BitVec 3) (s1 s2 : BitVec 6) (r0 nm1 : BitVec 6)
  | mstat (h : Hdr) (d : BitVec 6)
  | touch (h : Hdr) (seed : BitVec 16) (const : BitVec 32)
  -- events
  | blockCommit
  | transferCharge (site : Nat)
  | asyncResultArrival (a : Answer)
  | contextResume (c : Src)
  | custodianShareTurn (site : Nat)
  | asyncTrapTaken
  | pageWalkComplete (site : Nat) (pasid : BitVec 20) (va : Word)
  | remoteAccessArrival (r : Req)
  | monitorWakeup (c : Src)
  | ldblkFillComplete (site slot : Nat)
  | copyBytesLand (site job : Nat)
  | copyFault (site job : Nat) (detail : BitVec 8) (addr : Word)
  | chainCompare (c : Src)
  | streamChunkFetch (k : BitVec 3)
  | streamChunkDrain (c : Src)
  | blockProductIssue
  | partialSumDelivery
  | touchstoneCompare
  | phaserRegistration (m : PhMsg) (mode : BitVec 2) (sc : Scope)
  | phaserDrop (m : PhMsg) (mode : BitVec 2)
  | phaserSignal (m : PhMsg)
  | phaserByteAddition (m : PhMsg) (bytes : Nat) (job : Nat)
  | phaserErrorArrival (m : PhMsg) (bytes : Nat)
  | phaserWaitArrival (m : PhMsg) (p : BitVec 32) (id : Nat)
  | phswLimitExpiry (c : Src)
  | claspRequestServe (q : ClReq)
  | claspReleaseServe (q : ClReq)
  | woundDelivery (part : BitVec 4) (rank : Nat) (name : Word)
  | graceMessage (part : BitVec 4) (rank : Nat) (name : Word)
  | reductionPacketArrival (site t port : Nat) (p : Packet)
  | reductionRoundTimeout (site t : Nat)
  | reductionRootBufferEntry (site t : Nat)
  | treeEntryWrite (site t : Nat) (w : Word)
  | taskPop (c : Src)
  | taskPush (c : Src) (r : RecWords)
  | joinDecrement (c : Src) (r : Req)
  | cancelCounter (part : BitVec 4) (level idx : Nat)
  | ccrdServe (c : Src) (id : Nat) (part : BitVec 4) (level idx : Nat)
  | preemption (c : Src)
  | gangPlacement (part : BitVec 4) (base : Nat)
  | tailRegisterWrite (part q : Nat) (v : Word)
  | launch (part q : Nat) (w : RecWords)
  | graph (part q : Nat) (w : RecWords)
  | release (part q : Nat) (w : RecWords)
  | wait (part q : Nat) (w : RecWords)
  | waitConditionMet (part q : Nat)
  | indirect (part q : Nat) (w : RecWords)
  | ckpt (part q : Nat) (w : RecWords)
  | abortTokenReceive (part : BitVec 4) (dev : Nat) (step : Word)
  | marginReplay (site : Nat) (slot stage : BitVec 3) (owner : BundleRef)
  | injectedDetection (site : Nat)
  | replayWindowClose (site : Nat)
  | quarantineSite (site : Nat)
  | signedTestKernelResult (site : Nat) (pass : Bool)
  | meshMapMove (site : Nat)
  | ageingSample (cluster : Nat) (measured : Nat)
  | patrolScrub (line : Nat) (e : Ecc)
  | tlbInvalidation (pasid : BitVec 20) (va len : Nat)
  | pasidTeardown (pasid : BitVec 20)
  | partitionDescriptorWrite (part : Nat) (addr : Nat)
  | partitionReset (part : Nat)
  | packageReset
  | linkKeyingMessage (link : Nat) (k : KeyStep)
  | linkRekey (link : Nat)
  | linkFailure (link : Nat)
  | linkReset (link : Nat)
  | debugStopRequest (c : Src)
  | debugResume (c : Src)
  | debugStep (c : Src) (k : BitVec 16)
  | debugStepEnd (c : Src)
  | debugRegisterWrite (c : Src) (r : DebugReg) (w : List Word) (tag : Option Tag) (poison : Option Bool)
  | snapshotEntryEdit (c : Src) (n : Nat) (e : SnapEdit)
  | configWindowWrite (r : WindowReg) (v : Word)
  | writeAcknowledgement (c : Src)
  | swallowedPulse (cluster : Nat)
  | linkTrainingComplete (link : Nat)
  | tdispAssignment (part : Nat) (on : Bool)
  | frameOwnershipChange (frame : Nat) (owner : BitVec 8)
  deriving DecidableEq, Repr

end Sys2Proof
end

