-- ==== Sys2Proof/WellFormed.lean ====
section
/-! DEFINITION. The limits of every form's operands: the checks of 04_encoding.md R68, R69 and R71 and of the owning chapters,
as far as the image alone decides them (reason 0x04). -/

namespace Sys2Proof

/-! ## Admitted codes -/

/-- Type codes 0x0 to 0x7 (Table 7.1). -/
def Fmt.isScalar (ty : Fmt) : Bool := [Fmt.i8, .i16, .i32, .i64, .n8, .n16, .n32, .n64].contains ty
/-- The integer formats of a vector form: 0x0 to 0x2 and 0x4 to 0x6 (Table 8.1). -/
def Fmt.isLaneInt (ty : Fmt) : Bool := [Fmt.i8, .i16, .i32, .n8, .n16, .n32].contains ty
/-- The signed integer formats of a lane, 0x0 to 0x2. -/
def Fmt.isLaneSigned (ty : Fmt) : Bool := [Fmt.i8, .i16, .i32].contains ty
/-- The formats of `vadd` and its family (Table 8.1). -/
def Fmt.isArith (ty : Fmt) : Bool := ty.isLaneInt || ty == .f32
/-- The formats of `vabs` and `vneg` (Table 8.1). -/
def Fmt.isSigned (ty : Fmt) : Bool := ty.isLaneSigned || ty == .f32
/-- The formats of vector memory forms and of `vcvt`: 0x0 to 0x2, 0x4 to 0x6 and 0x8 to 0xB (Tables 8.1 and 11.1). -/
def Fmt.isElement (ty : Fmt) : Bool := ty.isLaneInt || [Fmt.f32, .bf16, .f8e4, .f8e5].contains ty
/-- The destination formats of `vnarrow` (Table 8.1). -/
def Fmt.isNarrow (ty : Fmt) : Bool := [Fmt.i8, .i16, .n8, .n16, .bf16, .f8e4, .f8e5].contains ty
/-- The formats of `mdrain` (R314). -/
def Fmt.isDrain (ty : Fmt) : Bool := [Fmt.f32, .bf16, .f8e4, .f8e5].contains ty
/-- The formats of the integer atomics and of `mwait` (Table 11.1). -/
def Fmt.isAtomic (ty : Fmt) : Bool := [Fmt.i32, .i64, .n32, .n64].contains ty

/-- The width N of an integer format, in bits (R41, R123); 32 for the others. -/
def Fmt.width : Fmt → Nat
  | .i8 | .n8 | .f8e4 | .f8e5 => 8
  | .i16 | .n16 | .bf16 => 16
  | .i32 | .n32 | .f32 => 32
  | .i64 | .n64 => 64
  | .i4x => 4

/-- A control-register number that Table 6.2 lists (R110). -/
def Ctl.assigned (n : BitVec 16) : Bool :=
  let k := n.toNat
  (k ≤ 6) || (8 ≤ k && k ≤ 10) || (16 ≤ k && k ≤ 22) || (24 ≤ k && k ≤ 33) || (48 ≤ k && k ≤ 52)
    || (56 ≤ k && k ≤ 79)

/-! ## Operand forms -/

/-- A predicate destination is p1 to p15 (R68). -/
def okPd (pd : BitVec 4) : Bool := pd != 0

/-- The modifier bits of the arithmetic vector forms, by format (Table 8.1): all for `.f32`; SAT alone and RNE for integers. -/
def VMod.okArith (m : VMod) : Bool :=
  m.fmt.isArith && (m.fmt == .f32 || (m.rnd == .rne && !m.fi && !m.fo))
/-- The bits of `vmin`, `vmax`, `vcmp`: FI for `.f32` only. -/
def VMod.okMinMax (m : VMod) : Bool :=
  m.fmt.isArith && m.rnd == .rne && !m.fo && !m.sat && (m.fmt == .f32 || !m.fi)
/-- The bits of `vabs` and `vneg`: FI and FO for `.f32`, SAT for integers. -/
def VMod.okAbs (m : VMod) : Bool :=
  m.fmt.isSigned && m.rnd == .rne && (if m.fmt == .f32 then !m.sat else !m.fi && !m.fo)
/-- The bits of `vexp2` and `vrcp`. -/
def VMod.okApprox (m : VMod) : Bool := m.fmt == .f32 && m.rnd == .rne && !m.sat
/-- The bits of `vredsum`: four rounding modes, FI and FO for `.f32`; SAT for `.i32`. -/
def VMod.okRedsum (m : VMod) : Bool :=
  if m.fmt == .f32 then m.rnd != .dither && !m.sat else m.fmt == .i32 && m.rnd == .rne && !m.fi && !m.fo
/-- The bits of `vredmax`: FI for `.f32`. -/
def VMod.okRedmax (m : VMod) : Bool :=
  (m.fmt == .f32 || (m.fmt == .i32 && !m.fi)) && m.rnd == .rne && !m.fo && !m.sat

/-- The fields a read-modify-write form admits: its types, and xs only where Table 11.2 uses it. -/
def Rmw.ok (o : Rmw) (types : List Fmt) (usesXs : Bool) : Bool :=
  types.contains o.ty && (usesXs || o.xs == 0)

/-- The types of the integer atomics (Table 11.1). -/
def atomTypes : List Fmt := [.i32, .i64, .n32, .n64]

/-- A slot of the A or B class. -/
def Slot.isAB : Slot → Bool
  | .A | .B => true
  | _ => false

/-- A slot of the S, A or B class: where `add`, `sub`, `addi` and `shli` issue (R122). -/
def Slot.isSAB : Slot → Bool
  | .S | .A | .B => true
  | _ => false

/-- The stamp selector is reserved outside the local space (Table 4.7). -/
def okSsel (sp : Space) (ssel : BitVec 2) : Bool := sp == .loc || ssel == 0

/-- The seed of `lseed` fits 32 bits (R186). -/
def Imm.okSeed : Imm → Bool
  | .short _ => true
  | .long _ p => p.toNat < 2 ^ 16

/-- Whether an instruction form is well formed: its slot is one that its opcode map gives it and its operands are within
the limits of their form. Events have no encoding and answer false. -/
def Instr.wf : Instr → Bool
  | .nop h => h.slot == .S
  | .add h ty _ _ _ _ | .sub h ty _ _ _ _ => h.slot.isSAB && ty.isScalar
  | .mul h ty _ _ _ | .mulh h ty _ _ _ | .div h ty _ _ _ | .rem h ty _ _ _ | .min h ty _ _ _ | .max h ty _ _ _ =>
    h.slot == .S && ty.isScalar
  | .and h _ _ _ | .or h _ _ _ | .xor h _ _ _ => h.slot == .S
  | .shl h ty _ _ _ | .shr h ty _ _ _ | .sra h ty _ _ _ => h.slot == .S && ty.isScalar
  | .sel h _ _ _ _ => h.slot == .S
  | .clz h ty _ _ | .ctz h ty _ _ | .popc h ty _ _ => h.slot == .S && ty.isScalar
  | .cmp h c ty pd _ _ => h.slot == .S && ty.isScalar && c != .un && okPd pd
  | .pand h pd _ _ | .por h pd _ _ | .pxor h pd _ _ | .pandn h pd _ _ => h.slot == .S && okPd pd
  | .tfence h => h.slot == .S
  | .addi h ty _ _ _ => h.slot.isSAB && ty.isScalar
  | .andi h _ _ _ | .ori h _ _ _ | .xori h _ _ _ => h.slot == .S
  | .shli h ty _ _ k => h.slot.isSAB && ty.isScalar && k.toNat < ty.width
  | .shri h ty _ _ k | .srai h ty _ _ k => h.slot == .S && ty.isScalar && k.toNat < ty.width
  | .cmpi h c ty pd _ _ => h.slot == .S && ty.isScalar && c != .un && okPd pd
  | .movi h _ _ => h.slot == .S
  | .bfx h ty _ _ pos wm1 => h.slot == .S && (ty == .i64 || ty == .n64) && pos.toNat + wm1.toNat + 1 ≤ 64
  | .bfi h _ _ pos wm1 => h.slot == .S && pos.toNat + wm1.toNat + 1 ≤ 64
  | .mfc h _ n => h.slot == .S && Ctl.assigned n
  | .mtc h n _ => h.slot == .S && Ctl.assigned n
  | .trap h _ => h.slot == .S
  | .br h _ | .jr h _ | .call h _ _ | .ret h _ | .loop h _ _ | .loopi h _ _ | .swp h _ _ _ | .eret h => h.slot == .S
  | .lstamp h d _ _ => h.slot == .S && d.toNat ≤ 4
  | .lseed h _ _ imm => h.slot == .S && imm.okSeed
  | .ltag h f _ s1 => h.slot == .S && (f != .p || s1.toNat ≤ 15)
  | .ltagG h _ _ _ | .lfold h _ => h.slot == .S
  | .mark h _ | .dgrd h _ => h.slot == .S
  | .lea h _ _ => h.slot.isAB
  | .ld h ty sp _ _ ssel _ => h.slot.isAB && ty.isScalar && okSsel sp ssel
  | .st h ty _ _ _ _ => h.slot.isAB && ty.isScalar
  | .vld h ty sp _ _ ssel _ => h.slot.isAB && ty.isElement && okSsel sp ssel
  | .vst h ty _ _ _ _ => h.slot.isAB && ty.isElement
  | .vgath h ty _ _ _ _ _ _ => h.slot.isAB && ty.isElement
  | .vscat h ty _ _ _ _ _ => h.slot.isAB && ty.isElement
  | .ldblk h _ _ _ _ _ => h.slot.isAB
  | .ldl h ty _ _ _ => h.slot.isAB && ty.isScalar
  | .evblk h _ => h.slot.isAB
  | .bfins h o => h.slot.isAB && o.ok [.n32, .n64] true
  | .ffcs h o => h.slot.isAB && o.ok [.n64] false && o.ret
  | .plset h o => h.slot.isAB && o.ok [.n64] true
  | .mwait h ty _ m _ _ => h.slot.isAB && ty.isAtomic && (match m with | .m1 _ _ _ => false | _ => true)
  | .atomAdd h o | .atomMin h o | .atomMax h o | .atomAnd h o | .atomOr h o | .atomXor h o | .atomSwp h o =>
    h.slot.isAB && o.ok atomTypes false
  | .atomCas h o => h.slot.isAB && o.ok atomTypes true
  | .atomFadd h o =>
    h.slot.isAB && o.ok [.f32, .bf16] true && o.xs.toNat < 4 && (o.ret || o.space == .loc || o.space == .tile)
  | .copy h _ _ _ _ _ _ | .copyr h _ _ _ _ | .copyx h _ _ _ _ | .copyc h _ _ _ _ _ => h.slot.isAB
  | .fence h sc | .drain h sc => h.slot.isAB && sc != .context
  | .spawn h _ | .join h _ | .tend h | .yield h => h.slot.isAB
  | .cancel h _ l | .ccrd h _ _ l => h.slot.isAB && 1 ≤ l.toNat && l.toNat ≤ 4
  | .sbind h _ _ | .sunbind h _ => h.slot.isAB
  | .sadv h _ n => h.slot.isAB && n != 0
  | .rsend h _ _ _ | .rrecv h _ _ _ => h.slot.isAB
  | .clacq h _ _ m | .clupg h _ _ m | .cltry h _ _ m => h.slot.isAB && 1 ≤ m.toNat && m.toNat ≤ 6
  | .clrel h _ _ _ | .clqry h _ _ => h.slot.isAB
  | .phreg h _ sc m => h.slot.isAB && (sc == .tile || sc == .die || sc == .device) && m != 0
  | .phdrop h _ m => h.slot.isAB && m != 0
  | .phsig h _ | .phwait h _ _ _ | .phsw h _ _ _ _ | .phexp h _ _ _ => h.slot.isAB
  | .phrd h _ _ w => h.slot.isAB && w != 3
  | .vadd h m _ _ _ | .vsub h m _ _ _ | .vmul h m _ _ _ => h.slot == .V && m.okArith
  | .vfma h m _ _ _ _ | .vfms h m _ _ _ _ => h.slot == .V && m.okArith
  | .vmin h m _ _ _ | .vmax h m _ _ _ => h.slot == .V && m.okMinMax
  | .vabs h m _ _ | .vneg h m _ _ => h.slot == .V && m.okAbs
  | .vcmp h c m _ _ _ => h.slot == .V && m.okMinMax && (c != .un || m.fmt == .f32)
  | .vsel h _ _ _ _ | .vand h _ _ _ | .vor h _ _ _ | .vxor h _ _ _ | .vnot h _ _ => h.slot == .V
  | .vshl h ty _ _ _ | .vshr h ty _ _ _ | .vsra h ty _ _ _ => h.slot == .V && ty.isLaneInt
  | .vcvt h m sf _ _ => h.slot == .V && m.fmt.isElement && sf.isElement && m.fmt != sf
  | .vnarrow h m sf _ _ _ => h.slot == .V && m.fmt.isNarrow && (sf == .i32 || sf == .f32)
  | .vexp2 h m _ _ | .vrcp h m _ _ => h.slot == .V && m.okApprox
  | .vredsum h m _ _ => h.slot == .V && m.okRedsum
  | .vredmax h m _ _ => h.slot == .V && m.okRedmax
  | .vperm h _ _ _ | .vbcast h _ _ | .vins h _ _ _ | .vlane h _ | .setvl h _ | .vmov h _ _ => h.slot == .V
  | .vext h ty _ _ _ => h.slot == .V && ty.isLaneInt
  | .scacc h _ _ _ rnd _ => h.slot == .V && (rnd == .rne || rnd == .dither)
  | .vdefer h _ vs1 nm1 _ => h.slot == .V && vs1.toNat + nm1.toNat ≤ 63
  | .vdrain h vd _ nm1 _ => h.slot == .V && vd.toNat + nm1.toNat ≤ 63
  | .mnest h _ | .mgoBf16 h | .mgoF8e4 h | .mgoF8e5 h | .mgoI8 h | .mgoI4x h => h.slot == .M
  | .mblkBf16 h _ | .mblkF8e4 h _ | .mblkF8e5 h _ | .mblkI8 h _ | .mblkI4x h _ | .mzero h _ | .mstat h _ => h.slot == .M
  | .mdrain h fmt _ _ _ _ _ r0 nm1 => h.slot == .M && fmt.isDrain && r0.toNat + nm1.toNat + 1 ≤ 64
  | .touch h _ _ => h.slot == .M
  | .blockCommit | .transferCharge _ | .asyncResultArrival _ | .contextResume _ | .custodianShareTurn _
  | .asyncTrapTaken | .pageWalkComplete _ _ _ | .remoteAccessArrival _ | .monitorWakeup _ | .ldblkFillComplete _ _
  | .copyBytesLand _ _ | .copyFault _ _ _ _ | .chainCompare _ | .streamChunkFetch _ | .streamChunkDrain _
  | .blockProductIssue | .partialSumDelivery | .touchstoneCompare | .phaserRegistration _ _ _ | .phaserDrop _ _
  | .phaserSignal _ | .phaserByteAddition _ _ _ | .phaserErrorArrival _ _ | .phaserWaitArrival _ _ _
  | .phswLimitExpiry _ | .claspRequestServe _ | .claspReleaseServe _ | .woundDelivery _ _ _ | .graceMessage _ _ _
  | .reductionPacketArrival _ _ _ _ | .reductionRoundTimeout _ _ | .reductionRootBufferEntry _ _
  | .treeEntryWrite _ _ _ | .taskPop _ | .taskPush _ _ | .joinDecrement _ _ | .cancelCounter _ _ _
  | .ccrdServe _ _ _ _ _ | .preemption _ | .gangPlacement _ _ | .tailRegisterWrite _ _ _ | .launch _ _ _
  | .graph _ _ _ | .release _ _ _ | .wait _ _ _ | .waitConditionMet _ _ | .indirect _ _ _ | .ckpt _ _ _
  | .abortTokenReceive _ _ _ | .marginReplay _ _ _ _ | .injectedDetection _ | .replayWindowClose _
  | .quarantineSite _ | .signedTestKernelResult _ _ | .meshMapMove _ | .ageingSample _ _ | .patrolScrub _ _
  | .tlbInvalidation _ _ _ | .pasidTeardown _ | .partitionDescriptorWrite _ _ | .partitionReset _ | .packageReset
  | .linkKeyingMessage _ _ | .linkRekey _ | .linkFailure _ | .linkReset _ | .debugStopRequest _ | .debugResume _
  | .debugStep _ _ | .debugStepEnd _ | .debugRegisterWrite _ _ _ _ _ | .snapshotEntryEdit _ _ _
  | .configWindowWrite _ _ | .writeAcknowledgement _ | .swallowedPulse _ | .linkTrainingComplete _
  | .tdispAssignment _ _ | .frameOwnershipChange _ _ => false

end Sys2Proof
end

