-- ==== Sys2Proof/Decode.lean ====
section
/-! DEFINITION. The decoder and the encoder of 04_encoding.md: syllables, bundles and hallmarks. -/

namespace Sys2Proof

/-! ## Codes of the small fields -/

/-- The decode-fault reasons of Table 4.23. -/
inductive Reason where
  | unassigned | classSix | reservedBit | operandLimit | hallmarkForm | hallmarkCount
  | slotOrder | tooLong | extension | missingExtension | transfer | intoHallmark | tooMany
  deriving DecidableEq, Repr

/-- The reason code of Table 4.23, which ctl.cause.DETAIL holds. -/
def Reason.code : Reason → BitVec 8
  | .unassigned => 0x01
  | .classSix => 0x02
  | .reservedBit => 0x03
  | .operandLimit => 0x04
  | .hallmarkForm => 0x06
  | .hallmarkCount => 0x07
  | .slotOrder => 0x10
  | .tooLong => 0x11
  | .extension => 0x12
  | .missingExtension => 0x13
  | .transfer => 0x14
  | .intoHallmark => 0x15
  | .tooMany => 0x16

/-- Format codes (Table 3.1). -/
def Fmt.code : Fmt → BitVec 4
  | .i8 => 0x0 | .i16 => 0x1 | .i32 => 0x2 | .i64 => 0x3
  | .n8 => 0x4 | .n16 => 0x5 | .n32 => 0x6 | .n64 => 0x7
  | .f32 => 0x8 | .bf16 => 0x9 | .f8e4 => 0xA | .f8e5 => 0xB | .i4x => 0xC

/-- The format of a code; 0xD to 0xF are reserved (Table 3.1). -/
def Fmt.ofCode (c : BitVec 4) : Option Fmt :=
  match c.toNat with
  | 0 => some .i8 | 1 => some .i16 | 2 => some .i32 | 3 => some .i64
  | 4 => some .n8 | 5 => some .n16 | 6 => some .n32 | 7 => some .n64
  | 8 => some .f32 | 9 => some .bf16 | 10 => some .f8e4 | 11 => some .f8e5 | 12 => some .i4x
  | _ => none

/-- Rounding-mode codes (Table 3.5). -/
def Rnd.code : Rnd → BitVec 3
  | .rne => 0 | .rtz => 1 | .rup => 2 | .rdn => 3 | .dither => 4

/-- The rounding mode of a code; 5 to 7 are reserved (R48). -/
def Rnd.ofCode (c : BitVec 3) : Option Rnd :=
  match c.toNat with
  | 0 => some .rne | 1 => some .rtz | 2 => some .rup | 3 => some .rdn | 4 => some .dither
  | _ => none

/-- Condition codes (Table 4.13). -/
def Cond.code : Cond → BitVec 4
  | .eq => 0 | .ne => 1 | .lt => 2 | .le => 3 | .gt => 4 | .ge => 5 | .un => 6

/-- The condition of a code; 7 to 15 are reserved. -/
def Cond.ofCode (c : BitVec 4) : Option Cond :=
  match c.toNat with
  | 0 => some .eq | 1 => some .ne | 2 => some .lt | 3 => some .le | 4 => some .gt | 5 => some .ge | 6 => some .un
  | _ => none

/-- Space codes (Table 4.10). -/
def Space.code : Space → BitVec 2
  | .loc => 0 | .tile => 1 | .slice => 2 | .glob => 3

/-- The space of a code. -/
def Space.ofCode (c : BitVec 2) : Space :=
  match c.toNat with
  | 0 => .loc | 1 => .tile | 2 => .slice | _ => .glob

/-- Policy hints (Table 4.12). -/
def Hint.code : Hint → BitVec 2
  | .normal => 0 | .noAlloc => 1 | .evictFirst => 2

/-- The hint of a code; 3 is reserved. -/
def Hint.ofCode (c : BitVec 2) : Option Hint :=
  match c.toNat with
  | 0 => some .normal | 1 => some .noAlloc | 2 => some .evictFirst
  | _ => none

/-- Scope codes (Table 4.14). -/
def Scope.code : Scope → BitVec 3
  | .context => 0 | .tile => 1 | .die => 2 | .device => 3 | .domain => 4 | .system => 5

/-- The scope of a code; 6 and 7 are reserved. -/
def Scope.ofCode (c : BitVec 3) : Option Scope :=
  match c.toNat with
  | 0 => some .context | 1 => some .tile | 2 => some .die | 3 => some .device | 4 => some .domain | 5 => some .system
  | _ => none

/-- Reduction-operation codes (Table 13.8). -/
def RedOp.code : RedOp → BitVec 4
  | .fadd => 0 | .iadd => 1 | .fmax => 2 | .fmin => 3 | .imax => 4 | .imin => 5

/-- The reduction operation of a code; 6 to 15 are outside the limits (R291). -/
def RedOp.ofCode (c : BitVec 4) : Option RedOp :=
  match c.toNat with
  | 0 => some .fadd | 1 => some .iadd | 2 => some .fmax | 3 => some .fmin | 4 => some .imax | 5 => some .imin
  | _ => none

/-- Register-file selectors of `ltag` (Table 9.4). -/
def TagFile.code : TagFile → BitVec 4
  | .x => 0 | .v => 1 | .p => 2 | .a => 3

/-- Slot-class codes (Table 4.2). -/
def Slot.code : Slot → BitVec 3
  | .S => 0 | .A => 1 | .B => 2 | .V => 3 | .M => 4

/-- The slot class of a code; 5 to 7 are no slot classes. -/
def Slot.ofCode (c : BitVec 3) : Option Slot :=
  match c.toNat with
  | 0 => some .S | 1 => some .A | 2 => some .B | 3 => some .V | 4 => some .M
  | _ => none

/-- A flag bit. -/
def bit1 (b : Bool) : BitVec 1 := BitVec.ofBool b

/-- A p field names p0 to p15; 16 to 63 are outside the limits (R68). -/
def pField (f : BitVec 6) : Option (BitVec 4) := if f.toNat < 16 then some (f.setWidth 4) else none

/-! ## The formats (Tables 4.4 to 4.9) -/

/-- Format R. -/
structure RawR where
  d : BitVec 6
  s1 : BitVec 6
  s2 : BitVec 6
  s3 : BitVec 6
  ty : BitVec 4
  fn : BitVec 4
  lo : BitVec 15
  deriving DecidableEq, Repr

/-- Format I. -/
structure RawI where
  d : BitVec 6
  s1 : BitVec 6
  ty : BitVec 4
  imm : BitVec 16
  fn : BitVec 4
  lo : BitVec 11
  deriving DecidableEq, Repr

/-- Format B. -/
structure RawB where
  xr : BitVec 6
  tsel : BitVec 1
  imm : BitVec 16
  stg : BitVec 3
  lo : BitVec 21
  deriving DecidableEq, Repr

/-- Format M: the three layouts share their outer fields; `hi`, `mid` and `off` read as the layout says. -/
structure RawM where
  rd : BitVec 6
  space : BitVec 2
  xb : BitVec 6
  lay : BitVec 1
  hi : BitVec 6
  mid : BitVec 2
  off : BitVec 12
  ssel : BitVec 2
  ty : BitVec 4
  hint : BitVec 2
  lo : BitVec 4
  deriving DecidableEq, Repr

/-- Format V. -/
structure RawV where
  d : BitVec 6
  s1 : BitVec 6
  s2 : BitVec 6
  s3 : BitVec 6
  fmt : BitVec 4
  rnd : BitVec 3
  fi : BitVec 1
  fo : BitVec 1
  sat : BitVec 1
  sfmt : BitVec 4
  fn : BitVec 4
  lo : BitVec 5
  deriving DecidableEq, Repr

/-- Format E. -/
structure RawE where
  d : BitVec 6
  s1 : BitVec 6
  s2 : BitVec 6
  s3 : BitVec 6
  unit : BitVec 3
  imm : BitVec 12
  scope : BitVec 3
  flag : BitVec 1
  mode : BitVec 4
  deriving DecidableEq, Repr

/-- Bits 46:0 laid out as Table 4.4 gives them. -/
def RawR.pack (r : RawR) : BitVec 47 :=
  r.d ++ r.s1 ++ r.s2 ++ r.s3 ++ r.ty ++ r.fn ++ r.lo

/-- The fields of bits 46:0 under Table 4.4. -/
def RawR.of (f : BitVec 47) : RawR where
  d := f.extractLsb' 41 6
  s1 := f.extractLsb' 35 6
  s2 := f.extractLsb' 29 6
  s3 := f.extractLsb' 23 6
  ty := f.extractLsb' 19 4
  fn := f.extractLsb' 15 4
  lo := f.extractLsb' 0 15

/-- Bits 46:0 laid out as Table 4.5 gives them. -/
def RawI.pack (r : RawI) : BitVec 47 :=
  r.d ++ r.s1 ++ r.ty ++ r.imm ++ r.fn ++ r.lo

/-- The fields of bits 46:0 under Table 4.5. -/
def RawI.of (f : BitVec 47) : RawI where
  d := f.extractLsb' 41 6
  s1 := f.extractLsb' 35 6
  ty := f.extractLsb' 31 4
  imm := f.extractLsb' 15 16
  fn := f.extractLsb' 11 4
  lo := f.extractLsb' 0 11

/-- Bits 46:0 laid out as Table 4.6 gives them. -/
def RawB.pack (r : RawB) : BitVec 47 :=
  r.xr ++ r.tsel ++ r.imm ++ r.stg ++ r.lo

/-- The fields of bits 46:0 under Table 4.6. -/
def RawB.of (f : BitVec 47) : RawB where
  xr := f.extractLsb' 41 6
  tsel := f.extractLsb' 40 1
  imm := f.extractLsb' 24 16
  stg := f.extractLsb' 21 3
  lo := f.extractLsb' 0 21

/-- Bits 46:0 laid out as Table 4.7 gives them. -/
def RawM.pack (r : RawM) : BitVec 47 :=
  r.rd ++ r.space ++ r.xb ++ r.lay ++ r.hi ++ r.mid ++ r.off ++ r.ssel ++ r.ty ++ r.hint ++ r.lo

/-- The fields of bits 46:0 under Table 4.7. -/
def RawM.of (f : BitVec 47) : RawM where
  rd := f.extractLsb' 41 6
  space := f.extractLsb' 39 2
  xb := f.extractLsb' 33 6
  lay := f.extractLsb' 32 1
  hi := f.extractLsb' 26 6
  mid := f.extractLsb' 24 2
  off := f.extractLsb' 12 12
  ssel := f.extractLsb' 10 2
  ty := f.extractLsb' 6 4
  hint := f.extractLsb' 4 2
  lo := f.extractLsb' 0 4

/-- Bits 46:0 laid out as Table 4.8 gives them. -/
def RawV.pack (r : RawV) : BitVec 47 :=
  r.d ++ r.s1 ++ r.s2 ++ r.s3 ++ r.fmt ++ r.rnd ++ r.fi ++ r.fo ++ r.sat ++ r.sfmt ++ r.fn ++ r.lo

/-- The fields of bits 46:0 under Table 4.8. -/
def RawV.of (f : BitVec 47) : RawV where
  d := f.extractLsb' 41 6
  s1 := f.extractLsb' 35 6
  s2 := f.extractLsb' 29 6
  s3 := f.extractLsb' 23 6
  fmt := f.extractLsb' 19 4
  rnd := f.extractLsb' 16 3
  fi := f.extractLsb' 15 1
  fo := f.extractLsb' 14 1
  sat := f.extractLsb' 13 1
  sfmt := f.extractLsb' 9 4
  fn := f.extractLsb' 5 4
  lo := f.extractLsb' 0 5

/-- Bits 46:0 laid out as Table 4.9 gives them. -/
def RawE.pack (r : RawE) : BitVec 47 :=
  r.d ++ r.s1 ++ r.s2 ++ r.s3 ++ r.unit ++ r.imm ++ r.scope ++ r.flag ++ r.mode

/-- The fields of bits 46:0 under Table 4.9. -/
def RawE.of (f : BitVec 47) : RawE where
  d := f.extractLsb' 41 6
  s1 := f.extractLsb' 35 6
  s2 := f.extractLsb' 29 6
  s3 := f.extractLsb' 23 6
  unit := f.extractLsb' 20 3
  imm := f.extractLsb' 8 12
  scope := f.extractLsb' 5 3
  flag := f.extractLsb' 4 1
  mode := f.extractLsb' 0 4

/-! ## The encoder -/

/-- A slot syllable's own bits: header, major opcode, bits 46:0 and the payload of its extension. -/
structure Parts where
  h : Hdr
  major : BitVec 8
  fields : BitVec 47
  ext : Option (BitVec 48)
  deriving DecidableEq, Repr

/-- The parts of a syllable without an extension. -/
def plain (h : Hdr) (major : BitVec 8) (fields : BitVec 47) : Option Parts := some ⟨h, major, fields, none⟩

/-- Format R. -/
def encR (h : Hdr) (major : BitVec 8) (d s1 s2 s3 : BitVec 6) (ty fn : BitVec 4) : Option Parts :=
  plain h major (RawR.pack ⟨d, s1, s2, s3, ty, fn, 0⟩)

/-- Format I. -/
def encI (h : Hdr) (major : BitVec 8) (d s1 : BitVec 6) (ty : BitVec 4) (imm : Imm) (fn : BitVec 4) : Option Parts :=
  match imm with
  | .short i => plain h major (RawI.pack ⟨d, s1, ty, i, fn, 0⟩)
  | .long i p => some ⟨h, major, RawI.pack ⟨d, s1, ty, i, fn, 0⟩, some p⟩

/-- Format B. -/
def encB (h : Hdr) (major : BitVec 8) (xr : BitVec 6) (tsel : Bool) (imm : BitVec 16) (stg : BitVec 3) : Option Parts :=
  plain h major (RawB.pack ⟨xr, bit1 tsel, imm, stg, 0⟩)

/-- Layouts M0 and M1 of format M, with the extension that M0 admits. -/
def encM (h : Hdr) (major : BitVec 8) (rd : BitVec 6) (sp : BitVec 2) (m : MemOp) (ssel : BitVec 2) (ty : BitVec 4)
    (hint : BitVec 2) : Option Parts :=
  match m with
  | .m0 xb off => plain h major (RawM.pack ⟨rd, sp, xb, 0, off.extractLsb' 14 6, off.extractLsb' 12 2,
      off.extractLsb' 0 12, ssel, ty, hint, 0⟩)
  | .m0x xb off p => some ⟨h, major, RawM.pack ⟨rd, sp, xb, 0, off.extractLsb' 14 6, off.extractLsb' 12 2,
      off.extractLsb' 0 12, ssel, ty, hint, 0⟩, some (p.setWidth 48)⟩
  | .m1 xb xi sh => plain h major (RawM.pack ⟨rd, sp, xb, 1, xi, sh, 0, ssel, ty, hint, 0⟩)

/-- The index variant of layout M0 that `vgath` and `vscat` use (R228). -/
def encMX (h : Hdr) (major : BitVec 8) (rd xb vi : BitVec 6) (off : BitVec 14) (ssel : BitVec 2) (ty : BitVec 4)
    (hint : BitVec 2) : Option Parts :=
  plain h major (RawM.pack ⟨rd, 0, xb, 0, vi, off.extractLsb' 12 2, off.extractLsb' 0 12, ssel, ty, hint, 0⟩)

/-- Layout MA. -/
def encMA (h : Hdr) (major : BitVec 8) (o : Rmw) : Option Parts :=
  plain h major (RawM.pack ⟨o.rd, o.space.code, o.xb, bit1 o.ret, o.xs, o.off.extractLsb' 12 2, o.off.extractLsb' 0 12,
    0, o.ty.code, o.hint.code, 0⟩)

/-- Format V. -/
def encV (h : Hdr) (major : BitVec 8) (d s1 s2 s3 : BitVec 6) (m : VMod) (sfmt fn : BitVec 4) : Option Parts :=
  plain h major (RawV.pack ⟨d, s1, s2, s3, m.fmt.code, m.rnd.code, bit1 m.fi, bit1 m.fo, bit1 m.sat, sfmt, fn, 0⟩)

/-- Format V for a form without a format, a rounding mode or modifier bits. -/
def encV0 (h : Hdr) (major : BitVec 8) (d s1 s2 s3 : BitVec 6) (fmt : BitVec 4) : Option Parts :=
  plain h major (RawV.pack ⟨d, s1, s2, s3, fmt, 0, 0, 0, 0, 0, 0, 0⟩)

/-- Format E. -/
def encE (h : Hdr) (major : BitVec 8) (d s1 s2 s3 : BitVec 6) (unit : BitVec 3) (imm : BitVec 12) (scope : BitVec 3)
    (flag : Bool) (mode : BitVec 4) : Option Parts :=
  plain h major (RawE.pack ⟨d, s1, s2, s3, unit, imm, scope, bit1 flag, mode⟩)

/-- A phaser form: flag 1 and the index for the local form, flag 0 and the register for the remote form (R363). -/
def encPh (h : Hdr) (major : BitVec 8) (d : BitVec 6) (ref : PhRef) (s2 s3 : BitVec 6) (unit scope : BitVec 3)
    (mode : BitVec 4) : Option Parts :=
  match ref with
  | .here idx => encE h major d 0 s2 s3 unit idx scope true mode
  | .remote xr => encE h major d xr s2 s3 unit 0 scope false mode

/-- `mblk` (Table 14.5). -/
def encBlk (h : Hdr) (major : BitVec 8) (o : MblkOp) : Option Parts :=
  encE h major 0 o.s1 o.s2 0 o.acc ((0 : BitVec 8) ++ o.imB ++ o.imA) 0 false (o.selB ++ o.selA)

/-- The parts of every instruction form; an event has no encoding. -/
def Instr.parts : Instr → Option Parts
  | .nop h => encR h 0x00 0 0 0 0 0 0
  | .add h ty sat d s1 s2 => encR h 0x01 d s1 s2 0 ty.code ((0 : BitVec 3) ++ bit1 sat)
  | .sub h ty sat d s1 s2 => encR h 0x02 d s1 s2 0 ty.code ((0 : BitVec 3) ++ bit1 sat)
  | .mul h ty d s1 s2 => encR h 0x03 d s1 s2 0 ty.code 0
  | .mulh h ty d s1 s2 => encR h 0x04 d s1 s2 0 ty.code 0
  | .div h ty d s1 s2 => encR h 0x05 d s1 s2 0 ty.code 0
  | .rem h ty d s1 s2 => encR h 0x06 d s1 s2 0 ty.code 0
  | .min h ty d s1 s2 => encR h 0x07 d s1 s2 0 ty.code 0
  | .max h ty d s1 s2 => encR h 0x08 d s1 s2 0 ty.code 0
  | .and h d s1 s2 => encR h 0x09 d s1 s2 0 3 0
  | .or h d s1 s2 => encR h 0x0A d s1 s2 0 3 0
  | .xor h d s1 s2 => encR h 0x0B d s1 s2 0 3 0
  | .shl h ty d s1 s2 => encR h 0x0C d s1 s2 0 ty.code 0
  | .shr h ty d s1 s2 => encR h 0x0D d s1 s2 0 ty.code 0
  | .sra h ty d s1 s2 => encR h 0x0E d s1 s2 0 ty.code 0
  | .sel h d s1 s2 pn => encR h 0x0F d s1 s2 (pn.setWidth 6) 3 0
  | .clz h ty d s1 => encR h 0x10 d s1 0 0 ty.code 0
  | .ctz h ty d s1 => encR h 0x11 d s1 0 0 ty.code 0
  | .popc h ty d s1 => encR h 0x12 d s1 0 0 ty.code 0
  | .cmp h c ty pd s1 s2 => encR h 0x13 (pd.setWidth 6) s1 s2 0 ty.code c.code
  | .pand h pd p1 p2 => encR h 0x14 (pd.setWidth 6) (p1.setWidth 6) (p2.setWidth 6) 0 0 0
  | .por h pd p1 p2 => encR h 0x15 (pd.setWidth 6) (p1.setWidth 6) (p2.setWidth 6) 0 0 0
  | .pxor h pd p1 p2 => encR h 0x16 (pd.setWidth 6) (p1.setWidth 6) (p2.setWidth 6) 0 0 0
  | .pandn h pd p1 p2 => encR h 0x17 (pd.setWidth 6) (p1.setWidth 6) (p2.setWidth 6) 0 0 0
  | .tfence h => encR h 0x18 0 0 0 0 0 0
  | .addi h ty d s1 imm => encI h 0x20 d s1 ty.code imm 0
  | .andi h d s1 imm => encI h 0x21 d s1 3 imm 0
  | .ori h d s1 imm => encI h 0x22 d s1 3 imm 0
  | .xori h d s1 imm => encI h 0x23 d s1 3 imm 0
  | .shli h ty d s1 k => encI h 0x24 d s1 ty.code (.short k) 0
  | .shri h ty d s1 k => encI h 0x25 d s1 ty.code (.short k) 0
  | .srai h ty d s1 k => encI h 0x26 d s1 ty.code (.short k) 0
  | .cmpi h c ty pd s1 imm => encI h 0x27 (pd.setWidth 6) s1 ty.code imm c.code
  | .movi h d imm => encI h 0x28 d 0 3 imm 0
  | .bfx h ty d s1 pos wm1 => encI h 0x29 d s1 ty.code (.short ((0 : BitVec 4) ++ wm1 ++ pos)) 0
  | .bfi h d s1 pos wm1 => encI h 0x2A d s1 3 (.short ((0 : BitVec 4) ++ wm1 ++ pos)) 0
  | .mfc h d n => encI h 0x2B d 0 0 (.short n) 0
  | .mtc h n s1 => encI h 0x2C 0 s1 0 (.short n) 0
  | .trap h imm => encI h 0x2D 0 0 0 (.short imm) 0
  | .br h t => encB h 0x40 0 t 0 0
  | .jr h xr => encB h 0x41 xr false 0 0
  | .call h xr t => encB h 0x42 xr t 0 0
  | .ret h xr => encB h 0x43 xr false 0 0
  | .loop h xr t => encB h 0x44 xr t 0 0
  | .loopi h n t => encB h 0x45 0 t n 0
  | .swp h xr t stg => encB h 0x46 xr t 0 stg
  | .eret h => encB h 0x47 0 false 0 0
  | .lstamp h d s1 imm => encI h 0x60 (d.setWidth 6) s1 0 (.short (imm.setWidth 16)) 0
  | .lseed h vec d imm => encI h 0x61 d 0 0 imm ((0 : BitVec 3) ++ bit1 vec)
  | .ltag h f d s1 => encI h 0x62 d s1 0 (.short 0) f.code
  | .ltagG h d s1 imm => encI h 0x62 d s1 0 (.short imm) 4
  | .lfold h d => encI h 0x63 d 0 0 (.short 0) 0
  | .mark h imm => encI h 0x70 0 0 0 imm 0
  | .dgrd h g => encI h 0x71 0 0 0 (.short (g.setWidth 16)) 0
  | .lea h d m => encM h 0x30 d 0 m 0 0 0
  | .ld h ty sp d m ssel hint => encM h 0x80 d sp.code m ssel ty.code hint.code
  | .st h ty sp xs m hint => encM h 0x81 xs sp.code m 0 ty.code hint.code
  | .vld h ty sp vd m ssel hint => encM h 0x82 vd sp.code m ssel ty.code hint.code
  | .vst h ty sp vs m hint => encM h 0x83 vs sp.code m 0 ty.code hint.code
  | .vgath h ty vd xb vi off ssel hint => encMX h 0x84 vd xb vi off ssel ty.code hint.code
  | .vscat h ty vs xb vi off hint => encMX h 0x85 vs xb vi off 0 ty.code hint.code
  | .ldblk h s1 s2 k ph hint =>
    encE h 0x86 0 s1 s2 (k.setWidth 6) 0 (ph.getD 0) 0 ph.isSome (hint.code.setWidth 4)
  | .ldl h ty d m hint => encM h 0x87 d 3 m 0 ty.code hint.code
  | .evblk h k => encE h 0x88 0 0 0 (k.setWidth 6) 0 0 0 false 0
  | .bfins h o => encMA h 0x89 o
  | .ffcs h o => encMA h 0x8A o
  | .plset h o => encMA h 0x8B o
  | .mwait h ty xd m ssel hint => encM h 0x8C xd 0 m ssel ty.code hint.code
  | .atomAdd h o => encMA h 0x90 o
  | .atomFadd h o => encMA h 0x91 o
  | .atomMin h o => encMA h 0x92 o
  | .atomMax h o => encMA h 0x93 o
  | .atomAnd h o => encMA h 0x94 o
  | .atomOr h o => encMA h 0x95 o
  | .atomXor h o => encMA h 0x96 o
  | .atomSwp h o => encMA h 0x97 o
  | .atomCas h o => encMA h 0x98 o
  | .copy h out slice s1 v2 s3 ph => encE h 0xA0 0 s1 v2 s3 ((0 : BitVec 1) ++ bit1 slice ++ bit1 out) ph 0 false 0
  | .copyr h s1 s2 s3 ph => encE h 0xA1 0 s1 s2 s3 0 ph 0 false 0
  | .copyx h s1 s2 s3 ph => encE h 0xA2 0 s1 s2 s3 0 ph 0 false 0
  | .copyc h s1 s2 s3 ph last =>
    match last with
    | none => encE h 0xA3 0 s1 s2 s3 0 ph 0 false 0
    | some e => some ⟨h, 0xA3, RawE.pack ⟨0, s1, s2, s3, 0, ph, 0, 1, e.retries.setWidth 4⟩, some (e.word.setWidth 48)⟩
  | .fence h sc => encE h 0xA4 0 0 0 0 0 0 sc.code false 0
  | .drain h sc => encE h 0xA5 0 0 0 0 0 0 sc.code false 0
  | .spawn h s1 => encE h 0xB0 0 s1 0 0 0 0 0 false 0
  | .join h s1 => encE h 0xB1 0 s1 0 0 0 0 0 false 0
  | .tend h => encE h 0xB2 0 0 0 0 0 0 0 false 0
  | .cancel h s1 l => encE h 0xB3 0 s1 0 0 0 0 0 false l
  | .ccrd h d s1 l => encE h 0xB4 d s1 0 0 0 0 0 false l
  | .yield h => encE h 0xB5 0 0 0 0 0 0 0 false 0
  | .sbind h k s1 => encE h 0xC0 0 s1 0 0 k 0 0 false 0
  | .sunbind h k => encE h 0xC1 0 0 0 0 k 0 0 false 0
  | .sadv h k n => encE h 0xC2 0 0 0 0 k n 0 false 0
  | .rsend h vs t op => encE h 0xC3 0 vs 0 0 0 (t.setWidth 12) 0 false op.code
  | .rrecv h vd xs t => encE h 0xC4 vd xs 0 0 0 (t.setWidth 12) 0 false 0
  | .clacq h d s1 m => encE h 0xD0 d s1 0 0 0 0 0 false m
  | .clupg h d s1 m => encE h 0xD1 d s1 0 0 0 0 0 false m
  | .clrel h d s1 all => encE h 0xD2 d s1 0 0 0 0 0 all 0
  | .cltry h d s1 m => encE h 0xD3 d s1 0 0 0 0 0 false m
  | .clqry h d s1 => encE h 0xD4 d s1 0 0 0 0 0 false 0
  | .phreg h ref sc m => encPh h 0xE0 0 ref 0 0 0 sc.code (m.setWidth 4)
  | .phdrop h ref m => encPh h 0xE1 0 ref 0 0 0 0 (m.setWidth 4)
  | .phsig h ref => encPh h 0xE2 0 ref 0 0 0 0 0
  | .phwait h d ref s2 => encPh h 0xE3 d ref s2 0 0 0 0
  | .phsw h d ref s2 s3 => encPh h 0xE4 d ref s2 s3 0 0 0
  | .phexp h d ref s2 => encPh h 0xE5 d ref s2 0 0 0 0
  | .phrd h d ref w => encPh h 0xE6 d ref 0 0 (w.setWidth 3) 0 0
  | .vadd h m vd v1 v2 => encV h 0x01 vd v1 v2 0 m 0 0
  | .vsub h m vd v1 v2 => encV h 0x02 vd v1 v2 0 m 0 0
  | .vmul h m vd v1 v2 => encV h 0x03 vd v1 v2 0 m 0 0
  | .vfma h m vd v1 v2 v3 => encV h 0x04 vd v1 v2 v3 m 0 0
  | .vfms h m vd v1 v2 v3 => encV h 0x05 vd v1 v2 v3 m 0 0
  | .vmin h m vd v1 v2 => encV h 0x06 vd v1 v2 0 m 0 0
  | .vmax h m vd v1 v2 => encV h 0x07 vd v1 v2 0 m 0 0
  | .vabs h m vd v1 => encV h 0x08 vd v1 0 0 m 0 0
  | .vneg h m vd v1 => encV h 0x09 vd v1 0 0 m 0 0
  | .vcmp h c m vd v1 v2 => encV h 0x0A vd v1 v2 0 m 0 c.code
  | .vsel h vd v1 v2 v3 => encV0 h 0x0B vd v1 v2 v3 0
  | .vand h vd v1 v2 => encV0 h 0x0C vd v1 v2 0 0
  | .vor h vd v1 v2 => encV0 h 0x0D vd v1 v2 0 0
  | .vxor h vd v1 v2 => encV0 h 0x0E vd v1 v2 0 0
  | .vnot h vd v1 => encV0 h 0x0F vd v1 0 0 0
  | .vshl h ty vd v1 v2 => encV0 h 0x10 vd v1 v2 0 ty.code
  | .vshr h ty vd v1 v2 => encV0 h 0x11 vd v1 v2 0 ty.code
  | .vsra h ty vd v1 v2 => encV0 h 0x12 vd v1 v2 0 ty.code
  | .vcvt h m sf vd v1 => encV h 0x20 vd v1 0 0 m sf.code 0
  | .vnarrow h m sf vd v1 sc => encV h 0x21 vd v1 0 (sc.getD 0) m sf.code ((0 : BitVec 3) ++ bit1 sc.isSome)
  | .vexp2 h m vd v1 => encV h 0x28 vd v1 0 0 m 0 0
  | .vrcp h m vd v1 => encV h 0x29 vd v1 0 0 m 0 0
  | .vredsum h m vd v1 => encV h 0x30 vd v1 0 0 m 0 0
  | .vredmax h m vd v1 => encV h 0x31 vd v1 0 0 m 0 0
  | .vperm h vd v1 v2 => encV0 h 0x38 vd v1 v2 0 0
  | .vbcast h vd x1 => encV0 h 0x39 vd x1 0 0 0
  | .vext h ty xd v1 k => encV0 h 0x3A xd v1 k 0 ty.code
  | .vins h vd x1 k => encV0 h 0x3B vd x1 k 0 0
  | .vlane h vd => encV0 h 0x3C vd 0 0 0 0
  | .setvl h x1 => encV0 h 0x3D 0 x1 0 0 0
  | .vmov h vd v1 => encV0 h 0x3E vd v1 0 0 0
  | .scacc h acc ver vec rnd sat =>
    plain h 0x60 (RawV.pack ⟨(acc.getD 0).setWidth 6, ver, vec, 0, 0, rnd.code, 0, 0, bit1 sat, 0,
      (0 : BitVec 3) ++ bit1 acc.isNone, 0⟩)
  | .vdefer h vm v1 nm1 id =>
    plain h 0x70 (RawV.pack ⟨vm, v1, 0, 0, nm1.setWidth 4, 0, 0, 0, 0, id.extractLsb' 4 4, id.extractLsb' 0 4, 0⟩)
  | .vdrain h vd vmap nm1 id =>
    plain h 0x71 (RawV.pack ⟨vd, vmap, 0, 0, nm1.setWidth 4, 0, 0, 0, 0, id.extractLsb' 4 4, id.extractLsb' 0 4, 0⟩)
  | .mnest h s1 => encE h 0x01 0 s1 0 0 0 0 0 false 0
  | .mgoBf16 h => encE h 0x20 0 0 0 0 0 0 0 false 0
  | .mgoF8e4 h => encE h 0x21 0 0 0 0 0 0 0 false 0
  | .mgoF8e5 h => encE h 0x22 0 0 0 0 0 0 0 false 0
  | .mgoI8 h => encE h 0x23 0 0 0 0 0 0 0 false 0
  | .mgoI4x h => encE h 0x24 0 0 0 0 0 0 0 false 0
  | .mblkBf16 h o => encBlk h 0x28 o
  | .mblkF8e4 h o => encBlk h 0x29 o
  | .mblkF8e5 h o => encBlk h 0x2A o
  | .mblkI8 h o => encBlk h 0x2B o
  | .mblkI4x h o => encBlk h 0x2C o
  | .mzero h acc => encE h 0x04 0 0 0 0 acc 0 0 false 0
  | .mdrain h fmt rnd sat acc s1 s2 r0 nm1 => encE h 0x05 0 s1 s2 0 acc (nm1 ++ r0) rnd.code sat fmt.code
  | .mstat h d => encE h 0x06 d 0 0 0 0 0 0 false 0
  | .touch h seed const => some ⟨h, 0x10, RawI.pack ⟨0, 0, 0, seed, 0, 0⟩, some (const.setWidth 48)⟩
  | .blockCommit | .transferCharge _ | .asyncResultArrival _ | .contextResume _ | .custodianShareTurn _
  | .asyncTrapTaken | .pageWalkComplete _ _ _ | .remoteAccessArrival _ | .monitorWakeup _ | .ldblkFillComplete _ _
  | .copyBytesLand _ _ | .copyFault _ _ _ _ | .chainCompare _ | .streamChunkFetch _ | .streamChunkDrain _
  | .blockProductIssue | .partialSumDelivery | .touchstoneCompare | .phaserRegistration _ _ _ | .phaserDrop _ _
  | .phaserSignal _ | .phaserByteAddition _ _ _ | .phaserErrorArrival _ _ | .phaserWaitArrival _ _ _
  | .phswLimitExpiry _ | .claspRequestServe _ | .claspReleaseServe _ | .woundDelivery _ _ _ | .graceMessage _ _ _
  | .reductionPacketArrival _ _ _ _ | .reductionRoundTimeout _ _ | .reductionRootBufferEntry _ _
  | .treeEntryWrite _ _ _ | .taskPop _ | .taskPush _ _ | .joinDecrement _ _ | .cancelCounter _ _ _
  | .ccrdServe _ _ _ _ _ | .preemption _ | .gangPlacement _ _ | .tailRegisterWrite _ _ _ | .launch _ _ _
  | .graph _ _ _ | .release _ _ _ | .wait _ _ _ | .waitConditionMet _ _ | .indirect _ _ _ | .ckpt _ _ _
  | .abortTokenReceive _ _ _ | .marginReplay _ _ _ _ | .injectedDetection _ | .replayWindowClose _
  | .quarantineSite _ | .signedTestKernelResult _ _ | .meshMapMove _ | .ageingSample _ _ | .patrolScrub _ _
  | .tlbInvalidation _ _ _ | .pasidTeardown _ | .partitionDescriptorWrite _ _ | .partitionReset _ | .packageReset
  | .linkKeyingMessage _ _ | .linkRekey _ | .linkFailure _ | .linkReset _ | .debugStopRequest _ | .debugResume _
  | .debugStep _ _ | .debugStepEnd _ | .debugRegisterWrite _ _ _ _ _ | .snapshotEntryEdit _ _ _
  | .configWindowWrite _ _ | .writeAcknowledgement _ | .swallowedPulse _ | .linkTrainingComplete _
  | .tdispAssignment _ _ | .frameOwnershipChange _ _ => none

/-- A slot syllable (Table 4.1). -/
def Parts.word (p : Parts) (stop : Bool) : Word :=
  bit1 stop ++ p.h.slot.code ++ p.major ++ p.h.guard ++ bit1 p.h.sense ++ p.fields

/-- An extension syllable (Table 4.15). -/
def extWord (stop : Bool) (owner : Slot) (payload : BitVec 48) : Word :=
  bit1 stop ++ (5 : BitVec 3) ++ owner.code ++ (0 : BitVec 9) ++ payload

/-- The words of an instruction issued alone in a bundle: its syllable and its extension, the stop bit in the last. -/
def encode (i : Instr) : List Word :=
  match i.parts with
  | none => []
  | some p =>
    match p.ext with
    | none => [p.word true]
    | some x => [p.word false, extWord true p.h.slot x]

/-! ## The decoder of one slot syllable -/

/-- Whether the opcode maps give a syllable no extension, an optional or a required one. -/
inductive ExtRule where
  | none | optional | required
  deriving DecidableEq, Repr

/-- The extension column of Tables 4.19 to 4.22. -/
def extRule (c : Slot) (major : Nat) (f : BitVec 47) : ExtRule :=
  let optM : ExtRule := if f.getLsbD 32 then .none else .optional
  match c with
  | .S => if [0x20, 0x21, 0x22, 0x23, 0x27, 0x28, 0x61, 0x70].contains major then .optional else .none
  | .A | .B =>
    if major == 0x20 then .optional
    else if [0x30, 0x80, 0x81, 0x82, 0x83, 0x87].contains major then optM
    else if major == 0x8C then .optional
    else if major == 0xA3 && f.getLsbD 4 then .required
    else .none
  | .V => .none
  | .M => if major == 0x10 then .required else .none

/-- The payload bits that must be zero (Table 4.16). -/
def extReserved (c : Slot) (major : Nat) (payload : BitVec 48) : Bool :=
  match c with
  | .A | .B =>
    if major == 0xA3 then payload.extractLsb' 32 16 != 0
    else if major == 0x20 then false
    else payload.extractLsb' 44 4 != 0
  | .M => payload.extractLsb' 32 16 != 0
  | _ => false

/-- A form: reason 0x03 for a reserved bit that is set comes before reason 0x04 for an operand outside its limits (R85). -/
def form (clean : Bool) (o : Option Instr) : Except Reason Instr :=
  if clean then
    match o with
    | some i => if i.wf then .ok i else .error .operandLimit
    | none => .error .operandLimit
  else .error .reservedBit

/-- The immediate of format I with its extension (R75). -/
def immOf (i : RawI) (x : Option (BitVec 48)) : Imm :=
  match x with
  | none => .short i.imm
  | some p => .long i.imm p

/-- The memory operand of layouts M0 and M1. -/
def memOf (m : RawM) (x : Option (BitVec 48)) : MemOp :=
  if m.lay == 1 then .m1 m.xb m.hi m.mid
  else
    match x with
    | none => .m0 m.xb (m.hi ++ m.mid ++ m.off)
    | some p => .m0x m.xb (m.hi ++ m.mid ++ m.off) (p.setWidth 44)

/-- Reserved bits of layouts M0 and M1: bits 3:0, and bits 23:12 in M1. -/
def RawM.clean (m : RawM) : Bool := m.lo == 0 && (m.lay == 0 || m.off == 0)

/-- A load: type, space, hint and stamp selector. -/
def loadForm (m : RawM) (mk : Fmt → Hint → Instr) : Except Reason Instr :=
  form (m.clean && (m.space == 0 || m.ssel == 0)) (do let ty ← Fmt.ofCode m.ty; let h ← Hint.ofCode m.hint; pure (mk ty h))

/-- A store: ssel is reserved. -/
def storeForm (m : RawM) (mk : Fmt → Hint → Instr) : Except Reason Instr :=
  form (m.clean && m.ssel == 0) (do let ty ← Fmt.ofCode m.ty; let h ← Hint.ofCode m.hint; pure (mk ty h))

/-- A read-modify-write form. `xs` tells which bits of the xs field are used. -/
def rmwForm (m : RawM) (unused : BitVec 6) (mk : Rmw → Instr) : Except Reason Instr :=
  form (m.lo == 0 && m.ssel == 0 && (m.hi &&& unused) == 0) (do
    let ty ← Fmt.ofCode m.ty
    let h ← Hint.ofCode m.hint
    pure (mk ⟨m.rd, Space.ofCode m.space, m.xb, m.lay == 1, m.hi, m.mid ++ m.off, ty, h⟩))

/-- The modifier fields of format V. -/
def RawV.mod (v : RawV) : Option VMod := do
  let fmt ← Fmt.ofCode v.fmt
  let rnd ← Rnd.ofCode v.rnd
  pure ⟨fmt, rnd, v.fi == 1, v.fo == 1, v.sat == 1⟩

/-- Bits 12:0 of format V clear. -/
def RawV.tail (v : RawV) : Bool := v.sfmt == 0 && v.fn == 0 && v.lo == 0
/-- No rounding mode and no modifier bit, bits 12:0 clear. -/
def RawV.bare (v : RawV) : Bool := v.rnd == 0 && v.fi == 0 && v.fo == 0 && v.sat == 0 && v.tail

/-- An integer-arithmetic form of Table 7.2 or 7.3: s3 reserved. -/
def arithForm (r : RawR) (fn : Bool) (mk : Fmt → Instr) : Except Reason Instr :=
  form (r.lo == 0 && r.s3 == 0 && (fn || r.fn == 0)) ((Fmt.ofCode r.ty).bind fun ty => if fn && r.fn.toNat > 1 then none else some (mk ty))

/-- An arithmetic form whose func admits 0x0 only, as an operand limit (R126). -/
def wrapForm (r : RawR) (mk : Fmt → Instr) : Except Reason Instr :=
  form (r.lo == 0 && r.s3 == 0) ((Fmt.ofCode r.ty).bind fun ty => if r.fn == 0 then some (mk ty) else none)

/-- A form of all 64 bits, type 0x3 (Table 7.1). -/
def wideForm (clean : Bool) (ty : BitVec 4) (i : Instr) : Except Reason Instr := form clean (if ty == 3 then some i else none)

/-- A predicate-logic form (R131). -/
def predForm (r : RawR) (mk : BitVec 4 → BitVec 4 → BitVec 4 → Instr) : Except Reason Instr :=
  form (r.lo == 0 && r.s3 == 0 && r.ty == 0 && r.fn == 0)
    (do let d ← pField r.d; let a ← pField r.s1; let b ← pField r.s2; pure (mk d a b))

/-- `add` and `sub`, in slots S, A and B (R122, R126). -/
def addForm (h : Hdr) (sub : Bool) (f : BitVec 47) : Except Reason Instr :=
  let r := RawR.of f
  arithForm r true fun ty =>
    if sub then .sub h ty (r.fn == 1) r.d r.s1 r.s2 else .add h ty (r.fn == 1) r.d r.s1 r.s2

/-- `addi`, in slots S, A and B (R129). -/
def addiForm (h : Hdr) (f : BitVec 47) (x : Option (BitVec 48)) : Except Reason Instr :=
  let i := RawI.of f
  form (i.lo == 0 && i.fn == 0) ((Fmt.ofCode i.ty).map fun ty => .addi h ty i.d i.s1 (immOf i x))

/-- A shift by an immediate (R129). -/
def shiftForm (i : RawI) (mk : Fmt → Instr) : Except Reason Instr :=
  form (i.lo == 0 && i.fn == 0) ((Fmt.ofCode i.ty).map mk)

/-- Class S (Table 4.19). -/
def decodeS (h : Hdr) (major : Nat) (f : BitVec 47) (x : Option (BitVec 48)) : Except Reason Instr :=
  let r := RawR.of f
  let i := RawI.of f
  let b := RawB.of f
  match major with
  | 0x00 => form (f == 0) (some (.nop h))
  | 0x01 => addForm h false f
  | 0x02 => addForm h true f
  | 0x03 => wrapForm r fun ty => .mul h ty r.d r.s1 r.s2
  | 0x04 => wrapForm r fun ty => .mulh h ty r.d r.s1 r.s2
  | 0x05 => arithForm r false fun ty => .div h ty r.d r.s1 r.s2
  | 0x06 => arithForm r false fun ty => .rem h ty r.d r.s1 r.s2
  | 0x07 => wrapForm r fun ty => .min h ty r.d r.s1 r.s2
  | 0x08 => wrapForm r fun ty => .max h ty r.d r.s1 r.s2
  | 0x09 => wideForm (r.lo == 0 && r.s3 == 0 && r.fn == 0) r.ty (.and h r.d r.s1 r.s2)
  | 0x0A => wideForm (r.lo == 0 && r.s3 == 0 && r.fn == 0) r.ty (.or h r.d r.s1 r.s2)
  | 0x0B => wideForm (r.lo == 0 && r.s3 == 0 && r.fn == 0) r.ty (.xor h r.d r.s1 r.s2)
  | 0x0C => arithForm r false fun ty => .shl h ty r.d r.s1 r.s2
  | 0x0D => arithForm r false fun ty => .shr h ty r.d r.s1 r.s2
  | 0x0E => arithForm r false fun ty => .sra h ty r.d r.s1 r.s2
  | 0x0F => form (r.lo == 0 && r.fn == 0)
      ((pField r.s3).bind fun pn => if r.ty == 3 then some (.sel h r.d r.s1 r.s2 pn) else none)
  | 0x10 => form (r.lo == 0 && r.s2 == 0 && r.s3 == 0 && r.fn == 0) ((Fmt.ofCode r.ty).map fun ty => .clz h ty r.d r.s1)
  | 0x11 => form (r.lo == 0 && r.s2 == 0 && r.s3 == 0 && r.fn == 0) ((Fmt.ofCode r.ty).map fun ty => .ctz h ty r.d r.s1)
  | 0x12 => form (r.lo == 0 && r.s2 == 0 && r.s3 == 0 && r.fn == 0) ((Fmt.ofCode r.ty).map fun ty => .popc h ty r.d r.s1)
  | 0x13 => form (r.lo == 0 && r.s3 == 0)
      (do let ty ← Fmt.ofCode r.ty; let c ← Cond.ofCode r.fn; let pd ← pField r.d; pure (.cmp h c ty pd r.s1 r.s2))
  | 0x14 => predForm r (.pand h)
  | 0x15 => predForm r (.por h)
  | 0x16 => predForm r (.pxor h)
  | 0x17 => predForm r (.pandn h)
  | 0x18 => form (f == 0) (some (.tfence h))
  | 0x20 => addiForm h f x
  | 0x21 => wideForm (i.lo == 0 && i.fn == 0) i.ty (.andi h i.d i.s1 (immOf i x))
  | 0x22 => wideForm (i.lo == 0 && i.fn == 0) i.ty (.ori h i.d i.s1 (immOf i x))
  | 0x23 => wideForm (i.lo == 0 && i.fn == 0) i.ty (.xori h i.d i.s1 (immOf i x))
  | 0x24 => shiftForm i fun ty => .shli h ty i.d i.s1 i.imm
  | 0x25 => shiftForm i fun ty => .shri h ty i.d i.s1 i.imm
  | 0x26 => shiftForm i fun ty => .srai h ty i.d i.s1 i.imm
  | 0x27 => form (i.lo == 0)
      (do let ty ← Fmt.ofCode i.ty; let c ← Cond.ofCode i.fn; let pd ← pField i.d; pure (.cmpi h c ty pd i.s1 (immOf i x)))
  | 0x28 => wideForm (i.lo == 0 && i.fn == 0 && i.s1 == 0) i.ty (.movi h i.d (immOf i x))
  | 0x29 => form (i.lo == 0 && i.fn == 0 && i.imm.extractLsb' 12 4 == 0)
      ((Fmt.ofCode i.ty).map fun ty => .bfx h ty i.d i.s1 (i.imm.extractLsb' 0 6) (i.imm.extractLsb' 6 6))
  | 0x2A => wideForm (i.lo == 0 && i.fn == 0 && i.imm.extractLsb' 12 4 == 0) i.ty
      (.bfi h i.d i.s1 (i.imm.extractLsb' 0 6) (i.imm.extractLsb' 6 6))
  | 0x2B => form (i.lo == 0 && i.fn == 0 && i.ty == 0 && i.s1 == 0) (some (.mfc h i.d i.imm))
  | 0x2C => form (i.lo == 0 && i.fn == 0 && i.ty == 0 && i.d == 0) (some (.mtc h i.imm i.s1))
  | 0x2D => form (i.lo == 0 && i.fn == 0 && i.ty == 0 && i.d == 0 && i.s1 == 0) (some (.trap h i.imm))
  | 0x40 => form (b.lo == 0 && b.xr == 0 && b.imm == 0 && b.stg == 0) (some (.br h (b.tsel == 1)))
  | 0x41 => form (b.lo == 0 && b.tsel == 0 && b.imm == 0 && b.stg == 0) (some (.jr h b.xr))
  | 0x42 => form (b.lo == 0 && b.imm == 0 && b.stg == 0) (some (.call h b.xr (b.tsel == 1)))
  | 0x43 => form (b.lo == 0 && b.tsel == 0 && b.imm == 0 && b.stg == 0) (some (.ret h b.xr))
  | 0x44 => form (b.lo == 0 && b.imm == 0 && b.stg == 0) (some (.loop h b.xr (b.tsel == 1)))
  | 0x45 => form (b.lo == 0 && b.xr == 0 && b.stg == 0) (some (.loopi h b.imm (b.tsel == 1)))
  | 0x46 => form (b.lo == 0 && b.imm == 0) (some (.swp h b.xr (b.tsel == 1) b.stg))
  | 0x47 => form (f == 0) (some (.eret h))
  | 0x60 => form (i.lo == 0 && i.fn == 0 && i.ty == 0)
      (if i.d.toNat < 8 && i.imm.extractLsb' 8 8 == 0 then some (.lstamp h (i.d.setWidth 3) i.s1 (i.imm.setWidth 8)) else none)
  | 0x61 => form (i.lo == 0 && i.ty == 0 && i.s1 == 0)
      (if i.fn.toNat < 2 then some (.lseed h (i.fn == 1) i.d (immOf i x)) else none)
  | 0x62 => form (i.lo == 0 && i.ty == 0 && (i.fn.toNat ≥ 4 || i.imm == 0))
      (match i.fn.toNat with
       | 0 => some (.ltag h .x i.d i.s1)
       | 1 => some (.ltag h .v i.d i.s1)
       | 2 => some (.ltag h .p i.d i.s1)
       | 3 => some (.ltag h .a i.d i.s1)
       | 4 => some (.ltagG h i.d i.s1 i.imm)
       | _ => none)
  | 0x63 => form (i.lo == 0 && i.ty == 0 && i.s1 == 0 && i.imm == 0) (if i.fn == 0 then some (.lfold h i.d) else none)
  | 0x70 => form (i.lo == 0 && i.fn == 0 && i.ty == 0 && i.d == 0 && i.s1 == 0) (some (.mark h (immOf i x)))
  | 0x71 => form (i.lo == 0 && i.fn == 0 && i.ty == 0 && i.d == 0 && i.s1 == 0)
      (if i.imm.extractLsb' 8 8 == 0 then some (.dgrd h (i.imm.setWidth 8)) else none)
  | _ => .error .unassigned

/-- The phaser reference of a form (R363): the field that the other form uses is reserved. -/
def phRefOf (e : RawE) : PhRef := if e.flag == 1 then .here e.imm else .remote e.s1
/-- The reference field that is reserved is clear. -/
def phClean (e : RawE) : Bool := if e.flag == 1 then e.s1 == 0 else e.imm == 0

/-- Classes A and B (Table 4.20). -/
def decodeAB (h : Hdr) (major : Nat) (f : BitVec 47) (x : Option (BitVec 48)) : Except Reason Instr :=
  let m := RawM.of f
  let e := RawE.of f
  let i := RawI.of f
  match major with
  | 0x01 => addForm h false f
  | 0x02 => addForm h true f
  | 0x20 => addiForm h f x
  | 0x24 => shiftForm i fun ty => .shli h ty i.d i.s1 i.imm
  | 0x30 => form (m.clean && m.ssel == 0 && m.ty == 0 && m.hint == 0) (if m.space == 0 then some (.lea h m.rd (memOf m x)) else none)
  | 0x80 => loadForm m fun ty hint => .ld h ty (Space.ofCode m.space) m.rd (memOf m x) m.ssel hint
  | 0x81 => storeForm m fun ty hint => .st h ty (Space.ofCode m.space) m.rd (memOf m x) hint
  | 0x82 => loadForm m fun ty hint => .vld h ty (Space.ofCode m.space) m.rd (memOf m x) m.ssel hint
  | 0x83 => storeForm m fun ty hint => .vst h ty (Space.ofCode m.space) m.rd (memOf m x) hint
  | 0x84 => form (m.lo == 0 && m.lay == 0)
      (do let ty ← Fmt.ofCode m.ty; let hint ← Hint.ofCode m.hint
          if m.space == 0 then some (.vgath h ty m.rd m.xb m.hi (m.mid ++ m.off) m.ssel hint) else none)
  | 0x85 => form (m.lo == 0 && m.lay == 0 && m.ssel == 0)
      (do let ty ← Fmt.ofCode m.ty; let hint ← Hint.ofCode m.hint
          if m.space == 0 then some (.vscat h ty m.rd m.xb m.hi (m.mid ++ m.off) hint) else none)
  | 0x86 => form (e.d == 0 && e.unit == 0 && e.scope == 0 && e.mode.extractLsb' 2 2 == 0 && (e.flag == 1 || e.imm == 0))
      (do let hint ← Hint.ofCode (e.mode.extractLsb' 0 2); let k ← pField e.s3
          pure (.ldblk h e.s1 e.s2 k (if e.flag == 1 then some e.imm else none) hint))
  | 0x87 => form (m.clean && m.ssel == 0)
      (do let ty ← Fmt.ofCode m.ty; let hint ← Hint.ofCode m.hint
          if m.space == 3 then some (.ldl h ty m.rd (memOf m x) hint) else none)
  | 0x88 => form (e.d == 0 && e.s1 == 0 && e.s2 == 0 && e.unit == 0 && e.imm == 0 && e.scope == 0 && e.flag == 0 && e.mode == 0)
      ((pField e.s3).map fun k => .evblk h k)
  | 0x89 => rmwForm m 0 (.bfins h)
  | 0x8A => rmwForm m 0x3F (.ffcs h)
  | 0x8B => rmwForm m 0 (.plset h)
  | 0x8C => form (m.lo == 0 && m.lay == 0)
      (do let ty ← Fmt.ofCode m.ty; let hint ← Hint.ofCode m.hint
          if m.space == 0 then some (.mwait h ty m.rd (memOf m x) m.ssel hint) else none)
  | 0x90 => rmwForm m 0x3F (.atomAdd h)
  | 0x91 => rmwForm m 0x3C (.atomFadd h)
  | 0x92 => rmwForm m 0x3F (.atomMin h)
  | 0x93 => rmwForm m 0x3F (.atomMax h)
  | 0x94 => rmwForm m 0x3F (.atomAnd h)
  | 0x95 => rmwForm m 0x3F (.atomOr h)
  | 0x96 => rmwForm m 0x3F (.atomXor h)
  | 0x97 => rmwForm m 0x3F (.atomSwp h)
  | 0x98 => rmwForm m 0 (.atomCas h)
  | 0xA0 => form (e.d == 0 && !e.unit.getLsbD 2 && e.scope == 0 && e.flag == 0 && e.mode == 0)
      (some (.copy h (e.unit.getLsbD 0) (e.unit.getLsbD 1) e.s1 e.s2 e.s3 e.imm))
  | 0xA1 => form (e.d == 0 && e.unit == 0 && e.scope == 0 && e.flag == 0 && e.mode == 0) (some (.copyr h e.s1 e.s2 e.s3 e.imm))
  | 0xA2 => form (e.d == 0 && e.unit == 0 && e.scope == 0 && e.flag == 0 && e.mode == 0) (some (.copyx h e.s1 e.s2 e.s3 e.imm))
  | 0xA3 =>
    if e.flag == 1 then
      form (e.d == 0 && e.unit == 0 && e.scope == 0 && !e.mode.getLsbD 3)
        (x.map fun p => .copyc h e.s1 e.s2 e.s3 e.imm (some ⟨e.mode.setWidth 3, p.setWidth 32⟩))
    else form (e.d == 0 && e.unit == 0 && e.scope == 0 && e.mode == 0) (some (.copyc h e.s1 e.s2 e.s3 e.imm none))
  | 0xA4 => form (e.d == 0 && e.s1 == 0 && e.s2 == 0 && e.s3 == 0 && e.unit == 0 && e.imm == 0 && e.flag == 0 && e.mode == 0)
      ((Scope.ofCode e.scope).map fun sc => .fence h sc)
  | 0xA5 => form (e.d == 0 && e.s1 == 0 && e.s2 == 0 && e.s3 == 0 && e.unit == 0 && e.imm == 0 && e.flag == 0 && e.mode == 0)
      ((Scope.ofCode e.scope).map fun sc => .drain h sc)
  | 0xB0 => form (f == RawE.pack ⟨0, e.s1, 0, 0, 0, 0, 0, 0, 0⟩) (some (.spawn h e.s1))
  | 0xB1 => form (f == RawE.pack ⟨0, e.s1, 0, 0, 0, 0, 0, 0, 0⟩) (some (.join h e.s1))
  | 0xB2 => form (f == 0) (some (.tend h))
  | 0xB3 => form (f == RawE.pack ⟨0, e.s1, 0, 0, 0, 0, 0, 0, e.mode⟩) (some (.cancel h e.s1 e.mode))
  | 0xB4 => form (f == RawE.pack ⟨e.d, e.s1, 0, 0, 0, 0, 0, 0, e.mode⟩) (some (.ccrd h e.d e.s1 e.mode))
  | 0xB5 => form (f == 0) (some (.yield h))
  | 0xC0 => form (f == RawE.pack ⟨0, e.s1, 0, 0, e.unit, 0, 0, 0, 0⟩) (some (.sbind h e.unit e.s1))
  | 0xC1 => form (f == RawE.pack ⟨0, 0, 0, 0, e.unit, 0, 0, 0, 0⟩) (some (.sunbind h e.unit))
  | 0xC2 => form (f == RawE.pack ⟨0, 0, 0, 0, e.unit, e.imm, 0, 0, 0⟩) (some (.sadv h e.unit e.imm))
  | 0xC3 => form (f == RawE.pack ⟨0, e.s1, 0, 0, 0, e.imm, 0, 0, e.mode⟩)
      (do let op ← RedOp.ofCode e.mode; if e.imm.toNat < 16 then some (.rsend h e.s1 (e.imm.setWidth 4) op) else none)
  | 0xC4 => form (f == RawE.pack ⟨e.d, e.s1, 0, 0, 0, e.imm, 0, 0, 0⟩)
      (if e.imm.toNat < 16 then some (.rrecv h e.d e.s1 (e.imm.setWidth 4)) else none)
  | 0xD0 => form (f == RawE.pack ⟨e.d, e.s1, 0, 0, 0, 0, 0, 0, e.mode⟩) (some (.clacq h e.d e.s1 e.mode))
  | 0xD1 => form (f == RawE.pack ⟨e.d, e.s1, 0, 0, 0, 0, 0, 0, e.mode⟩) (some (.clupg h e.d e.s1 e.mode))
  | 0xD2 => form (f == RawE.pack ⟨e.d, e.s1, 0, 0, 0, 0, 0, e.flag, 0⟩) (some (.clrel h e.d e.s1 (e.flag == 1)))
  | 0xD3 => form (f == RawE.pack ⟨e.d, e.s1, 0, 0, 0, 0, 0, 0, e.mode⟩) (some (.cltry h e.d e.s1 e.mode))
  | 0xD4 => form (f == RawE.pack ⟨e.d, e.s1, 0, 0, 0, 0, 0, 0, 0⟩) (some (.clqry h e.d e.s1))
  | 0xE0 => form (phClean e && e.d == 0 && e.s2 == 0 && e.s3 == 0 && e.unit == 0)
      ((Scope.ofCode e.scope).bind fun sc => if e.mode.toNat < 4 then some (.phreg h (phRefOf e) sc (e.mode.setWidth 2)) else none)
  | 0xE1 => form (phClean e && e.d == 0 && e.s2 == 0 && e.s3 == 0 && e.unit == 0 && e.scope == 0)
      (if e.mode.toNat < 4 then some (.phdrop h (phRefOf e) (e.mode.setWidth 2)) else none)
  | 0xE2 => form (phClean e && e.d == 0 && e.s2 == 0 && e.s3 == 0 && e.unit == 0 && e.scope == 0 && e.mode == 0)
      (some (.phsig h (phRefOf e)))
  | 0xE3 => form (phClean e && e.s3 == 0 && e.unit == 0 && e.scope == 0 && e.mode == 0) (some (.phwait h e.d (phRefOf e) e.s2))
  | 0xE4 => form (phClean e && e.unit == 0 && e.scope == 0 && e.mode == 0) (some (.phsw h e.d (phRefOf e) e.s2 e.s3))
  | 0xE5 => form (phClean e && e.s3 == 0 && e.unit == 0 && e.scope == 0 && e.mode == 0) (some (.phexp h e.d (phRefOf e) e.s2))
  | 0xE6 => form (phClean e && e.s2 == 0 && e.s3 == 0 && e.scope == 0 && e.mode == 0)
      (if e.unit.toNat < 4 then some (.phrd h e.d (phRefOf e) (e.unit.setWidth 2)) else none)
  | _ => .error .unassigned

/-- A vector form with modifiers; `clean` names the reserved fields beside bits 12:0. -/
def vecForm (v : RawV) (clean : Bool) (mk : VMod → Instr) : Except Reason Instr := form (clean && v.tail) (v.mod.map mk)

/-- A vector form without format and modifiers. -/
def bareForm (v : RawV) (clean : Bool) (i : Instr) : Except Reason Instr := form (clean && v.fmt == 0 && v.bare) (some i)

/-- Class V (Table 4.21). -/
def decodeV (h : Hdr) (major : Nat) (f : BitVec 47) : Except Reason Instr :=
  let v := RawV.of f
  match major with
  | 0x01 => vecForm v (v.s3 == 0) fun m => .vadd h m v.d v.s1 v.s2
  | 0x02 => vecForm v (v.s3 == 0) fun m => .vsub h m v.d v.s1 v.s2
  | 0x03 => vecForm v (v.s3 == 0) fun m => .vmul h m v.d v.s1 v.s2
  | 0x04 => vecForm v true fun m => .vfma h m v.d v.s1 v.s2 v.s3
  | 0x05 => vecForm v true fun m => .vfms h m v.d v.s1 v.s2 v.s3
  | 0x06 => vecForm v (v.s3 == 0 && v.rnd == 0 && v.fo == 0 && v.sat == 0) fun m => .vmin h m v.d v.s1 v.s2
  | 0x07 => vecForm v (v.s3 == 0 && v.rnd == 0 && v.fo == 0 && v.sat == 0) fun m => .vmax h m v.d v.s1 v.s2
  | 0x08 => vecForm v (v.s2 == 0 && v.s3 == 0 && v.rnd == 0) fun m => .vabs h m v.d v.s1
  | 0x09 => vecForm v (v.s2 == 0 && v.s3 == 0 && v.rnd == 0) fun m => .vneg h m v.d v.s1
  | 0x0A => form (v.s3 == 0 && v.rnd == 0 && v.fo == 0 && v.sat == 0 && v.sfmt == 0 && v.lo == 0)
      (do let m ← v.mod; let c ← Cond.ofCode v.fn; pure (.vcmp h c m v.d v.s1 v.s2))
  | 0x0B => bareForm v true (.vsel h v.d v.s1 v.s2 v.s3)
  | 0x0C => bareForm v (v.s3 == 0) (.vand h v.d v.s1 v.s2)
  | 0x0D => bareForm v (v.s3 == 0) (.vor h v.d v.s1 v.s2)
  | 0x0E => bareForm v (v.s3 == 0) (.vxor h v.d v.s1 v.s2)
  | 0x0F => bareForm v (v.s2 == 0 && v.s3 == 0) (.vnot h v.d v.s1)
  | 0x10 => form (v.s3 == 0 && v.bare) ((Fmt.ofCode v.fmt).map fun ty => .vshl h ty v.d v.s1 v.s2)
  | 0x11 => form (v.s3 == 0 && v.bare) ((Fmt.ofCode v.fmt).map fun ty => .vshr h ty v.d v.s1 v.s2)
  | 0x12 => form (v.s3 == 0 && v.bare) ((Fmt.ofCode v.fmt).map fun ty => .vsra h ty v.d v.s1 v.s2)
  | 0x20 => form (v.s2 == 0 && v.s3 == 0 && v.fn == 0 && v.lo == 0)
      (do let m ← v.mod; let sf ← Fmt.ofCode v.sfmt; pure (.vcvt h m sf v.d v.s1))
  | 0x21 => form (v.s2 == 0 && v.fn.extractLsb' 1 3 == 0 && (v.fn == 1 || v.s3 == 0) && v.lo == 0)
      (do let m ← v.mod; let sf ← Fmt.ofCode v.sfmt; pure (.vnarrow h m sf v.d v.s1 (if v.fn == 1 then some v.s3 else none)))
  | 0x28 => vecForm v (v.s2 == 0 && v.s3 == 0 && v.rnd == 0 && v.sat == 0) fun m => .vexp2 h m v.d v.s1
  | 0x29 => vecForm v (v.s2 == 0 && v.s3 == 0 && v.rnd == 0 && v.sat == 0) fun m => .vrcp h m v.d v.s1
  | 0x30 => vecForm v (v.s2 == 0 && v.s3 == 0) fun m => .vredsum h m v.d v.s1
  | 0x31 => vecForm v (v.s2 == 0 && v.s3 == 0 && v.rnd == 0 && v.fo == 0 && v.sat == 0) fun m => .vredmax h m v.d v.s1
  | 0x38 => bareForm v (v.s3 == 0) (.vperm h v.d v.s1 v.s2)
  | 0x39 => bareForm v (v.s2 == 0 && v.s3 == 0) (.vbcast h v.d v.s1)
  | 0x3A => form (v.s3 == 0 && v.bare) ((Fmt.ofCode v.fmt).map fun ty => .vext h ty v.d v.s1 v.s2)
  | 0x3B => bareForm v (v.s3 == 0) (.vins h v.d v.s1 v.s2)
  | 0x3C => bareForm v (v.s1 == 0 && v.s2 == 0 && v.s3 == 0) (.vlane h v.d)
  | 0x3D => bareForm v (v.d == 0 && v.s2 == 0 && v.s3 == 0) (.setvl h v.s1)
  | 0x3E => bareForm v (v.s2 == 0 && v.s3 == 0) (.vmov h v.d v.s1)
  | 0x60 => form (v.s3 == 0 && v.fmt == 0 && v.fi == 0 && v.fo == 0 && v.sfmt == 0 && v.fn.extractLsb' 1 3 == 0 && v.lo == 0)
      (do let rnd ← Rnd.ofCode v.rnd
          if v.fn == 1 then
            if v.d == 0 then some (.scacc h none v.s1 v.s2 rnd (v.sat == 1)) else none
          else if v.d.toNat < 8 then some (.scacc h (some (v.d.setWidth 3)) v.s1 v.s2 rnd (v.sat == 1)) else none)
  | 0x70 => form (v.s2 == 0 && v.s3 == 0 && v.fmt.extractLsb' 2 2 == 0 && v.rnd == 0 && v.fi == 0 && v.fo == 0 && v.sat == 0 && v.lo == 0)
      (some (.vdefer h v.d v.s1 (v.fmt.setWidth 2) (v.sfmt ++ v.fn)))
  | 0x71 => form (v.s2 == 0 && v.s3 == 0 && v.fmt.extractLsb' 2 2 == 0 && v.rnd == 0 && v.fi == 0 && v.fo == 0 && v.sat == 0 && v.lo == 0)
      (some (.vdrain h v.d v.s1 (v.fmt.setWidth 2) (v.sfmt ++ v.fn)))
  | _ => .error .unassigned

/-- The operand fields of `mblk`. -/
def mblkForm (e : RawE) (mk : MblkOp → Instr) : Except Reason Instr :=
  form (e.d == 0 && e.s3 == 0 && e.scope == 0 && e.flag == 0 && e.imm.extractLsb' 4 8 == 0)
    (some (mk ⟨e.unit, e.s1, e.s2, e.mode.extractLsb' 0 2, e.mode.extractLsb' 2 2, e.imm.extractLsb' 0 2, e.imm.extractLsb' 2 2⟩))

/-- Class M (Table 4.22). -/
def decodeM (h : Hdr) (major : Nat) (f : BitVec 47) (x : Option (BitVec 48)) : Except Reason Instr :=
  let e := RawE.of f
  let i := RawI.of f
  match major with
  | 0x01 => form (f == RawE.pack ⟨0, e.s1, 0, 0, 0, 0, 0, 0, 0⟩) (some (.mnest h e.s1))
  | 0x04 => form (f == RawE.pack ⟨0, 0, 0, 0, e.unit, 0, 0, 0, 0⟩) (some (.mzero h e.unit))
  | 0x05 => form (e.d == 0 && e.s3 == 0)
      (do let ty ← Fmt.ofCode e.mode; let rnd ← Rnd.ofCode e.scope
          pure (.mdrain h ty rnd (e.flag == 1) e.unit e.s1 e.s2 (e.imm.extractLsb' 0 6) (e.imm.extractLsb' 6 6)))
  | 0x06 => form (f == RawE.pack ⟨e.d, 0, 0, 0, 0, 0, 0, 0, 0⟩) (some (.mstat h e.d))
  | 0x10 => form (i.lo == 0 && i.fn == 0 && i.ty == 0 && i.d == 0 && i.s1 == 0)
      (x.map fun p => .touch h i.imm (p.setWidth 32))
  | 0x20 => form (f == 0) (some (.mgoBf16 h))
  | 0x21 => form (f == 0) (some (.mgoF8e4 h))
  | 0x22 => form (f == 0) (some (.mgoF8e5 h))
  | 0x23 => form (f == 0) (some (.mgoI8 h))
  | 0x24 => form (f == 0) (some (.mgoI4x h))
  | 0x28 => mblkForm e (.mblkBf16 h)
  | 0x29 => mblkForm e (.mblkF8e4 h)
  | 0x2A => mblkForm e (.mblkF8e5 h)
  | 0x2B => mblkForm e (.mblkI8 h)
  | 0x2C => mblkForm e (.mblkI4x h)
  | _ => .error .unassigned

/-- The instruction of a slot syllable and its extension's payload; refused by name (Table 4.23). -/
def decodeForm (h : Hdr) (major : Nat) (f : BitVec 47) (x : Option (BitVec 48)) : Except Reason Instr :=
  match h.slot with
  | .S => decodeS h major f x
  | .A | .B => decodeAB h major f x
  | .V => decodeV h major f
  | .M => decodeM h major f x

/-! ## Syllables -/

/-- A syllable as its class reads it (Tables 4.1, 4.2 and 4.15). -/
inductive Syl where
  | slot (h : Hdr) (major : Nat) (f : BitVec 47)
  | ext (owner : BitVec 3) (resv : BitVec 9) (payload : BitVec 48)
  | six
  | hall
  deriving DecidableEq, Repr

/-- The stop bit (Table 4.1). -/
def stopBit (w : Word) : Bool := w.getLsbD 63

/-- The class of a syllable is that of a hallmark (Table 4.2). -/
def isHall (w : Word) : Bool := w.extractLsb' 60 3 == 7

/-- A word read as a syllable. -/
def Syl.of (w : Word) : Syl :=
  match Slot.ofCode (w.extractLsb' 60 3) with
  | some s => .slot ⟨s, w.extractLsb' 48 4, w.getLsbD 47⟩ (w.extractLsb' 52 8).toNat (w.extractLsb' 0 47)
  | none =>
    match (w.extractLsb' 60 3).toNat with
    | 5 => .ext (w.extractLsb' 57 3) (w.extractLsb' 48 9) (w.extractLsb' 0 48)
    | 6 => .six
    | _ => .hall

/-- The instruction of one slot syllable with or without the extension that follows it. -/
def decodeSyllable (w : Word) (x : Option Word) : Except Reason Instr :=
  match Syl.of w with
  | .slot h major f =>
    match x with
    | none => if extRule h.slot major f = .required then .error .missingExtension else decodeForm h major f none
    | some y =>
      match Syl.of y with
      | .ext owner resv p =>
        if owner != h.slot.code || extRule h.slot major f = .none then .error .extension
        else
          match decodeForm h major f (some p) with
          | .ok i => if resv != 0 || extReserved h.slot major p then .error .reservedBit else .ok i
          | .error r => .error r
      | _ => .error .extension
  | .ext _ _ _ => .error .extension
  | .six => .error .classSix
  | .hall => .error .hallmarkForm

/-! ## Bundles -/

/-- A decoded slot syllable: its position in the bundle, its word and its instruction. -/
structure Placed where
  idx : Nat
  word : Word
  instr : Instr
  deriving DecidableEq, Repr

/-- A decoded bundle: its slot syllables in slot order and its length in syllables. -/
structure Bundle where
  slots : List Placed
  len : Nat
  deriving DecidableEq, Repr

/-- The slot classes of a run, in address order. -/
def slotCodes (ss : List Syl) : List Nat :=
  ss.filterMap fun s => match s with | .slot h _ _ => some h.slot.code.toNat | _ => none

/-- Strictly ascending numbers. -/
def ascending : List Nat → Bool
  | a :: b :: r => a < b && ascending (b :: r)
  | _ => true

/-- The extension syllables of a run. -/
def extOwners (ss : List Syl) : List Nat :=
  ss.filterMap fun s => match s with | .ext o _ _ => some o.toNat | _ => none

/-- A slot syllable. -/
def Syl.isSlot : Syl → Bool
  | .slot .. => true
  | _ => false

/-- An extension stands between slot syllables; `seen`: one of them has come. -/
def extBetween (seen : Bool) : List Syl → Bool
  | .ext _ _ _ :: t => (seen && t.any Syl.isSlot) || extBetween seen t
  | .slot .. :: t => extBetween true t
  | _ :: t => extBetween seen t
  | [] => false

/-- The payload of the extension that names slot class `c`. -/
def extOf (ss : List Syl) (c : Slot) : Option (BitVec 48) :=
  ss.findSome? fun s => match s with | .ext o _ p => if o == c.code then some p else none | _ => none

/-- An owner that the bundle holds and that admits an extension (R74). -/
def ownerAdmits (ss : List Syl) (o : Nat) : Bool :=
  ss.any fun s => match s with
    | .slot h major f => h.slot.code.toNat == o && extRule h.slot major f != .none
    | _ => false

/-- A slot syllable that lacks the extension it requires (R74). -/
def lacksExt (ss : List Syl) : Bool :=
  ss.any fun s => match s with
    | .slot h major f => extRule h.slot major f == .required && (extOf ss h.slot).isNone
    | _ => false

/-- A major of the control transfers (R73). -/
def isTransferMajor (m : Nat) : Bool := 0x40 ≤ m && m ≤ 0x47

/-- The control transfer of slot S (R73). -/
def transferOf (ss : List Syl) : Option Nat :=
  ss.findSome? fun s => match s with
    | .slot h major _ => if h.slot == .S && isTransferMajor major then some major else none
    | _ => none

/-- A control-transfer major outside slot S (R73). -/
def misplaced (ss : List Syl) : Bool :=
  ss.any fun s => match s with | .slot h major _ => h.slot != .S && isTransferMajor major | _ => false

/-- A transfer that names its target by tsel: `br`, `call` and the loop forms (R77). -/
def byTsel (m : Nat) : Bool := [0x40, 0x42, 0x44, 0x45, 0x46].contains m

/-- The control-transfer condition of reason 0x14; `next` is the word after the bundle. -/
def badTransfer (ss : List Syl) (next : Word) : Bool :=
  misplaced ss || match transferOf ss with
    | none => false
    | some m => !isHall next || (byTsel m && next.extractLsb' 46 2 == 3)

/-- The first bundle-level reason that applies, in ascending order (R85). `extra`: the 257th bundle of its block. -/
def bundleReason (ss : List Syl) (into extra : Bool) (next : Word) : Option Reason :=
  let owners := extOwners ss
  if !ascending (slotCodes ss) then some .slotOrder
  else if ss.length > 8 then some .tooLong
  else if extBetween false ss || (match ss with | .ext _ _ _ :: _ => true | _ => false) || owners.length > 3
      || !owners.all (ownerAdmits ss) || !owners.Nodup then some .extension
  else if lacksExt ss then some .missingExtension
  else if badTransfer ss next then some .transfer
  else if into then some .intoHallmark
  else if extra then some .tooMany
  else none

/-- The slot syllable whose class code is `o`. -/
def ownerMajor (ss : List Syl) (o : BitVec 3) : Option (Slot × Nat) :=
  ss.findSome? fun s => match s with
    | .slot h major _ => if h.slot.code == o then some (h.slot, major) else none
    | _ => none

/-- The syllable-level checks in address order; `n` counts the syllables before. -/
def decodeSyls (all : List Syl) : List Word → Nat → Except (Reason × Nat) (List Placed)
  | [], _ => .ok []
  | w :: ws, n =>
    match Syl.of w with
    | .slot h major f =>
      match decodeForm h major f (extOf all h.slot) with
      | .error r => .error (r, n)
      | .ok i =>
        match decodeSyls all ws (n + 1) with
        | .error e => .error e
        | .ok ps => .ok (⟨n, w, i⟩ :: ps)
    | .ext o resv p =>
      let bad := match ownerMajor all o with
        | some (s, m) => extReserved s m p
        | none => false
      if resv != 0 || bad then .error (.reservedBit, n) else decodeSyls all ws (n + 1)
    | .six => .error (.classSix, n)
    | .hall => .error (.intoHallmark, n)

/-- The slot syllables before the one at which the syllable-level checks fail. -/
def placedBefore (ws : List Word) (n : Nat) : List Placed :=
  match decodeSyls (ws.map Syl.of) (ws.take n) 0 with
  | .ok ps => ps
  | .error _ => []

/-- A bundle from its words (R84, R85): the run up to its stop bit, or up to the hallmark it runs into (`into`), and
the word that follows. The error holds the position of the offending syllable. -/
def decodeBundle (ws : List Word) (into extra : Bool) (next : Word) : Except (Reason × Nat) Bundle :=
  let ss := ws.map Syl.of
  match bundleReason ss into extra next with
  | some r => .error (r, 0)
  | none =>
    match decodeSyls ss ws 0 with
    | .error e => .error e
    | .ok ps => .ok ⟨ps, ws.length⟩

/-! ## Hallmarks (Tables 4.17 and 4.18) -/

/-- The fields of a hallmark. -/
structure Hallmark where
  count : Nat
  succ : BitVec 2
  safe : Bool
  drift : Bool
  iclass : BitVec 8
  fold : BitVec 32
  tgtA : BitVec 30
  tgtB : BitVec 30
  deriving DecidableEq, Repr

/-- The hallmark of two words; none when it is malformed (R79). -/
def Hallmark.of (a b : Word) : Option Hallmark :=
  let succ := a.extractLsb' 46 2
  let c := (a.extractLsb' 48 8).toNat
  if a.extractLsb' 56 8 == 0xFA && a.extractLsb' 40 4 == 0 && (succ == 3 || a.extractLsb' 32 8 == 0)
      && b.extractLsb' 60 4 == 0xF && (succ == 1 || succ == 2 || b.extractLsb' 30 30 == 0)
      && (succ == 2 || b.extractLsb' 0 30 == 0) then
    some ⟨if c = 0 then 256 else c, succ, a.getLsbD 45, a.getLsbD 44, a.extractLsb' 32 8, a.extractLsb' 0 32,
      b.extractLsb' 30 30, b.extractLsb' 0 30⟩
  else none

/-- The words of a hallmark. -/
def Hallmark.words (m : Hallmark) : Word × Word :=
  ((0xFA : BitVec 8) ++ BitVec.ofNat 8 m.count ++ m.succ ++ bit1 m.safe ++ bit1 m.drift ++ (0 : BitVec 4) ++ m.iclass ++ m.fold,
   (0xF : BitVec 4) ++ m.tgtA ++ m.tgtB)

/-- The target of a field: the first byte after the hallmark plus 8 times the signed field (R77). -/
def targetAt (after : Word) (field : BitVec 30) : Word := after + (field.signExtend 64 <<< 3)

/-! ## The opcode table's words -/

/-- The instruction that the decoder reads from an instruction whose bits are `w`: the first syllable is bits 63:0, its
extension bits 127:64. -/
def decodeTableWord (nbits w : Nat) : Option Instr :=
  let a := BitVec.ofNat 64 w
  let x := if nbits ≤ 64 then none else some (BitVec.ofNat 64 (w >>> 64))
  match decodeSyllable a x with
  | .ok i => some i
  | .error _ => none

end Sys2Proof
end

