-- ==== Sys2Proof/Machine/Flags.lean ====
section
/-! DEFINITION. The sticky flags of Table 3.10 (03_numbers.md R54, R55). -/

namespace Sys2Proof

/-- The seven sticky flags, bit positions of Table 3.10. -/
abbrev Flags := BitVec 7

/-- NX: the rounded result differs from the exact value. -/
def Flags.NX : Flags := 0b0000001
/-- UF: inexact and tiny before rounding, or flushed under FO. -/
def Flags.UF : Flags := 0b0000010
/-- OF: rounded magnitude above the largest finite value. -/
def Flags.OF : Flags := 0b0000100
/-- DZ: an exact infinite result from finite operands, or an integer division by zero. -/
def Flags.DZ : Flags := 0b0001000
/-- NV: invalid operation. -/
def Flags.NV : Flags := 0b0010000
/-- SAT: an integer result was clamped. -/
def Flags.SAT : Flags := 0b0100000
/-- DN: a subnormal operand was read as zero under FI. -/
def Flags.DN : Flags := 0b1000000

/-- A flag set under a condition. -/
def Flags.when (c : Bool) (f : Flags) : Flags := if c then f else 0

/-- The OR of the flags of several results. -/
def Flags.all (fs : List Flags) : Flags := fs.foldl (· ||| ·) 0

end Sys2Proof
end

