-- ==== Sys2Proof/Machine/Num.lean ====
section
/-! DEFINITION. Exact values, the one rounding, conversions and integer operands (03_numbers.md). -/

namespace Sys2Proof

/-! ## Integers (R42, R123) -/

/-- The integer of the low `N` bits, sign-extended when `signed` (R123). -/
def intOf (signed : Bool) (N : Nat) (w : Nat) : Int :=
  let n := w % 2 ^ N
  if signed && 2 ^ N ≤ 2 * n then (n : Int) - 2 ^ N else n

/-- Signed integer formats (Table 3.1). -/
def Fmt.isSignedInt : Fmt → Bool
  | .i8 | .i16 | .i32 | .i64 => true
  | _ => false

/-- The helper opnd of R123. -/
def Fmt.opnd (ty : Fmt) (w : Word) : Int := intOf ty.isSignedInt ty.width w.toNat

/-- The helper fit of R123: wrap to N bits, then extend by the type's signedness. -/
def Fmt.fit (ty : Fmt) (v : Int) : Word :=
  BitVec.ofInt 64 (intOf ty.isSignedInt ty.width (v % 2 ^ ty.width).toNat)

/-- The helper opnd of R151 on a lane. -/
def Fmt.laneOpnd (ty : Fmt) (w : Lane) : Int := intOf ty.isSignedInt ty.width w.toNat

/-- The helper put of R151. -/
def Fmt.put (ty : Fmt) (v : Int) : Lane := BitVec.ofInt 32 (intOf ty.isSignedInt ty.width (v % 2 ^ ty.width).toNat)

/-- The least value of an integer format. -/
def Fmt.lo (ty : Fmt) : Int := if ty.isSignedInt then -(2 ^ (ty.width - 1)) else 0
/-- The greatest value of an integer format. -/
def Fmt.hi (ty : Fmt) : Int := if ty.isSignedInt then 2 ^ (ty.width - 1) - 1 else 2 ^ ty.width - 1

/-- Whether a value lies outside the range of an integer format. -/
def Fmt.outside (ty : Fmt) (v : Int) : Bool := v < ty.lo || ty.hi < v

/-- The nearer end of the range (R42). -/
def Fmt.clamp (ty : Fmt) (v : Int) : Int := if v < ty.lo then ty.lo else if ty.hi < v then ty.hi else v

/-- A saturating or wrapping integer result: its exact value before the final fit, and its flags (R126, R154). -/
def Fmt.satInt (ty : Fmt) (sat : Bool) (v : Int) : Int × Flags :=
  if sat && ty.outside v then (ty.clamp v, .SAT) else (v, 0)

/-- The bits of an N-bit operand as an unsigned number. -/
def lowBits (N : Nat) (w : Nat) : Nat := w % 2 ^ N

/-- Count of zero bits above the highest set bit of an N-bit number (R128). -/
def clzN (N : Nat) (n : Nat) : Nat := if n = 0 then N else N - 1 - Nat.log2 n

/-- Count of zero bits below the lowest set bit of an N-bit number (R128). -/
def ctzN (N : Nat) (n : Nat) : Nat := (List.range N).findIdx fun i => n.testBit i

/-- Count of set bits of an N-bit number (R128). -/
def popcN (N : Nat) (n : Nat) : Nat := ((List.range N).filter fun i => n.testBit i).length

/-- A condition of Table 4.13 on integers. -/
def Cond.int (c : Cond) (a b : Int) : Bool :=
  match c with
  | .eq => a == b
  | .ne => a != b
  | .lt => a < b
  | .le => a ≤ b
  | .gt => b < a
  | .ge => b ≤ a
  | .un => false

/-! ## Floating formats (R43, R44) -/

/-- An exact value: a NaN, an infinity, or (−1)^neg × m × 2^e; `m = 0` is a signed zero. -/
inductive Ex where
  | nan
  | inf (neg : Bool)
  | fin (neg : Bool) (m : Nat) (e : Int)
  deriving DecidableEq, Repr

/-- Fraction bits of a floating format (Table 3.2). -/
def Fmt.fracBits : Fmt → Nat
  | .f32 => 23
  | .bf16 => 7
  | .f8e4 => 3
  | .f8e5 => 2
  | _ => 0

/-- Exponent bits of a floating format (Table 3.2). -/
def Fmt.expBits : Fmt → Nat
  | .f32 | .bf16 => 8
  | .f8e4 => 4
  | .f8e5 => 5
  | _ => 0

/-- Floating formats. -/
def Fmt.isFloat : Fmt → Bool
  | .f32 | .bf16 | .f8e4 | .f8e5 => true
  | _ => false

/-- The bias of a floating format. -/
def Fmt.bias (ty : Fmt) : Nat := 2 ^ (ty.expBits - 1) - 1

/-- The precision p of R49. -/
def Fmt.prec (ty : Fmt) : Nat := ty.fracBits + 1

/-- The exponent emin of R49. -/
def Fmt.emin (ty : Fmt) : Int := 1 - (ty.bias : Int)

/-- The exponent field of an encoding. -/
def Fmt.expField (ty : Fmt) (w : Nat) : Nat := w / 2 ^ ty.fracBits % 2 ^ ty.expBits
/-- The fraction field of an encoding. -/
def Fmt.fracField (ty : Fmt) (w : Nat) : Nat := w % 2 ^ ty.fracBits
/-- The sign bit of an encoding. -/
def Fmt.signBit (ty : Fmt) (w : Nat) : Bool := w.testBit (ty.fracBits + ty.expBits)

/-- A NaN code (Table 3.3). -/
def Fmt.isNan (ty : Fmt) (w : Nat) : Bool :=
  ty.expField w == 2 ^ ty.expBits - 1 && (if ty == .f8e4 then ty.fracField w == 7 else ty.fracField w != 0)

/-- A signalling NaN: its top fraction bit is clear; F8E4 has none (R44). -/
def Fmt.isSignalling (ty : Fmt) (w : Nat) : Bool :=
  ty != .f8e4 && ty.isNan w && !(w.testBit (ty.fracBits - 1))

/-- A subnormal encoding. -/
def Fmt.isSubnormal (ty : Fmt) (w : Nat) : Bool := ty.expField w == 0 && ty.fracField w != 0

/-- The exact value of an encoding (R43, R44). -/
def Fmt.exact (ty : Fmt) (w : Nat) : Ex :=
  let s := ty.signBit w
  let e := ty.expField w
  let f := ty.fracField w
  if ty.isNan w then .nan
  else if e = 2 ^ ty.expBits - 1 && ty != .f8e4 then .inf s
  else if e = 0 then .fin s f (ty.emin - ty.fracBits)
  else .fin s (2 ^ ty.fracBits + f) ((e : Int) - ty.bias - ty.fracBits)

/-- A floating operand: its value with a subnormal read as zero under FI (DN), and NV for a signalling NaN (R45, R53). -/
def Fmt.operand (ty : Fmt) (fi : Bool) (w : Nat) : Ex × Flags :=
  if fi && ty.isSubnormal w then (.fin (ty.signBit w) 0 0, .DN)
  else (ty.exact w, Flags.when (ty.isSignalling w) .NV)

/-- The canonical NaN (Table 3.3). -/
def Fmt.qnan : Fmt → Nat
  | .f32 => 0x7FC00000
  | .bf16 => 0x7FC0
  | .f8e4 => 0x7F
  | .f8e5 => 0x7E
  | _ => 0

/-- The sign bit of a result. -/
def Fmt.signOf (ty : Fmt) (neg : Bool) : Nat := if neg then 2 ^ (ty.fracBits + ty.expBits) else 0

/-- The encoding of an infinity (Table 3.3). -/
def Fmt.infCode (ty : Fmt) (neg : Bool) : Nat := ty.signOf neg + (2 ^ ty.expBits - 1) * 2 ^ ty.fracBits

/-- The largest finite magnitude's encoding (Table 3.2). -/
def Fmt.maxCode : Fmt → Nat
  | .f32 => 0x7F7FFFFF
  | .bf16 => 0x7F7F
  | .f8e4 => 0x7E
  | .f8e5 => 0x7B
  | _ => 0

/-- The ordered-dither table D (Table 3.6), row by row. -/
def ditherTable : List Nat :=
  [0, 32, 8, 40, 2, 34, 10, 42, 48, 16, 56, 24, 50, 18, 58, 26, 12, 44, 4, 36, 14, 46, 6, 38,
   60, 28, 52, 20, 62, 30, 54, 22] ++
  [3, 35, 11, 43, 1, 33, 9, 41, 51, 19, 59, 27, 49, 17, 57, 25, 15, 47, 7, 39, 13, 45, 5, 37,
   63, 31, 55, 23, 61, 29, 53, 21]

/-- Entry (i, j) of the dither table, each index taken mod 8 (R50). -/
def dither (i j : Nat) : Nat := ditherTable.getD (8 * (i % 8) + j % 8) 0

/-- Whether the discarded fraction `rem / 2^sh` of a magnitude whose kept integer is `n` rounds away from zero (R49). -/
def roundsUp (rnd : Rnd) (neg : Bool) (i j n rem sh : Nat) : Bool :=
  match rnd with
  | .rne => 2 ^ sh < 2 * rem || (2 * rem == 2 ^ sh && n % 2 == 1)
  | .rtz => false
  | .rup => rem != 0 && !neg
  | .rdn => rem != 0 && neg
  | .dither => dither i j < 64 * rem / 2 ^ sh

/-- The magnitude m × 2^e on the spacing 2^q: the kept integer, and the discarded numerator over 2^sh. -/
def splitAt (m : Nat) (e q : Int) : Nat × Nat × Nat :=
  if q ≤ e then (m * 2 ^ (e - q).toNat, 0, 0)
  else
    let sh := (q - e).toNat
    (m / 2 ^ sh, m % 2 ^ sh, sh)

/-- The overflow result of Table 3.8 with its flags. -/
def Fmt.overflow (ty : Fmt) (rnd : Rnd) (sat neg : Bool) : Nat × Flags :=
  let toMax := sat || (match rnd with | .rtz => true | .rup => neg | .rdn => !neg | _ => false)
  let base := Flags.OF ||| Flags.NX
  if toMax then (ty.signOf neg + ty.maxCode, base)
  else if ty == .f8e4 then (0x7F, base ||| Flags.NV)
  else (ty.infCode neg, base)

/-- The procedure round_to of R49 with overflow under R51: the encoding and its flags. An exact zero keeps its sign.
`fo` is the FO bit, `sat` the saturate bit, (i, j) the dither coordinates. -/
def Fmt.roundFin (ty : Fmt) (rnd : Rnd) (fo sat : Bool) (i j : Nat) (neg : Bool) (m : Nat) (e : Int) : Nat × Flags :=
  if m = 0 then (ty.signOf neg, 0)
  else
    let L : Int := (Nat.log2 m : Int) + e
    let tiny : Bool := L < ty.emin
    if fo && tiny then (ty.signOf neg, .UF ||| .NX)
    else
      let q : Int := max L ty.emin - ty.prec + 1
      let (n, rem, sh) := splitAt m e q
      let n' := if roundsUp rnd neg i j n rem sh then n + 1 else n
      let inexact : Bool := rem != 0
      let fl := Flags.when inexact .NX ||| Flags.when (inexact && tiny) .UF
      let code := ((q - (ty.emin - ty.fracBits)).toNat) * 2 ^ ty.fracBits + n'
      if code > ty.maxCode then
        let (w, f2) := ty.overflow rnd sat neg
        (w, fl ||| f2)
      else (ty.signOf neg + code, fl)

/-- Rounding any exact value: a NaN gives the canonical NaN (R45); an infinity is exact, but F8E4 has none (R52). -/
def Fmt.round (ty : Fmt) (rnd : Rnd) (fo sat : Bool) (i j : Nat) (x : Ex) : Nat × Flags :=
  match x with
  | .nan => (ty.qnan, 0)
  | .inf s =>
    if ty == .f8e4 then (if sat then (ty.signOf s + ty.maxCode, .NV) else (0x7F, .NV)) else (ty.infCode s, 0)
  | .fin s m e => ty.roundFin rnd fo sat i j s m e

/-! ## Exact arithmetic (R45, R58, R60, R153) -/

/-- A signed mantissa. -/
def sgnInt (neg : Bool) (m : Nat) : Int := if neg then -(m : Int) else m

/-- An integer times 2^e. `zneg` is the sign of a zero. -/
def Ex.ofInt (v : Int) (e : Int) (zneg : Bool) : Ex :=
  if v = 0 then .fin zneg 0 0 else .fin (v < 0) v.natAbs e

/-- The negative. -/
def Ex.neg : Ex → Ex
  | .nan => .nan
  | .inf s => .inf (!s)
  | .fin s m e => .fin (!s) m e

/-- A NaN operand. -/
def Ex.isNan : Ex → Bool
  | .nan => true
  | _ => false

/-- Exact addition with its NV; the sign of an exact zero follows R60 (`rdn`: the mode is RDN). -/
def Ex.add (rdn : Bool) (x y : Ex) : Ex × Flags :=
  match x, y with
  | .nan, _ | _, .nan => (.nan, 0)
  | .inf s, .inf t => if s = t then (.inf s, 0) else (.nan, .NV)
  | .inf s, _ => (.inf s, 0)
  | _, .inf t => (.inf t, 0)
  | .fin s m e, .fin t n f =>
    let g := min e f
    let v := sgnInt s (m * 2 ^ (e - g).toNat) + sgnInt t (n * 2 ^ (f - g).toNat)
    (Ex.ofInt v g (if m = 0 && n = 0 && s = t then s else rdn), 0)

/-- Exact subtraction with its NV; the sign of an exact zero goes by the operands of the subtraction themselves: of zeros of one sign it is that
sign (R60). -/
def Ex.sub (rdn : Bool) (x y : Ex) : Ex × Flags :=
  match x, y with
  | .fin s 0 _, .fin t 0 _ => (Ex.ofInt 0 0 (if s = t then s else rdn), 0)
  | _, _ => Ex.add rdn x y.neg

/-- Exact multiplication with its NV: 0 × ∞ is invalid. -/
def Ex.mul (x y : Ex) : Ex × Flags :=
  match x, y with
  | .nan, _ | _, .nan => (.nan, 0)
  | .inf s, .inf t => (.inf (s != t), 0)
  | .inf s, .fin t n _ => if n = 0 then (.nan, .NV) else (.inf (s != t), 0)
  | .fin s m _, .inf t => if m = 0 then (.nan, .NV) else (.inf (s != t), 0)
  | .fin s m e, .fin t n f => (.fin (s != t) (m * n) (e + f), 0)

/-- The value times 2^k. -/
def Ex.scale (k : Int) : Ex → Ex
  | .fin s m e => .fin s m (e + k)
  | x => x

/-- Comparison of exact values: false on a NaN but for NE and UN (Table 4.13). Both zeros are equal. -/
def Cond.float (c : Cond) (x y : Ex) : Bool :=
  match x, y with
  | .nan, _ | _, .nan => c == .ne || c == .un
  | _, _ =>
    let v : Ex → Int × Int := fun z => match z with
      | .inf s => (if s then -1 else 1, 0)
      | .fin s m _ => (0, sgnInt s m)
      | .nan => (0, 0)
    match x, y with
    | .fin s m e, .fin t n f =>
      let g := min e f
      c.int (sgnInt s (m * 2 ^ (e - g).toNat)) (sgnInt t (n * 2 ^ (f - g).toNat))
    | _, _ => c.int (v x).1 (v y).1

/-- The greater of two values; NaN if either is; max(+0, −0) = +0 (R62). -/
def Ex.max (x y : Ex) : Ex :=
  match x, y with
  | .nan, _ | _, .nan => .nan
  | .fin s 0 _, .fin t 0 _ => .fin (s && t) 0 0
  | _, _ => if Cond.float .lt x y then y else x

/-- The lesser of two values; NaN if either is; min(+0, −0) = −0 (R62). -/
def Ex.min (x y : Ex) : Ex :=
  match x, y with
  | .nan, _ | _, .nan => .nan
  | .fin s 0 _, .fin t 0 _ => .fin (s || t) 0 0
  | _, _ => if Cond.float .lt y x then y else x

/-! ## Conversions (R52) -/

/-- A value rounded to an integer under a mode with spacing 1, and whether it is inexact (R52). -/
def roundInt (rnd : Rnd) (i j : Nat) (neg : Bool) (m : Nat) (e : Int) : Int × Bool :=
  let (n, rem, sh) := splitAt m e 0
  let n' := if roundsUp rnd neg i j n rem sh then n + 1 else n
  (sgnInt neg n', rem != 0)

/-- A floating value to an integer format (Table 3.9). -/
def Fmt.toInt (ty : Fmt) (rnd : Rnd) (i j : Nat) (x : Ex) : Int × Flags :=
  match x with
  | .nan => (0, .NV)
  | .inf s => (if s then ty.lo else ty.hi, .NV)
  | .fin s m e =>
    let (v, inexact) := roundInt rnd i j s m e
    if ty.outside v then (ty.clamp v, .NV) else (v, Flags.when inexact .NX)

/-- An integer to a narrower or other integer format (Table 3.9, last row): clamped with SAT, or wrapped. -/
def Fmt.ofIntSat (ty : Fmt) (sat : Bool) (v : Int) : Int × Flags := ty.satInt sat v

end Sys2Proof
end

