-- ==== Sys2Proof/Machine/State.lean ====
section
/-! DEFINITION. The machine's state as plain data, its stops, and the state after package reset. -/

namespace Sys2Proof.Machine

/-! ## Registers with working and committed copies (06_register_inventory.md) -/

/-- A scalar register with its tag and poison bit (R105). -/
structure XReg where
  val : Word
  tag : Tag
  poison : Bool
  deriving DecidableEq, Repr

/-- A vector register with its tag and poison bit (R105). -/
structure VReg where
  val : Lanes
  tag : Tag
  poison : Bool
  deriving DecidableEq, Repr

/-- A predicate with its tag and poison bit (R105). -/
structure PReg where
  val : Bool
  tag : Tag
  poison : Bool
  deriving DecidableEq, Repr

/-- One buffer of an accumulator with its tag and poison bit (R105, R107). -/
structure Acc where
  val : Grid
  tag : Tag
  poison : Bool
  deriving DecidableEq, Repr

/-- One level of the loop stack: ctl.lstackN and ctl.lbodyN (Table 6.4). -/
structure Level where
  count : BitVec 32
  stg : BitVec 3
  kind : BitVec 2
  body : Word
  deriving DecidableEq, Repr

/-- A bound stream port: its descriptor, where that stood, and the position in chunks (R275 to R277). -/
structure Binding where
  desc : Vector Word 5
  off : BitVec 22
  pos : Nat
  deriving DecidableEq, Repr

/-- A lane record of the deferral queue (R287). -/
structure DeferRec where
  id : BitVec 8
  lane : BitVec 6
  vals : List Lane
  poison : Bool
  deriving DecidableEq, Repr

/-- The states of the nest shadow (Table 14.4). -/
inductive ShadowSt where
  | empty | loaded | armed
  deriving DecidableEq, Repr

/-- The nest shadow: its state, its table (Table 14.3) and, once armed, the product format (R306, R310). -/
structure Shadow where
  st : ShadowSt
  table : Vector Word 8
  fmt : Prod
  op : BitVec 8
  deriving DecidableEq, Repr

/-- Everything of a context that has a working and a committed copy (R31, R105, R111, R113, R277, R286, R306). -/
structure Regs where
  x : Vector XReg 64
  v : Vector VReg 64
  p : Vector PReg 16
  acc : List Acc
  vl : BitVec 7
  es : Vector (BitVec 8) 4
  ws : BitVec 8
  epc : Word
  tvec : Word
  flags : BitVec 7
  fmask : BitVec 7
  dthr : BitVec 32
  vb : BitVec 5
  pb : BitVec 3
  loops : Vector Level 4
  rdr : Bool
  ports : Vector (Option Binding) 8
  defer : List DeferRec
  shadow : Shadow
  tileW : List (BitVec 16 × Word)
  deriving DecidableEq, Repr

/-! ## Results in flight -/

/-- Where a result lands: physical registers, as Table 13.6 names them. -/
inductive Dest where
  | x (n : BitVec 6) | v (n : BitVec 6) | p (n : BitVec 4) | acc (k : BitVec 3) | ps | vl | stamp (n : BitVec 3)
  | ctl (n : BitVec 16) | tagX (n : BitVec 6) | tagV (n : BitVec 6) | loop | touch | flagsOnly
  deriving DecidableEq, Repr

/-- A delivered partial sum (R302): the format says how the 40-bit elements read (Table 3.11). -/
structure PSum where
  fmt : Prod
  vals : Vector (Vector (BitVec 40) 64) 64
  idx : Int
  tag : Tag
  flags : BitVec 7
  poison : Bool
  deriving DecidableEq, Repr

/-- The value of a result in flight; `grid` is an accumulator's as the debug port has written it (R285). -/
inductive Payload where
  | word (w : Word)
  | lanes (l : Lanes)
  | bit (b : Bool)
  | scale (ps : PSum) (ver vec : Lanes) (rnd : Rnd) (sat : Bool)
  | zero
  | grid (g : Grid)
  | psum (p : PSum)
  | tagOnly
  | push (l : Level)
  | compare (seed : BitVec 16) (const f : BitVec 32)
  | none
  deriving DecidableEq, Repr

/-- A result in flight, with the number of the block instance that issued it: a snapshot entry while the context is stopped
(R25, R26, Table 13.6). -/
structure Flight where
  due : Nat
  dest : Dest
  pay : Payload
  tag : Tag
  poison : Bool
  flags : BitVec 7
  blk : Nat
  deriving DecidableEq, Repr

/-- How an answer becomes a register value (R223, R225, R233, R293); `more` adds n elements from lane `first` on to those of an
earlier answer. -/
inductive Conv where
  | scalar (ty : Fmt)
  | vector (ty : Fmt) (n : Nat)
  | more (ty : Fmt) (first n : Nat)
  | word
  | phaser
  | reduction (tree : Nat)
  deriving DecidableEq, Repr

/-- The queue whose entry a request holds until its answer (R238, Table 13.1). -/
inductive Entry where
  | none | msg | clasp
  deriving DecidableEq, Repr

/-- A pending asynchronous result (R35): pending from schedule cycle `start` on, `held` when it has arrived earlier; `poison` is that
of its syllable's sources (R64). -/
structure Pend where
  id : Nat
  takes : Entry
  dests : List Dest
  conv : Conv
  poison : Bool
  start : Nat
  blk : Nat
  atIssue : Bool
  held : Option Answer
  deriving DecidableEq, Repr

/-! ## Blocks -/

/-- A buffered local store (R31, R171): offset, bytes, and what goes into the granule tag word. -/
structure BufStore where
  off : Nat
  data : List Byte
  tag : Tag
  ws : BitVec 8
  poison : Bool
  deriving DecidableEq, Repr

/-- A chunk pushed to a write port, and the cycle at which its result is delivered (R279, R281). -/
structure Push where
  due : Nat
  port : BitVec 3
  pieces : List (Nat × List Byte)
  tag : Tag
  ws : BitVec 8
  poison : Bool
  deriving DecidableEq, Repr

/-- The forms that start a copy (R239 to R243). -/
inductive CopyForm where
  | tensor (out slice : Bool)
  | weave
  | peer
  | chain (last : Option ChainEnd)
  | fill (slot : Nat) (hint : Hint) (counted : Bool)
  deriving DecidableEq, Repr

/-- A copy command with the operands of its issue (R239, R240, R241, R229). -/
structure CopyCmd where
  form : CopyForm
  s1 : Word
  s2 : Word
  s3 : Word
  origin : Lanes
  ph : BitVec 12
  syl : Word
  deriving DecidableEq, Repr

/-- A block product as it will issue (R301, R302, R305, R311). -/
structure Product where
  due : Nat
  fmt : Prod
  op : BitVec 8
  alpha : Nat
  beta : Nat
  idx : Int
  selA : BitVec 2
  selB : BitVec 2
  imA : BitVec 2
  imB : BitVec 2
  deriving DecidableEq, Repr

/-- The kinds of destination that one context's effects reach in order (R214). -/
inductive Dst where
  | bank (site : Nat) | tile (site : Nat) | slice (k : Nat) | stack (k : Nat) | host | peer (d : Nat)
  | clasp (u : Nat) | seq | router (site : Nat) | context (c : Src) | copy (job : Nat)
  deriving DecidableEq, Repr

/-- A message or other event under way: who sent it, where it goes, whether it is a write that drains wait for,
whether it waits for the earlier writes of its sender, whether it holds a message-queue entry of its sender, and the event it
makes when served (R214, R215, R217, R238). -/
structure Work where
  src : Src
  dst : Dst
  write : Bool
  waits : Bool
  entry : Bool
  ev : Instr
  deriving DecidableEq, Repr

/-- A commit-issued command in a block's list (R32). -/
inductive CmdOp where
  | send (w : Work)
  | copy (c : CopyCmd)
  | evblk (slot : Nat)
  | mgo
  | mblk (p : Product)
  | spawn (off : Nat)
  | tend
  deriving DecidableEq, Repr

/-- A command with the address of its syllable, which a containment report names (Table 19.3). -/
structure Cmd where
  syl : Word
  op : CmdOp
  deriving DecidableEq, Repr

/-- What the last bundle of a block decided (R139, R178): a transfer names a target field of the hallmark or an address. -/
inductive Xfer where
  | fall
  | label (tsel : Bool)
  | to (target : Word)
  | eret
  deriving DecidableEq, Repr

/-- The running nest (R304 to R306). -/
structure Nest where
  table : Vector Word 8
  fmt : Prod
  op : BitVec 8
  pos : Nat
  next : Nat
  deriving DecidableEq, Repr

/-- The matrix engine of a context as it advances with the schedule clock (R303, R306): the running nest, the committed armed shadow
that waits for its end, the products queued, and the cycle of the latest product issued. -/
structure Engine where
  run : Option Nest
  after : Option Shadow
  queued : List Product
  last : Option Nat
  deriving DecidableEq, Repr

/-- A block instance (R29 to R31, R34, R169, R179). `entryRegs` and `ps` are the working registers and the partial-sum port at its entry,
`carry` the results then in flight, `early` its predecessor's commit cycle. `back` are the answers written since that a run from its entry
must not see yet, or that its own syllables awaited (R34, R35). -/
structure Block where
  seq : Nat
  entry : Word
  clk : Nat
  nb : Nat
  entryRegs : Regs
  ps : PSum
  carry : List Flight
  back : List Pend
  early : Nat
  engine : Engine
  rerun : Bool
  stores : List BufStore
  bytes : Nat
  ncmds : Nat
  cmds : List Cmd
  rets : List Pend
  reqs : List Work
  lf : Tag
  touched : List (BitVec 3)
  pushes : List Push
  digest : List (Word × List (Nat × Byte))
  stale : Option (Nat × BitVec 10)
  reserved : List Nat
  xfer : Xfer
  yields : Bool
  taint : Option Word
  deriving DecidableEq, Repr

/-- A block between its last bundle and its commit (R33): its working copies, the results that fall due by its commit
cycle, that cycle, its hallmark, where its context goes next and whether the hallmark lists that address. -/
structure Closing where
  blk : Block
  work : Regs
  inflight : List Flight
  commit : Nat
  hallAddr : Word
  hall : Word
  next : Word
  listed : Bool
  safe : Bool
  deriving DecidableEq, Repr

/-! ## Tasks -/

/-- The running task: its record as popped and as first popped, its partition, its digest (R248, R383), and for the re-execution of a verify run
the site and the digest of the first run (R386). -/
structure Task where
  words : RecWords
  first : RecWords
  part : BitVec 4
  digest : Word
  keeps : Bool
  again : Option (Nat × Word)
  deriving DecidableEq, Repr

/-- How a task ends: done or failed, as its counters count it (R257), or stopped with no counter decremented (R387). -/
inductive Ending where
  | done | failed | stopped
  deriving DecidableEq, Repr

/-- An asynchronous trap that waits for its boundary (R119); a copy fault names its copy. -/
inductive ATrap where
  | cancel (level : Nat)
  | wound (name : Word)
  | copyFault (job : Nat) (detail : BitVec 8) (addr : Word)
  deriving DecidableEq, Repr

/-- Why a context does not issue (Table 13.2). -/
inductive Freeze where
  | readPort | writePort | queue | clasp | phaser | pending | root | monitor | bank | scoreboard | drain | translation
  deriving DecidableEq, Repr

/-- An armed monitor (R236): the slot of its `mwait`, the element watched, and whether a write has been served there since. -/
structure Monitor where
  slot : Slot
  off : Nat
  len : Nat
  hit : Bool
  deriving DecidableEq, Repr

/-- What ended the monitor wait of a slot of the bundle about to issue: the element's bytes and the tag words of its granules as then read
(R237). -/
structure Woken where
  slot : Slot
  bytes : List Byte
  gs : List (Nat × Word)
  deriving DecidableEq, Repr

/-- The open chain of a context (R243, R244). -/
structure Chain where
  jobs : List Nat
  a : Nat
  b : Nat
  tries : Nat
  last : Option ChainEnd
  deriving DecidableEq, Repr

/-- A refusal that the next covering drain or fence reports (R209, R246). -/
structure Refusal_ where
  scope : Scope
  addr : Word
  deriving DecidableEq, Repr

/-- A record of the stall trace (R391). -/
structure Stall where
  cause : Freeze
  clk : Nat
  len : Nat
  deriving DecidableEq, Repr

/-- A held phaser wait of the bundle about to issue (R360, R364). -/
structure Hold where
  slot : Slot
  id : Nat
  remote : Bool
  limit : Option Nat
  answer : Option Word
  refused : Bool
  expired : Bool
  deriving DecidableEq, Repr

/-- A chunk that a read port has fetched ahead of its pop (R280): its port and number, its elements' bytes, the granules it read
with their tag words, and its poison. -/
structure Fetched where
  port : BitVec 3
  pos : Nat
  bytes : List Byte
  gs : List (Nat × Word)
  poison : Bool
  deriving DecidableEq, Repr

/-- What the latest advance of the schedule clock found: the results in flight and the working registers and partial-sum port before those then due
landed (R284). -/
structure Landed where
  flight : List Flight
  work : Regs
  ps : PSum
  deriving DecidableEq, Repr

/-- A hardware context (R23). `empties` counts the empty bundles of a taken transfer still to issue (R29), `bankLeft` the wall cycles for
which a bank conflict holds it (R191), `landed` what its clock found (R284). -/
structure Ctx where
  task : Option Task
  pc : Word
  sclk : Nat
  wclk : Word
  work : Regs
  comm : Regs
  cur : Block
  closings : List Closing
  empties : Nat
  seq : Nat
  flight : List Flight
  pend : List Pend
  saved : List Flight
  savedBlk : Option Block
  cause : Word
  tval : Word
  tsyl : Word
  tsched : Word
  ih : Bool
  heldBit : Bool
  part : BitVec 4
  drift : BitVec 32
  traps : List ATrap
  frozen : Option Freeze
  holds : List Hold
  monitor : Option Monitor
  woken : List Woken
  refusals : List Refusal_
  chain : Option Chain
  yieldMark : Bool
  preempt : Bool
  safe : Bool
  ending : Option Ending
  engine : Engine
  ps : PSum
  fetched : List Fetched
  halted : Bool
  stopReq : Bool
  steps : Nat
  guardMask : BitVec 256
  tracing : Bool
  stalls : List Stall
  stalled : Nat
  bankLeft : Nat
  landed : Option Landed
  deriving DecidableEq, Repr

/-! ## The tile -/

/-- A copy at work (R216, R239 to R244): which granule comes next, what the phaser still owes, and the ranges it holds; of a command of a chain
the Fletcher pair of what has landed, and the bits that the next granule will land with flipped (R243, log 81). -/
structure Job where
  id : Nat
  cid : Nat
  cmd : CopyCmd
  ph : PhMsg
  bytes : Nat
  added : Bool
  refused : Bool
  ranDst : List (Nat × Nat)
  ranSrc : List (Nat × Nat)
  pos : Nat
  units : Nat
  suspended : Bool
  chained : Bool
  rec_ : List Word
  sum : Nat × Nat
  flip : List Byte
  deriving DecidableEq, Repr

/-- The states of a line-cache block slot (R196). -/
inductive SlotSt where
  | empty | filling | ready | uncached
  deriving DecidableEq, Repr

/-- A block slot of the line cache (R196). -/
structure LineSlot where
  st : SlotSt
  owner : Nat
  base : Nat
  pasid : BitVec 20
  lines : Nat
  evict : Bool
  order : Nat
  job : Nat
  data : List Byte
  poison : List Bool
  deriving DecidableEq, Repr

/-- A 32-byte report record (R396). -/
abbrev Report := Vector Word 4

/-- The retirement states of a site (Table 9.3). -/
inductive Retire where
  | active | retiring | retired
  deriving DecidableEq, Repr

/-- A tile site: the state its contexts share (R105 Table 6.5 and the chapters it names). Of its present wall cycle it holds: that one is
under way, that a detection has struck in it, the touchstone faults whose crossings follow, the increments of each event counter and of the two
fault counts, the bank operations, the injection due, and each context's schedule cycle at its latest bundle. -/
structure Tile where
  share : BitVec 11
  tthr : BitVec 8
  lthr : BitVec 8
  tcnt : BitVec 8
  lcnt : BitVec 8
  iarm : Bool
  islot : BitVec 3
  idly : BitVec 16
  mode : BitVec 2
  offs : BitVec 6
  rwin : BitVec 32
  rlim : BitVec 16
  rcount : BitVec 16
  rtotal : BitVec 48
  rlog : Vector Word 8
  evsel : Vector (BitVec 17) 8
  evcnt : Vector (BitVec 48) 8
  bflags : BitVec 7
  shareCnt : Nat
  lastCtx : Nat
  wall : Nat
  winCnt : Nat
  crossed : Bool
  countCrossed : Bool
  level : BitVec 2
  replayLeft : Nat
  runLen : Nat
  injCnt : Nat
  injDue : Bool
  opened : Bool
  struck : Bool
  touches : Nat
  evInc : Vector Nat 8
  tcntInc : Nat
  lcntInc : Nat
  banks : List Nat
  latest : Vector (BitVec 32) 4
  curPart : Option (BitVec 4)
  curPool : Option Word
  scrub : BitVec 4
  jobs : List Job
  slots : Vector LineSlot 64
  chunks : List (Nat × Push)
  reports : List Report
  lost : BitVec 16
  retire : Retire
  deriving DecidableEq, Repr

/-! ## Units of the package -/

/-- A wait held at a phaser (R360). -/
structure PWait where
  src : Src
  id : Nat
  p : BitVec 32
  deriving DecidableEq, Repr

/-- A phaser: the fields of Table 17.1 and the waits it holds. -/
structure Phaser where
  phase : BitVec 32
  pend : BitVec 32
  smem : BitVec 16
  sig : BitVec 16
  snext : BitVec 16
  wmem : BitVec 16
  v : Bool
  err : Bool
  lerr : Bool
  scope : BitVec 3
  part : BitVec 4
  waits : List PWait
  deriving DecidableEq, Repr

/-- A reduction-tree entry of a router (Tables 13.8 and 13.9): its ports, the router cycles since its round's first arrival, at the root a
result that waits for the buffer, the buffer, and whether a committed `rrecv` consumes the result still to come (R292, R293). -/
structure Tree where
  cfg : Word
  owed : Vector (BitVec 8) 5
  ports : Vector (Option Packet) 5
  age : Nat
  stuck : Option Packet
  root : Option Packet
  claimed : Bool
  deriving DecidableEq, Repr

/-- A lock entry of a clasp unit (R321). -/
structure Lock where
  part : BitVec 4
  rank : Nat
  name : Word
  mode : BitVec 3
  count : Nat
  deriving DecidableEq, Repr

/-- A waiter entry of a clasp unit (R321). `acq`: the request was a `clacq`, which counts at its grant (R324). -/
structure Waiter where
  part : BitVec 4
  rank : Nat
  name : Word
  target : BitVec 3
  upg : Bool
  acq : Bool
  src : Src
  id : Nat
  deriving DecidableEq, Repr

/-- A standing wound (R327 to R329): the holder, the name, the requests merged into it, and the blocks counted once delivered. -/
structure Wound where
  part : BitVec 4
  rank : Nat
  name : Word
  by_ : List Nat
  counted : Option Nat
  graced : Bool
  deriving DecidableEq, Repr

/-- A line of a partition's error log. -/
structure ErrEnt where
  addr : Word
  reason : Nat
  deriving DecidableEq, Repr

/-- An entry of the checkpoint undo log: a line, its old contents and poison mark (R204). -/
structure Undo where
  line : Nat
  data : List Byte
  poison : Bool
  deriving DecidableEq, Repr

/-- A launch of a GRAPH packet (R269): its packet, the launches it starts after, and how far it is. -/
structure GraphEnt where
  packet : RecWords
  mask : Word
  started : Bool
  done : Bool
  deriving DecidableEq, Repr

/-- A packet started and not completed (R267): a LAUNCH that awaits its launch counter, or a GRAPH. -/
inductive Run where
  | launch (cnt : Nat)
  | graph (es : List GraphEnt)
  deriving DecidableEq, Repr

/-- A host command queue (R267 to R269): its configuration, its head and tail registers, the packets started, the next
address and the packets left of an INDIRECT, the packets prefetched of its 4 KiB window, and the WAIT that holds it. -/
structure HostQueue where
  configured : Bool
  pasid : BitVec 20
  base : Word
  size : Nat
  head : Nat
  tail : Nat
  halted : Bool
  running : List Run
  indirect : Option (Word × Nat)
  window : List RecWords
  waiting : Option RecWords
  deriving DecidableEq, Repr

/-- What is kept for an open job counter (R349): its index, its opening sequence, the faults charged, and its launches' ordinals
and digests. -/
structure JobTally where
  idx : Nat
  seq : Nat
  traps : Nat
  replays : Nat
  touches : Nat
  digests : List (Nat × Word)
  deriving DecidableEq, Repr

/-- A verify-mode task to run once more (R386): the rank of its record, the site of the first run and its digest. -/
structure Rerun where
  rank : Nat
  site : Nat
  digest : Word
  deriving DecidableEq, Repr

/-- What a saved task keeps beside its area (log 34): its first record, the site it leaves (R13), and of the block at which it resumes
what the area has no place for: its entry registers, its carry-ins, due no later than the commit before it, that commit's cycle, and the
answers that it does not see yet (R25, R35, R39, R170). -/
structure Kept where
  first : RecWords
  site : Nat
  regs : Regs
  carry : List Flight
  early : Nat
  back : List Pend
  deriving DecidableEq, Repr

/-- A partition (R18): descriptor words d0 to d15 (Table 16.3), queues, logs and accounts; `stopped` after a containment fault,
with the unwind step and the abort tokens sent (device and step), and whether a rollback is due (R204, R387). `saves` are the save areas in use, `kept` what the model keeps of a saved task beside its area. The attestation log
is a ring: bytes appended and bytes released since its head and tail registers were 0, and the SHA-384 of its latest record (R349).
`errOut` counts the entries of the error log that stand in its region (log 9). -/
structure Partition where
  d : Vector Word 16
  deficit : Nat
  queues : Vector (List RecWords) 4
  passed : Vector Nat 4
  errlog : List ErrEnt
  errOut : Nat
  undo : List Undo
  ckptValid : Bool
  step : Word
  stopped : Bool
  unwind : Option Word
  tokens : List (Nat × Word)
  rollback : Bool
  hq : List (Nat × HostQueue)
  saves : List Nat
  kept : List Kept
  attTail : Nat
  attHead : Nat
  attSeq : Nat
  attPrev : Nat
  group : List Nat
  jobSeq : Nat
  tally : List JobTally
  reruns : List Rerun
  deriving DecidableEq, Repr

/-- A launch whose ordinal is held (R250, R269, R436): its pool partition word, its task count, gang size, the next rank of its
pushes, determinism, placement, digest base and counters; `done` once its launch counter has completed. -/
structure Launch where
  ord : Nat
  part : BitVec 4
  pool : Word
  g : Nat
  gang : Nat
  n : Nat
  det : BitVec 2
  ordered : Bool
  slots : Word
  cnt : Vector Nat 4
  done : Bool
  deriving DecidableEq, Repr

/-- An image that the loader placed (R78, R102): partition, task entries and indirect classes. -/
structure Image where
  part : BitVec 4
  base : Nat
  size : Nat
  entries : List Word
  classes : List (List Word)
  deriving DecidableEq, Repr

/-- A TLB entry (R206): which TLB, the PASID, the page and its leaf. -/
structure TlbEnt where
  at_ : Nat
  pasid : BitVec 20
  base : Nat
  size : Nat
  leaf : Word
  deriving DecidableEq, Repr

/-- One direction of a Wale link (R348): its key, its nonce salt and its packet counter. -/
structure LinkDir where
  key : Nat
  salt : BitVec 32
  ctr : BitVec 64
  deriving DecidableEq, Repr

/-- A Wale link (R348, R350): its state, whether traffic waits for a re-key, its two directions, and of the keying under way the
ephemeral private key, the two keying messages, once the peer's signature has verified the derived bytes, and what this side has sent; `held`
counts the packets without an answer that wait for a re-key. -/
structure Link where
  st : BitVec 3
  rekey : Bool
  out : LinkDir
  inn : LinkDir
  priv : Nat
  mine : Option KeyMsg
  theirs : Option KeyMsg
  derived : Option Nat
  sent : List KeyStep
  held : Nat
  deriving DecidableEq, Repr

/-- A link that is down (R22, R350). -/
def Link.reset : Link := ⟨0, false, ⟨0, 0, 0⟩, ⟨0, 0, 0⟩, 0, none, none, none, [], 0⟩

/-- The fields of a cluster clock word (Table 18.5): the fused drift limit, the latest drift sample, the swallowed pulses of a group, the ageing
floor and the steps that the power controller demands. -/
structure ClClock where
  limit : BitVec 8
  drift : BitVec 8
  k : BitVec 6
  age : BitVec 6
  pwr : BitVec 6
  deriving DecidableEq, Repr

/-- The cluster clock word as system software reads it (Table 18.5); its reserved bits are zero. -/
def ClClock.word (c : ClClock) : Word :=
  (0 : BitVec 16) ++ c.limit ++ c.drift ++ (0 : BitVec 10) ++ c.k ++ (0 : BitVec 2) ++ c.age ++ (0 : BitVec 2) ++ c.pwr

/-- What moves next (log 6): a bundle of a tile, a bundle of one context, the n-th work item, several that arrive in one wall cycle, or an
event from outside. -/
inductive Turn where
  | bundle (site : Nat)
  | context (c : Src)
  | work (n : Nat)
  | together (ns : List Nat)
  | event (i : Instr)
  deriving DecidableEq, Repr

/-- An effect that takes place at the end of its bundle: of a stream form (R276), of `vdefer` or `vdrain` (R286). -/
inductive PortOp where
  | bind (k : BitVec 3) (b : Binding)
  | unbind (k : BitVec 3)
  | advance (k : BitVec 3) (n : Nat)
  | deferral (rs : List DeferRec)
  deriving DecidableEq, Repr

/-- What became of the syllable being issued: it issued; it broke an operand check at issue (R85); it raised another fault; it
waits with its bundle (R273); or its bundle's end has moved the context elsewhere. -/
inductive Fate where
  | issued | illegal | fault | frozen | moved
  deriving DecidableEq, Repr

/-- The issue latch (log 6): the address and the word of the syllable being issued, the address directly after its bundle, how
many buffered stores stood when the bundle began (R213), the identifier that came next then (R215), the effects due at its end, the
granules that its local loads have read, each with the address of its syllable (R191), and what became of the syllable. -/
structure Issue where
  addr : Word
  syl : Word
  after : Word
  nst : Nat
  ids : Nat
  late : List PortOp
  banks : List (Word × Nat)
  fate : Fate
  deriving DecidableEq, Repr

/-- The machine: the context and tile in focus, those parked, and the units they share. `pulses` counts the reference pulses that each cluster
has passed (R379), `ide` has a bit for each partition interface on which IDE is established (Table 1.4). -/
structure State where
  who : Src
  ctx : Ctx
  tile : Tile
  parkedCtx : List (Src × Ctx)
  parkedTile : List (Nat × Tile)
  mem : List Host.Cell
  gtags : List (Nat × Word)
  pois : List (Nat × Bool)
  lineKeys : List (Nat × Nat)
  keys : Vector Nat 17
  nextKey : Nat
  mesh : Vector (BitVec 16) 288
  parts : Vector Partition 16
  launches : List Launch
  nextOrd : Nat
  images : List Image
  locks : List Lock
  waiters : List Waiter
  wounds : List Wound
  phasers : List (Nat × Phaser)
  trees : List (Nat × Tree)
  tlb : List TlbEnt
  iommu : List (BitVec 20 × Nat × Option Nat)
  pasidBase : Nat
  frames : List (Nat × BitVec 8)
  distTables : List Nat
  links : Vector Link 12
  clusters : Vector ClClock 48
  pulses : Vector Nat 48
  cycles : Vector Nat 48
  booted : List Nat
  measures : List (List Byte)
  firmwareEnded : Bool
  ide : BitVec 16
  descAddr : Vector Nat 16
  tearing : List (BitVec 20)
  stackErr : Vector Nat 8
  windowLog : List Word
  work : List Work
  turns : List Turn
  iss : Issue
  nextId : Nat
  fresh : Nat
  deriving DecidableEq, Repr

/-! ## Stops -/

/-- Why a step stops with a fault. There is no constructor: the spec gives the machine an effect wherever it runs, since every fault of its
tables is a trap that is taken, a message, or a log entry (R114, R250, R258), so no step of the model stops. -/
inductive Fault where
  deriving DecidableEq, Repr

/-- Why a step is refused. -/
inductive Refusal where
  /-- Raised by a dispatch arm without a meaning. Safe: the machine stops. -/
  | notModelled (mnemonic : String)
  deriving DecidableEq, Repr

/-! ## The state after package reset -/

/-- A register after reset: 0, tag 0, no poison (log 1; R109 gives the same values at task start). -/
def XReg.reset : XReg := ⟨0, 0, false⟩
/-- A vector register after reset (log 1). -/
def VReg.reset : VReg := ⟨Vector.replicate 64 0, 0, false⟩
/-- A predicate after reset (log 1). -/
def PReg.reset : PReg := ⟨false, 0, false⟩
/-- An empty level of the loop stack (Table 6.4). -/
def Level.reset : Level := ⟨0, 0, 0, 0⟩
/-- An accumulator buffer of +0.0 (R109). -/
def Acc.reset : Acc := ⟨Vector.replicate 64 (Vector.replicate 64 0), 0, false⟩
/-- The empty nest shadow (R109). -/
def Shadow.reset : Shadow := ⟨.empty, Vector.replicate 8 0, .bf16, 0⟩

/-- The registers after reset: Tables 6.3 and 6.4 where they state a value, and log 1 elsewhere. -/
def Regs.reset : Regs where
  x := Vector.replicate 64 XReg.reset
  v := Vector.replicate 64 VReg.reset
  p := Vector.replicate 16 PReg.reset
  acc := []
  vl := 64
  es := Vector.replicate 4 0
  ws := 0
  epc := 0
  tvec := 0
  flags := 0
  fmask := 0
  dthr := 0x00001000
  vb := 0
  pb := 0
  loops := Vector.replicate 4 Level.reset
  rdr := false
  ports := Vector.replicate 8 none
  defer := []
  shadow := Shadow.reset
  tileW := []

/-- The partial-sum port before any delivery: exact zeros (R302). -/
def PSum.reset : PSum := ⟨.bf16, Vector.replicate 64 (Vector.replicate 64 0), 0, 0, 0, false⟩

/-- An idle matrix engine (R109). -/
def Engine.reset : Engine := ⟨none, none, [], none⟩

/-- A block about to issue its first bundle: entered at `entry` with schedule clock `clk` on the committed registers
`rs`, with carry-ins `carry` (R29, R31, R108). -/
def Block.fresh (seq : Nat) (entry : Word) (clk : Nat) (rs : Regs) (ps : PSum) (carry : List Flight) (early : Nat) (e : Engine)
    (rerun : Bool) : Block where
  seq := seq
  entry := entry
  clk := clk
  nb := 0
  entryRegs := rs
  ps := ps
  carry := carry
  back := []
  early := early
  engine := e
  rerun := rerun
  stores := []
  bytes := 0
  ncmds := 0
  cmds := []
  rets := []
  reqs := []
  lf := 0
  touched := []
  pushes := []
  digest := []
  stale := none
  reserved := []
  xfer := .fall
  yields := false
  taint := none

/-- An idle context with no task (R22, R23). -/
def Ctx.reset : Ctx where
  task := none
  pc := 0
  sclk := 0
  wclk := 0
  work := Regs.reset
  comm := Regs.reset
  cur := Block.fresh 0 0 0 Regs.reset PSum.reset [] 0 Engine.reset false
  closings := []
  empties := 0
  seq := 0
  flight := []
  pend := []
  saved := []
  savedBlk := none
  cause := 0
  tval := 0
  tsyl := 0
  tsched := 0
  ih := false
  heldBit := false
  part := 0
  drift := 0
  traps := []
  frozen := none
  holds := []
  monitor := none
  woken := []
  refusals := []
  chain := none
  yieldMark := false
  preempt := false
  safe := false
  ending := none
  engine := Engine.reset
  ps := PSum.reset
  fetched := []
  halted := false
  stopReq := false
  steps := 0
  guardMask := 0
  tracing := false
  stalls := []
  stalled := 0
  bankLeft := 0
  landed := none

/-- An empty block slot (R196). -/
def LineSlot.reset : LineSlot := ⟨.empty, 0, 0, 0, 0, false, 0, 0, [], []⟩

/-- A tile after reset: the values of Table 6.5; the share counter and the last context are log 2. -/
def Tile.reset : Tile where
  share := 64
  tthr := 3
  lthr := 3
  tcnt := 0
  lcnt := 0
  iarm := false
  islot := 0
  idly := 0
  mode := 0
  offs := 0
  rwin := 0x00100000
  rlim := 64
  rcount := 0
  rtotal := 0
  rlog := Vector.replicate 8 0
  evsel := Vector.replicate 8 0
  evcnt := Vector.replicate 8 0
  bflags := 0
  shareCnt := 0
  lastCtx := 2
  wall := 0
  winCnt := 0
  crossed := false
  countCrossed := false
  level := 0
  replayLeft := 0
  runLen := 0
  injCnt := 0
  injDue := false
  opened := false
  struck := false
  touches := 0
  evInc := Vector.replicate 8 0
  tcntInc := 0
  lcntInc := 0
  banks := []
  latest := Vector.replicate 4 0
  curPart := none
  curPool := none
  scrub := 0
  jobs := []
  slots := Vector.replicate 64 LineSlot.reset
  chunks := []
  reports := []
  lost := 0
  retire := .active

/-- A phaser in state unused (Table 17.1: every field resets to 0). -/
def Phaser.reset : Phaser := ⟨0, 0, 0, 0, 0, 0, false, false, false, 0, 0, []⟩

/-- An unconfigured reduction-tree entry (Tables 13.8 and 13.9). -/
def Tree.reset : Tree := ⟨0, Vector.replicate 5 0, Vector.replicate 5 none, 0, none, none, false⟩

/-- The descriptor after reset: Table 16.3. -/
def Partition.resetWords : Vector Word 16 :=
  #v[0, 0x0040000000000001, 0, 0, 0, 0, 0, 0x000121030B071F7F, 0, 0, 0, 0, 0, 0, 0, 0]

/-- A partition not configured (R22, Table 16.3). -/
def Partition.reset : Partition where
  d := Partition.resetWords
  deficit := 0
  queues := Vector.replicate 4 []
  passed := Vector.replicate 4 0
  errlog := []
  errOut := 0
  undo := []
  ckptValid := false
  step := 0
  stopped := false
  unwind := none
  tokens := []
  rollback := false
  hq := []
  saves := []
  kept := []
  attTail := 0
  attHead := 0
  attSeq := 0
  attPrev := 0
  group := []
  jobSeq := 0
  tally := []
  reruns := []

/-- The die of a site (R11). -/
def siteDie (s : Nat) : Nat := (if s / 16 < 9 then 0 else 2) + (if s % 16 < 8 then 0 else 1)

/-- Whether a site is one of the four fused spares of its die (R12; which they are: log 4). -/
def siteIsSpare (s : Nat) : Bool :=
  let b := Config.spareSite (siteDie s)
  b ≤ s && s < b + 4

/-- The enabled sites of a die below site `s`: its rank gives the logical number of R12. -/
def siteRank (s : Nat) : Nat :=
  ((List.range s).filter fun t => siteDie t == siteDie s && !siteIsSpare t).length

/-- The mesh-map entry of a site after package reset (R12, Table 16.2): state 1 for a spare, else its logical number. -/
def meshEntry (s : Nat) : BitVec 16 :=
  if siteIsSpare s then 0x2000 else BitVec.ofNat 16 (68 * siteDie s + siteRank s)

/-- A cluster clock word after package reset of a new part (Table 18.5): LIMIT is fused, every other field is 0. -/
def clusterReset (cl : Nat) : ClClock := ⟨Config.driftLimit cl, 0, 0, 0, 0⟩

/-- The mesh map after package reset (R12). -/
def meshReset : Vector (BitVec 16) 288 := Vector.ofFn fun i : Fin 288 => meshEntry i.val

/-- The machine after package reset (R22): only the root of trust runs, no partition is configured, the mesh map is
that of R12, every tile is in guard mode, no link is keyed; registers at the values of their field maps or log 1. -/
def State.reset : State where
  who := ⟨0, 0⟩
  ctx := Ctx.reset
  tile := Tile.reset
  parkedCtx := []
  parkedTile := []
  mem := []
  gtags := []
  pois := []
  lineKeys := []
  keys := Vector.replicate 17 0
  nextKey := 1
  mesh := meshReset
  parts := Vector.replicate 16 Partition.reset
  launches := []
  nextOrd := 0
  images := []
  locks := []
  waiters := []
  wounds := []
  phasers := []
  trees := []
  tlb := []
  iommu := []
  pasidBase := 0
  frames := []
  distTables := []
  links := Vector.replicate 12 Link.reset
  clusters := Vector.ofFn fun i : Fin 48 => clusterReset i.val
  pulses := Vector.replicate 48 0
  cycles := Vector.replicate 48 0
  booted := []
  measures := []
  firmwareEnded := false
  ide := 0
  descAddr := Vector.replicate 16 0
  tearing := []
  stackErr := Vector.replicate 8 0
  windowLog := []
  work := []
  turns := []
  iss := ⟨0, 0, 0, 0, 1, [], [], .issued⟩
  nextId := 1
  fresh := 0

end Sys2Proof.Machine
end

