-- ==== Sys2Proof/Machine/Memory.lean ====
section
/-! DEFINITION. Memory as one canonical list, its homes, granule tag words, poison marks, keys, the mesh map and translation
(10_memories.md, 16_system_tables.md). -/

namespace Sys2Proof

/-- The number of a home: one address range of 2^64 bytes each. -/
def Home.number : Home → Nat
  | .dram => 0
  | .host => 1
  | .slice k => 16 + k
  | .pool site => 1024 + site
  | .custodian site => 2048 + site
  | .peerMem d => 4096 + d
  | .peerPool d l => 8192 + 4096 * d + l

/-- The key of a byte: its home and its offset there. -/
def Home.key (h : Home) (off : Nat) : Nat := h.number * 2 ^ 64 + off

/-- The scratchpad that a context's local space reaches. -/
def Src.pad (c : Src) : Home := if c.cid = 3 then .custodian c.site else .pool c.site

end Sys2Proof

namespace Sys2Proof.Machine

/-! ## Canonical lists -/

/-- The value of a key in a canonical list; `d` is what an unlisted key reads as. -/
def clGet {α : Type} (d : α) : List (Nat × α) → Nat → α
  | [], _ => d
  | (k, v) :: r, n => if n < k then d else if n = k then v else clGet d r n

/-- Writing a key: keys stay strictly rising, and no entry equals the default. -/
def clSet {α : Type} [DecidableEq α] (d : α) : List (Nat × α) → Nat → α → List (Nat × α)
  | [], n, v => if v = d then [] else [(n, v)]
  | (k, w) :: r, n, v =>
    if n < k then (if v = d then (k, w) :: r else (n, v) :: (k, w) :: r)
    else if n = k then (if v = d then r else (k, v) :: r)
    else (k, w) :: clSet d r n v

/-- The canonical form: keys strictly rising, no entry equal to the default. -/
def clWf {α : Type} [DecidableEq α] (d : α) : List (Nat × α) → Bool
  | [] => true
  | [(_, v)] => v != d
  | (k, v) :: (k', w) :: r => v != d && k < k' && clWf d ((k', w) :: r)

/-- The canonical form of memory; an unlisted byte reads 0 (log 3). -/
def Memory.wf (m : List Host.Cell) : Bool := clWf (0 : Byte) m

/-! ## Homes and bytes -/

/-- The stored byte of a home. -/
def State.rawByte (s : State) (h : Home) (off : Nat) : Byte := clGet 0 s.mem (h.key off)

/-- Storing one byte. -/
def State.setByte (s : State) (h : Home) (off : Nat) (b : Byte) : State := { s with mem := clSet 0 s.mem (h.key off) b }

/-- Storing bytes at ascending offsets. -/
def State.setBytes (s : State) (h : Home) : Nat → List Byte → State
  | _, [] => s
  | off, b :: bs => (s.setByte h off b).setBytes h (off + 1) bs

/-- A little-endian number of bytes (R3). -/
def leNat : List Byte → Nat
  | [] => 0
  | b :: bs => b.toNat + 256 * leNat bs

/-- The `n` bytes of a number, least significant first (R3). -/
def leBytes : Nat → Nat → List Byte
  | 0, _ => []
  | n + 1, v => BitVec.ofNat 8 v :: leBytes n (v / 256)

/-! ## Frame owners and keys (R203, R342, R347) -/

/-- The owner byte of the 2 MiB frame of a physical address: 0 to 15 a partition, 0x10 the system, any other unowned. The
list holds the bytes of owned frames; a frame not listed is unowned (log 5). -/
def State.frameOwner (s : State) (pa : Nat) : BitVec 8 := clGet 0xFF s.frames (pa / 2 ^ 21)

/-- The number of the key under which a frame is read and written: that of its owner. -/
def State.frameKey (s : State) (pa : Nat) : Nat :=
  let o := (s.frameOwner pa).toNat
  if o ≤ 16 then s.keys.toArray.getD o 0 else 0

/-- The key under which a line of device memory was last written. -/
def State.lineKey (s : State) (line : Nat) : Nat := clGet 0 s.lineKeys line

/-- A byte of device memory as its owner reads it: under a regenerated key it is not the old plaintext (R347, log 8). -/
def State.dramByte (s : State) (pa : Nat) : Byte :=
  if s.lineKey (pa / 64) = s.frameKey pa then s.rawByte .dram pa
  else Config.staleKeyByte (s.frameKey pa * 2 ^ 64 + pa)

/-- The byte of a home as an accessor reads it. -/
def State.byte (s : State) (h : Home) (off : Nat) : Byte :=
  match h with
  | .dram => s.dramByte off
  | _ => s.rawByte h off

/-- `n` bytes from an offset on. -/
def State.bytes (s : State) (h : Home) (off : Nat) : Nat → List Byte
  | 0 => []
  | n + 1 => s.byte h off :: s.bytes h (off + 1) n

/-- A little-endian word of `n` bytes. -/
def State.word (s : State) (h : Home) (off n : Nat) : Nat := leNat (s.bytes h off n)

/-- A line of device memory brought under its frame's present key before a write (R203): what it then holds is what it read. -/
def State.rekeyLine (s : State) (line : Nat) : State :=
  let k := s.frameKey (64 * line)
  if s.lineKey line = k then s
  else
    let old := s.bytes .dram (64 * line) 64
    { s.setBytes .dram (64 * line) old with lineKeys := clSet 0 s.lineKeys line k }

/-- Lines that `n` bytes from `off` on touch. -/
def linesOf (off n : Nat) : List Nat := if n = 0 then [] else (List.range ((off + n - 1) / 64 + 1 - off / 64)).map (off / 64 + ·)

/-- Writing bytes at a home; a line of device memory is written under its frame's key. -/
def State.putBytes (s : State) (h : Home) (off : Nat) (bs : List Byte) : State :=
  match h with
  | .dram => ((linesOf off bs.length).foldl State.rekeyLine s).setBytes .dram off bs
  | _ => s.setBytes h off bs

/-- The cells of a home from an offset up to another removed, with their tag words. -/
def State.wipe (s : State) (h : Home) (lo hi : Nat) : State :=
  let a := h.key lo
  let b := h.key hi
  { s with
    mem := s.mem.filter fun m => !(decide (a ≤ m.1) && decide (m.1 < b))
    gtags := s.gtags.filter fun m => !(decide (a / 256 ≤ m.1) && decide (m.1 < b / 256)) }

/-- A range of device memory at zero under its frames' present keys: the reset values of what stands there (R7). -/
def State.zeroDram (s : State) (off n : Nat) : State :=
  let u := s.wipe .dram off (off + n)
  let ls := linesOf off n
  let lo := ls.headD 0
  let hi := ls.getLastD 0
  let under := ls.filterMap fun k => if u.frameKey (64 * k) = 0 then none else some (k, u.frameKey (64 * k))
  { u with lineKeys := (u.lineKeys.filter fun e => e.1 < lo) ++ under ++ u.lineKeys.filter fun e => hi < e.1 }

/-! ## Poison marks of 64-byte units (R199, R202) -/

/-- The mark of the unit that holds an offset. -/
def State.unitPoison (s : State) (h : Home) (off : Nat) : Bool := clGet false s.pois (h.key off / 64)

/-- Any of `n` bytes from `off` on lies in a marked unit. -/
def State.unitsPoison (s : State) (h : Home) (off n : Nat) : Bool :=
  (linesOf off n).any fun u => s.unitPoison h (64 * u)

/-- Setting a mark. -/
def State.setUnit (s : State) (h : Home) (off : Nat) (b : Bool) : State :=
  { s with pois := clSet false s.pois (h.key off / 64) b }

/-- A write of `n` bytes: poisoned data marks every unit it touches; one write of unpoisoned data that covers all 64 bytes
of a unit clears its mark; a partial one leaves it. -/
def State.markUnits (s : State) (h : Home) (off n : Nat) (poison : Bool) : State :=
  (linesOf off n).foldl (fun s u =>
    if poison then s.setUnit h (64 * u) true
    else if off ≤ 64 * u && 64 * u + 64 ≤ off + n then s.setUnit h (64 * u) false else s) s

/-! ## Granule tag words (Table 10.2) -/

/-- The key of a granule. -/
def granuleKey (h : Home) (off : Nat) : Nat := h.key off / 256

/-- The state of a site: the tile in focus, a parked tile, or a tile still as reset left it. -/
def State.getTile (s : State) (site : Nat) : Tile :=
  if site = s.who.site then s.tile
  else match s.parkedTile.find? (·.1 = site) with
    | some (_, t) => t
    | none => Tile.reset

/-- Writing a site's state. -/
def State.setTile (s : State) (site : Nat) (t : Tile) : State :=
  if site = s.who.site then { s with tile := t }
  else { s with parkedTile := (site, t) :: s.parkedTile.filter (·.1 != site) }

/-- The tag word of a granule just scrubbed: zero but for PART, the partition for which its pool was scrubbed (R190). -/
def State.scrubbed (s : State) (h : Home) : Word :=
  match h with
  | .pool site => (s.getTile site).scrub.setWidth 64 <<< 51
  | _ => 0

/-- The tag word of the granule that holds an offset. A word is held as its difference from a scrubbed granule's. -/
def State.tagWord (s : State) (h : Home) (off : Nat) : Word := clGet 0 s.gtags (granuleKey h off) ^^^ s.scrubbed h

/-- Writing a tag word. -/
def State.setTagWord (s : State) (h : Home) (off : Nat) (w : Word) : State :=
  { s with gtags := clSet 0 s.gtags (granuleKey h off) (w ^^^ s.scrubbed h) }

/-- A tag word of its fields. -/
def mkTagWord (part : BitVec 4) (poison : Bool) (writer : BitVec 10) (stamp : BitVec 8) (tag : Tag) : Word :=
  (0 : BitVec 9) ++ part ++ BitVec.ofBool poison ++ writer ++ stamp ++ tag

/-- PART of a tag word. -/
def tagPart (w : Word) : BitVec 4 := w.extractLsb' 51 4
/-- POISON of a tag word. -/
def tagPoison (w : Word) : Bool := w.getLsbD 50
/-- WRITER of a tag word. -/
def tagWriter (w : Word) : BitVec 10 := w.extractLsb' 40 10
/-- STAMP of a tag word. -/
def tagStamp (w : Word) : BitVec 8 := w.extractLsb' 32 8
/-- TAG of a tag word. -/
def tagTag (w : Word) : Tag := w.extractLsb' 0 32

/-- The granule offsets that `n` bytes from `off` on touch, ascending. -/
def granulesOf (off n : Nat) : List Nat :=
  if n = 0 then [] else (List.range ((off + n - 1) / 256 + 1 - off / 256)).map fun i => 256 * (off / 256 + i)

/-- A write of bytes to a scratchpad with the tag word of every granule it touches, as one bank operation (R171, R174). -/
def State.putGranules (s : State) (h : Home) (off : Nat) (bs : List Byte) (w : Word) : State :=
  (granulesOf off bs.length).foldl (fun s g => s.setTagWord h g w) (s.putBytes h off bs)

/-! ## The pool (R188 to R190) -/

/-- Accumulators allotted to a context by a pool partition word; the custodian holds none. -/
def poolAcc (w : Word) (cid : Nat) : Nat :=
  match cid with
  | 0 => (w.extractLsb' 0 4).toNat
  | 1 => (w.extractLsb' 4 4).toNat
  | 2 => (w.extractLsb' 8 4).toNat
  | _ => 0

/-- The line cache, in 64 KiB units (Table 10.1). -/
def poolLC (w : Word) : Nat := (w.extractLsb' 16 4).toNat

/-- The conditions of R188 on a pool partition word. -/
def poolOk (w : Word) : Bool :=
  poolAcc w 0 + poolAcc w 1 + poolAcc w 2 ≤ 8 && poolLC w ≤ 8 && w.extractLsb' 20 44 == 0 && w.extractLsb' 12 4 == 0

/-- The scratchpad size of a pool partition word: 3,968 KiB less the accumulator area and the line cache (R189). -/
def poolSize (w : Word) : Nat :=
  let n := poolAcc w 0 + poolAcc w 1 + poolAcc w 2
  3968 * 1024 - 64 * 1024 * ((n + 1) / 2) - 64 * 1024 * poolLC w

/-- The scratchpad size of a home: by the tile's current pool partition word; 64 KiB for a custodian (R189, R190). -/
def State.padSize (s : State) (h : Home) : Nat :=
  match h with
  | .pool site => poolSize ((s.getTile site).curPool.getD 0)
  | .custodian _ => 64 * 1024
  | _ => 2 ^ 22

/-! ## The mesh map (R12, R343) -/

/-- STATE of a mesh-map entry. -/
def meshState (e : BitVec 16) : Nat := (e.extractLsb' 13 3).toNat
/-- LOGICAL of a mesh-map entry. -/
def meshLogical (e : BitVec 16) : Nat := (e.extractLsb' 0 9).toNat

/-- The mesh-map entry of a site. -/
def State.meshAt (s : State) (site : Nat) : BitVec 16 := s.mesh.toArray.getD site 0x8000

/-- The active site that a logical number names (R12); none for a number from 272 up or one whose entry names no active site. -/
def State.siteOf (s : State) (logical : Nat) : Option Nat :=
  if logical < 272 then
    (List.range 288).find? fun i => meshState (s.meshAt i) == 0 && meshLogical (s.meshAt i) == logical
  else none

/-- The logical number of an active site. -/
def State.logicalOf (s : State) (site : Nat) : Option Nat :=
  if site < 288 && meshState (s.meshAt site) = 0 then some (meshLogical (s.meshAt site)) else none

/-! ## Partitions -/

/-- A partition's record. -/
def State.part (s : State) (p : BitVec 4) : Partition := s.parts[p.toNat]'(p.isLt)

/-- Writing a partition's record. -/
def State.setPart (s : State) (p : BitVec 4) (x : Partition) : State := { s with parts := s.parts.set p.toNat x p.isLt }

/-- The reasons that an error-log line shows; the spec names no codes (DESIGN CHOICE, log 9): 1 refusal at a destination, 2 error
response at issue, 3 fault of a copy or fill, 4 refusal at a phaser, 5 discarded reduction packet, 8 queue halt, 9 refused push,
10 refused configuration; a record failed at its pop for 11 its CODE, 12 a reserved bit, 13 its PART, or 14 its restore; 15 a save area not
owned; from 16 on the grounds of a refused launch (`State.launchGrounds`). -/
abbrev ErrReason := Nat

/-- A line of a partition's error log (R197). -/
def State.logError (s : State) (p : BitVec 4) (addr : Word) (reason : ErrReason) : State :=
  let x := s.part p
  s.setPart p { x with errlog := x.errlog ++ [⟨addr, reason⟩] }

/-- A word of a partition's descriptor (Table 16.3). -/
def Partition.word (x : Partition) (i : Nat) : Word := x.d.toArray.getD i 0
/-- d0.V. -/
def Partition.valid (x : Partition) : Bool := (x.word 0).getLsbD 63
/-- d0.CMODE: 0 checkpoint, 1 abort-token. -/
def Partition.tokenMode (x : Partition) : Bool := (x.word 0).getLsbD 62
/-- d0.TDISP. -/
def Partition.tdisp (x : Partition) : Bool := (x.word 0).getLsbD 61
/-- d0.PASID. -/
def Partition.pasid (x : Partition) : BitVec 20 := (x.word 0).extractLsb' 0 20
/-- d1.GRACE. -/
def Partition.grace (x : Partition) : Nat := ((x.word 1).extractLsb' 48 16).toNat
/-- d1.AG. -/
def Partition.ag (x : Partition) : Nat := ((x.word 1).extractLsb' 32 16).toNat
/-- d1.SHARE. -/
def Partition.share (x : Partition) : Nat := ((x.word 1).extractLsb' 0 16).toNat
/-- TILES: whether the set names a logical tile. -/
def Partition.hasTile (x : Partition) (l : Nat) : Bool := (x.word (2 + l / 64)).getLsbD (l % 64)
/-- SLICES: whether a slice is allotted. -/
def Partition.hasSlice (x : Partition) (k : Nat) : Bool := k < 24 && (x.word 9).getLsbD (32 + k)

/-! ## Translation (R205, R206, R338 to R340) -/

/-- Target of a page (Table 16.1). -/
def pteTarget (e : Word) : Nat := (e.extractLsb' 52 2).toNat
/-- PEER of a page-table entry. -/
def ptePeer (e : Word) : Nat := (e.extractLsb' 54 6).toNat
/-- FRAME as an address. -/
def pteFrame (e : Word) : Nat := (e.extractLsb' 12 40).toNat * 4096
/-- TYPE: 0 normal, 1 uncached, 2 device. -/
def pteType (e : Word) : Nat := (e.extractLsb' 6 2).toNat
/-- V. -/
def pteV (e : Word) : Bool := e.getLsbD 0
/-- R. -/
def pteR (e : Word) : Bool := e.getLsbD 1
/-- W. -/
def pteW (e : Word) : Bool := e.getLsbD 2
/-- X. -/
def pteX (e : Word) : Bool := e.getLsbD 3
/-- LEAF. -/
def pteLeaf (e : Word) : Bool := e.getLsbD 4
/-- PS. -/
def ptePS (e : Word) : Bool := e.getLsbD 5
/-- E. -/
def pteE (e : Word) : Bool := e.getLsbD 8

/-- The conditions of R339 on a valid entry at the level that indexes from bit `sh`: none of its faults. -/
def pteOk (e : Word) (sh : Nat) : Bool :=
  pteV e && e.extractLsb' 60 4 == 0 && e.extractLsb' 9 3 == 0 && pteType e != 3 && pteTarget e != 3
    && (pteTarget e == 2 || ptePeer e == 0)
    && (if pteLeaf e then sh ≤ 30 else sh != 12 && e &&& 0xFFF0000000000FEE == 0)
    && (!ptePS e || (pteLeaf e && sh == 12))
    && !(pteX e && (pteR e || pteW e))

/-- The page size of a leaf as a power of two. -/
def leafBits (e : Word) (sh : Nat) : Nat := if sh = 12 && ptePS e then 16 else sh

/-- The sixteen entries of the group of a 64 KiB leaf are identical (R339). -/
def State.groupSame (s : State) (table idx : Nat) (e : Word) : Bool :=
  (List.range 16).all fun i => s.word .dram (table + 8 * (idx / 16 * 16 + i)) 8 == e.toNat

/-- A walk down the levels that remain (R338, R339): the leaf and its page size, or none for the translation fault. -/
def State.walk (s : State) (va : Nat) : List Nat → Nat → Option (Word × Nat)
  | [], _ => none
  | sh :: rest, table =>
    let idx := va / 2 ^ sh % 512
    let e := BitVec.ofNat 64 (s.word .dram (table + 8 * idx) 8)
    if !pteOk e sh then none
    else if pteLeaf e then
      let b := leafBits e sh
      if pteFrame e % 2 ^ b != 0 then none
      else if b = 16 && !s.groupSame table idx e then none
      else some (e, b)
    else s.walk va rest (pteFrame e)

/-- The root table of a PASID whose entry names partition `p` (R340). -/
def State.pasidRoot (s : State) (pasid : BitVec 20) (p : BitVec 4) : Option Nat :=
  let a := s.pasidBase + 16 * pasid.toNat
  let w0 := BitVec.ofNat 64 (s.word .dram a 8)
  let w1 := s.word .dram (a + 8) 8
  if w0.getLsbD 0 && w0.extractLsb' 1 4 == p && w0 &&& 0xFFF0000000000FE0 == 0 && w1 == 0
  then some (pteFrame w0) else none

/-- The canonical form of a global address: bits 63:57 copy bit 56 (R205). -/
def canonical (va : Word) : Bool := va == (va.setWidth 57).signExtend 64

/-- The TLB entry of a site that covers an address; `at_` is a site's micro-TLB, or 288 and 289 for the shared ones (R206). -/
def State.tlbHit (s : State) (site : Nat) (pasid : BitVec 20) (va : Nat) : Option (Word × Nat) :=
  (s.tlb.find? fun t => (t.at_ == site || t.at_ == 288 + siteDie site % 2) && t.pasid == pasid && va / 2 ^ t.size == t.base / 2 ^ t.size).map
    fun t => (t.leaf, t.size)

/-- The leaf and page size of a virtual address for a context's accesses: a TLB entry, or a walk (R206, R338). -/
def State.leafOf (s : State) (site : Nat) (pasid : BitVec 20) (p : BitVec 4) (va : Word) : Option (Word × Nat) :=
  if canonical va then
    let v := (va.setWidth 57).toNat
    match s.tlbHit site pasid v with
    | some l => some l
    | none => (s.pasidRoot pasid p).bind fun root => s.walk v [48, 39, 30, 21, 12] root
  else none

/-- Where a translated address lands: the home, the offset there, and the leaf. -/
structure Place where
  home : Home
  off : Nat
  leaf : Word
  deriving DecidableEq, Repr

/-- The home that a leaf gives an address: device memory, host or a peer device (R210). -/
def placeOf (leaf : Word) (bits : Nat) (va : Word) : Place :=
  let pa := pteFrame leaf + (va.setWidth 57).toNat % 2 ^ bits
  match pteTarget leaf with
  | 0 => ⟨.dram, pa, leaf⟩
  | 1 => ⟨.host, pa, leaf⟩
  | _ => ⟨.peerMem (ptePeer leaf), pa, leaf⟩

/-- What an access needs of its page (R339). -/
inductive Need where
  | read | write | both | fetch
  deriving DecidableEq, Repr

/-- Whether a leaf permits an access. -/
def Need.allowed (n : Need) (e : Word) : Bool :=
  match n with
  | .read => pteR e
  | .write => pteW e
  | .both => pteR e && pteW e
  | .fetch => pteX e

/-- The detail of a cause that distinguishes accesses (R435): 1 read, 2 write or read-modify-write, 3 fetch. -/
def Need.detail : Need → BitVec 8
  | .read => 1
  | .write | .both => 2
  | .fetch => 3

/-- The outcome of a translation: a place, the translation fault (cause 0x08), or the permission fault (cause 0x09). -/
inductive Translated where
  | ok (p : Place)
  | noPage
  | denied
  deriving DecidableEq, Repr

/-- A host bus address as ATS translates it under a PASID, by pages of 4 KiB; none where the IOMMU refuses (R339, R341, log 68). -/
def State.ats (s : State) (pasid : BitVec 20) (a : Nat) : Option Nat :=
  match s.iommu.find? fun e => e.1 == pasid && e.2.1 == a / 4096 with
  | some e => e.2.2.map fun f => 4096 * f + a % 4096
  | none => some a

/-- Translating one address under a PASID for partition `p` at a site (R206, R339 to R341). -/
def State.translateUnder (s : State) (site : Nat) (pasid : BitVec 20) (p : BitVec 4) (va : Word) (n : Need) : Translated :=
  match s.leafOf site pasid p va with
  | none => .noPage
  | some (leaf, b) =>
    if n.allowed leaf then
      let pl := placeOf leaf b va
      if pl.home = .host then match s.ats pasid pl.off with
        | some a => .ok { pl with off := a }
        | none => .noPage
      else .ok pl
    else .denied

/-- Translating one address of a context of partition `p` at a site: under the PASID of its descriptor (R340). -/
def State.translate (s : State) (site : Nat) (p : BitVec 4) (va : Word) (n : Need) : Translated :=
  s.translateUnder site (s.part p).pasid p va n

/-- Whether a frame of device memory refuses an accessor (R203): a frame of another partition, a system-owned frame to a
program context, an unowned frame, and a page whose E does not match the owner. -/
def State.frameRefuses (s : State) (pa : Nat) (p : BitVec 4) (cid : Nat) (e : Bool) : Bool :=
  let o := (s.frameOwner pa).toNat
  if 0xC000000000 ≤ pa then true
  else if o < 16 then !(o == p.toNat && e)
  else if o = 16 then !(cid == 3 && !e)
  else true

/-! ## The way to a peer device (R348, R350) -/

/-- The link that carries packets to a peer device (log 55). -/
def State.peerLink (s : State) (d : Nat) : Link := s.links.toArray.getD (Config.linkOf d % 12) Link.reset

/-- IDE is established on a partition's interface (Table 1.4). -/
def State.ideOn (s : State) (p : BitVec 4) : Bool := s.ide.getLsbD p.toNat

/-- The root of trust has measured the hub firmware and the custodian firmware (R350, step 1): system software's steps of bring-up come behind that
(log 88). -/
def State.firmwareUp (s : State) : Bool := s.booted.contains 0 && s.booted.contains 1

/-- A home can be reached by a partition: only a link that is up carries traffic to a peer (R350), and the host link none for an interface on
which IDE is not established (R20, R21). -/
def State.reaches (s : State) (p : BitVec 4) (h : Home) : Bool :=
  match h with
  | .peerMem d | .peerPool d _ => (s.peerLink d).st == 3
  | .host => s.ideOn p
  | _ => true

/-- Traffic to a home waits while its link is re-keyed (R348). -/
def State.rekeying (s : State) (h : Home) : Bool :=
  match h with
  | .peerMem d | .peerPool d _ => (s.peerLink d).rekey
  | _ => false

/-- A direction with one more packet counted, which its nonce holds. -/
def LinkDir.count (d : LinkDir) : LinkDir := { d with ctr := d.ctr + 1 }

/-- A direction's counter comes near 2^48, before which the link re-keys (R348). -/
def LinkDir.spent (d : LinkDir) : Bool := 2 ^ 48 ≤ d.ctr.toNat + 2

/-- A packet sent on a link (R348): its direction's counter counts it; one sent while the link re-keys waits for the new keys. -/
def Link.carry (l : Link) : Link :=
  if l.rekey then { l with held := l.held + 1 } else { l with out := l.out.count, rekey := l.out.spent }

/-- A packet received on a link (R348). -/
def Link.receive (l : Link) : Link := { l with inn := l.inn.count, rekey := l.rekey || l.inn.spent }

/-- A change of the link that leads to a peer device. -/
def State.modPeerLink (s : State) (d : Nat) (f : Link → Link) : State :=
  { s with links := s.links.setIfInBounds (Config.linkOf d % 12) (f (s.peerLink d)) }

/-- A packet sent to a home goes over its link. -/
def State.carried (s : State) (h : Home) : State :=
  match h with
  | .peerMem d | .peerPool d _ => s.modPeerLink d Link.carry
  | _ => s

/-- What comes back from a home comes over its link. -/
def State.received (s : State) (h : Home) : State :=
  match h with
  | .peerMem d | .peerPool d _ => s.modPeerLink d Link.receive
  | _ => s

/-- A request to a home and what comes back, each a packet on the link of a home at a peer (R348, log 55). -/
def State.asked (s : State) (h : Home) : State := (s.carried h).received h

/-- Whether a place refuses an accessor: a frame (R203), or a link that is not up (R350). -/
def State.placeRefuses (s : State) (p : Place) (part : BitVec 4) (cid : Nat) : Bool :=
  p.home = .dram && s.frameRefuses p.off part cid (pteE p.leaf) || !s.reaches part p.home

end Sys2Proof.Machine
end

