-- ==== Sys2Proof/Machine/Sums.lean ====
section
/-! DEFINITION. Partial sums and the scaled accumulation of `scacc` (03_numbers.md R56 to R58, 14_matrix_tables.md R312). -/

namespace Sys2Proof.Machine

/-- The exact value of a partial-sum element (Table 3.11): FP32 in the low 32 bits, a 40-bit integer, or a 40-bit number with
12 fraction bits. -/
def psumExact (fmt : Prod) (v : BitVec 40) : Ex :=
  match fmt with
  | .bf16 | .f8e4 | .f8e5 => Fmt.f32.exact (v.setWidth 32).toNat
  | .i8 => Ex.ofInt v.toInt 0 false
  | .i4x => Ex.ofInt v.toInt (-12) false

/-- One element of `scacc` (R58, R312): acc + psum × 2^e, exact, rounded once to FP32; the encoding and its flags. -/
def scaleElem (fmt : Prod) (rnd : Rnd) (sat : Bool) (i j : Nat) (acc : Lane) (v : BitVec 40) (e : Int) : Lane × Flags :=
  let (x, f1) := Ex.add false (Fmt.f32.exact acc.toNat) ((psumExact fmt v).scale e)
  let (w, f2) := Fmt.f32.round rnd false sat i j x
  (BitVec.ofNat 32 w, f1 ||| f2 ||| Flags.when (Fmt.f32.isSignalling acc.toNat) .NV)

/-- The signed 8-bit exponent of a scale lane (R312). -/
def scaleExp (w : Lane) : Int := (w.setWidth 8).toInt

/-- `scacc` over the whole accumulator (R312). -/
def scaleGrid (ps : PSum) (ver vec : Lanes) (rnd : Rnd) (sat : Bool) (g : Grid) : Vector (Vector (Lane × Flags) 64) 64 :=
  Vector.ofFn fun i : Fin 64 => Vector.ofFn fun j : Fin 64 =>
    scaleElem ps.fmt rnd sat (i.val % 8) (j.val % 8) g[i][j] ps.vals[i][j] (scaleExp ver[i] + scaleExp vec[j])

/-- The elements of a grid of results. -/
def gridVals (g : Vector (Vector (Lane × Flags) 64) 64) : Grid := g.map fun r => r.map (·.1)

/-- The OR of the flags of a grid of results. -/
def gridFlags (g : Vector (Vector (Lane × Flags) 64) 64) : Flags :=
  g.foldl (fun f r => r.foldl (fun f x => f ||| x.2) f) 0

end Sys2Proof.Machine
end

