-- ==== Sys2Proof/Machine/Ops.lean ====
section
/-! DEFINITION. The named operations over registers, results in flight, pending results, reports and contexts, with the
taking of an exception and the return from one (02_elastic_time.md, 06_register_inventory.md). -/

namespace Sys2Proof.Machine

/-! ## Registers (R105, R106) -/

/-- The physical vector register of a name (R106). -/
def Regs.physV (r : Regs) (n : BitVec 6) : BitVec 6 :=
  if n.getLsbD 5 then (1 : BitVec 1) ++ (n.extractLsb' 0 5 + r.vb) else n

/-- The physical predicate of a name (R106). -/
def Regs.physP (r : Regs) (n : BitVec 4) : BitVec 4 :=
  if n.getLsbD 3 then (1 : BitVec 1) ++ (n.extractLsb' 0 3 + r.pb) else n

/-- The name under which a physical vector register is read. -/
def Regs.nameV (r : Regs) (q : BitVec 6) : BitVec 6 :=
  if q.getLsbD 5 then (1 : BitVec 1) ++ (q.extractLsb' 0 5 - r.vb) else q

/-- The name under which a physical predicate is read. -/
def Regs.nameP (r : Regs) (q : BitVec 4) : BitVec 4 :=
  if q.getLsbD 3 then (1 : BitVec 1) ++ (q.extractLsb' 0 3 - r.pb) else q

/-- Reading an x register: x0 reads 0 with tag 0 and no poison (R106). -/
def Regs.getX (r : Regs) (n : BitVec 6) : XReg := if n = 0 then XReg.reset else r.x[n.toNat]'(n.isLt)

/-- Reading a v register by name. -/
def Regs.getV (r : Regs) (n : BitVec 6) : VReg := r.v[(r.physV n).toNat]'((r.physV n).isLt)

/-- Reading a predicate by name: p0 reads 1 (R106). -/
def Regs.getP (r : Regs) (n : BitVec 4) : PReg :=
  if n = 0 then ⟨true, 0, false⟩ else r.p[(r.physP n).toNat]'((r.physP n).isLt)

/-- Reading an accumulator buffer; none at or above the allotment. -/
def Regs.getA (r : Regs) (k : Nat) : Option Acc := r.acc[k]?

/-- Writing an x register; a write to x0 is discarded with its tag (R106). -/
def Regs.setX (r : Regs) (n : BitVec 6) (v : XReg) : Regs :=
  if n = 0 then r else { r with x := r.x.set n.toNat v n.isLt }

/-- Writing a physical vector register. -/
def Regs.setPhysV (r : Regs) (q : BitVec 6) (v : VReg) : Regs := { r with v := r.v.set q.toNat v q.isLt }

/-- Writing a physical predicate; p0 is never written (R106). -/
def Regs.setPhysP (r : Regs) (q : BitVec 4) (v : PReg) : Regs :=
  if q = 0 then r else { r with p := r.p.set q.toNat v q.isLt }

/-- Writing an accumulator buffer. -/
def Regs.setA (r : Regs) (k : Nat) (a : Acc) : Regs := { r with acc := r.acc.set k a }

/-! ## Base tags (R177) -/

/-- The base tag of xi. -/
def baseX (n : BitVec 6) : Tag := if n = 0 then 0 else 0x10000000 ||| n.setWidth 32
/-- The base tag of vi. -/
def baseV (n : BitVec 6) : Tag := 0x20000000 ||| n.setWidth 32
/-- The base tag of ai. -/
def baseA (n : Nat) : Tag := 0x30000000 ||| BitVec.ofNat 32 n
/-- The base tag of pi. -/
def baseP (n : BitVec 4) : Tag := if n = 0 then 0 else 0x40000000 ||| n.setWidth 32

/-- Every register's tag set to the base value of its name under the rotation bases (R177). -/
def Regs.rebase (r : Regs) : Regs :=
  { r with
    x := Vector.ofFn fun i : Fin 64 => { r.x[i] with tag := baseX (BitVec.ofFin i) }
    v := Vector.ofFn fun i : Fin 64 => { r.v[i] with tag := baseV (r.nameV (BitVec.ofFin i)) }
    p := Vector.ofFn fun i : Fin 16 => { r.p[i] with tag := baseP (r.nameP (BitVec.ofFin i)) }
    acc := r.acc.mapIdx fun k a => { a with tag := baseA k } }

/-! ## Control registers (Tables 6.2 to 6.5) -/

/-- Access to a control register (Table 6.2). -/
inductive CtlAccess where
  | none | ro | rw
  deriving DecidableEq, Repr

/-- The access column of Table 6.2 for a context. -/
def ctlAccess (cid : Nat) (n : BitVec 16) : CtlAccess :=
  let k := n.toNat
  let cust := cid == 3
  if k = 3 || k = 4 || k = 8 || k = 9 || k = 0x16 then .rw
  else if k = 0x0A || k = 0x20 || k = 0x21 || k = 0x30 || (0x48 ≤ k && k ≤ 0x4F) then (if cust then .rw else .ro)
  else if k = 0x31 || k = 0x32 || (0x38 ≤ k && k ≤ 0x47) then (if cust then .rw else .none)
  else if k = 0x33 || k = 0x34 then (if cust then .ro else .none)
  else .ro

/-- A loop level's ctl.lstack word (Table 6.4). -/
def Level.stack (l : Level) : Word := l.count ++ l.stg ++ l.kind ++ (0 : BitVec 27)

/-- ctl.margin (Table 6.5). -/
def Tile.margin (t : Tile) : Word :=
  (0 : BitVec 32) ++ BitVec.ofBool t.iarm ++ t.islot ++ t.idly ++ (0 : BitVec 2) ++ t.mode ++ (0 : BitVec 2) ++ t.offs

/-- ctl.lfault (Table 6.5). -/
def Tile.lfault (t : Tile) : Word := (0 : BitVec 32) ++ t.tthr ++ t.lthr ++ t.tcnt ++ t.lcnt

/-- A tile register as its committed copy or hardware holds it (Table 6.5). -/
def Tile.readCtl (t : Tile) (n : BitVec 16) : Word :=
  let k := n.toNat
  if k = 0x0A then t.bflags.setWidth 64
  else if k = 0x20 then t.share.setWidth 64
  else if k = 0x21 then t.lfault
  else if k = 0x30 then t.margin
  else if k = 0x31 then t.rwin.setWidth 64
  else if k = 0x32 then t.rlim.setWidth 64
  else if k = 0x33 then t.rcount.setWidth 64
  else if k = 0x34 then t.rtotal.setWidth 64
  else if 0x38 ≤ k && k ≤ 0x3F then t.rlog.toArray.getD (k - 0x38) 0
  else if 0x40 ≤ k && k ≤ 0x47 then (t.evsel.toArray.getD (k - 0x40) 0).setWidth 64
  else if 0x48 ≤ k && k ≤ 0x4F then (t.evcnt.toArray.getD (k - 0x48) 0).setWidth 64
  else 0

/-- A value that R114 admits into ctl.margin. -/
def marginOk (w : Word) : Bool := w.extractLsb' 8 2 != 3 && (w.extractLsb' 28 3).toNat ≤ 4

/-- ctl.margin written: an illegal MODE or ISLOT leaves the register unchanged (R114). -/
def Tile.writeMargin (t : Tile) (w : Word) : Tile :=
  if !marginOk w then t
  else { t with iarm := w.getLsbD 31, islot := w.extractLsb' 28 3, idly := w.extractLsb' 12 16,
                mode := w.extractLsb' 8 2, offs := w.extractLsb' 0 6, injCnt := 0 }

/-- A tile register written (R111, R114, Table 6.5). ctl.bflags is cleared by ones; of ctl.rlogN, V = 0 clears the entry and V = 1 sets
its V. -/
def Tile.writeCtl (t : Tile) (n : BitVec 16) (w : Word) : Tile :=
  let k := n.toNat
  if k = 0x0A then { t with bflags := t.bflags &&& ~~~(w.setWidth 7) }
  else if k = 0x20 then
    { t with share := if w.toNat < 16 then 16 else if 1024 < w.toNat then 1024 else w.setWidth 11 }
  else if k = 0x21 then
    { t with tthr := w.extractLsb' 24 8, lthr := w.extractLsb' 16 8, tcnt := w.extractLsb' 8 8, lcnt := w.extractLsb' 0 8 }
  else if k = 0x30 then t.writeMargin w
  else if k = 0x31 then { t with rwin := w.setWidth 32 }
  else if k = 0x32 then { t with rlim := w.setWidth 16 }
  else if 0x38 ≤ k && k ≤ 0x3F then
    let e : Word := if w.getLsbD 63 then t.rlog.toArray.getD (k - 0x38) 0 ||| 0x8000000000000000 else 0
    { t with rlog := t.rlog.setIfInBounds (k - 0x38) e }
  else if 0x40 ≤ k && k ≤ 0x47 then { t with evsel := t.evsel.setIfInBounds (k - 0x40) (w.setWidth 17) }
  else if 0x48 ≤ k && k ≤ 0x4F then { t with evcnt := t.evcnt.setIfInBounds (k - 0x48) (w.setWidth 48) }
  else t

/-- Bits 56:3 of a code address (Table 6.3). -/
def codeAddr (w : Word) : Word := w &&& 0x01FFFFFFFFFFFFF8

/-- A control register written by `mtc` in the working copy (R111, R134); a tile register waits there for the commit. -/
def Regs.writeCtl (r : Regs) (n : BitVec 16) (w : Word) : Regs :=
  match n.toNat with
  | 0x03 => { r with epc := codeAddr w, rdr := true }
  | 0x04 => { r with tvec := w &&& 0x01FFFFFFFFFFFFF9 }
  | 0x08 => { r with flags := w.setWidth 7 }
  | 0x09 => { r with fmask := w.setWidth 7 }
  | 0x16 => { r with dthr := w.setWidth 32 }
  | _ => { r with tileW := r.tileW ++ [(n, w)] }

/-! ## Landing of results (R25, R28) -/

/-- A context-scope control register: fields with two copies from `r`, the others as hardware holds them (Tables 6.3 and 6.4). -/
def Ctx.readCtl (c : Ctx) (r : Regs) (n : Nat) : Word :=
  match n with
  | 0x00 => c.cause
  | 0x01 => c.tval
  | 0x02 => c.tsyl
  | 0x03 => r.epc
  | 0x04 => r.tvec
  | 0x05 => (0 : BitVec 61) ++ BitVec.ofBool c.heldBit ++ BitVec.ofBool r.rdr ++ BitVec.ofBool c.ih
  | 0x06 => c.tsched
  | 0x08 => r.flags.setWidth 64
  | 0x09 => r.fmask.setWidth 64
  | 0x10 => (0 : BitVec 53) ++ r.pb ++ (0 : BitVec 3) ++ r.vb
  | 0x11 => BitVec.ofNat 64 c.sclk
  | 0x12 => c.wclk
  | 0x13 => (0 : BitVec 24) ++ r.ws ++ r.es[3] ++ r.es[2] ++ r.es[1] ++ r.es[0]
  | 0x14 => c.part.setWidth 64
  | 0x15 => c.drift.setWidth 64
  | 0x16 => r.dthr.setWidth 64
  | 0x18 => r.loops[0].stack
  | 0x19 => r.loops[1].stack
  | 0x1A => r.loops[2].stack
  | 0x1B => r.loops[3].stack
  | 0x1C => r.loops[0].body
  | 0x1D => r.loops[1].body
  | 0x1E => r.loops[2].body
  | 0x1F => r.loops[3].body
  | _ => 0

/-- A control register as an `mfc` of the context in focus reads it: a tile register with its own writes not yet committed (R111, R134). -/
def State.readCtl (s : State) (n : BitVec 16) : Word :=
  if n.toNat < 0x20 && n != 0x0A then s.ctx.readCtl s.ctx.work n.toNat
  else (s.ctx.work.tileW.foldl (fun (t : Tile) e => if e.1 = n then t.writeCtl e.1 e.2 else t) s.tile).readCtl n

/-- A level pushed on the loop stack (R143, R146): levels 0 to 2 become 1 to 3; an `swp` level sets p8 and clears p9 to p15. -/
def Regs.pushLevel (r : Regs) (l : Level) : Regs :=
  let r1 := { r with loops := #v[l, r.loops[0], r.loops[1], r.loops[2]] }
  if l.kind = 2 then
    { r1 with p := Vector.ofFn fun i : Fin 16 =>
        if 8 ≤ i.val then ⟨r1.nameP (BitVec.ofFin i) = 8, baseP (r1.nameP (BitVec.ofFin i)), false⟩ else r1.p[i] }
  else r1

/-- Level 0 popped. -/
def Regs.popLevel (r : Regs) : Regs :=
  { r with loops := #v[r.loops[1], r.loops[2], r.loops[3], Level.reset] }

/-- The loop levels active. -/
def Regs.levels (r : Regs) : Nat := (r.loops.toList.filter fun l => l.kind != 0).length

/-- A delivery to an accumulator's pending buffer (R312, R313). -/
def Acc.land (a : Acc) (f : Flight) : Acc × Flags :=
  match f.pay with
  | .scale ps ver vec rnd sat =>
    let g := scaleGrid ps ver vec rnd sat a.val
    (⟨gridVals g, f.tag, a.poison || f.poison⟩, gridFlags g)
  | .grid g => (⟨g, f.tag, f.poison⟩, 0)
  | _ => (⟨Acc.reset.val, f.tag, f.poison⟩, 0)

/-- A result delivered to the working registers: value, tag, poison and flags (R25, R55). -/
def Regs.land (r : Regs) (f : Flight) : Regs :=
  let r := { r with flags := r.flags ||| f.flags }
  match f.dest, f.pay with
  | .x n, .word w => r.setX n ⟨w, f.tag, f.poison⟩
  | .v q, .lanes l => r.setPhysV q ⟨l, f.tag, f.poison⟩
  | .p q, .bit b => r.setPhysP q ⟨b, f.tag, f.poison⟩
  | .vl, .word w => { r with vl := w.setWidth 7 }
  | .stamp n, .word w =>
    if n = 4 then { r with ws := w.setWidth 8 } else { r with es := r.es.setIfInBounds n.toNat (w.setWidth 8) }
  | .ctl n, .word w => r.writeCtl n w
  | .tagX n, _ => r.setX n { r.getX n with tag := f.tag }
  | .tagV q, _ => r.setPhysV q { r.v[q.toNat]'(q.isLt) with tag := f.tag }
  | .loop, .push l => r.pushLevel l
  | .acc k, _ =>
    match r.acc[k.toNat]? with
    | none => r
    | some a =>
      let (a', fl) := a.land f
      { r.setA k.toNat a' with flags := r.flags ||| fl }
  | _, _ => r

/-- Where a result stands among those delivered (R25, R111): by its cycle, a control register's write ahead of the flag updates
of the same cycle. -/
def Flight.rank (f : Flight) : Nat := 2 * f.due + (match f.dest with | .ctl _ => 0 | _ => 1)

/-- A result put among results in order, behind those of its own rank. -/
def Flight.insert (f : Flight) : List Flight → List Flight
  | [] => [f]
  | g :: gs => if g.rank ≤ f.rank then g :: f.insert gs else f :: g :: gs

/-- Several results, each at its cycle, those of one cycle in issue order but for R111. -/
def Regs.landAll (r : Regs) (fs : List Flight) : Regs := (fs.foldl (fun l f => f.insert l) []).foldl Regs.land r

/-- A touchstone compare, which no register receives (R388). -/
def Flight.isTouch (f : Flight) : Bool := match f.dest with | .touch => true | _ => false

/-- The partial sums that a result delivers to its port, under its tag and poison (R283, R302). -/
def Flight.sum? (f : Flight) : Option PSum :=
  match f.dest, f.pay with
  | .ps, .psum p => some { p with tag := f.tag, poison := f.poison }
  | _, _ => none

/-- The partial-sum port behind some deliveries, the latest of which replaces it (R302). -/
def PSum.behind (p : PSum) (fs : List Flight) : PSum := (fs.filterMap Flight.sum?).getLast?.getD p

/-- A result lands at the schedule clock: a touchstone compare is made as the bundle of its cycle ends (R388). -/
def Ctx.lands (c : Ctx) (f : Flight) : Bool := decide (f.due ≤ c.sclk) && !f.isTouch

/-- The results due at the schedule clock land in the working copies and at the partial-sum port (R25, R302); what they found is kept while the
clock stands (R284). -/
def Ctx.landDue (c : Ctx) : Ctx :=
  let due := c.flight.filter c.lands
  { c with
    work := c.work.landAll due
    ps := c.ps.behind due
    flight := c.flight.filter fun f => !c.lands f
    landed := if due.isEmpty then none else some ⟨c.flight, c.work, c.ps⟩ }

/-- A touchstone compare is due at the schedule clock. -/
def Ctx.touches (c : Ctx) (f : Flight) : Bool := decide (f.due ≤ c.sclk) && f.isTouch

/-- A result entered in the pipeline, due `lat` cycles after the bundle being issued. -/
def Ctx.schedule (c : Ctx) (lat : Nat) (d : Dest) (pay : Payload) (tag : Tag) (poison : Bool) (fl : Flags) : Ctx :=
  { c with flight := c.flight ++ [⟨c.sclk + lat, d, pay, tag, poison, fl, c.cur.seq⟩] }

/-- A result entered in the pipeline of the context in focus. -/
def State.schedule (s : State) (lat : Nat) (d : Dest) (pay : Payload) (tag : Tag) (poison : Bool) (fl : Flags) : State :=
  { s with ctx := s.ctx.schedule lat d pay tag poison fl }

/-! ## Contexts and focus (R23) -/

/-- A context: the one in focus, a parked one, or one still as reset left it. -/
def State.getCtx (s : State) (c : Src) : Ctx :=
  if c = s.who then s.ctx
  else match s.parkedCtx.find? (·.1 = c) with
    | some (_, x) => x
    | none => Ctx.reset

/-- Writing a context. -/
def State.setCtx (s : State) (c : Src) (x : Ctx) : State :=
  if c = s.who then { s with ctx := x }
  else { s with parkedCtx := (c, x) :: s.parkedCtx.filter (·.1 != c) }

/-- The focus moved to another context: the present one is parked. -/
def State.focus (s : State) (c : Src) : State :=
  if c = s.who then s
  else
    let x := s.getCtx c
    let t := s.getTile c.site
    { s with
      who := c
      ctx := x
      tile := t
      parkedCtx := (s.who, s.ctx) :: s.parkedCtx.filter fun e => e.1 != s.who && e.1 != c
      parkedTile := if c.site = s.who.site then s.parkedTile
        else (s.who.site, s.tile) :: s.parkedTile.filter fun e => e.1 != s.who.site && e.1 != c.site }

/-- An update of one context, wherever it stands. -/
def State.modCtx (s : State) (c : Src) (f : Ctx → Ctx) : State := s.setCtx c (f (s.getCtx c))

/-- An update of one tile, wherever it stands. -/
def State.modTile (s : State) (site : Nat) (f : Tile → Tile) : State := s.setTile site (f (s.getTile site))

/-- A wound trap. -/
def ATrap.isWound : ATrap → Bool
  | .wound _ => true
  | _ => false

/-- A trap that falls due wakes a monitor wait (R236); a wound outside a handler aborts its block instead (R328). -/
def Ctx.wokenBy (c : Ctx) (t : ATrap) : Bool := c.ih || !t.isWound

/-- Every context that has left its reset state. -/
def State.contexts (s : State) : List Src := s.who :: s.parkedCtx.map (·.1)

/-! ## Work under way (R214) -/

/-- Work appended to what is under way. -/
def State.send (s : State) (w : Work) : State := { s with work := s.work ++ [w] }

/-- The wake-up of a context's monitor wait, under way. -/
def wakeWork (c : Src) : Work := ⟨c, .context c, false, false, false, .monitorWakeup c⟩

/-- Several items, in order. -/
def State.sendAll (s : State) (ws : List Work) : State := { s with work := s.work ++ ws }

/-- The destination that a home is (R214): stacks rotate over 256-byte units (R201). -/
def dstOf (h : Home) (off : Nat) : Dst :=
  match h with
  | .dram => .stack (off / 256 % 8)
  | .host => .host
  | .slice k => .slice k
  | .pool site => .tile site
  | .custodian site => .tile site
  | .peerMem d => .peer d
  | .peerPool d _ => .peer d

/-! ## Addressing by logical number (R344, R353) -/

/-- A message to a phaser as its source router sends it now: to the site that the mesh map gives its logical number; 288, which is no site, where
it gives none. -/
def State.phNow (s : State) (m : PhMsg) : PhMsg :=
  match m.tile with
  | some l => if m.dev = Config.device then { m with site := (s.siteOf l).getD 288 } else m
  | none => m

end Sys2Proof.Machine

/-- Where a message to a phaser goes. -/
def Sys2Proof.PhMsg.dst (m : Sys2Proof.PhMsg) : Sys2Proof.Machine.Dst :=
  if m.dev = Sys2Proof.Config.device then .tile m.site else .peer m.dev

namespace Sys2Proof.Machine

/-- A message as its source router sends it now (R344). -/
def State.routed (s : State) (w : Work) : Work :=
  let ph (m : PhMsg) (ev : PhMsg → Instr) : Work := { w with dst := (s.phNow m).dst, ev := ev (s.phNow m) }
  match w.ev with
  | .remoteAccessArrival r =>
    match r.tile with
    | some l =>
      let site := (s.siteOf l).getD 288
      { w with dst := .tile site, ev := .remoteAccessArrival { r with home := .pool site } }
    | none => w
  | .phaserRegistration m mode sc => ph m (.phaserRegistration · mode sc)
  | .phaserDrop m mode => ph m (.phaserDrop · mode)
  | .phaserSignal m => ph m .phaserSignal
  | .phaserByteAddition m n job => ph m (.phaserByteAddition · n job)
  | .phaserErrorArrival m n => ph m (.phaserErrorArrival · n)
  | .phaserWaitArrival m p id => ph m (.phaserWaitArrival · p id)
  | _ => w

/-- A `phsig` that has not left: it leaves only behind its implicit drain (R358). -/
def Work.isSignal (w : Work) : Bool := w.waits && match w.ev with | .phaserSignal _ => true | _ => false

/-- A join's decrement, which is no effect of its own for the phasers and the other joins (R367). -/
def Work.isJoin (w : Work) : Bool := match w.ev with | .joinDecrement .. => true | _ => false

/-- The effects of its sender that a message leaves behind are still under way; a `phsig` and a `join` wait for no earlier join (R367). -/
def heldByDrain (before : List Work) (w : Work) : Bool :=
  w.waits && before.any fun e => e.src == w.src && e.write && !(e.isJoin && (w.isSignal || w.isJoin))

/-- A message leaves its tile (R344). -/
def State.depart (s : State) (w : Work) : State := s.send (s.routed w)

/-- Several messages leave, in order. -/
def State.departAll (s : State) (ws : List Work) : State := ws.foldl State.depart s

/-! ## Reports to the custodian (R396) -/

/-- A report word 0 (R396). -/
def reportHead (kind : Nat) (cid site : Nat) (lost : BitVec 16) : Word :=
  (0 : BitVec 16) ++ lost ++ (0 : BitVec 6) ++ BitVec.ofNat 10 site ++ (0 : BitVec 6) ++ BitVec.ofNat 2 cid ++ BitVec.ofNat 8 kind

/-- A report into a tile's queue of 64; a full queue loses and counts it (R396). -/
def Tile.report (t : Tile) (site cid kind : Nat) (w1 w2 w3 : Word) : Tile :=
  if t.reports.length < 64 then
    { t with reports := t.reports ++ [#v[reportHead kind cid site t.lost, w1, w2, w3]], lost := 0 }
  else { t with lost := if t.lost = 0xFFFF then t.lost else t.lost + 1 }

/-- A report about a context to the custodian of its tile. -/
def State.report (s : State) (c : Src) (kind : Nat) (w1 w2 w3 : Word) : State :=
  s.modTile c.site fun t => t.report c.site c.cid kind w1 w2 w3

/-! ## Aborts (R34, R37) -/

/-- The register that a result of this destination reaches, taken from another copy. -/
def Regs.restoreDest (r old : Regs) (d : Dest) : Regs :=
  match d with
  | .x n | .tagX n => r.setX n (old.getX n)
  | .v q | .tagV q => r.setPhysV q (old.v[q.toNat]'(q.isLt))
  | .p q => r.setPhysP q (old.p[q.toNat]'(q.isLt))
  | .vl => { r with vl := old.vl }
  | .stamp n => if n = 4 then { r with ws := old.ws } else { r with es := r.es.setIfInBounds n.toNat (old.es.toArray.getD n.toNat 0) }
  | .ctl n =>
    match n.toNat with
    | 0x03 => { r with epc := old.epc, rdr := old.rdr }
    | 0x04 => { r with tvec := old.tvec }
    | 0x08 => { r with flags := old.flags }
    | 0x09 => { r with fmask := old.fmask }
    | 0x16 => { r with dthr := old.dthr }
    | _ => r
  | .loop => { r with loops := old.loops }
  | .acc k => match old.acc[k.toNat]? with | some a => r.setA k.toNat a | none => r
  | .ps | .touch | .flagsOnly => r

/-- What a result in flight reaches, taken from another copy: a push of an `swp` level writes p8 to p15 too (R143). -/
def Regs.restoreFlight (r old : Regs) (f : Flight) : Regs :=
  let r1 := r.restoreDest old f.dest
  match f.pay with
  | .push l => if l.kind = 2 then { r1 with p := Vector.ofFn fun i : Fin 16 => if 8 ≤ i.val then old.p[i] else r1.p[i] } else r1
  | _ => r1

/-- A result that writes a tile register, which a commit carries out once (R111). -/
def Flight.tileWrite (f : Flight) : Bool := match f.dest with | .ctl n => n = 0x0A || 0x20 ≤ n.toNat | _ => false

/-- The results that landed at the present schedule clock in flight again (R284): delivered at the resume point itself, they are still to come while
the context stands before it. A write of a tile register that a commit has carried out stays done (R111). -/
def Ctx.unland (c : Ctx) : Ctx :=
  match c.landed with
  | none => c
  | some l =>
    let back (f : Flight) : Bool := c.lands f && (!f.tileWrite || f.blk == c.cur.seq)
    let fs := l.flight.filter back
    let r := fs.foldl (fun r f => r.restoreFlight l.work f) c.work
    { c with
      work := { r with
        flags := r.flags &&& ~~~(fs.foldl (fun m f => m ||| f.flags) (0 : Flags) &&& ~~~l.work.flags)
        tileW := r.tileW.take (r.tileW.length - fs.countP Flight.tileWrite) }
      ps := if fs.any (·.sum?.isSome) then l.ps else c.ps
      flight := l.flight.filter fun f => back f || !c.lands f
      landed := none }

/-- The carry-ins of a block that its predecessor's commit covers. -/
def Block.earlyCarry (b : Block) : List Flight := b.carry.filter fun f => f.due ≤ b.early

/-- A pending result that a syllable of the block awaits from its issue (R34). -/
def Pend.ownOf (p : Pend) (b : Block) : Bool := p.atIssue && p.blk == b.seq

/-- The answers that stand as held again when the block runs from its entry: their cycles are still to come (R35). -/
def Block.toCome (b : Block) : List Pend := b.back.filter fun p => !p.ownOf b

/-- The working registers at the entry of a block that runs again: the committed copies, but a carry-in that lands after the
entry and by the predecessor's commit cycle is not there yet, nor are its flags (R37), nor an answer still to come (R35). A flag that such a
carry-in raises stays hidden until it lands, also where a handler has committed the same flag meanwhile (log 82). -/
def Block.entryWork (b : Block) (comm : Regs) : Regs :=
  let r := b.earlyCarry.foldl (fun r f => r.restoreFlight b.entryRegs f) comm
  let r := (b.toCome.flatMap (·.dests)).foldl (fun r d => r.restoreDest b.entryRegs d) r
  { r with flags := r.flags &&& ~~~((b.entryRegs.landAll b.earlyCarry).flags &&& ~~~b.entryRegs.flags) }

/-- The pending result of an `rrecv`. -/
def Pend.isReduction (p : Pend) : Bool := match p.conv with | .reduction _ => true | _ => false

/-- The elements of a vector load from the words of an answer: element k of format `ty` in lane k (R225). -/
def elementLanes (ty : Fmt) (n : Nat) (bytes : Nat) : Lanes :=
  Vector.ofFn fun i : Fin 64 =>
    if i.val < n then
      let w := bytes / 2 ^ (ty.width * i.val) % 2 ^ ty.width
      if ty.isSignedInt then ty.put (w : Int) else BitVec.ofNat 32 w
    else 0

/-- A little-endian number of 64-bit words. -/
def wordsNat : List Word → Nat
  | [] => 0
  | w :: ws => w.toNat + 2 ^ 64 * wordsNat ws

/-- The values that an answer gives the destinations of a pending result, each with the base tag of its name; the status word of an `rrecv`
has no poison and its lanes have the packet's (R293). -/
def Pend.write (p : Pend) (a : Answer) (r : Regs) : Regs :=
  let fl : Regs := { r with flags := r.flags ||| a.flags }
  let bad := a.poison || p.poison
  match p.conv, p.dests with
  | .scalar ty, .x n :: _ => fl.setX n ⟨ty.fit (ty.opnd (a.words.headD 0)), baseX n, bad⟩
  | .word, .x n :: _ | .phaser, .x n :: _ => fl.setX n ⟨a.words.headD 0, baseX n, bad⟩
  | .vector ty n, .v q :: _ => fl.setPhysV q ⟨elementLanes ty n (wordsNat a.words), baseV (r.nameV q), bad⟩
  | .more ty k n, .v q :: _ =>
    let old := r.v[q.toNat]'(q.isLt)
    let new := elementLanes ty n (wordsNat a.words)
    fl.setPhysV q ⟨Vector.ofFn fun i : Fin 64 => if k ≤ i.val && i.val < k + n then new.toArray.getD (i.val - k) 0 else old.val[i],
      baseV (r.nameV q), bad || old.poison⟩
  | .reduction _, .v q :: .x n :: _ =>
    let g := fl.setPhysV q ⟨elementLanes .n32 64 (wordsNat (a.words.drop 1)), baseV (r.nameV q), a.poison⟩
    g.setX n ⟨a.words.headD 0, baseX n, false⟩
  | _, _ => fl

/-- The committed registers without the answers that syllables of the block awaited, which its abort discards (R34, log 35): what stands below
them is the block's entry, with its carry-ins landed and the answers of earlier commands written that have come since (R35). -/
def Block.undoAnswers (b : Block) (comm : Regs) : Regs :=
  let others := (b.back.filter fun p => !p.ownOf b).foldl (fun r p =>
    match p.held with
    | some a => p.write (if p.isReduction then { a with flags := 0 } else a) r
    | none => r) (b.entryRegs.landAll b.earlyCarry)
  ((b.back.filter (·.ownOf b)).flatMap (·.dests)).foldl (fun r d => r.restoreDest others d) comm

/-- A freeze over: its record enters the stall trace of 32 while tracing is armed (R391). -/
def Ctx.resume (c : Ctx) : Ctx :=
  match c.frozen with
  | none => c
  | some f =>
    let l := if c.tracing then c.stalls ++ [⟨f, c.sclk, c.stalled⟩] else c.stalls
    { c with frozen := none, stalled := 0, stalls := l.drop (l.length - 32) }

/-- A context with block instance `b`, and everything issued after its entry, discarded (R34): its working copies, results in
flight, results awaited from issue, buffered stores, commands and waits; the schedule clock, the partial-sum port (log 82) and the nest are those
of its entry (R307). A freeze is over with it. -/
def Ctx.discard (c : Ctx) (b : Block) : Ctx :=
  let c := c.resume
  let young (n : Nat) : Bool := decide (b.seq ≤ n)
  let comm := b.undoAnswers c.comm
  let comm := match b.engine.after with | some sh => { comm with shadow := sh } | none => comm
  let done (f : Flight) : Bool := decide (f.due < c.sclk) && f.isTouch
  { c with
    sclk := b.clk
    comm := comm
    work := b.entryWork comm
    ps := b.ps
    flight := b.carry.filter fun f => !done f
    empties := 0
    pend := c.pend.filter fun p => !(p.atIssue && young p.blk)
    closings := c.closings.filter fun x => !young x.blk.seq
    engine := b.engine
    holds := []
    monitor := none
    woken := []
    fetched := []
    frozen := none
    bankLeft := 0
    landed := none }

/-- The block entered again from its entry, on the same committed state, the same carry-ins and the same answers to come (R34, R35, R179). -/
def Ctx.reenter (c : Ctx) (b : Block) (rerun : Bool) : Ctx :=
  let c' := c.discard b
  { c' with
    pc := b.entry
    pend := c'.pend ++ b.toCome
    cur := Block.fresh b.seq b.entry b.clk b.entryRegs b.ps c'.flight b.early b.engine rerun }.landDue

/-- The oldest block not committed. -/
def Ctx.oldest (c : Ctx) : Block := match c.closings with | x :: _ => x.blk | [] => c.cur

/-- The task stops where it last committed, and ends so: nothing after the oldest block is kept, and no answer is awaited. -/
def Ctx.stop (c : Ctx) (e : Ending) : Ctx :=
  let d := c.discard c.oldest
  { d with flight := [], pend := [], ending := some e }

/-! ## Taking an exception (R116, R117) -/

/-- What a trap records (Table 6.7). -/
structure Trap where
  bnd : Bool
  code : BitVec 8
  detail : BitVec 8
  tval : Word
  tsyl : Word
  deriving DecidableEq, Repr

/-- ctl.cause of a trap (Table 6.3). -/
def Trap.word (t : Trap) : Word := (0 : BitVec 47) ++ BitVec.ofBool t.bnd ++ t.code ++ t.detail

/-- A handler is installed. -/
def Ctx.hasHandler (c : Ctx) : Bool := c.comm.tvec.getLsbD 0

/-- A trap is fatal: no handler, or precise inside a handler (R117). -/
def Ctx.isFatal (c : Ctx) (t : Trap) : Bool := !c.hasHandler || (!t.bnd && c.ih)

/-- Entering the handler (R116): the carry-ins of the trapped block are kept, ctl.cause, ctl.tval, ctl.tsyl, ctl.epc and
ctl.tsched are written, IH is set, HELD tells whether asynchronous traps wait and RDR is cleared, the schedule clock is the block's entry value and the pc the handler's entry.
The handler's first block begins with lf = 0 and every other register as committed. -/
def Ctx.enterHandler (c : Ctx) (b : Block) (t : Trap) : Ctx :=
  let d := c.discard b
  let comm := { d.comm with epc := codeAddr b.entry, rdr := false }
  let pc := codeAddr comm.tvec
  { d with
    cause := t.word
    tval := t.tval
    tsyl := t.tsyl
    tsched := BitVec.ofNat 64 b.clk
    comm := comm
    work := comm
    ih := true
    heldBit := !d.traps.isEmpty
    saved := d.flight
    savedBlk := some b
    flight := []
    pc := pc
    seq := c.seq + 1
    cur := Block.fresh (c.seq + 1) pc b.clk comm d.ps [] 0 d.engine false }

/-- A fatal trap (R117): the context issues nothing further, the custodian gets the report, which holds the present trap registers and
the new cause (Table 19.3; its layout is log 53), and the task ends as failed. -/
def State.fatal (s : State) (b : Block) (t : Trap) : State :=
  let c := s.ctx
  let d := c.discard b
  let s1 := s.report s.who 0x01 ((t.word <<< 32) ||| c.cause) c.comm.epc c.tval
  { s1 with ctx := { d with flight := [], pend := [], ending := some .failed } }

/-- THE taking of an exception (R116, R117): trap `t` at block `b` of the context in focus. An asynchronous trap that arises
inside a handler is held. -/
def State.takeTrap (s : State) (b : Block) (t : Trap) : State :=
  if s.ctx.isFatal t then s.fatal b t
  else if s.ctx.ih then { s with ctx := { s.ctx with heldBit := true } }
  else { s with ctx := s.ctx.enterHandler b t }

/-! ## The return from an exception (R118, R145) -/

/-- Every exposed result of the handler still in flight delivered at once, in issue order, to both copies; then every
register takes its base tag (R118). -/
def Ctx.deliverAll (c : Ctx) : Ctx :=
  { c with
    work := (c.flight.foldl Regs.land c.work).rebase
    comm := (c.flight.foldl Regs.land c.comm).rebase
    ps := c.ps.behind c.flight
    flight := []
    landed := none }

/-- `eret` after the commit of the handler block that holds it (R118): the schedule clock is ctl.tsched; with RDR = 0 the saved
carry-ins are reinjected at their distances and the trapped block is entered again; with RDR = 1 they are discarded with the nest, its shadow and
the products queued (R307), level 0 of the loop stack is popped when its body is the trapped block (R145), and the context resumes at ctl.epc. -/
def Ctx.eret (c : Ctx) : Ctx :=
  let d := c.deliverAll
  let clk := d.tsched.toNat
  let old := d.savedBlk.getD d.cur
  if d.comm.rdr then
    let regs := if d.comm.loops[0].kind != 0 && d.comm.loops[0].body = old.entry then d.comm.popLevel else d.comm
    let regs := { regs with rdr := false, shadow := Shadow.reset }
    { d with
      sclk := clk
      comm := regs
      work := regs
      ih := false
      saved := []
      savedBlk := none
      engine := Engine.reset
      pc := codeAddr d.comm.epc
      seq := d.seq + 1
      cur := Block.fresh (d.seq + 1) (codeAddr d.comm.epc) clk regs d.ps [] 0 Engine.reset false }
  else
    let b := { old with carry := d.saved }
    let w := b.entryWork d.comm
    { d with
      sclk := clk
      work := w
      flight := d.saved
      pend := d.pend ++ old.toCome
      ih := false
      saved := []
      savedBlk := none
      pc := codeAddr d.comm.epc
      seq := d.seq + 1
      cur := Block.fresh (d.seq + 1) (codeAddr d.comm.epc) clk w d.ps d.saved b.early d.engine false }.landDue

/-! ## Pending asynchronous results (R35) -/

/-- A result pending from the cycle after its issue that arrives no earlier than two cycles after it (R293, R364). -/
def Pend.delayed (p : Pend) : Bool := match p.conv with | .reduction _ | .phaser => true | _ => false

/-- A result is pending now: its mark holds from schedule cycle `start` on, for a delayed one from the cycle before. -/
def Pend.active (p : Pend) (clk : Nat) : Bool := decide (p.start ≤ if p.delayed then clk + 1 else clk)

/-- An answer may be written now: its cycle has come, or the context waits for a delayed one. -/
def Ctx.takes (c : Ctx) (p : Pend) : Bool :=
  decide (p.start ≤ c.sclk) || (p.delayed && (c.frozen == some .root || c.frozen == some .pending))

/-- A fresh identifier. -/
def State.newId (s : State) : Nat × State := (s.nextId, { s with nextId := s.nextId + 1 })

/-- A vector of lanes from a list, the rest zero. -/
def lanesOf (l : List Lane) : Lanes := Vector.ofFn fun i : Fin 64 => l.getD i.val 0

/-- A change of the committed copy, the working copy, those of blocks that close, and what the present block restores. -/
def Ctx.writeAll (c : Ctx) (f : Regs → Regs) : Ctx :=
  { c with
    work := f c.work
    comm := f c.comm
    cur := { c.cur with entryRegs := f c.cur.entryRegs }
    closings := c.closings.map fun x => { x with work := f x.work, blk := { x.blk with entryRegs := f x.blk.entryRegs } } }

/-- An earlier result still awaited reaches one of the same registers: the later one is written after it (R333). -/
def Ctx.behind (c : Ctx) (p : Pend) : Bool :=
  (c.pend.takeWhile fun q => q.id != p.id).any fun q => q.dests.any fun d => p.dests.contains d && d != .x 0

/-- A block entered before the answer's cycle, or whose syllable awaited it, keeps it for a run from its entry (R34, R35). Any other block entered
behind the syllable finds it in the register from its entry on; the flags of an `rrecv` it keeps as a carry-in, so that no re-run loses them
(R55). -/
def Block.answered (b : Block) (p : Pend) (a : Answer) (clk : Nat) : Block :=
  if p.ownOf b || (!p.delayed && b.clk < p.start) then { b with back := b.back ++ [{ p with held := some a }] }
  else if p.blk < b.seq then
    { b with
      entryRegs := p.write (if p.isReduction then { a with flags := 0 } else a) b.entryRegs
      carry := if p.isReduction then b.carry ++ [⟨clk, .flagsOnly, .none, 0, false, a.flags, p.blk⟩] else b.carry }
  else b

/-- An answer written (R35): to the committed copy, to the working copy and to those of blocks that close; the flags of an `rrecv` to the
working ones only (R55, R293). The block that a handler has interrupted keeps it for its re-run, like any block entered before its cycle. The
pending mark is cleared. -/
def Ctx.answered (c : Ctx) (p : Pend) (a : Answer) : Ctx :=
  { c with
    work := p.write a c.work
    comm := p.write (if p.isReduction then { a with flags := 0 } else a) c.comm
    cur := c.cur.answered p a c.sclk
    closings := c.closings.map fun x => { x with work := p.write a x.work, blk := x.blk.answered p a c.sclk }
    savedBlk := c.savedBlk.map fun b => b.answered p a b.clk
    saved := c.saved ++ (c.savedBlk.toList.flatMap fun b => (b.answered p a b.clk).carry.drop b.carry.length)
    pend := c.pend.filter (·.id != p.id) }

/-- The answers that have arrived and whose cycle has come are written, in order (R35, R333). -/
def Ctx.releaseHeld (c : Ctx) : Ctx :=
  c.pend.foldl (fun c p =>
    match p.held with
    | some a =>
      if c.takes p && !c.behind p then c.answered p a else c
    | none => c) c

/-- The arrival of an answer (R35): written at once and the mark cleared, or held while the schedule clock has not passed the
commit cycle. An answer to a held phaser wait is kept there; one without a word says that the wait was refused (R360). An answer
to a withdrawn request is discarded. -/
def Ctx.arrive (c : Ctx) (a : Answer) : Ctx :=
  if c.pend.any (·.id = a.id) then
    let c' : Ctx := { c with pend := c.pend.map fun q => if q.id = a.id then { q with held := some a } else q }
    c'.releaseHeld
  else
    { c with holds := c.holds.map fun h =>
        if h.id = a.id && !h.expired then { h with answer := a.words.head?, refused := a.words.isEmpty } else h }

/-- A pending mark on a context. -/
def Ctx.awaits (c : Ctx) (p : Pend) : Ctx := { c with pend := c.pend ++ [p] }

/-- A register that a pending mark covers now. -/
def Ctx.isPending (c : Ctx) (d : Dest) : Bool := c.pend.any fun p => p.active c.sclk && p.dests.contains d

end Sys2Proof.Machine
end

