-- ==== Sys2Proof/Machine/Margin.lean ====
section
/-! DEFINITION. Event counters, fault counts and retirement, replay, escalation, touchstones, pulse swallowing and ageing
(09_lineage.md R181, R182, 18_margin.md, 19_audit_counters.md R388, R392). -/

namespace Sys2Proof.Machine

/-! ## Event counters (R392) -/

/-- Counter i of a tile counts an event of a context (Table 19.2). -/
def Tile.counts (t : Tile) (code cid : Nat) (i : Fin 8) : Bool :=
  let sel := t.evsel[i]
  let flt := (sel.extractLsb' 12 4).toNat
  sel.getLsbD 16 && (sel.extractLsb' 0 12).toNat == code && (flt == 0 || (flt == cid + 1 && flt ≤ 4) || (code == 2 && flt ≤ 4))

/-- A tile's counters advanced by `n` for an event of a context; the present wall cycle's increments are remembered (R111, R392). -/
def Tile.count (t : Tile) (code : Nat) (cid : Nat) (n : Nat) : Tile :=
  { t with
    evcnt := Vector.ofFn fun i : Fin 8 => if t.counts code cid i then t.evcnt[i] + BitVec.ofNat 48 n else t.evcnt[i]
    evInc := Vector.ofFn fun i : Fin 8 => if t.counts code cid i then t.evInc[i] + n else t.evInc[i] }

/-- An event counted at the tile in focus for the context in focus. -/
def State.count (s : State) (code : Nat) : State := { s with tile := s.tile.count code s.who.cid 1 }

/-! ## Charges and retirement (R181, R182) -/

/-- A count of 8 bits that stops at 255 (R181). -/
def satInc (c : BitVec 8) : BitVec 8 := if c = 255 then c else c + 1

/-- A count has reached its threshold; 0 disables the class (R182). -/
def reached (count thr : BitVec 8) : Bool := thr != 0 && thr.toNat ≤ count.toNat

/-- An internal message of a site's custodian. -/
def custodianWork (site : Nat) (ev : Instr) : Work := ⟨⟨site, 3⟩, .seq, false, false, false, ev⟩

/-- A task is asked to leave at its next safe point; a monitor wait wakes for it (R236, R265). -/
def State.askLeave (s : State) (c : Src) : State :=
  let x := s.getCtx c
  if x.task.isSome then
    let t := s.setCtx c { x with preempt := true }
    if x.monitor.isSome then t.send (wakeWork c) else t
  else s

/-- Every running program task of a site is asked to leave at its next safe point (R182, R377). -/
def State.vacate (s : State) (site : Nat) : State := [0, 1, 2].foldl (fun s c => s.askLeave ⟨site, c⟩) s

/-- Retirement started when a count has reached its threshold on an active tile (Table 9.3): the custodian is told, tasks leave at
their next safe points, and then the logical number moves. -/
def State.checkRetire (s : State) (site : Nat) : State :=
  let t := s.getTile site
  if t.retire = .active && (s.logicalOf site).isSome && (reached t.tcnt t.tthr || reached t.lcnt t.lthr) then
    let s := s.setTile site { t with retire := .retiring }
    let s := s.report ⟨site, 3⟩ 0x06 (t.tcnt.setWidth 64) (t.lcnt.setWidth 64) 0
    (s.vacate site).send (custodianWork site (.meshMapMove site))
  else s

/-- A charge to a tile's counts, which the present wall cycle remembers (R111): a transfer charge is dropped when the site is not active
(R181, R377). -/
def State.charge (s : State) (site : Nat) (transfer : Bool) : State :=
  if transfer && (s.logicalOf site).isNone then s
  else
    let t := s.getTile site
    let t := if transfer then { t with tcnt := satInc t.tcnt, tcntInc := t.tcntInc + 1 } else { t with lcnt := satInc t.lcnt, lcntInc := t.lcntInc + 1 }
    (s.setTile site t).checkRetire site

/-! ## The compute rail (R368) -/

/-- The effective offset in 5 mV steps: OFFS clamped to the range of its mode (Table 18.1). -/
def effectiveOffset (mode : BitVec 2) (offs : BitVec 6) : Int :=
  max (if mode = 0 then 0 else if mode = 1 then -8 else -32) offs.toInt

/-- Where a tile's compute rail stands, in mV above the guaranteed point of its sealed rail; no result, clock or flag reads it (R17). -/
def Tile.computeRail (t : Tile) : Int := 5 * effectiveOffset t.mode t.offs

/-! ## Escalation (R375, R376) -/

/-- Causes of a crossing (Table 18.4). -/
inductive Crossing where
  | count | touch | consecutive
  deriving DecidableEq, Repr

/-- The CAUSE code of Table 18.4. -/
def Crossing.code : Crossing → BitVec 2
  | .count => 0 | .touch => 1 | .consecutive => 2

/-- OFFS + 1, unless OFFS = +31. -/
def stepOffs (o : BitVec 6) : BitVec 6 := if o = 31 then o else o + 1
/-- max(OFFS, 0). -/
def offsAtLeast0 (o : BitVec 6) : BitVec 6 := if o.getLsbD 5 then 0 else o

/-- The notification word (Table 18.4). -/
def Tile.notification (t : Tile) (site : Nat) (cause : Crossing) : Word :=
  BitVec.ofNat 10 site ++ t.level ++ cause.code ++ t.mode ++ t.offs ++ t.rcount ++ (0 : BitVec 26)

/-- The transition of Table 18.3 on a crossing, and whether the custodian is notified. -/
def Tile.cross (t : Tile) (cause : Crossing) : Tile × Bool :=
  let t := { t with crossed := true }
  let step2 : Tile := { t with mode := 0, offs := offsAtLeast0 t.offs, level := 2 }
  match t.level.toNat with
  | 0 => if cause = .consecutive then (step2, true) else ({ t with offs := stepOffs t.offs, level := 1 }, false)
  | 1 => (step2, true)
  | 2 => ({ t with level := 3 }, true)
  | _ => (t, false)

/-- A hardware update of ctl.margin reaches the working copies too: the writes of context 3 that wait for their commit (R111, R369, R378). One that R114
does not admit is no copy. -/
def Ctx.patchMargin (c : Ctx) (f : Word → Word) : Ctx :=
  let g (r : Regs) : Regs := { r with tileW := r.tileW.map fun e => if e.1 = 0x30 && marginOk e.2 then (e.1, f e.2) else e }
  { c with work := g c.work, closings := c.closings.map fun x => { x with work := g x.work } }

/-- The fields of ctl.margin that a crossing writes (Table 18.3): MODE, and OFFS. -/
def Tile.crossWrites (t : Tile) (cause : Crossing) : Bool × Bool :=
  match t.level.toNat with
  | 0 => if cause = .consecutive then (true, true) else (false, t.offs != 31)
  | 1 => (true, true)
  | _ => (false, false)

/-- Of a value of ctl.margin the fields replaced that a crossing writes, by those of the tile behind it. -/
def marginSet (fields : Bool × Bool) (new : Tile) (w : Word) : Word :=
  let w := if fields.1 then (w &&& ~~~(0x300 : Word)) ||| (new.mode.setWidth 64 <<< 8) else w
  if fields.2 then (w &&& ~~~(0x3F : Word)) ||| new.offs.setWidth 64 else w

/-- A crossing at a site: the transition, the notification, and at level 3 the quarantine of a site that does not retire (R375 to R377). -/
def State.cross (s : State) (site : Nat) (cause : Crossing) : State :=
  let (t, notify) := (s.getTile site).cross cause
  let s := (s.setTile site t).modCtx ⟨site, 3⟩ fun c => c.patchMargin (marginSet ((s.getTile site).crossWrites cause) t)
  if notify then
    let s := s.report ⟨site, 3⟩ 0x02 (t.notification site cause) 0 0
    if t.level = 3 && t.retire = .active then (s.vacate site).send (custodianWork site (.quarantineSite site)) else s
  else s

/-! ## Replay (R370 to R373) -/

/-- An entry of the replay log (Table 6.5). -/
def logEntry (slot stage : BitVec 3) (cid : BitVec 2) (sched : BitVec 32) : Word :=
  (1 : BitVec 1) ++ slot ++ stage ++ cid ++ (0 : BitVec 23) ++ sched

/-- The counters and the log of a replay (R373). -/
def Tile.logReplay (t : Tile) (e : Word) : Tile :=
  { t with
    struck := true
    rcount := if t.rcount = 0xFFFF then t.rcount else t.rcount + 1
    rtotal := t.rtotal + 1
    rlog := Vector.ofFn fun i : Fin 8 => if i.val = 0 then e else t.rlog.toArray.getD (i.val - 1) 0
    replayLeft := 3
    runLen := t.runLen + 1 }

/-- The job-counter index of a task record (Table 12.1). -/
def recJob (r : RecWords) : Nat := (r[6].extractLsb' 52 12).toNat

/-- A fault counted for the job of the task that a context runs (R349). -/
def State.tallyJob (s : State) (c : Src) (f : JobTally → JobTally) : State :=
  if c.cid = 3 then s else match (s.getCtx c).task with
  | none => s
  | some t =>
    let x := s.part t.part
    s.setPart t.part { x with tally := x.tally.map fun j => if j.idx = recJob t.words then f j else j }

/-- A further detection of one wall cycle: no replay of its own; the log keeps the lowest slot, and in it the earliest stage (R371). -/
def Tile.strikeAgain (t : Tile) (e : Word) : Tile :=
  let old := t.rlog[0]
  if (e.extractLsb' 57 6).toNat < (old.extractLsb' 57 6).toNat then { t with rlog := t.rlog.set 0 e } else t

/-- A detection at a site in its present wall cycle (R370 to R375): the first makes a replay, three wall cycles without issue, counted and
logged; a crossing by count at the limit, at most one a window, and a crossing with cause consecutive at every fourth successive replay.
`back`: how many schedule cycles before its context's latest bundle the owning syllable issued. -/
def State.replay (s : State) (site : Nat) (slot stage : BitVec 3) (cid : BitVec 2) (back : Nat) : State :=
  let old := s.getTile site
  let e := logEntry slot stage cid (old.latest[cid.toNat]'cid.isLt - BitVec.ofNat 32 back)
  if old.struck then s.setTile site (old.strikeAgain e) else
  let t := (old.logReplay e).count 0x020 cid.toNat 1
  let byCount := t.rlim != 0 && t.rcount == t.rlim && t.rcount != old.rcount && !t.countCrossed
  let s := (s.setTile site { t with countCrossed := t.countCrossed || byCount }).tallyJob ⟨site, cid.toNat⟩ fun j => { j with replays := j.replays + 1 }
  let s := if byCount then s.cross site .count else s
  if t.runLen % 4 = 0 then s.cross site .consecutive else s

/-- The armed injection of a site is due: its bundles have been counted (R378). -/
def Tile.injects (t : Tile) : Bool := t.iarm && t.injCnt == t.idly.toNat + 1

/-- An injected detection: IARM is cleared in both copies, and the replay is one like any other (R378). -/
def State.inject (s : State) (site : Nat) (cid : BitVec 2) : State :=
  let t := s.getTile site
  let s := (s.setTile site { t with iarm := false, injCnt := 0, injDue := false }).modCtx ⟨site, 3⟩ fun c => c.patchMargin (· &&& ~~~(0x80000000 : Word))
  s.replay site t.islot 7 cid 0

/-- The injection counter as a bundle of a context issues (R378): the (IDLY + 1)-th program bundle after the arming takes the detection,
at the end of its wall cycle, behind a commit in it (R111). -/
def Tile.injection (t : Tile) (cid : Nat) : Tile :=
  if t.iarm && cid < 3 then
    let u := { t with injCnt := t.injCnt + 1 }
    { u with injDue := u.injects }
  else t

/-! ## Wall time of a tile (R374) -/

/-- The close of a replay window (R374, Table 18.3). -/
def Tile.closeWindow (t : Tile) : Tile :=
  { t with
    rcount := 0
    winCnt := 0
    level := if t.level = 1 && !t.crossed then 0 else t.level
    crossed := false
    countCrossed := false }

/-- The operations that wait at the banks once each bank has served one (R191). -/
def oneServed (banks : List Nat) : List Nat := banks.eraseDups.foldl List.erase banks

/-- One delivered wall cycle of a tile counted, in which each bank serves one operation. -/
def Tile.tick (t : Tile) : Tile :=
  ({ t with wall := t.wall + 1, winCnt := t.winCnt + 1, replayLeft := t.replayLeft - 1, opened := true, banks := oneServed t.banks }).count 0x002 0 1

/-- The window has counted ctl.rwin. -/
def Tile.windowDue (t : Tile) : Bool := t.rwin != 0 && t.rwin.toNat ≤ t.winCnt

/-- The window closes when it has counted ctl.rwin. -/
def Tile.windowEnd (t : Tile) : Tile := if t.windowDue then t.closeWindow else t

/-- The event code of a freeze (Table 19.2). -/
def Freeze.event : Freeze → Option Nat
  | .readPort | .writePort => some 0x010
  | .queue => some 0x011
  | .clasp | .phaser => some 0x012
  | .pending | .translation => some 0x013
  | .bank => some 0x014
  | .scoreboard => some 0x015
  | .root | .monitor | .drain => none

/-- A wall cycle of a bank conflict (R191, R391): the freeze begins behind the cycle that met it, and is over once its cycles have passed, halted
or not. -/
def Ctx.bankTick (c : Ctx) : Ctx :=
  if c.bankLeft = 0 then c
  else match c.frozen with
    | some .bank => if c.bankLeft = 1 then { c.resume with bankLeft := 0 } else { c with bankLeft := c.bankLeft - 1 }
    | _ => { c with frozen := some .bank }

/-- A wall cycle as a context counts it (Table 6.4): ctl.wclk while it holds a task and is not halted, its freeze, and the cycles of a bank
conflict. -/
def Ctx.tick (c : Ctx) : Ctx :=
  Ctx.bankTick { c with
    wclk := if c.task.isSome && !c.halted then c.wclk + 1 else c.wclk
    stalled := if c.frozen.isSome && !c.halted then c.stalled + 1 else c.stalled }

/-- A wall cycle counted against the limits of held `phsw` waits at its end: an answer that came in the limit's own cycle prevails (R364). -/
def Ctx.limitTick (c : Ctx) : Ctx :=
  if c.task.isSome && !c.halted then
    { c with holds := c.holds.map fun h => match h.limit with
        | some n => if n = 0 then h else { h with limit := some (n - 1), expired := h.expired || (n == 1 && h.answer.isNone) }
        | none => h }
  else c

/-! ## Touchstones (R388) -/

/-- One step of the touchstone generator. -/
def touchStep (x : BitVec 32) : BitVec 32 :=
  let x := x ^^^ (x <<< 13)
  let x := x ^^^ (x >>> 17)
  x ^^^ (x <<< 5)

/-- The elements e_0 to e_(n-1) of the generator. -/
def touchElems : Nat → BitVec 32 → List Int
  | 0, _ => []
  | n + 1, x =>
    let y := touchStep x
    (y.extractLsb' 0 8).toInt :: touchElems n y

/-- The known answer f of a seed. -/
def touchFold (seed : BitVec 16) : BitVec 32 :=
  let e := touchElems 128 ((0x9E370000 : BitVec 32) ||| seed.setWidth 32)
  let c (i j : Nat) : BitVec 32 :=
    BitVec.ofInt 32 (((List.range 8).map fun k => e.getD (8 * i + k) 0 * e.getD (64 + 8 * k + j) 0).sum)
  (List.range 64).foldl (fun f n => f.rotateLeft 1 ^^^ c (n / 8) (n % 8)) 0

/-- A touchstone fault (R388): reported, charged to LCNT, and a crossing at the end of its wall cycle, behind one by count (R375). -/
def State.touchFault (s : State) (seed : BitVec 16) (const f : BitVec 32) : State :=
  let s := (s.count 0x051).tallyJob s.who fun j => { j with touches := j.touches + 1 }
  let s := s.report s.who 0x03 (seed.setWidth 64) (const.setWidth 64) (f.setWidth 64)
  let s := s.charge s.who.site false
  s.modTile s.who.site fun t => { t with touches := t.touches + 1 }

/-- The compares that fall due (R388). -/
def State.touchCompares (s : State) (fs : List Flight) : State :=
  fs.foldl (fun s f => match f.pay with
    | .compare seed const r => if r = const then s else s.touchFault seed const r
    | _ => s) s

/-! ## Writes of ctl.margin and of the window at commit (R111, R374, R375) -/

/-- A tile register of a committed `mtc`: an admitted write of ctl.margin returns a level below 3 to 0; a window that has counted
the new ctl.rwin closes with the wall cycle under way, behind what strikes in it (R374, R382); to a written ctl.evcntN and to the counts of a
written ctl.lfault the increments of the same wall cycle are applied (R111). -/
def Tile.commitCtl (t : Tile) (n : BitVec 16) (w : Word) : Tile :=
  let t' := t.writeCtl n w
  if n = 0x30 then
    if marginOk w then { t' with level := if t'.level.toNat < 3 then 0 else t'.level } else t'
  else if n = 0x21 then { t' with tcnt := satInc^[t'.tcntInc] t'.tcnt, lcnt := satInc^[t'.lcntInc] t'.lcnt }
  else if 0x48 ≤ n.toNat && n.toNat ≤ 0x4F then
    let i := n.toNat - 0x48
    { t' with evcnt := t'.evcnt.setIfInBounds i (t'.evcnt.toArray.getD i 0 + BitVec.ofNat 48 (t'.evInc.toArray.getD i 0)) }
  else t'

/-! ## Pulses and ageing (R379 to R381) -/

/-- The cluster of a site (R14): 12d + 4⌊lr/3⌋ + ⌊lc/2⌋. -/
def clusterOf (site : Nat) : Nat := 12 * siteDie site + 4 * (site / 16 % 9 / 3) + site % 16 % 8 / 2

/-- The 6-bit bit reversal of a pulse number. -/
def bitRev6 (n : BitVec 6) : BitVec 6 :=
  BitVec.ofBool (n.getLsbD 0) ++ BitVec.ofBool (n.getLsbD 1) ++ BitVec.ofBool (n.getLsbD 2) ++ BitVec.ofBool (n.getLsbD 3)
    ++ BitVec.ofBool (n.getLsbD 4) ++ BitVec.ofBool (n.getLsbD 5)

/-- The clock word of a cluster, by its fields. -/
def State.clClock (s : State) (cl : Nat) : ClClock := s.clusters.toArray.getD cl ⟨0, 0, 0, 0, 0⟩

/-- The clock word of a cluster replaced. -/
def State.setClClock (s : State) (cl : Nat) (c : ClClock) : State := { s with clusters := s.clusters.setIfInBounds cl c }

/-- A cluster clock word with its K set (Table 18.5): max(AGE, PWR), at most 63. -/
def ClClock.setK (c : ClClock) : ClClock := { c with k := BitVec.ofNat 6 (max c.age.toNat c.pwr.toNat) }

/-- Reference pulse n is swallowed in a cluster (R379). -/
def ClClock.swallows (c : ClClock) (n : Nat) : Bool := (bitRev6 (BitVec.ofNat 6 n)).toNat < c.k.toNat

/-- The reference pulses that have passed: those of the cluster that is furthest (log 83). -/
def State.time (s : State) : Nat := s.pulses.toList.foldl max 0

/-- The rounds in progress at every router grow a router cycle older as reference pulse n passes, unless their cluster swallows
it (R14, R292, R379). -/
def State.ageRounds (s : State) (n : Nat) : State :=
  { s with trees := s.trees.map fun e =>
      if e.2.ports.toList.any (·.isSome) && e.2.stuck.isNone && !(s.clClock (clusterOf (e.1 / 16))).swallows n then
        (e.1, { e.2 with age := e.2.age + 1 })
      else e }

/-- One pulse of a cluster's group passes; K takes its new value at the group's boundary. The first cluster that it passes takes the rounds of
every router with it. -/
def State.pulse (s : State) (cl : Nat) : State :=
  let n := s.pulses.toArray.getD cl 0
  let t := s.time
  let s := { s with pulses := s.pulses.setIfInBounds cl (n + 1) }
  let s := if t ≤ n then s.ageRounds n else s
  if n % 64 = 63 then s.setClClock cl (s.clClock cl).setK else s

/-- The next pulse of a cluster is swallowed (R379). -/
def State.swallows (s : State) (cl : Nat) : Bool := (s.clClock cl).swallows (s.pulses.toArray.getD cl 0)

/-- A tile's next wall cycle would be its cluster's, and its pulse is swallowed: no tile of the cluster has that cycle (R14, R379). -/
def State.heldByPulse (s : State) (site : Nat) : Bool :=
  (s.cycles.toArray.getD (clusterOf site) 0 ≤ (s.getTile site).wall) && s.swallows (clusterOf site)

/-- A wall cycle that a tile has counted is a delivered pulse of its cluster, unless another of its tiles has counted it (R379). -/
def State.delivered (s : State) (site : Nat) : State :=
  let cl := clusterOf site
  let n := s.cycles.toArray.getD cl 0
  if n < (s.getTile site).wall then { s.pulse cl with cycles := s.cycles.setIfInBounds cl (n + 1) } else s

/-- DRIFT of a measured frequency (R381): (birth − measured) ÷ birth × 1,024 truncated, 0 when negative, at most 255. -/
def driftOf (cl measured : Nat) : Nat :=
  min 255 ((Config.birthFrequency cl - measured) * 1024 / Config.birthFrequency cl)

/-- A sample of a cluster's ageing monitors (R381). -/
def State.ageing (s : State) (cl measured : Nat) : State :=
  let c := s.clClock cl
  let d := driftOf cl measured
  let t := s.setClClock cl { c with drift := BitVec.ofNat 8 d }
  if c.limit.toNat * (c.age.toNat + 1) ≤ d then
    if c.age.toNat < 32 then s.setClClock cl { c with drift := BitVec.ofNat 8 d, age := c.age + 1 }
    else { t with windowLog := s.windowLog ++ [BitVec.ofNat 64 cl] }
  else t

/-! ## Wall cycles of a site -/

/-- The end of a site's wall cycle (R364, R371, R374, R375): the crossings of its touchstone faults behind one by count, the close of its
window, the `phsw` limits, and its increments forgotten. What strikes in a wall cycle comes before its end. -/
def State.endCycle (s : State) (site : Nat) : State :=
  if !(s.getTile site).opened then s
  else
    let s := (List.replicate (s.getTile site).touches Crossing.touch).foldl (fun s c => s.cross site c) s
    let s := s.modTile site fun t =>
      { t.windowEnd with opened := false, struck := false, touches := 0, evInc := Vector.replicate 8 0, tcntInc := 0, lcntInc := 0 }
    [0, 1, 2, 3].foldl (fun s k => if (s.getCtx ⟨site, k⟩).holds.isEmpty then s else s.modCtx ⟨site, k⟩ Ctx.limitTick) s

/-- One wall cycle of a site: an injected detection in it, its counters, its contexts and its cluster's pulse. -/
def State.tick (s : State) (site : Nat) : State :=
  let t := s.getTile site
  let s := if t.injDue then (s.inject site (BitVec.ofNat 2 t.lastCtx)).modTile site fun t => { t with replayLeft := t.replayLeft + 1 } else s
  let s := s.modTile site Tile.tick
  let s := [0, 1, 2, 3].foldl (fun s k =>
    let c := s.getCtx ⟨site, k⟩
    let s := if c.task.isSome || c.bankLeft != 0 then s.setCtx ⟨site, k⟩ c.tick else s
    match c.frozen.bind Freeze.event with
    | some code => s.modTile site fun t => t.count code k 1
    | none => s) s
  s.delivered site

end Sys2Proof.Machine
end

