-- ==== Sys2Proof/Machine/Local.lean ====
section
/-! DEFINITION. The local space of the context in focus: forwarding from its store buffer, memory contributions, the range
scoreboard, and writes at the homes of locations with the wake-ups of monitors (09_lineage.md R169 to R174, 10_memories.md). -/

namespace Sys2Proof.Machine

/-! ## The store buffer (R31, R213) -/

/-- The buffered stores that the bundle being issued sees: those of blocks that close, then those that stood in its own block
when it began (R213: its loads read before its stores perform). -/
def State.seenStores (s : State) : List BufStore :=
  s.ctx.closings.flatMap (·.blk.stores) ++ s.ctx.cur.stores.take s.iss.nst

/-- The byte that a buffered store leaves at an offset. -/
def BufStore.byteAt (b : BufStore) (a : Nat) : Option Byte := if b.off ≤ a then b.data[a - b.off]? else none

/-- Whether a buffered store touches the granule that holds an offset. -/
def BufStore.touches (b : BufStore) (a : Nat) : Bool :=
  !b.data.isEmpty && b.off / 256 ≤ a / 256 && a / 256 ≤ (b.off + b.data.length - 1) / 256

/-- A byte of the local space as the context's own load reads it. -/
def State.localByte (s : State) (a : Nat) : Byte :=
  match s.seenStores.reverse.findSome? (·.byteAt a) with
  | some b => b
  | none => s.byte s.who.pad a

/-- `n` bytes of the local space, ascending. -/
def State.localBytes (s : State) (a n : Nat) : List Byte := (List.range n).map fun i => s.localByte (a + i)

/-- The tag word that a store of the context writes (R171). -/
def State.storeTagWord (s : State) (tag : Tag) (ws : BitVec 8) (poison : Bool) : Word :=
  mkTagWord s.ctx.part poison (BitVec.ofNat 10 s.who.site) ws tag

/-- The tag word of a granule as the context's own load takes it: as the latest buffered store that touches it will leave it (R169). -/
def State.localTagWord (s : State) (a : Nat) : Word :=
  match s.seenStores.reverse.find? (·.touches a) with
  | some b => s.storeTagWord b.tag b.ws b.poison
  | none => s.tagWord s.who.pad a

/-! ## Memory contributions (R169) -/

/-- What a read of granules contributes: m, and the first granule that contributed STALE with its writer. -/
structure Contribution where
  m : Tag
  stale : Option (Nat × BitVec 10)
  deriving DecidableEq, Repr

/-- The rule of R169 over granules in access order: offsets and tag words. -/
def contribution (stamp : BitVec 8) (gs : List (Nat × Word)) : Contribution :=
  gs.foldl (fun c g =>
    if tagStamp g.2 = stamp then { c with m := c.m.rotateLeft 1 ^^^ tagTag g.2 }
    else ⟨c.m.rotateLeft 1 ^^^ 0x57A10000, if c.stale.isSome then c.stale else some (g.1, tagWriter g.2)⟩) ⟨0, none⟩

/-- Granule offsets in order of first touch, each once. -/
def firstTouch (offs : List Nat) : List Nat :=
  offs.foldl (fun acc a => if acc.contains (a / 256 * 256) then acc else acc ++ [a / 256 * 256]) []

/-- What a local read of the context finds: its bytes, poison and contribution. -/
structure LocalRead where
  bytes : List Byte
  poison : Bool
  con : Contribution
  deriving DecidableEq, Repr

/-- A read of pieces (offset, length) of the local space against a stamp: R169, R213, R227. -/
def State.localRead (s : State) (stamp : BitVec 8) (pieces : List (Nat × Nat)) : LocalRead :=
  let gs := (firstTouch (pieces.flatMap fun p => granulesOf p.1 p.2)).map fun g => (g, s.localTagWord g)
  ⟨pieces.flatMap fun p => s.localBytes p.1 p.2, gs.any fun g => tagPoison g.2, contribution stamp gs⟩

/-- A read of committed bytes of a scratchpad that sees no buffered store (R302). -/
def State.bankRead (s : State) (h : Home) (stamp : BitVec 8) (pieces : List (Nat × Nat)) : LocalRead :=
  let gs := (firstTouch (pieces.flatMap fun p => granulesOf p.1 p.2)).map fun g => (g, s.tagWord h g)
  ⟨pieces.flatMap fun p => s.bytes h p.1 p.2, gs.any fun g => tagPoison g.2, contribution stamp gs⟩

/-- The stamp register that a selector names (Table 4.11), read at issue. -/
def Regs.stamp (r : Regs) (ssel : BitVec 2) : BitVec 8 := r.es[ssel.toNat]'(ssel.isLt)

/-! ## Ranges (R216) -/

/-- Two ranges (start, length) rounded out to whole granules share one. -/
def overlap (a b : Nat × Nat) : Bool :=
  0 < a.2 && 0 < b.2 && a.1 / 256 ≤ (b.1 + b.2 - 1) / 256 && b.1 / 256 ≤ (a.1 + a.2 - 1) / 256

/-- Two sets of ranges share a granule. -/
def overlapAny (as bs : List (Nat × Nat)) : Bool := as.any fun a => bs.any fun b => overlap a b

/-- The copies of a tile that stand in the range scoreboard of one scratchpad: released, not suspended (R216, R242). A custodian's
copies have its own scratchpad. -/
def Tile.standing (t : Tile) (cust : Bool) : List Job := t.jobs.filter fun j => !j.suspended && (j.cid == 3) == cust

/-- The ranges of committed chunks not yet drained (R281). -/
def Tile.chunkRanges (t : Tile) (cust : Bool) : List (Nat × Nat) :=
  (t.chunks.filter fun c => (c.1 == 3) == cust).flatMap fun c => c.2.pieces.map fun p => (p.1, p.2.length)

/-- The range of the scratchpad of the context in focus that a request of its own still has to read through tile space (R212, log 84). -/
def State.readsPad (s : State) (w : Work) : Option (Nat × Nat) :=
  match w.ev with
  | .remoteAccessArrival r =>
    if w.src = s.who && r.home = s.who.pad then match r.body with
      | .load n => some (r.off, n)
      | .rmw _ ty _ _ _ _ ret _ _ _ => if ret then some (r.off, ty.width / 8) else none
      | _ => none
    else none
  | _ => none

/-- The ranges that requests of the context in focus at its own tile still have to read: under way, or kept by their blocks. -/
def State.tileReads (s : State) : List (Nat × Nat) :=
  (s.work ++ s.ctx.closings.flatMap (·.blk.reqs) ++ s.ctx.cur.reqs).filterMap s.readsPad

/-- A local read of ranges waits on the scoreboard: it overlaps a copy's destination or a chunk not yet drained, or an earlier read of the context
through tile space that has not been served, behind which it must not fall back (R212). -/
def State.readHeld (s : State) (rs : List (Nat × Nat)) : Bool :=
  let cust := s.who.cid == 3
  overlapAny rs ((s.tile.standing cust).flatMap (·.ranDst)) || overlapAny rs (s.tile.chunkRanges cust) || overlapAny rs s.tileReads

/-! ## Writes at a home -/

/-- The contexts whose monitor watches a granule of a scratchpad that a write touches, and has met no write yet (R236). -/
def State.watchers (s : State) (h : Home) (off n : Nat) : List Src :=
  let cids := match h with | .pool site => [0, 1, 2].map (Src.mk site) | .custodian site => [⟨site, 3⟩] | _ => []
  cids.filter fun c => match (s.getCtx c).monitor with
    | some m => !m.hit && overlap (m.off, 1) (off, n)
    | none => false

/-- A context's monitor has met a write served at its granule (R236). -/
def Ctx.monitorHit (c : Ctx) : Ctx := { c with monitor := c.monitor.map fun m => { m with hit := true } }

/-- The monitors of some contexts met by a write, each of which sends its wake-up. -/
def State.wakeAll (s : State) (cs : List Src) : State := cs.foldl (fun s c => (s.modCtx c Ctx.monitorHit).send (wakeWork c)) s

/-- A bank operation that writes bytes with their tag word: the data, the tag words of every granule touched, and the wake-ups of
monitors on them (R171, R174, R236). -/
def State.bankWrite (s : State) (h : Home) (off : Nat) (bs : List Byte) (w : Word) : State :=
  (s.putGranules h off bs w).wakeAll (s.watchers h off bs.length)

/-- The undo log of a partition in checkpoint mode before a write to a line of its device memory; a write that finds it full goes unlogged and is
reported (R204; the report is log 51). -/
def State.logUndo (s : State) (line : Nat) : State :=
  let o := s.frameOwner (64 * line)
  if o.toNat < 16 then
    let p := o.setWidth 4
    let x := s.part p
    if !x.valid || x.tokenMode || x.undo.any (·.line = line) then s
    else
      let stack := line / 4 % 8
      let used := (x.undo.filter fun u => u.line / 4 % 8 == stack).length
      if used < Config.undoEntries (((x.word 15).extractLsb' 0 12).toNat * 4096) then
        s.setPart p { x with undo := x.undo ++ [⟨line, s.bytes .dram (64 * line) 64, s.unitPoison .dram (64 * line)⟩] }
      else (s.setPart p { x with ckptValid := false }).report ⟨0, 3⟩ 0x08 (p.setWidth 64) (BitVec.ofNat 64 (64 * line)) 0
  else s

/-- A write at a location's home: scratchpads take the tag word, the others the poison mark of their units (R171, R199, R202). -/
def State.homeWrite (s : State) (h : Home) (off : Nat) (bs : List Byte) (w : Word) (poison : Bool) : State :=
  match h with
  | .pool _ | .custodian _ => s.bankWrite h off bs w
  | .peerPool _ _ => s.putGranules h off bs w
  | .dram => (((linesOf off bs.length).foldl State.logUndo s).putBytes h off bs).markUnits h off bs.length poison
  | _ => (s.putBytes h off bs).markUnits h off bs.length poison

/-- The poison that a read of `n` bytes at a home delivers (R227). -/
def State.homePoison (s : State) (h : Home) (off n : Nat) : Bool :=
  match h with
  | .pool _ | .custodian _ | .peerPool _ _ => (granulesOf off n).any fun g => tagPoison (s.tagWord h g)
  | _ => s.unitsPoison h off n

/-! ## Placement under the interleave modes (R192) -/

/-- The offset at which the byte of offset `a` stands under mode `m`. -/
def interleave (m : BitVec 2) (a : Nat) : Nat :=
  let g : BitVec 14 := BitVec.ofNat 14 (a / 256)
  let s : BitVec 5 := match m.toNat with
    | 0 => 0
    | 1 => g.extractLsb' 5 5
    | 2 => g.extractLsb' 6 5
    | _ => g.extractLsb' 5 5 ^^^ g.extractLsb' 9 5
  (g ^^^ s.setWidth 14).toNat * 256 + a % 256

/-- Whether a local range lies wholly in the scratchpad of the context in focus (R189). -/
def State.inPad (s : State) (off n : Nat) : Bool := off + n ≤ s.padSize s.who.pad

/-- A 64-bit word of the local space as the context's own load reads it. -/
def State.localWord (s : State) (off : Nat) : Word := BitVec.ofNat 64 (leNat (s.localBytes off 8))

/-- Operations of other units on the granules of a range, which the banks of a pool serve in the wall cycle that comes before a bundle's loads
(R191, log 24). The custodian scratchpad stands beside the pool and its banks (R190). -/
def State.useBanks (s : State) (h : Home) (off n : Nat) : State :=
  match h with
  | .pool site => s.modTile site fun t => { t with banks := t.banks ++ (granulesOf off n).map fun g => g / 256 % 32 }
  | _ => s

/-- The granules that the local loads of the bundle being issued read, each under its syllable (R191). -/
def State.loadsGranules (s : State) (off n : Nat) : State :=
  { s with iss := { s.iss with banks := s.iss.banks ++ (granulesOf off n).map fun g => (s.iss.addr, g / 256) } }

end Sys2Proof.Machine
end

