-- ==== Sys2Proof/Machine/Phaser.lean ====
section
/-! DEFINITION. Phasers: their state words, the events of Table 17.3 and the completion of phases (17_phasers.md). -/

namespace Sys2Proof.Machine

/-! ## Refusals (R209) -/

/-- The narrowest scope that covers a tile, or a phaser of it, as seen from a context (R209). -/
def siteScope (c : Src) (site : Nat) : Scope :=
  if site = c.site then .tile else if site < 288 && siteDie site == siteDie c.site then .die else .device

/-- The narrowest scope that covers a home (R209). -/
def homeScope (c : Src) : Home → Scope
  | .pool site | .custodian site => siteScope c site
  | .host => .system
  | .peerMem _ | .peerPool _ _ => .domain
  | _ => .device

/-- Scopes in their order (R211). -/
def scopeRank : Scope → Nat
  | .context => 0 | .tile => 1 | .die => 2 | .device => 3 | .domain => 4 | .system => 5

/-- A refused effect: logged, and recorded for the next covering `drain` or `fence` of the context that sent it (R209, R246); one of a peer device
has its record there (log 81). -/
def State.refuse (s : State) (c : Src) (p : BitVec 4) (addr : Word) (sc : Scope) (why : ErrReason) : State :=
  let t := s.logError p addr why
  if 288 ≤ c.site then t else t.modCtx c fun x => { x with refusals := x.refusals ++ [⟨sc, addr⟩] }

/-- An answer on its way to the context that asked (R35). -/
def answerWork (a : Answer) : Work := ⟨a.src, .context a.src, false, false, false, .asyncResultArrival a⟩

/-- The acknowledgement of a write on its way to its context: it holds the message entry until it arrives (R215, R238). -/
def ackWork (c : Src) : Work := ⟨c, .context c, false, false, true, .writeAcknowledgement c⟩

/-! ## State words (Table 17.1) -/

/-- The number of a phaser. -/
def phaserKey (site idx : Nat) : Nat := 4096 * site + idx

/-- A phaser of this package. -/
def State.phaser (s : State) (site idx : Nat) : Phaser := clGet Phaser.reset s.phasers (phaserKey site idx)

/-- Writing a phaser. -/
def State.setPhaser (s : State) (site idx : Nat) (p : Phaser) : State :=
  { s with phasers := clSet Phaser.reset s.phasers (phaserKey site idx) p }

/-- State word w of a phaser. -/
def Phaser.word (p : Phaser) (w : Nat) : Word :=
  match w with
  | 0 => p.phase ++ p.pend
  | 1 => p.smem ++ p.sig ++ p.snext ++ p.wmem
  | _ => BitVec.ofBool p.v ++ BitVec.ofBool p.err ++ BitVec.ofBool p.lerr ++ p.scope ++ p.part ++ (0 : BitVec 54)

/-- A wait for phase `q` is satisfied: 1 ≤ (PHASE − q) mod 2^32 ≤ 2^31 (R360). -/
def Phaser.passed (p : Phaser) (q : BitVec 32) : Bool :=
  let d := (p.phase - q).toNat
  1 ≤ d && d ≤ 2 ^ 31

/-- The status word of Table 17.4. -/
def Phaser.status (p : Phaser) (done : Bool) : Word :=
  p.phase ++ (0 : BitVec 29) ++ BitVec.ofBool p.err ++ BitVec.ofBool p.lerr ++ BitVec.ofBool done

/-! ## Completion (R355) -/

/-- The condition of completion. -/
def Phaser.ready (p : Phaser) : Bool := p.v && p.smem.toNat ≤ p.sig.toNat && (p.pend == 0 || p.err)

/-- The step of a completion. -/
def Phaser.advance (p : Phaser) : Phaser :=
  { p with phase := p.phase + 1, lerr := p.err, err := false, smem := p.smem + p.snext, snext := 0, sig := 0 }

/-- The answer that wakes a wait. -/
def Phaser.answer (p : Phaser) (w : PWait) : Work := answerWork ⟨w.src, w.id, [p.status true], false, 0⟩

/-- A phaser after an event that may complete its phase: stored, with the waits whose phase has passed woken. -/
def State.completePhaser (s : State) (site idx : Nat) (p : Phaser) : State :=
  if p.ready then
    let q := p.advance
    let woken := q.waits.filter fun w => q.passed w.p
    (s.setPhaser site idx { q with waits := q.waits.filter fun w => !q.passed w.p }).sendAll (woken.map q.answer)
  else s.setPhaser site idx p

/-- A phaser that a drop leaves without members and bytes is freed; PHASE keeps its value. -/
def Phaser.freed (p : Phaser) : Phaser :=
  if p.smem == 0 && p.snext == 0 && p.wmem == 0 && p.pend == 0 then
    { p with v := false, err := false, lerr := false, scope := 0, part := 0 }
  else p

/-- Scope codes of Table 17.1. -/
def scopeCode : Scope → BitVec 3
  | .tile => 1 | .die => 2 | _ => 3

/-! ## The events (Table 17.3) -/

/-- A phaser in use belongs to another partition. -/
def Phaser.foreign (p : Phaser) (part : BitVec 4) : Bool := p.v && p.part != part

/-- Registration: refused, or the phaser after it. -/
def Phaser.register (p : Phaser) (part : BitVec 4) (mode : BitVec 2) (sc : Scope) : Option Phaser :=
  let sig := mode.getLsbD 0
  let wt := mode.getLsbD 1
  if p.foreign part || (sig && p.smem.toNat + p.snext.toNat = 65535) || (wt && p.wmem.toNat = 65535) then none
  else
    let q := if p.v then p else { p with v := true, part := part, scope := scopeCode sc }
    let q := if sig then (if q.sig = 0 then { q with smem := q.smem + 1 } else { q with snext := q.snext + 1 }) else q
    some (if wt then { q with wmem := q.wmem + 1 } else q)

/-- Drop: refused, or the phaser after it, before completion. -/
def Phaser.drop (p : Phaser) (part : BitVec 4) (mode : BitVec 2) : Option Phaser :=
  let sig := mode.getLsbD 0
  let wt := mode.getLsbD 1
  if !p.v || p.part != part || (sig && p.smem = 0) || (wt && p.wmem = 0) then none
  else
    let q := if sig then { p with smem := p.smem - 1 } else p
    some (if wt then { q with wmem := q.wmem - 1 } else q)

/-- Signal: refused, or the phaser after it, before completion. -/
def Phaser.signal (p : Phaser) (part : BitVec 4) : Option Phaser :=
  if !p.v || p.part != part then none
  else some { p with sig := if p.sig = 65535 then p.sig else p.sig + 1 }

/-- Byte addition: refused, or the phaser after it. -/
def Phaser.addBytes (p : Phaser) (part : BitVec 4) (n : Nat) : Option Phaser :=
  if !p.v || p.part != part then none
  else if 2 ^ 32 - 1 < p.pend.toNat + n then some { p with pend := 0xFFFFFFFF, err := true }
  else some { p with pend := p.pend + BitVec.ofNat 32 n }

/-- A countdown of landed bytes, clamped at 0. -/
def Phaser.countDown (p : Phaser) (n : Nat) : Phaser := { p with pend := BitVec.ofNat 32 (p.pend.toNat - n) }

/-- A message reaches the phaser's device and an active site there: only a link that is up carries it to a peer (R350, R437). -/
def State.phReached (s : State) (m : PhMsg) : Bool :=
  if m.dev = Config.device then (s.logicalOf m.site).isSome else s.reaches m.part (.peerPool m.dev (m.tile.getD 0))

/-- Bytes of a copy landed: counted down at its phaser, wherever that stands now, which may complete (R353, R355). A peer device's phaser stands
there. -/
def State.countDown (s : State) (m : PhMsg) (n : Nat) : State :=
  let m := s.phNow m
  if m.dev = Config.device && (s.logicalOf m.site).isSome then s.completePhaser m.site m.idx ((s.phaser m.site m.idx).countDown n) else s

/-- An error arrival on its way to a phaser. -/
def errorWork (m : PhMsg) (n : Nat) : Work := ⟨m.src, m.dst, false, false, false, .phaserErrorArrival m n⟩

/-- A message that changes a phaser, or the refusal of it when the phaser refuses or its site is no longer active (R356, R437). -/
def State.phaserEvent (s : State) (m : PhMsg) (f : Phaser → Option Phaser) (g : Phaser → State) : State :=
  let s' := match (if (s.logicalOf m.site).isSome then f (s.phaser m.site m.idx) else none) with
    | some p => g p
    | none => s.refuse m.src m.part m.ref (siteScope m.src m.site) 4
  s'.send (ackWork m.src)

/-- PHASER_REGISTRATION (R356, R364). -/
def execPhaserRegistration (m : PhMsg) (mode : BitVec 2) (sc : Scope) (s : State) : Host.Outcome State Fault Refusal :=
  .next (s.phaserEvent m (·.register m.part mode sc) fun p => s.setPhaser m.site m.idx p)

/-- PHASER_DROP (R355, R356): completion follows a drop of a signal membership, and then the freeing. -/
def execPhaserDrop (m : PhMsg) (mode : BitVec 2) (s : State) : Host.Outcome State Fault Refusal :=
  .next (s.phaserEvent m (·.drop m.part mode) fun p =>
    let s1 := if mode.getLsbD 0 then s.completePhaser m.site m.idx p else s.setPhaser m.site m.idx p
    s1.setPhaser m.site m.idx (s1.phaser m.site m.idx).freed)

/-- PHASER_SIGNAL (R355, R356). -/
def execPhaserSignal (m : PhMsg) (s : State) : Host.Outcome State Fault Refusal :=
  .next (s.phaserEvent m (·.signal m.part) fun p => s.completePhaser m.site m.idx p)

/-- PHASER_ERROR_ARRIVAL (R355, R356): bytes counted down with ERR set; one that reaches no active site, or a link that is not up, is refused and
logged (R350, R437). What a peer device's phaser does stands there. -/
def execPhaserErrorArrival (m : PhMsg) (n : Nat) (s : State) : Host.Outcome State Fault Refusal :=
  .next (if !s.phReached m then s.logError m.part m.ref 4
    else if m.dev = Config.device then s.completePhaser m.site m.idx { (s.phaser m.site m.idx).countDown n with err := true }
    else s.carried (.peerPool m.dev (m.tile.getD 0)))

/-- The outcome of a wait as it reaches its phaser (R360, R437): satisfied, refused, or held there. -/
inductive WaitFate where
  | satisfied (w : Word) | refused | held
  deriving DecidableEq, Repr

/-- The test of a wait for phase `q` by partition `part` (R360). -/
def Phaser.test (p : Phaser) (active : Bool) (part : BitVec 4) (q : BitVec 32) : WaitFate :=
  if !active || p.foreign part then .refused
  else if p.passed q then .satisfied (p.status true)
  else if p.v then .held
  else .refused

/-- PHASER_WAIT_ARRIVAL (R360): answered, refused, or held until a completion wakes it. -/
def execPhaserWaitArrival (m : PhMsg) (q : BitVec 32) (id : Nat) (s : State) : Host.Outcome State Fault Refusal :=
  let p := s.phaser m.site m.idx
  match p.test (s.logicalOf m.site).isSome m.part q with
  | .satisfied w => .next (s.send (answerWork ⟨m.src, id, [w], false, 0⟩))
  | .refused => .next ((s.logError m.part m.ref 4).send (answerWork ⟨m.src, id, [], false, 0⟩))
  | .held => .next (s.setPhaser m.site m.idx { p with waits := p.waits ++ [⟨m.src, id, q⟩] })

/-- The answer of `phexp` and `phrd` at the phaser (R364, R437). -/
def State.phaserRead (s : State) (site idx : Nat) (a : Access) : Word × Bool :=
  if (s.logicalOf site).isNone then (0, true)
  else
    let p := s.phaser site idx
    match a with
    | .phexp q => (p.status (p.passed q), false)
    | .phrd w => (p.word w.toNat, false)
    | _ => (0, false)

end Sys2Proof.Machine
end

