-- ==== Sys2Proof/Machine/Contain.lean ====
section
/-! DEFINITION. Containment faults and the rollback of a partition (R204, 19_audit_counters.md R387). -/

namespace Sys2Proof.Machine

/-- Rollback: the logged lines written back, newest first, with their poison marks; the log is emptied (R204). -/
def State.rollBack (s : State) (p : BitVec 4) : State :=
  let x := s.part p
  let s := x.undo.reverse.foldl (fun s u => (s.putBytes .dram (64 * u.line) u.data).setUnit .dram (64 * u.line) u.poison) s
  s.setPart p { s.part p with undo := [], rollback := false }

/-- A partition stopped: its host queues halt, its tasks stop as R387 states, and in checkpoint mode with a valid checkpoint its
memory is rolled back once they have. -/
def State.stopPartition (s : State) (p : BitVec 4) : State :=
  let x := s.part p
  s.setPart p { x with
    stopped := true
    rollback := !x.tokenMode && x.ckptValid
    hq := x.hq.map fun q => (q.1, { q.2 with halted := true }) }

/-- The abort token of a fault: sent at most once, to every device of the collective group, over its link, where one that re-keys makes it wait
(R348, R387). One bound for a link that is not up is logged (R350). -/
def State.sendTokens (s : State) (p : BitVec 4) : State :=
  let x := s.part p
  let st := match x.unwind with | some u => if u.toNat < x.step.toNat then u else x.step | none => x.step
  let others := x.group.filter fun d => d != Config.device
  let up (d : Nat) : Bool := s.reaches p (.peerMem d)
  if x.tokens.isEmpty then
    let t := s.setPart p { x with unwind := some st, tokens := (others.filter up).map fun d => (d, st) }
    let t := (others.filter up).foldl (fun t d => t.carried (.peerMem d)) t
    (others.filter fun d => !up d).foldl (fun s d => s.logError p (BitVec.ofNat 64 d) 1) t
  else s.setPart p { x with unwind := some st }

/-- A containment fault of a partition (R387): reported with the offending syllable's address to the custodian of the site where it
arose; the partition stops by its CMODE. -/
def State.contain (s : State) (c : Src) (p : BitVec 4) (syl : Word) : State :=
  let x := s.part p
  let s := s.report c 0x04 (p.setWidth 64) (if x.tokenMode then 1 else 0) syl
  let s := s.stopPartition p
  if x.tokenMode then s.sendTokens p else s

end Sys2Proof.Machine
end

