-- ==== Sys2Proof/Machine/Copy.lean ====
section
/-! DEFINITION. Copies: tensor layout records, the checks at release, landing, suspension, chains and the fills of block slots
(11_memory_instructions.md R229, R230, R238 to R244, 14_matrix_tables.md R295 to R300, 10_memories.md R196). -/

namespace Sys2Proof.Machine

/-! ## Tensor layout records (R295 to R300) -/

/-- A dimension of a record. For I4X, dimension 0 counts element pairs and every other stride is in pairs (R297). -/
structure Dim where
  extent : Nat
  stride : Int
  win : Nat
  deriving DecidableEq, Repr

/-- A record as a copy uses it. -/
structure Layout where
  b : Nat
  fill : BitVec 2
  imode : BitVec 2
  seed : Tag
  base : Word
  pattern : BitVec 32
  wstamp : BitVec 8
  dims : List Dim
  deriving DecidableEq, Repr

/-- EXTENT of a dimension word. -/
def dimExtent (w : Word) : Nat := (w.extractLsb' 44 20).toNat
/-- STRIDE of a dimension word. -/
def dimStride (w : Word) : Int := (w.extractLsb' 12 32).toInt
/-- WIN of a dimension word. -/
def dimWin (w : Word) : Nat := (w.extractLsb' 0 12).toNat

/-- RANK of w0. -/
def recRank (w0 : Word) : Nat := (w0.extractLsb' 47 5).toNat
/-- CONT of w0. -/
def recCont (w0 : Word) : Bool := w0.getLsbD 46
/-- FMT of w0. -/
def recFmt (w0 : Word) : Option Fmt := Fmt.ofCode (w0.extractLsb' 52 4)

/-- The index, among the words of record and continuation, of the word of dimension d (R295, R296). -/
def dimIndex (d : Nat) : Nat := if d < 9 then 3 + d else d + 4

/-- A dimension word below the rank breaks R300. -/
def dimBad (i4x : Bool) (d : Nat) (w : Word) : Bool :=
  dimExtent w == 0 || dimWin w == 0 ||
    (i4x && (if d = 0 then dimStride w != 1 || dimExtent w % 2 == 1 || dimWin w % 2 == 1 else dimStride w % 2 != 0))

/-- The conditions of R300 on w0. -/
def headBad (w : Word) : Bool :=
  w.extractLsb' 56 8 != 0xA5 || (recFmt w).isNone || recRank w == 0 || 16 < recRank w || w.extractLsb' 32 10 != 0
    || recCont w != decide (9 < recRank w)

/-- Word i of a record and its continuation breaks R300. -/
def wordBad (ws : List Word) (i : Nat) : Bool :=
  let w0 := ws.getD 0 0
  let w := ws.getD i 0
  let dim (d : Nat) : Bool := if d < recRank w0 then dimBad (recFmt w0 == some .i4x) d w else w != 0
  if i = 0 then headBad w
  else if i = 1 then w.extractLsb' 57 7 != 0
  else if i = 2 then w.extractLsb' 0 24 != 0
  else if i < 12 then dim (i - 3)
  else if i = 12 then w != 0xA600000000000000
  else if i < 20 then dim (i - 4)
  else w != 0

/-- The first offending word, in ascending order (R300). -/
def firstBad (ws : List Word) : Option Nat := (List.range ws.length).find? (wordBad ws)

/-- The record of words that pass R300. -/
def Layout.of (ws : List Word) : Layout :=
  let w0 := ws.getD 0 0
  let i4x := recFmt w0 == some .i4x
  let dims := (List.range (recRank w0)).map fun d =>
    let w := ws.getD (dimIndex d) 0
    if i4x then
      if d = 0 then Dim.mk (dimExtent w / 2) 1 (dimWin w / 2) else Dim.mk (dimExtent w) (dimStride w / 2) (dimWin w)
    else Dim.mk (dimExtent w) (dimStride w) (dimWin w)
  { b := if i4x then 1 else ((recFmt w0).getD .i8).width / 8
    fill := w0.extractLsb' 44 2
    imode := w0.extractLsb' 42 2
    seed := w0.setWidth 32
    base := ws.getD 1 0
    pattern := (ws.getD 2 0).extractLsb' 32 32
    wstamp := (ws.getD 2 0).extractLsb' 24 8
    dims := dims }

/-- The byte count of a window, fill included (R299). -/
def Layout.bytes (l : Layout) : Nat := l.dims.foldl (fun n d => n * d.win) l.b

/-- The origin of each dimension from the lanes of the command (R298). -/
def Layout.origin (l : Layout) (i4x : Bool) (o : Lanes) : List Int :=
  (List.range l.dims.length).map fun i =>
    let v := (o.toArray.getD i 0).toInt
    if i4x && i = 0 then v / 2 else v

/-- A dimension whose window reaches outside the tensor (R298). -/
def raggedAt (d : Dim) (o : Int) : Bool := o < 0 || (d.extent : Int) < o + d.win

/-- The lowest ragged dimension. -/
def Layout.ragged (l : Layout) (os : List Int) : Option Nat :=
  (List.range l.dims.length).find? fun i => raggedAt (l.dims.getD i ⟨1, 0, 1⟩) (os.getD i 0)

/-- The coordinates of window element e: dimension 0 fastest (R299). -/
def winCoords : List Dim → List Int → Nat → List (Dim × Int)
  | [], _, _ => []
  | d :: ds, os, e => (d, os.headD 0 + (e % d.win : Nat)) :: winCoords ds os.tail (e / d.win)

/-- The far-side byte address of coordinates (R297). -/
def Layout.far (l : Layout) (cs : List (Dim × Int)) : Nat :=
  (((l.base.toNat : Int) + l.b * (cs.map fun c : Dim × Int => c.2 * c.1.stride).sum) % 2 ^ 57).toNat

/-- What a byte of the window is: a byte of the far side, a fill byte, also one read from the tensor's edge, or one that is not written
(Table 14.2). -/
inductive WinByte where
  | far (addr : Nat)
  | edge (addr : Nat)
  | fill (v : Byte)
  | skip
  deriving DecidableEq, Repr

/-- The byte at dense position p of the window (Table 14.2). PATTERN holds four bytes: the bytes 4 to 7 of a constant fill of an 8-byte element are 0
here (log 97). -/
def Layout.byteAt (l : Layout) (os : List Int) (out : Bool) (p : Nat) : WinByte :=
  let cs := winCoords l.dims os (p / l.b)
  let r := p % l.b
  if cs.all fun c => decide (0 ≤ c.2 ∧ c.2 < c.1.extent) then .far ((l.far cs + r) % 2 ^ 57)
  else if out then .skip
  else match l.fill.toNat with
    | 1 => .fill ((l.pattern >>> (8 * r)).setWidth 8)
    | 2 => .edge ((l.far (cs.map fun c => (c.1, max 0 (min c.2 (c.1.extent - 1)))) + r) % 2 ^ 57)
    | _ => .fill 0

/-! ## Jobs -/

/-- Why a copy stops: a copy fault with its detail and address, or poison at a boundary (R21). -/
inductive CopyStop where
  | fault (detail : BitVec 8) (addr : Word)
  | poison
  deriving DecidableEq, Repr

/-- The context of a job. -/
def Job.src (j : Job) (site : Nat) : Src := ⟨site, j.cid⟩

/-- A job of a tile. -/
def State.job? (s : State) (site id : Nat) : Option Job := (s.getTile site).jobs.find? (·.id = id)

/-- An update of a job. -/
def State.modJob (s : State) (site id : Nat) (f : Job → Job) : State :=
  s.modTile site fun t => { t with jobs := t.jobs.map fun j => if j.id = id then f j else j }

/-- A copy retires: it leaves the scoreboard and its queue (R216, R238). -/
def State.retireJob (s : State) (site id : Nat) : State :=
  s.modTile site fun t => { t with jobs := t.jobs.filter (·.id != id) }

/-- The next bytes of a copy on their way. -/
def landWork (c : Src) (id : Nat) : Work := ⟨c, .copy id, false, false, false, .copyBytesLand c.site id⟩

/-- The byte addition of a copy on its way to its phaser (R239). -/
def additionWork (j : Job) : Work := ⟨j.ph.src, j.ph.dst, false, false, false, .phaserByteAddition j.ph j.bytes j.id⟩

/-! ## Block slots of the line cache (R196, R198, R230) -/

/-- A block slot of a site. -/
def State.slot (s : State) (site k : Nat) : LineSlot := (s.getTile site).slots.toArray.getD k LineSlot.reset

/-- Writing a block slot. -/
def State.setSlot (s : State) (site k : Nat) (x : LineSlot) : State :=
  s.modTile site fun t => { t with slots := t.slots.setIfInBounds k x }

/-- A block slot emptied: a fill still in progress, suspended or not, stops, and its bytes not yet landed are counted down at once (R230). -/
def State.emptySlot (s : State) (site k : Nat) : State :=
  let x := s.slot site k
  let s := s.setSlot site k LineSlot.reset
  match s.job? site x.job with
  | some j =>
    let s := s.retireJob site j.id
    if j.added then s.countDown j.ph (j.bytes - 128 * j.pos) else s
  | none => s

/-- The lines of the non-empty blocks of a tile; an uncached slot holds none. -/
def State.linesHeld (s : State) (site : Nat) : Nat :=
  ((s.getTile site).slots.toList.map fun x => match x.st with | .filling | .ready => x.lines | _ => 0).sum

/-- The next own block that an allocation empties: evict-first ones first, then the others, oldest fill first (R196). -/
def State.victim (s : State) (site cid : Nat) : Option Nat :=
  let own := (List.range 64).filter fun k =>
    let x := s.slot site k
    x.owner == cid && (x.st == .filling || x.st == .ready)
  let older (best : Option Nat) (k : Nat) : Option Nat := match best with
    | none => some k
    | some b => if (s.slot site k).order < (s.slot site b).order then some k else some b
  match (own.filter fun k => (s.slot site k).evict).foldl older none with
  | some k => some k
  | none => own.foldl older none

/-- Own blocks emptied until `lines` fit, or none is left. -/
def State.makeRoom (s : State) (site cid lines : Nat) : Nat → State
  | 0 => s
  | fuel + 1 =>
    if s.linesHeld site + lines ≤ 512 * poolLC ((s.getTile site).curPool.getD 0) then s
    else match s.victim site cid with
      | some k => (s.emptySlot site k).makeRoom site cid lines fuel
      | none => s

/-! ## Checks at release (R239) -/

/-- What the checks of a copy give: the job's window. -/
structure Window where
  bytes : Nat
  units : Nat
  ranDst : List (Nat × Nat)
  ranSrc : List (Nat × Nat)
  words : List Word
  deriving DecidableEq, Repr

/-- The granules a dense local side touches, and how many landing steps it takes: one for each. -/
def sideRange (imode : BitVec 2) (off n : Nat) : List (Nat × Nat) :=
  if imode = 0 then [(off, n)] else [(off / 8192 * 8192, ((off + n - 1) / 8192 + 1) * 8192 - off / 8192 * 8192)]

/-- The checks of R240, R299 and R300: the place of the record, its words in ascending order, then an odd I4X origin, a ragged dimension without
fill and the local range (log 85). -/
def State.checkTensor (s : State) (c : Src) (cmd : CopyCmd) (out : Bool) : Except CopyStop Window :=
  let off := (cmd.s1.extractLsb' 0 22).toNat
  let size := s.padSize c.pad
  let w (i : Nat) : Word := BitVec.ofNat 64 (s.word c.pad (off + 8 * i) 8)
  if off % 8 != 0 || size < off + 96 then .error (.fault 4 cmd.s1)
  else
    let cont := recCont (w 0)
    if cont && size < off + 192 then .error (.fault 4 cmd.s1)
    else
      let ws := (List.range (if cont then 24 else 12)).map w
      match firstBad ws with
      | some i => .error (.fault 3 (BitVec.ofNat 64 (off + 8 * i)))
      | none =>
        let l := Layout.of ws
        let i4x := recFmt (w 0) == some .i4x
        let os := l.origin i4x cmd.origin
        if i4x && (cmd.origin.toArray.getD 0 0).getLsbD 0 then .error (.fault 4 (BitVec.ofNat 64 (off + 24)))
        else match (if l.fill = 0 then l.ragged os else none) with
          | some d => .error (.fault 4 (BitVec.ofNat 64 (off + 8 * dimIndex d)))
          | none =>
            let loc := (cmd.s3.extractLsb' 0 22).toNat
            if size < loc + l.bytes then .error (.fault 4 cmd.s3)
            else
              let r := sideRange l.imode loc l.bytes
              .ok ⟨l.bytes, (granulesOf loc l.bytes).length, if out then [] else r, if out then r else [], ws⟩

/-- The destination of a granule copy: device, logical tile and offset (R241, R243). -/
def copyTarget (peer : Bool) (s1 : Word) : Nat × Nat × Nat :=
  (if peer then (s1.extractLsb' 34 6).toNat else Config.device, (s1.extractLsb' 22 12).toNat, (s1.extractLsb' 0 22).toNat)

/-- The checks of R241 and R243; every bit of s2 takes part in them (log 85). -/
def State.checkGranules (s : State) (c : Src) (cmd : CopyCmd) (peer self : Bool) : Except CopyStop Window :=
  let (dev, logical, off) := copyTarget peer cmd.s1
  let n := (cmd.s3.extractLsb' 0 15).toNat
  let src := cmd.s2.toNat
  let fail : Except CopyStop Window := .error (.fault 4 cmd.s1)
  let high := if peer then cmd.s1.extractLsb' 40 24 == 0 else cmd.s1.extractLsb' 34 30 == 0
  if !high || cmd.s3.extractLsb' 15 49 != 0 || n = 0 || 16384 < n || off % 256 != 0 || src % 256 != 0 then fail
  else if s.padSize c.pad < src + 256 * n then fail
  else if dev = Config.device then
    match s.siteOf logical with
    | none => fail
    | some site =>
      if !self || s.padSize (.pool site) < off + 256 * n then fail
      else .ok ⟨256 * n, n, if Home.pool site = c.pad then [(off, 256 * n)] else [], [(src, 256 * n)], []⟩
  else if 272 ≤ logical || poolSize 0 < off + 256 * n then fail
  else .ok ⟨256 * n, n, [], [(src, 256 * n)], []⟩

/-- The checks of R229; each shows the s1 base (log 85). -/
def checkFill (cmd : CopyCmd) : Except CopyStop Window :=
  let n := (cmd.s2.extractLsb' 0 7).toNat
  if n = 0 || 64 < n || cmd.s1.extractLsb' 0 7 != 0 then .error (.fault 4 cmd.s1)
  else .ok ⟨128 * n, n, [], [], []⟩

/-- The checks of a copy's own form. -/
def State.checkCopy (s : State) (c : Src) (cmd : CopyCmd) : Except CopyStop Window :=
  match cmd.form with
  | .tensor out _ => s.checkTensor c cmd out
  | .weave => s.checkGranules c cmd false true
  | .peer => s.checkGranules c cmd true false
  | .chain _ => s.checkGranules c cmd true true
  | .fill _ _ _ => checkFill cmd

/-- The windows of the copies that closing blocks of the context in focus list, as their release behind the stores of those blocks enters them
(R33, R216). -/
def State.copiesToCome (s : State) : List Window :=
  let t := (s.ctx.closings.flatMap (·.blk.stores)).foldl (fun s b => s.putBytes s.who.pad b.off b.data) s
  (s.ctx.closings.flatMap (·.blk.cmds)).filterMap fun k =>
    match k.op with
    | .copy cmd => (t.checkCopy s.who cmd).toOption
    | _ => none

/-- A local store or atomic waits: it overlaps a copy's destination or source, or a chunk not yet drained (R216). A copy that an earlier block of the
context lists, not released yet, holds it too: else the store would drain while the copy still reads, against R247 (log 90). -/
def State.writeHeld (s : State) (rs : List (Nat × Nat)) : Bool :=
  let cust := s.who.cid == 3
  s.readHeld rs || overlapAny rs ((s.tile.standing cust).flatMap (·.ranSrc))
    || overlapAny rs (s.copiesToCome.flatMap fun w => w.ranDst ++ w.ranSrc)

/-- The phaser that a copy names: on the issuing tile for `copy` and `ldblk`, at the destination otherwise (R239). -/
def State.copyPhaser (s : State) (c : Src) (part : BitVec 4) (cmd : CopyCmd) : PhMsg :=
  let local_ := PhMsg.mk c Config.device none c.site cmd.ph.toNat part
    (BitVec.ofNat 64 (((s.logicalOf c.site).getD 0) * 4096 + cmd.ph.toNat))
  let remote (peer : Bool) : PhMsg :=
    let (dev, logical, _) := copyTarget peer cmd.s1
    let ref := BitVec.ofNat 64 ((if dev = Config.device then 0 else dev * 2 ^ 24) + logical * 4096 + cmd.ph.toNat)
    s.phNow ⟨c, dev, some logical, logical, cmd.ph.toNat, part, ref⟩
  match cmd.form with
  | .tensor _ _ | .fill _ _ _ => local_
  | .weave => remote false
  | .peer | .chain _ => remote true

/-- A fill whose phaser counts, or any other copy. -/
def CopyCmd.counts (c : CopyCmd) : Bool :=
  match c.form with
  | .fill _ _ counted => counted
  | _ => true

/-! ## Suspension and chains (R208, R242 to R244) -/

/-- An asynchronous trap falls due for a context; a monitor wait wakes for it, but that a wound outside a handler aborts its block (R119, R236,
R328). -/
def State.postTrap (s : State) (c : Src) (t : ATrap) : State :=
  let x := s.getCtx c
  let s := s.setCtx c { x with traps := x.traps ++ [t], heldBit := x.heldBit || x.ih }
  if x.monitor.isSome && x.wokenBy t then s.send (wakeWork c) else s

/-- The byte addition of a copy is on its way. -/
def State.adding (s : State) (id : Nat) : Bool := s.work.any fun w => match w.ev with | .phaserByteAddition _ _ i => i == id | _ => false

/-- A chain that closes as failed: its commands retire, every phaser receives the bytes that the chain added to it as one error arrival (log 60), an
addition that is still on its way being answered by one of its own once its phaser takes it, and the context takes the copy fault (R244). -/
def State.failChain (s : State) (c : Src) (detail : BitVec 8) (addr : Word) : State :=
  match (s.getCtx c).chain with
  | none => s
  | some ch =>
    let jobs := (s.getTile c.site).jobs.filter fun j => ch.jobs.contains j.id
    let added := jobs.filter (·.added)
    let s := (added.map (·.ph)).eraseDups.foldl (fun s m =>
      s.depart (errorWork m ((added.filter fun j => j.ph == m).foldl (fun n j => n + j.bytes) 0))) s
    let s := jobs.foldl (fun s j => s.retireJob c.site j.id) s
    (s.modCtx c fun x => { x with chain := none }).postTrap c (.copyFault (ch.jobs.headD 0) detail addr)

/-- A copy suspended at a fault: an error arrival of 0 bytes at its phaser unless that refused it, and the copy-fault trap for its
context; a command of a chain fails the chain; a block slot being filled becomes empty (R198, R208, R242, R244). -/
def State.suspend (s : State) (site id : Nat) (detail : BitVec 8) (addr : Word) : State :=
  match s.job? site id with
  | none => s
  | some j =>
    let c := j.src site
    let s := s.logError j.ph.part addr 3
    if j.chained then s.failChain c detail addr
    else
      let s := s.modJob site id fun j => { j with suspended := true }
      let s := match j.cmd.form with
        | .fill k _ _ => if (s.slot site k).job = id then s.setSlot site k { s.slot site k with st := .empty } else s
        | _ => s
      let s := if j.refused || !j.cmd.counts then s else s.depart (errorWork j.ph 0)
      s.postTrap c (.copyFault id detail addr)

/-- A stop of a copy: its suspension, or the containment fault of its partition with the syllable that issued it. -/
def State.stopCopy (s : State) (site id : Nat) : CopyStop → State
  | .fault d a => s.suspend site id d a
  | .poison => match s.job? site id with
    | some j => (s.contain (j.src site) j.ph.part j.cmd.syl).retireJob site id
    | none => s

/-! ## Starting (R229, R239) -/

/-- The effective allocation of a fill of n lines: no allocation where a page of the block is uncached or a device page (R210, log 72). -/
def State.fillHint (s : State) (c : Src) (part : BitVec 4) (va : Word) (n : Nat) (h : Hint) : Hint :=
  let bare (i : Nat) : Bool := match s.translate c.site part (va + BitVec.ofNat 64 (128 * i)) .read with
    | .ok p => pteType p.leaf != 0
    | _ => false
  if (List.range n).any bare then .noAlloc else h

/-- The block of a fill allocated (R196): the slot filling, or uncached, which lets its copy retire at once. `old` is what the slot holds
of the fill when it resumes. -/
def State.allocate (s : State) (c : Src) (j : Job) (k : Nat) (hint : Hint) (old : LineSlot) : State :=
  let lines := j.units
  let h := s.fillHint c j.ph.part j.cmd.s1 lines hint
  let uncached := fun s : State => s.setSlot c.site k ⟨.uncached, c.cid, j.cmd.s1.toNat, (s.part j.ph.part).pasid, 0, false, j.id, j.id, [], []⟩
  if h = .noAlloc || poolLC ((s.getTile c.site).curPool.getD 0) = 0 then uncached s
  else
    let s := s.makeRoom c.site c.cid lines 64
    if s.linesHeld c.site + lines ≤ 512 * poolLC ((s.getTile c.site).curPool.getD 0) then
      s.setSlot c.site k ⟨.filling, c.cid, j.cmd.s1.toNat, (s.part j.ph.part).pasid, lines, h == .evictFirst, j.id, j.id, old.data, old.poison⟩
    else uncached s

/-- A copy that has passed its checks goes on: its addition first if it has not been made, else its bytes (R239, R242). -/
def State.proceed (s : State) (site id : Nat) : State :=
  match s.job? site id with
  | none => s
  | some j => s.depart (if j.added || !j.cmd.counts then landWork (j.src site) id else additionWork j)

/-- The checks of a copy made at its release or its resumption, and what follows from them. -/
def State.startJob (s : State) (site id : Nat) : State :=
  match s.job? site id with
  | none => s
  | some j =>
    let c := j.src site
    let s := match j.cmd.form with
      | .fill k _ _ => if (s.slot site k).job = id then s else s.emptySlot site k
      | _ => s
    match s.checkCopy c j.cmd with
    | .error e => s.stopCopy site id e
    | .ok w =>
      let s := s.modJob site id fun j =>
        { j with bytes := w.bytes, units := w.units, ranDst := w.ranDst, ranSrc := w.ranSrc, rec_ := w.words, suspended := false }
      let s := match j.cmd.form, s.job? site id with
        | .fill k hint _, some j => s.allocate c j k hint (s.slot site k)
        | _, _ => s
      s.proceed site id

/-- A copy released (R239): a job of its own in the copy queue, in its context's open chain where it is a `copyc` (R243). -/
def State.releaseCopy (s : State) (c : Src) (part : BitVec 4) (cmd : CopyCmd) : State :=
  let (id, s) := s.newId
  let chained := match cmd.form with | .chain _ => true | _ => false
  let j : Job := ⟨id, c.cid, cmd, s.copyPhaser c part cmd, 0, false, false, [], [], 0, 0, false, chained, [], (0, 0), []⟩
  let s := s.modTile c.site fun t => { t with jobs := t.jobs ++ [j] }
  let s := match cmd.form with
    | .chain last => s.modCtx c fun x => { x with chain := some (match x.chain with
        | some ch => { ch with jobs := ch.jobs ++ [id], last := last.or ch.last }
        | none => ⟨[id], 0, 0, 0, last⟩) }
    | _ => s
  s.startJob c.site id

/-! ## Landing (R173, R239, R241, R299) -/

/-- The far place of a byte of a window (R199, R203, R297): its home and offset. -/
def State.farPlace (s : State) (c : Src) (part : BitVec 4) (slice : Bool) (addr : Nat) (n : Need) : Except CopyStop (Home × Nat) :=
  if slice then
    let k := addr / 2 ^ 23
    if 24 ≤ k || !(s.part part).hasSlice k then .error (.fault 4 (BitVec.ofNat 64 addr)) else .ok (.slice k, addr % 2 ^ 23)
  else
    let va : Word := (BitVec.ofNat 57 addr).signExtend 64
    match s.translate c.site part va n with
    | .noPage => .error (.fault 1 va)
    | .denied => .error (.fault 2 va)
    | .ok p =>
      if s.placeRefuses p part c.cid then .error (.fault 4 va) else .ok (p.home, p.off)

/-- A byte of the window as a copy into the scratchpad finds it, and its poison. -/
def State.winByte (s : State) (c : Src) (part : BitVec 4) (slice : Bool) : WinByte → Except CopyStop (Byte × Bool)
  | .far a | .edge a => (s.farPlace c part slice a .read).map fun p => (s.byte p.1 p.2, s.homePoison p.1 p.2 1)
  | .fill v => .ok (v, false)
  | .skip => .ok (0, false)

/-- The bytes of one landing step into the scratchpad, in ascending window position, and their poison; that of a granule wholly of fill is clear
(R173). -/
def State.gatherWindow (s : State) (c : Src) (part : BitVec 4) (slice : Bool) (l : Layout) (os : List Int) (ps : List Nat) :
    Except CopyStop (List Byte × Bool) :=
  let ws := ps.map (l.byteAt os false)
  let inside : Bool := ws.any fun w => match w with | .far _ => true | _ => false
  (ws.mapM (s.winByte c part slice)).map fun bs => (bs.map (·.1), inside && bs.any (·.2))

/-- The far places of one landing step out of the scratchpad, with the byte each receives, in window order. -/
def State.scatterWindow (s : State) (c : Src) (part : BitVec 4) (slice : Bool) (l : Layout) (os : List Int) :
    List (Nat × Byte) → Except CopyStop (List (Home × Nat × Byte))
  | [] => .ok []
  | (p, v) :: ps =>
    match l.byteAt os true p with
    | .far a =>
      match s.farPlace c part slice a .write with
      | .error e => .error e
      | .ok (h, off) =>
        match s.scatterWindow c part slice l os ps with
        | .error e => .error e
        | .ok r => .ok ((h, off, v) :: r)
    | _ => s.scatterWindow c part slice l os ps

/-- Neighbouring far bytes joined to writes, in order. -/
def joinRuns (l : List (Home × Nat × Byte)) : List (Home × Nat × List Byte) :=
  l.foldl (fun acc x => match acc.reverse with
    | (h, off, bs) :: r => if h = x.1 && off + bs.length = x.2.1 then r.reverse ++ [(h, off, bs ++ [x.2.2])] else acc ++ [(x.1, x.2.1, [x.2.2])]
    | [] => [(x.1, x.2.1, [x.2.2])]) []

/-- Where one landing step into the scratchpad reads, in runs of neighbouring bytes: each run is a request (R348, log 55). -/
def State.gatherRuns (s : State) (c : Src) (part : BitVec 4) (slice : Bool) (l : Layout) (os : List Int) (ps : List Nat) : List (Home × Nat × List Byte) :=
  joinRuns (ps.filterMap fun p =>
    match l.byteAt os false p with
    | .far a | .edge a => ((s.farPlace c part slice a .read).toOption).map fun h => (h.1, h.2, 0)
    | _ => none)

/-- A home beyond the package boundary of R21. -/
def Home.outside (h : Home) : Bool :=
  match h with
  | .host | .peerMem _ | .peerPool _ _ => true
  | _ => false

/-- One landing step of `copy`: the bytes of one granule of the dense local side, placed under IMODE (R192, R299). -/
def State.landTensor (s : State) (site : Nat) (j : Job) (out slice : Bool) : Except CopyStop (State × Nat) :=
  let c := j.src site
  let part := j.ph.part
  let l := Layout.of j.rec_
  let os := l.origin (recFmt (j.rec_.getD 0 0) == some .i4x) j.cmd.origin
  let loc := (j.cmd.s3.extractLsb' 0 22).toNat
  let g := (granulesOf loc l.bytes).getD j.pos 0
  let lo := max loc g
  let ps := (List.range (min (loc + l.bytes) (g + 256) - lo)).map fun i => lo - loc + i
  let at_ := interleave l.imode lo
  if out then
    let bs := s.bytes c.pad at_ ps.length
    let poison := s.homePoison c.pad at_ ps.length
    match s.scatterWindow c part slice l os (ps.zip bs) with
    | .error e => .error e
    | .ok ws =>
      if poison && ws.any fun w => Home.outside w.1 then .error .poison
      else .ok ((joinRuns ws).foldl (fun s r => (s.carried r.1).homeWrite r.1 r.2.1 r.2.2 0 poison) (s.useBanks c.pad at_ ps.length), ps.length)
  else
    match s.gatherWindow c part slice l os ps with
    | .error e => .error e
    | .ok (bs, poison) =>
      let s := (s.gatherRuns c part slice l os ps).foldl (fun s r => s.asked r.1) s
      .ok ((s.bankWrite c.pad at_ bs (mkTagWord part poison (BitVec.ofNat 10 site) l.wstamp l.seed)).useBanks c.pad at_ ps.length, ps.length)

/-- The Fletcher step of one granule as landed: little-endian halfwords (R243). -/
def fletcher : List Byte → Nat × Nat → Nat × Nat
  | b0 :: b1 :: r, (a, b) =>
    let a' := (a + b0.toNat + 256 * b1.toNat) % 65535
    fletcher r (a', (b + a') % 65535)
  | _, ab => ab

/-- The pair of a chain (R243): those of its commands, each over what has landed of it, joined in the order of the commands, in whatever order
their granules land. -/
def chainSum (js : List Job) : Nat × Nat :=
  js.foldl (fun p j => ((p.1 + j.sum.1) % 65535, (p.2 + 128 * j.pos * p.1 + j.sum.2) % 65535)) (0, 0)

/-- Bytes as they land, bits flipped on the way. -/
def flipped : List Byte → List Byte → List Byte
  | b :: bs, m :: ms => (b ^^^ m) :: flipped bs ms
  | bs, _ => bs

/-- A granule of a job has landed: the pair of its command takes its bytes in, where it belongs to a chain (R243). -/
def State.summed (s : State) (site : Nat) (j : Job) (bs : List Byte) : State :=
  if j.chained then s.modJob site j.id fun j => { j with sum := fletcher bs j.sum, flip := [] } else s.modJob site j.id fun j => { j with flip := [] }

/-- One landing step of `copyr`, `copyx` and `copyc`: one granule with its tag word (R173, R241). -/
def State.landGranule (s : State) (site : Nat) (j : Job) (peer : Bool) : Except CopyStop (State × Nat) :=
  let c := j.src site
  let (dev, logical, off) := copyTarget peer j.cmd.s1
  let src := j.cmd.s2.toNat + 256 * j.pos
  let dst := off + 256 * j.pos
  let bs := flipped (s.bytes c.pad src 256) j.flip
  let w := s.tagWord c.pad src
  if dev = Config.device then
    let tgt := (s.siteOf logical).getD 288
    let h := Home.pool tgt
    if 288 ≤ tgt || tagPart (s.tagWord h dst) != j.ph.part then .error (.fault 4 (BitVec.ofNat 64 (logical * 2 ^ 22 + dst)))
    else .ok ((((s.bankWrite h dst bs w).useBanks c.pad src 256).useBanks h dst 256).summed site j bs, 256)
  else if tagPoison w then .error .poison
  else if !s.reaches j.ph.part (.peerPool dev logical) then .error (.fault 4 j.cmd.s1)
  else .ok (((s.carried (.peerPool dev logical)).putGranules (.peerPool dev logical) dst bs (mkTagWord j.ph.part false 0x3FF (tagStamp w) (tagTag w))).summed site j bs, 256)

/-- One landing step of a fill: one line (R196, R203, R229). -/
def State.landLine (s : State) (site : Nat) (j : Job) (k : Nat) : Except CopyStop (State × Nat) :=
  let c := j.src site
  let x := s.slot site k
  if x.st = .uncached then .ok (s, j.bytes - 128 * j.pos)
  else
    let va : Word := j.cmd.s1 + BitVec.ofNat 64 (128 * j.pos)
    if !canonical va then .error (.fault 1 va)
    else match s.farPlace c j.ph.part false (va.setWidth 57).toNat .read with
      | .error e => .error e
      | .ok (h, off) =>
        let x := { x with data := x.data ++ s.bytes h off 128, poison := x.poison ++ [s.homePoison h off 64, s.homePoison h (off + 64) 64] }
        .ok ((s.asked h).setSlot site k x, 128)

/-- One landing step of a job. -/
def State.landStep (s : State) (site : Nat) (j : Job) : Except CopyStop (State × Nat) :=
  match j.cmd.form with
  | .tensor out slice => s.landTensor site j out slice
  | .weave => s.landGranule site j false
  | .peer | .chain _ => s.landGranule site j true
  | .fill k _ _ => s.landLine site j k

/-- The next bytes of a job go over a link that is being re-keyed (R348). -/
def State.jobRekeys (s : State) (site : Nat) (j : Job) : Bool :=
  match j.cmd.form with
  | .peer | .chain _ => let (dev, logical, _) := copyTarget true j.cmd.s1; dev != Config.device && s.rekeying (.peerPool dev logical)
  | .tensor out false =>
    let l := Layout.of j.rec_
    let os := l.origin (recFmt (j.rec_.getD 0 0) == some .i4x) j.cmd.origin
    let loc := (j.cmd.s3.extractLsb' 0 22).toNat
    let g := (granulesOf loc l.bytes).getD j.pos 0
    let lo := max loc g
    (List.range (min (loc + l.bytes) (g + 256) - lo)).any fun i => match l.byteAt os out (lo - loc + i) with
      | .far a | .edge a => match s.farPlace (j.src site) j.ph.part false a (if out then .write else .read) with
        | .ok (h, _) => s.rekeying h
        | .error _ => false
      | _ => false
  | .fill _ _ _ => match s.farPlace (j.src site) j.ph.part false ((j.cmd.s1 + BitVec.ofNat 64 (128 * j.pos)).setWidth 57).toNat .read with
    | .ok (h, _) => s.rekeying h
    | .error _ => false
  | _ => false

/-- A job may land its next bytes: its addition is made, and no earlier copy of the tile still has a destination that its own
ranges overlap before it starts (R216, R239). -/
def State.mayLand (s : State) (site : Nat) (j : Job) : Bool :=
  let earlier := (s.getTile site).jobs.filter fun i => i.id < j.id && !i.suspended && (i.cid == 3) == (j.cid == 3)
  !j.suspended && !s.jobRekeys site j && (j.added || !j.cmd.counts) && j.pos < j.units
    && (j.pos != 0 || !earlier.any fun i => overlapAny (j.ranDst ++ j.ranSrc) i.ranDst)

/-- Every command of a context's chain has landed, its last one among them (R243). -/
def State.chainLanded (s : State) (c : Src) : Bool :=
  match (s.getCtx c).chain with
  | some ch => ch.last.isSome && (s.getTile c.site).jobs.all fun j => !ch.jobs.contains j.id || j.units ≤ j.pos
  | none => false

/-- What follows once a job's last bytes have landed: it retires, its block becomes ready, or its chain is compared (R216, R229, R243). -/
def State.landed (s : State) (site : Nat) (j : Job) : State :=
  let c := j.src site
  match j.cmd.form with
  | .chain _ => if s.chainLanded c then s.send ⟨c, .copy j.id, false, false, false, .chainCompare c⟩ else s
  | .fill k _ _ =>
    let s := s.retireJob site j.id
    if (s.slot site k).st = .filling then s.send ⟨c, .copy j.id, false, false, false, .ldblkFillComplete site k⟩ else s
  | _ => s.retireJob site j.id

/-- The pair of the chain of a landed command brought up to date (R243). -/
def State.sumChain (s : State) (site : Nat) (j : Job) : State :=
  if j.chained then s.modCtx (j.src site) fun x => { x with chain := x.chain.map fun ch =>
    let p := chainSum ((s.getTile site).jobs.filter fun j => ch.jobs.contains j.id)
    { ch with a := p.1, b := p.2 } }
  else s

/-- COPY_BYTES_LAND (R239): the next bytes of a copy land and count down at its phaser; a chain counts nothing down before its match. -/
def execCopyBytesLand (site id : Nat) (s : State) : Host.Outcome State Fault Refusal :=
  if 288 ≤ site then .next s
  else match s.job? site id with
    | none => .next s
    | some j =>
      if s.mayLand site j then
        match s.landStep site j with
        | .error e => .next (s.stopCopy site id e)
        | .ok (s, n) =>
          let uncached : Bool := match j.cmd.form with | .fill k _ _ => (s.slot site k).st == .uncached | _ => false
          let s := (s.modJob site id fun j => { j with pos := if uncached then j.units else j.pos + 1 }).sumChain site j
          let s := if j.chained || !j.cmd.counts then s else s.countDown j.ph n
          match s.job? site id with
          | some j => if j.pos < j.units then .next (s.send (landWork (j.src site) id)) else .next (s.landed site j)
          | none => .next s
      else .next s

/-- LDBLK_FILL_COMPLETE (R229): the slot is ready once every line has arrived. -/
def execLdblkFillComplete (site k : Nat) (s : State) : Host.Outcome State Fault Refusal :=
  if 288 ≤ site || 64 ≤ k then .next s
  else
    let x := s.slot site k
    if x.st = .filling && x.data.length = 128 * x.lines then .next (s.setSlot site k { x with st := .ready }) else .next s

/-- COPY_FAULT (R208, R242): a fault suspends one copy. -/
def execCopyFault (site id : Nat) (detail : BitVec 8) (addr : Word) (s : State) : Host.Outcome State Fault Refusal :=
  if 288 ≤ site then .next s
  else match s.job? site id with
    | some j => if j.suspended then .next s else .next (s.suspend site id detail addr)
    | none => .next s

/-- A byte addition served at its phaser, and whether it is refused: by the phaser, which at a peer device does not show (log 8), at a site no
longer active, or by a link that is not up (R350, R356, R437). -/
def State.addedBytes (s : State) (m : PhMsg) (n : Nat) : State × Bool :=
  if !s.phReached m then (s, true)
  else if m.dev = Config.device then
    match (s.phaser m.site m.idx).addBytes m.part n with
    | some p => (s.setPhaser m.site m.idx p, false)
    | none => (s, true)
  else ({ s.carried (.peerPool m.dev (m.tile.getD 0)) with fresh := s.fresh + 1 }, Config.peerRefuses s.fresh)

/-- A message comes from a peer device: no site of this package sent it (log 81). -/
def fromPeer (m : PhMsg) : Bool := 288 ≤ m.src.site

/-- PHASER_BYTE_ADDITION (R239, R356): served before any byte lands; a refused one suspends its copy with detail 0x04. That of a fill whose slot
was emptied meanwhile is counted down at once (R230), and one of a failed chain or an abandoned copy is followed by an error arrival of its bytes
(R242, R244); that of a peer's copy stands, since the peer counts its own bytes down (R241). -/
def execPhaserByteAddition (m : PhMsg) (n id : Nat) (s : State) : Host.Outcome State Fault Refusal :=
  let t := (s.addedBytes m n).1
  match (s.addedBytes m n).2, (if fromPeer m then none else s.job? m.src.site id) with
  | true, some _ => .next ((t.modJob m.src.site id fun j => { j with refused := true }).suspend m.src.site id 4 m.ref)
  | true, none => .next (t.logError m.part m.ref 4)
  | false, some j =>
    let u := t.modJob m.src.site id fun j => { j with added := true, refused := false }
    .next (u.send (landWork (j.src m.src.site) id))
  | false, none => .next (if fromPeer m then t else if m.tile.isNone then t.countDown m n else t.depart (errorWork m n))

/-- CHAIN_COMPARE (R244): the chain's word is compared; its bytes count down, it runs again, or it fails. -/
def execChainCompare (c : Src) (s : State) : Host.Outcome State Fault Refusal :=
  if 288 ≤ c.site || 4 ≤ c.cid then .next s
  else match (s.getCtx c).chain with
    | none => .next s
    | some ch =>
      let jobs := (s.getTile c.site).jobs.filter fun j => ch.jobs.contains j.id
      match ch.last with
      | none => .next s
      | some e =>
        if jobs.any fun j => j.pos < j.units then .next s
        else if ch.b * 65536 + ch.a = e.word.toNat then
          let s := jobs.foldl (fun s j => (s.countDown j.ph j.bytes).retireJob c.site j.id) s
          .next (s.modCtx c fun x => { x with chain := none })
        else if ch.tries < e.retries.toNat then
          let s := s.modTile c.site fun t => t.count 0x040 c.cid 1
          let s := jobs.foldl (fun s j => s.modJob c.site j.id fun j => { j with pos := 0, sum := (0, 0) }) s
          let s := s.modCtx c fun x => { x with chain := some { ch with a := 0, b := 0, tries := ch.tries + 1 } }
          .next (s.sendAll (jobs.map fun j => landWork c j.id))
        else
          let lasts := jobs.filter fun j => match j.cmd.form with | .chain (some _) => true | _ => false
          .next (s.failChain c 5 ((lasts.getLast?.map fun j => j.cmd.s1).getD 0))

/-- `evblk` at its commit (R230). -/
def State.evict (s : State) (c : Src) (k : Nat) : State := s.emptySlot c.site k

/-! ## What `eret` decides (R242) -/

/-- A byte addition withdrawn before its phaser has served it. -/
def State.unadd (s : State) (id : Nat) : State :=
  { s with work := s.work.filter fun w => match w.ev with | .phaserByteAddition _ _ i => i != id | _ => true }

/-- A suspended copy abandoned: its remaining bytes arrive as errors, and it retires. An addition still on its way to another tile is answered once
its phaser takes it; one at its own tile is withdrawn. -/
def State.abandon (s : State) (site : Nat) (j : Job) : State :=
  let landedBytes := match j.cmd.form with
    | .fill _ _ _ => 128 * j.pos
    | .tensor _ _ =>
      let loc := (j.cmd.s3.extractLsb' 0 22).toNat
      if j.pos = 0 then 0 else min j.bytes (((granulesOf loc j.bytes).getD (j.pos - 1) 0) + 256 - loc)
    | _ => 256 * j.pos
  let s := if !j.cmd.counts || j.refused || (j.ph.tile.isSome && s.adding j.id) then s
    else (s.unadd j.id).depart (errorWork j.ph (if j.added then j.bytes - landedBytes else 0))
  s.retireJob site j.id

/-- The suspended copies of a context at the `eret` of its handler: resumed with RDR = 0, abandoned with RDR = 1. -/
def State.settleCopies (s : State) (c : Src) (rdr : Bool) : State :=
  let js := (s.getTile c.site).jobs.filter fun j => j.suspended && j.cid == c.cid
  js.foldl (fun s j => if rdr then s.abandon c.site j else s.startJob c.site j.id) s

end Sys2Proof.Machine
end

