-- ==== Sys2Proof/Machine/Engine.lean ====
section
/-! DEFINITION. The matrix engine: nest tables, block products and how they advance with the schedule clock
(03_numbers.md R46, R56, R57, 14_matrix_tables.md R301 to R307). -/

namespace Sys2Proof.Machine

/-! ## Elements and sums -/

/-- The two elements of an I4X byte, scaled by 2^6 (R46). -/
def i4xPair (b : Byte) : Int × Int :=
  if b.extractLsb' 0 4 = 8 then
    match Fmt.f8e4.exact b.toNat with
    | .fin s m e =>
      let k := e + 6
      (sgnInt s (if 0 ≤ k then m * 2 ^ k.toNat else m / 2 ^ (-k).toNat), 0)
    | _ => (0, 0)
  else (64 * (b.extractLsb' 0 4).toInt, 64 * (b.extractLsb' 4 4).toInt)

/-- The integer elements of 128 operand bytes (I8, and I4X scaled by 2^6). -/
def intElems (fmt : Prod) (bs : List Byte) : List Int :=
  match fmt with
  | .i4x => bs.flatMap fun b => [(i4xPair b).1, (i4xPair b).2]
  | _ => bs.map BitVec.toInt

/-- Byte pairs as little-endian halfwords. -/
def halves : List Byte → List Nat
  | a :: b :: r => (a.toNat + 256 * b.toNat) :: halves r
  | _ => []

/-- The floating elements of 128 operand bytes. -/
def floatElems (fmt : Prod) (bs : List Byte) : List Ex :=
  match fmt with
  | .bf16 => (halves bs).map Fmt.bf16.exact
  | .f8e5 => bs.map fun b => Fmt.f8e5.exact b.toNat
  | _ => bs.map fun b => Fmt.f8e4.exact b.toNat

/-- The exact sum of the products of two rows with its rounding to FP32 (R56, R57). -/
def floatDot (a b : List Ex) : BitVec 40 × Flags :=
  let ps := List.zipWith Ex.mul a b
  match ps with
  | [] => (0, 0)
  | p :: r =>
    let x := r.foldl (fun x q => (Ex.add false x q.1).1) p.1
    match x with
    | .nan => (BitVec.ofNat 40 Fmt.f32.qnan, .NV)
    | _ =>
      let (w, f) := Fmt.f32.round .rne false false 0 0 x
      (BitVec.ofNat 40 w, f)

/-- The exact sum of integer products in the 40-bit format of Table 3.11. -/
def intDot (a b : List Int) : BitVec 40 := BitVec.ofInt 40 (List.zipWith (· * ·) a b).sum

/-- The 4,096 sums of a product of 64 rows of A and 64 columns of B, with the OR of their flags. -/
def productSums (fmt : Prod) (as bs : List (List Byte)) : Vector (Vector (BitVec 40) 64) 64 × Flags :=
  match fmt with
  | .i8 | .i4x =>
    let x := as.map (intElems fmt)
    let y := bs.map (intElems fmt)
    (Vector.ofFn fun i : Fin 64 => Vector.ofFn fun j : Fin 64 => intDot (x.getD i.val []) (y.getD j.val []), 0)
  | _ =>
    let x := as.map (floatElems fmt)
    let y := bs.map (floatElems fmt)
    let g : Vector (Vector (BitVec 40 × Flags) 64) 64 :=
      Vector.ofFn fun i : Fin 64 => Vector.ofFn fun j : Fin 64 => floatDot (x.getD i.val []) (y.getD j.val [])
    (g.map fun r => r.map (·.1), g.foldl (fun f r => r.foldl (fun f x => f ||| x.2) f) 0)

/-! ## Nest tables (R304, R305) -/

/-- COUNT of a level word. -/
def nestCount (w : Word) : Nat := (w.extractLsb' 48 16).toNat
/-- ASTR of a level word. -/
def nestA (w : Word) : Int := (w.extractLsb' 32 16).toInt
/-- BSTR of a level word. -/
def nestB (w : Word) : Int := (w.extractLsb' 16 16).toInt
/-- ACCSTR of a level word. -/
def nestC (w : Word) : Int := (w.extractLsb' 12 4).toInt
/-- ABASE. -/
def nestABase (n0 : Word) : Nat := (n0.extractLsb' 0 22).toNat
/-- BBASE. -/
def nestBBase (n0 : Word) : Nat := (n0.extractLsb' 22 22).toNat
/-- ACC. -/
def nestAcc (n0 : Word) : Nat := (n0.extractLsb' 52 3).toNat

/-- The six level words. -/
def nestLevels (t : Vector Word 8) : List Word := [t[1], t[2], t[3], t[4], t[5], t[6]]

/-- The block count. -/
def nestBlocks (t : Vector Word 8) : Nat := ((nestLevels t).map nestCount).foldl (· * ·) 1

/-- The level indices of block p, level 0 fastest. -/
def nestIndices : List Word → Nat → List Nat
  | [], _ => []
  | w :: ws, p => p % nestCount w :: nestIndices ws (p / nestCount w)

/-- A sum of index times stride. -/
def nestSum (f : Word → Int) (ws : List Word) (is : List Nat) : Int := (List.zipWith (fun w i => f w * (i : Int)) ws is).sum

/-- The lowest and highest value that the strides of a table add (R309). -/
def nestReach (f : Word → Int) (ws : List Word) : Int × Int :=
  ws.foldl (fun r w =>
    let d := f w * ((nestCount w : Int) - 1)
    (r.1 + min 0 d, r.2 + max 0 d)) (0, 0)

/-- Word i of a table breaks R309 by itself. -/
def nestWordBad (i : Nat) (w : Word) : Bool :=
  if i = 0 then w.extractLsb' 55 9 != 0 || w.extractLsb' 0 8 != 0 || w.extractLsb' 22 8 != 0
  else if i = 7 then w != 0
  else w.extractLsb' 0 12 != 0 || nestCount w == 0

/-- The level word at which the block count first exceeds 2^40 − 1 (R309). -/
def nestTooMany (t : Vector Word 8) : Option Nat :=
  (List.range 6).find? fun l => 2 ^ 40 - 1 < ((nestLevels t).take (l + 1)).foldl (fun n w => n * nestCount w) 1

/-- At the extreme index values an operand leaves the scratchpad or an accumulator index its allotment (R309). -/
def nestOutside (t : Vector Word 8) (size allot : Nat) : Bool :=
  let ls := nestLevels t
  let (a0, a1) := nestReach nestA ls
  let (b0, b1) := nestReach nestB ls
  let (c0, c1) := nestReach nestC ls
  let a := (nestABase t[0] : Int)
  let b := (nestBBase t[0] : Int)
  let c := (nestAcc t[0] : Int)
  a + 256 * a0 < 0 || b + 256 * b0 < 0 || (size : Int) < a + 256 * a1 + 8192 || (size : Int) < b + 256 * b1 + 8192
    || c + c0 < 0 || (allot : Int) ≤ c + c1

/-- The product of block p of a nest, at schedule cycle `due` (R305). -/
def Nest.product (n : Nest) (due : Nat) : Product :=
  let ls := nestLevels n.table
  let is := nestIndices ls n.pos
  let n0 := n.table[0]
  { due := due
    fmt := n.fmt
    op := n.op
    alpha := ((nestABase n0 : Int) + 256 * nestSum nestA ls is).toNat
    beta := ((nestBBase n0 : Int) + 256 * nestSum nestB ls is).toNat
    idx := (nestAcc n0 : Int) + nestSum nestC ls is
    selA := n0.extractLsb' 48 2
    selB := n0.extractLsb' 50 2
    imA := n0.extractLsb' 44 2
    imB := n0.extractLsb' 46 2 }

/-! ## Issue of a product (R301, R302) -/

/-- The operation constant of a syllable (R167). -/
def opConst (slot : Slot) (major : BitVec 8) : Tag :=
  (0x9E370000 : BitVec 32) ^^^ ((slot.code.setWidth 32) <<< 8) ^^^ (major.setWidth 32)

/-- An operand's 32 granules in ascending logical offset, each placed under its interleave mode. -/
def operandPieces (base : Nat) (im : BitVec 2) : List (Nat × Nat) :=
  (List.range 32).map fun t => (interleave im (base + 256 * t), 256)

/-- The rows of an operand: 64 of 128 bytes. -/
def operandRows (bs : List Byte) : List (List Byte) := (List.range 64).map fun i => (bs.drop (128 * i)).take 128

/-- A product issues now: the operands are read from the committed scratchpad, the first STALE granule of A before B is kept for the assay of the
block that issues (R169, R179), and its sum is due at the port in 70 cycles. -/
def State.issueProduct (s : State) (p : Product) : State :=
  let c := s.ctx
  let ra := s.bankRead s.who.pad (c.work.stamp p.selA) (operandPieces p.alpha p.imA)
  let rb := s.bankRead s.who.pad (c.work.stamp p.selB) (operandPieces p.beta p.imB)
  let (vals, fl) := productSums p.fmt (operandRows ra.bytes) (operandRows rb.bytes)
  let tag := opConst .M p.op ^^^ ra.con.m.rotateLeft 1 ^^^ rb.con.m.rotateLeft 2
  let ps : PSum := ⟨p.fmt, vals, p.idx, tag, fl, ra.poison || rb.poison⟩
  { s with ctx := { c with
      flight := c.flight ++ [⟨p.due + 70, .ps, .psum ps, tag, ps.poison, 0, c.cur.seq⟩]
      cur := { c.cur with stale := (c.cur.stale.or ra.con.stale).or rb.con.stale } } }

/-! ## The engine (R303, R306) -/

/-- The cycle of the latest product placed, issued or queued. -/
def Engine.horizon (e : Engine) : Option Nat := match e.queued.getLast? with | some p => some p.due | none => e.last

/-- The first cycle from `at_` on at which a further product may issue (R303). -/
def Engine.slotFrom (e : Engine) (at_ : Nat) : Nat := match e.horizon with | some l => max at_ (l + 64) | none => at_

/-- An `mblk` released at a commit cycle (R311). -/
def Engine.enqueue (e : Engine) (p : Product) (commit : Nat) : Engine :=
  { e with queued := e.queued ++ [{ p with due := e.slotFrom commit }] }

/-- A nest started at a cycle. -/
def Engine.startNest (e : Engine) (sh : Shadow) (at_ : Nat) : Engine :=
  { e with run := some ⟨sh.table, sh.fmt, sh.op, 0, e.slotFrom at_⟩ }

/-- Blocks of the running nest still to issue. -/
def Engine.remaining (e : Engine) : Nat := match e.run with | some n => nestBlocks n.table - n.pos | none => 0

/-- A sum of a block product in flight. -/
def Flight.isSum (f : Flight) : Bool := match f.dest with | .ps => true | _ => false

/-- The engine is busy: a product is still to issue or to be delivered, also one that a trap keeps for the return (R116, R306). -/
def Ctx.busy (c : Ctx) : Bool :=
  c.engine.run.isSome || !c.engine.queued.isEmpty || (c.saved ++ c.flight).any Flight.isSum

/-- The committed arming of a nest: it runs, or waits for the end of the running one (Table 14.4). -/
def Engine.arm (e : Engine) (sh : Shadow) (at_ : Nat) : Engine :=
  if e.run.isSome then { e with after := some sh } else e.startNest sh at_

/-- After the last block of a nest has issued, the armed and committed shadow runs, its first block 64 cycles later (Table 14.4). -/
def Ctx.nestEnds (c : Ctx) : Ctx :=
  match c.engine.after with
  | none => { c with engine := { c.engine with run := none } }
  | some sh =>
    { c.writeAll (fun r => { r with shadow := Shadow.reset }) with
      engine := { c.engine with run := none, after := none }.startNest sh c.sclk }

/-- The product due at the schedule clock issues: of the running nest, or the oldest queued. None issues in a handler (R307). -/
def State.advanceEngine (s : State) : State :=
  let c := s.ctx
  if c.ih then s
  else match c.engine.queued with
    | p :: r =>
      if p.due ≤ c.sclk then
        let s := s.issueProduct { p with due := c.sclk }
        { s with ctx := { s.ctx with engine := { s.ctx.engine with queued := r, last := some c.sclk } } }
      else s
    | [] =>
      match c.engine.run with
      | some n =>
        if n.next ≤ c.sclk then
          let s := s.issueProduct (n.product c.sclk)
          let n' := { n with pos := n.pos + 1, next := c.sclk + 64 }
          let c' := { s.ctx with engine := { s.ctx.engine with run := some n', last := some c.sclk } }
          { s with ctx := if nestBlocks n.table ≤ n'.pos then c'.nestEnds else c' }
        else s
      | none => s

end Sys2Proof.Machine
end

