-- ==== Sys2Proof/Machine/Access.lean ====
section
/-! DEFINITION. Loads, stores and read-modify-write operations at their homes (10_memories.md R194, R199, R203, R209,
11_memory_instructions.md R232 to R235, 03_numbers.md R63). -/

namespace Sys2Proof.Machine

/-! ## Read-modify-write (R233, R234) -/

/-- What an operation computes from the old element: the new element, the value returned and its flags. -/
structure RmwResult where
  new : Nat
  ret : Word
  flags : Flags
  deriving DecidableEq, Repr

/-- An integer value as an element of N bits. -/
def elemNat (ty : Fmt) (v : Int) : Nat := (v % 2 ^ ty.width).toNat

/-- `atom.fadd` (R63): the exact sum rounded once under RNE to the memory format. -/
def rmwFadd (ty : Fmt) (fi fo : Bool) (a d : Nat) : Nat × Flags :=
  let (x, f1) := ty.operand fi a
  let (y, f2) := ty.operand fi d
  let (z, f3) := Ex.add false x y
  let (w, f4) := ty.round .rne fo false 0 0 z
  (w, f1 ||| f2 ||| f3 ||| f4)

/-- Table 11.2, on the old element `a` of N bits and the values of rd and xs. The table gives the returned value an extension for integer types only:
that of `atom.fadd` is zero-extended here (log 95). -/
def rmwApply (op : RmwOp) (ty : Fmt) (fi fo : Bool) (a : Nat) (rd xs : Word) : RmwResult :=
  let N := 2 ^ ty.width
  let ai := intOf ty.isSignedInt ty.width a
  let d := rd.toNat % N
  let di := intOf ty.isSignedInt ty.width d
  let e := xs.toNat % N
  let old := ty.fit ai
  match op with
  | .add => ⟨elemNat ty (ai + di), old, 0⟩
  | .min => ⟨if di < ai then d else a, old, 0⟩
  | .max => ⟨if ai < di then d else a, old, 0⟩
  | .and => ⟨a &&& d, old, 0⟩
  | .or => ⟨a ||| d, old, 0⟩
  | .xor => ⟨a ^^^ d, old, 0⟩
  | .swp => ⟨d, old, 0⟩
  | .cas => ⟨if a = d then e else a, old, 0⟩
  | .bfins => ⟨(a &&& (N - 1 - e)) ||| (d &&& e), old, 0⟩
  | .ffcs =>
    let k := ctzN 64 (2 ^ 64 - 1 - a)
    ⟨if k = 64 then a else a ||| 2 ^ k, BitVec.ofNat 64 k, 0⟩
  | .plset => ⟨if popcN 64 (a ||| d) ≤ (xs.extractLsb' 0 7).toNat then a ||| d else a, old, 0⟩
  | .fadd =>
    let (w, f) := rmwFadd ty fi fo a d
    ⟨w, BitVec.ofNat 64 a, f⟩

/-- Little-endian bytes as 64-bit words. -/
def bytesWords (bs : List Byte) : List Word := (List.range ((bs.length + 7) / 8)).map fun i => BitVec.ofNat 64 (leNat ((bs.drop (8 * i)).take 8))

/-- The bytes that an access covers. -/
def accessSize : Access → Nat
  | .load n => n
  | .store d _ _ _ => d.length
  | .rmw _ ty _ _ _ _ _ _ _ _ => ty.width / 8
  | .phexp _ | .phrd _ => 0

/-- The tag word that an access writes to a granule (R171, R235). -/
def reqTagWord (r : Req) : Word :=
  match r.body with
  | .store _ tag ws poison => mkTagWord r.part poison (BitVec.ofNat 10 r.src.site) ws tag
  | .rmw _ _ _ _ _ _ _ tag ws poison => mkTagWord r.part poison (BitVec.ofNat 10 r.src.site) ws tag
  | _ => 0

/-- Whether a home refuses a request: R194 and R344 for a tile, R199 for a slice, R201 and R203 for device memory, R350 for a peer. -/
def State.refuses (s : State) (r : Req) : Bool :=
  let n := accessSize r.body
  match r.home with
  | .pool site =>
    (s.logicalOf site).isNone || s.padSize (.pool site) < r.off + n
      || (granulesOf r.off n).any fun g => tagPart (s.tagWord (.pool site) g) != r.part
  | .custodian _ => false
  | .slice k => !(s.part r.part).hasSlice k
  | .dram => s.frameRefuses r.off r.part r.src.cid r.expE
  | h => !s.reaches r.part h

/-- The tile whose bank performs a request, for ctl.bflags (R55). -/
def reqBank (r : Req) : Nat :=
  match r.home with
  | .pool site | .custodian site => site
  | _ => r.src.site

/-- An acknowledgement sent, where a message carried the request. -/
def State.acked (s : State) (c : Src) (ack : Bool) : State := if ack then s.send (ackWork c) else s

/-- The bank operations of a request at a scratchpad (R191). -/
def State.usesBank (s : State) (r : Req) : State :=
  s.useBanks r.home r.off (accessSize r.body)

/-- A request performed at its home: its answer or its acknowledgement follows (R209, R212, R223, R224, R233). -/
def State.perform (s : State) (r : Req) (refused ack : Bool) : State :=
  match r.body with
  | .load n =>
    if refused then
      (s.logError r.part r.addr 1).send (answerWork ⟨r.src, r.id, List.replicate ((n + 7) / 8) 0, true, 0⟩)
    else (s.usesBank r).send (answerWork ⟨r.src, r.id, bytesWords (s.bytes r.home r.off n), s.homePoison r.home r.off n, 0⟩)
  | .store data _ _ poison =>
    if refused then (s.refuse r.src r.part r.addr (homeScope r.src r.home) 1).acked r.src ack
    else ((s.usesBank r).homeWrite r.home r.off data (reqTagWord r) poison).acked r.src ack
  | .rmw op ty d e fi fo ret _ _ poison =>
    if refused then
      let s := s.refuse r.src r.part r.addr (homeScope r.src r.home) 1
      if ret then s.send (answerWork ⟨r.src, r.id, [0], true, 0⟩) else s.acked r.src ack
    else
      let n := ty.width / 8
      let p := s.homePoison r.home r.off n
      let x := rmwApply op ty fi fo (s.word r.home r.off n) d e
      let w := reqTagWord r ||| (if p then 1 <<< 50 else 0)
      let s := (s.usesBank r).homeWrite r.home r.off (leBytes n x.new) w (p || poison)
      if ret then s.send (answerWork ⟨r.src, r.id, [x.ret], p || poison, x.flags⟩)
      else (s.modTile (reqBank r) fun t => { t with bflags := t.bflags ||| x.flags }).acked r.src ack
  | .phexp _ | .phrd _ =>
    match r.home with
    | .pool site =>
      let (w, p) := s.phaserRead site r.off r.body
      (if p then s.logError r.part r.addr 4 else s).send (answerWork ⟨r.src, r.id, [w], p, 0⟩)
    | _ => s

/-- A local atomic performed at its bank when its command is released (R213, R232): no message carries it. -/
def State.performLocal (s : State) (r : Req) : State := s.perform r false false

/-- A number of a custodian's scratchpad or of a slice that no unit of the package has. -/
def homeMissing : Home → Bool
  | .custodian site => 288 ≤ site
  | .slice k => 24 ≤ k
  | _ => false

/-- REMOTE_ACCESS_ARRIVAL (R194, R209, R212): an access is served or refused at its home. A write with identifier 0 is a part of one
whose last part frees its message entry. -/
def execRemoteAccessArrival (r : Req) (s : State) : Host.Outcome State Fault Refusal :=
  if homeMissing r.home then .next s
  else if s.refuses r then .next (s.perform r true (r.id != 0))
  else .next ((s.asked r.home).perform r false (r.id != 0))

/-- WRITE_ACKNOWLEDGEMENT (R215, R238): the message entry of a released write frees; its work item is gone. -/
def execWriteAcknowledgement (_ : Src) (s : State) : Host.Outcome State Fault Refusal := .next s

/-- ASYNC_RESULT_ARRIVAL (R35): an answer reaches its context. -/
def execAsyncResultArrival (a : Answer) (s : State) : Host.Outcome State Fault Refusal :=
  if 288 ≤ a.src.site then .next s else .next (s.modCtx a.src fun c => c.arrive a)

end Sys2Proof.Machine
end

