-- ==== Sys2Proof/Machine/Stream.lean ====
section
/-! DEFINITION. Stream descriptors, the walk of a stream, and the reading and the writing of its chunks
(13_engine_queues.md R275 to R281). -/

namespace Sys2Proof.Machine

/-! ## Descriptors (Table 13.3) -/

/-- KIND: 0 read from the scratchpad, 1 read from a line-cache block, 2 write to the scratchpad. -/
def streamKind (d : Vector Word 5) : Nat := (d[0].extractLsb' 62 2).toNat
/-- FMT as an element format. -/
def streamFmt (d : Vector Word 5) : Option Fmt := Fmt.ofCode (d[0].extractLsb' 58 4)
/-- The element size b in bytes. -/
def streamElem (d : Vector Word 5) : Nat := match streamFmt d with | some f => f.width / 8 | none => 1
/-- E, the lanes of a chunk. -/
def streamLanes (d : Vector Word 5) : Nat := (d[0].extractLsb' 52 6).toNat + 1
/-- SSEL. -/
def streamSsel (d : Vector Word 5) : BitVec 2 := d[0].extractLsb' 50 2
/-- WRAP. -/
def streamWrap (d : Vector Word 5) : Bool := d[0].getLsbD 49
/-- SLOT. -/
def streamSlot (d : Vector Word 5) : Nat := (d[0].extractLsb' 40 4).toNat
/-- BASE. -/
def streamBase (d : Vector Word 5) : Nat := (d[0].extractLsb' 0 22).toNat
/-- COUNT of a dimension word. -/
def streamCount (w : Word) : Nat := (w.extractLsb' 44 20).toNat
/-- STRIDE of a dimension word. -/
def streamStride (w : Word) : Int := (w.extractLsb' 12 32).toInt

/-- The dimension words, innermost first. -/
def streamDims (d : Vector Word 5) : List Word := [d[1], d[2], d[3], d[4]]

/-- T, the elements of the walk. -/
def streamTotal (d : Vector Word 5) : Nat := (streamDims d).foldl (fun n w => n * streamCount w) 1

/-- The chunks of the walk: ceil(T ÷ E). -/
def streamChunks (d : Vector Word 5) : Nat := (streamTotal d + streamLanes d - 1) / streamLanes d

/-- What the indices of element e add to BASE. -/
def walkSum : List Word → Nat → Int
  | [], _ => 0
  | w :: ws, e => (e % streamCount w : Nat) * streamStride w + walkSum ws (e / streamCount w)

/-- The offset of element e. -/
def elemOffset (d : Vector Word 5) (e : Nat) : Int := streamBase d + walkSum (streamDims d) e

/-- The offsets of the elements of chunk n, in order; the last chunk may be partial. -/
def chunkOffsets (d : Vector Word 5) (n : Nat) : List Int :=
  (List.range (min (streamLanes d) (streamTotal d - n * streamLanes d))).map fun i => elemOffset d (n * streamLanes d + i)

/-- The index of the first descriptor word that breaks R277: a reserved bit, KIND 0b11, a format not admitted, a COUNT of 0, a
BASE or STRIDE that is no multiple of b, or the word at which T passes 2^40. -/
def streamBad (d : Vector Word 5) : Option Nat :=
  let w0 := d[0]
  let k := streamKind d
  let b := streamElem d
  let head := w0.extractLsb' 22 18 != 0 || w0.extractLsb' 44 5 != 0 || k == 3
    || (k != 0 && streamSsel d != 0) || (k != 1 && streamSlot d != 0)
    || !((streamFmt d).map Fmt.isElement).getD false || streamBase d % b != 0
  (List.range 5).find? fun i =>
    if i = 0 then head
    else
      let w := d.toArray.getD i 0
      w.extractLsb' 0 12 != 0 || streamCount w == 0 || streamStride w % (b : Int) != 0
        || (2 ^ 40 < streamTotal d && 2 ^ 40 < ((streamDims d).take i).foldl (fun n w => n * streamCount w) 1)

/-! ## Positions (R276, R278) -/

/-- The position after an advance by n chunks: under WRAP modulo the chunk count. -/
def Binding.moved (b : Binding) (n : Nat) : Binding :=
  { b with pos := if streamWrap b.desc then (b.pos + n) % streamChunks b.desc else b.pos + n }

/-- The chunk at the head of a stream: its number, or none past the end of a walk without WRAP. -/
def Binding.head (b : Binding) : Option Nat :=
  if b.pos < streamChunks b.desc then some b.pos else if streamWrap b.desc then some 0 else none

/-! ## Reading a chunk (R278, R280) -/

/-- What a read port delivers: the elements' bytes, the granules read with their tag words, and the poison. -/
structure ChunkRead where
  bytes : List Byte
  gs : List (Nat × Word)
  poison : Bool
  deriving DecidableEq, Repr

/-- Why a chunk is not delivered: an element or a block slot gives the error response, at an offset; or it is not fetched yet. -/
inductive ChunkStop where
  | error (off : Int)
  | absent
  deriving DecidableEq, Repr

/-- The elements of a chunk read now: from the committed scratchpad (R213) once no copy or undrained chunk covers them, or from a ready
line-cache block. -/
def State.readChunk (s : State) (b : Binding) (n : Nat) : Except ChunkStop ChunkRead :=
  let offs := chunkOffsets b.desc n
  let e := streamElem b.desc
  if streamKind b.desc = 1 then
    let x := s.slot s.who.site (16 * s.who.cid + streamSlot b.desc)
    match x.st with
    | .empty | .uncached => .error (.error (offs.headD 0))
    | .filling => .error .absent
    | .ready =>
      match offs.find? fun o => decide (o < 0) || decide (((128 * x.lines : Nat) : Int) < o + e) with
      | some o => .error (.error o)
      | none =>
        .ok ⟨offs.flatMap fun o => (x.data.drop o.toNat).take e, [],
          offs.any fun o => x.poison.getD (o.toNat / 64) false || x.poison.getD ((o.toNat + e - 1) / 64) false⟩
  else
    let size := s.padSize s.who.pad
    match offs.find? fun o => decide (o < 0) || decide ((size : Int) < o + e) with
    | some o => .error (.error o)
    | none =>
      let rs := offs.map fun o => (o.toNat, e)
      if s.readHeld rs then .error .absent
      else
        let gs := (firstTouch (rs.flatMap fun p => granulesOf p.1 p.2)).map fun g => (g, s.tagWord s.who.pad g)
        .ok ⟨rs.flatMap fun p => s.bytes s.who.pad p.1 p.2, gs, gs.any fun g => tagPoison g.2⟩

/-- The head chunk as its pop finds it: as fetched ahead, or read now. -/
def State.takeChunk (s : State) (k : BitVec 3) (b : Binding) (n : Nat) : Except ChunkStop ChunkRead :=
  match s.ctx.fetched.find? fun f => f.port == k && f.pos == n with
  | some f => .ok ⟨f.bytes, f.gs, f.poison⟩
  | none => s.readChunk b n

/-- The lanes of a chunk: element i in lane i under R151, the lanes past the walk's end zero. -/
def ChunkRead.lanes (c : ChunkRead) (d : Vector Word 5) : Lanes :=
  match streamFmt d with
  | some f => elementLanes f (c.bytes.length / streamElem d) (leNat c.bytes)
  | none => lanesOf []

/-! ## Writing a chunk (R279, R281) -/

/-- The pieces of chunk n that a result writes: the low b bytes of lane i at element i, the lanes past the walk's end discarded. -/
def chunkPieces (d : Vector Word 5) (n : Nat) (l : Lanes) : List (Nat × List Byte) :=
  (chunkOffsets d n).mapIdx fun i o => (o.toNat, leBytes (streamElem d) (l.toArray.getD i 0).toNat)

/-- The bytes of pushes of a port. -/
def pushBytes (k : BitVec 3) (ps : List Push) : Nat :=
  (ps.filter fun p => p.port == k).foldl (fun n p => n + p.pieces.foldl (fun n q => n + q.2.length) 0) 0

/-- The bytes that stand in a write port's drain buffer: committed chunks not yet drained, and the pushes of blocks not committed. -/
def State.drainBytes (s : State) (k : BitVec 3) : Nat :=
  pushBytes k ((s.tile.chunks.filter fun c => c.1 == s.who.cid).map (·.2))
    + pushBytes k (s.ctx.closings.flatMap (·.blk.pushes)) + pushBytes k s.ctx.cur.pushes

end Sys2Proof.Machine
end

