-- ==== Sys2Proof/Machine/Commit.lean ====
section
/-! DEFINITION. The close of a block, the assay, commit and abort, and the stops of a context
(02_elastic_time.md R29, R33, R34, R38, 09_lineage.md R176 to R180, 07_scalar_control.md R144, R146). -/

namespace Sys2Proof.Machine

/-! ## Successors (R77, R178) -/

/-- The image of a partition that holds an address. -/
def State.imageAt (s : State) (p : BitVec 4) (a : Word) : Option Image :=
  s.images.find? fun m => m.part == p && m.base ≤ a.toNat && a.toNat < m.base + m.size

/-- The addresses that the indirect class of a hallmark at `at_` lists: those of `jr`, `ret` and an `eret` with RDR = 1 (R77, R118, R141). A hallmark
whose succ is not 0b11 names no class, so a `jr` or `ret` in its block has no listed target, also where the register holds the fallthrough or a
target of the hallmark (log 89). -/
def State.listedClass (s : State) (p : BitVec 4) (at_ : Word) (m : Hallmark) (a : Word) : Bool :=
  a == codeAddr a && m.succ == 3 && match s.imageAt p at_ with
    | some im => (im.classes.getD m.iclass.toNat []).contains a
    | none => false

/-- The successors that a hallmark at `at_` lists (R77). -/
def State.listed (s : State) (p : BitVec 4) (at_ : Word) (m : Hallmark) (a : Word) : Bool :=
  let after := at_ + 16
  (a == codeAddr a && (a == after || match m.succ.toNat with
    | 1 => a == targetAt after m.tgtA
    | 2 => a == targetAt after m.tgtA || a == targetAt after m.tgtB
    | _ => false)) || s.listedClass p at_ m a

/-- The target that a label transfer takes from a hallmark: f OR 1 for a field that it does not hold (R77). -/
def labelTarget (at_ : Word) (m : Hallmark) (tsel : Bool) : Word :=
  let after := at_ + 16
  if m.succ = 2 && tsel then targetAt after m.tgtB
  else if (m.succ = 1 || m.succ = 2) && !tsel then targetAt after m.tgtA
  else after ||| 1

/-! ## The loop step (R144, R146) -/

/-- The loop step applies at the hallmark of a block entered at `entry`. -/
def Regs.steps (r : Regs) (entry : Word) : Bool := r.loops[0].kind != 0 && r.loops[0].body == entry

/-- The rotation of an `swp` step. -/
def Regs.rotate (r : Regs) : Regs := { r with vb := r.vb - 1, pb := r.pb - 1 }

/-- The step's count, predicate and pop, under the bases already rotated; and whether the body runs again. -/
def Regs.loopStep (r : Regs) : Regs × Bool :=
  let l := r.loops[0]
  let n := l.count - 1
  let r := { r with loops := r.loops.set 0 { l with count := n } }
  let r := if l.kind = 2 then r.setPhysP (r.physP 8) ⟨decide (l.stg.toNat < n.toNat), baseP 8, false⟩ else r
  if n = 0 then (r.popLevel, false) else (r, true)

/-! ## Task digests (R383) -/

/-- One store folded into a digest: its address value with its space code, and its bytes at their addresses. -/
def digestStep (d : Word) (e : Word × List (Nat × Byte)) : Word :=
  d.rotateLeft 7 ^^^ e.1 ^^^ e.2.foldl (fun w b => w ^^^ ((b.2.setWidth 64 : Word) <<< (8 * (b.1 % 8)))) 0

/-- The age rank of a task (R250). -/
def Task.rank (t : Task) : Nat := (t.words[4].extractLsb' 0 48).toNat

/-! ## Release of commands (R33 step 4) -/

/-- A record to push, under the rank of the task that pushes it: AGE and PART set, SAVED and GANG cleared (R261, R262). -/
def stampRecord (rank : Nat) (p : BitVec 4) (r : RecWords) : RecWords :=
  ((r.set 4 ((r[4] &&& 0xFFFF000000000000) ||| BitVec.ofNat 64 (rank % 2 ^ 48))).set 5 (r[5] &&& ~~~(0x0000030000000000 : Word))).set 6
    ((r[6] &&& ~~~(0xF : Word)) ||| p.setWidth 64)

/-- The rank of the task in focus; 0 without one. -/
def Ctx.rank (c : Ctx) : Nat := (c.task.map Task.rank).getD 0

/-- A task record at an offset of a scratchpad (R261). -/
def State.recordAt (s : State) (h : Home) (off : Nat) : RecWords := Vector.ofFn fun i : Fin 8 => BitVec.ofNat 64 (s.word h (off + 8 * i.val) 8)

/-- One command released at a commit whose cycle is `at_`. A `phsig` is routed once it leaves (R344, R358). -/
def State.release (s : State) (at_ : Nat) (cmd : Cmd) : State :=
  let c := s.who
  match cmd.op with
  | .send w =>
    match w.dst, w.ev with
    | .bank _, .remoteAccessArrival r => s.performLocal r
    | _, _ => if w.isSignal then s.send w else s.depart w
  | .copy k => s.releaseCopy c s.ctx.part { k with syl := cmd.syl }
  | .evblk k => s.evict c k
  | .mgo =>
    let sh := s.ctx.comm.shadow
    let x := { s.ctx with
      engine := s.ctx.engine.arm sh at_
      cur := { s.ctx.cur with engine := s.ctx.cur.engine.arm sh at_ }
      closings := s.ctx.closings.map fun y => { y with blk := { y.blk with engine := y.blk.engine.arm sh at_ } } }
    { s with ctx := if s.ctx.engine.run.isSome then x else x.writeAll fun r => { r with shadow := Shadow.reset } }
  | .mblk p =>
    { s with ctx := { s.ctx with
        engine := s.ctx.engine.enqueue p at_
        cur := { s.ctx.cur with engine := s.ctx.cur.engine.enqueue p at_ }
        closings := s.ctx.closings.map fun y => { y with blk := { y.blk with engine := y.blk.engine.enqueue p at_ } } } }
  | .spawn off => s.send ⟨c, .seq, false, false, true, .taskPush c (stampRecord s.ctx.rank s.ctx.part (s.recordAt c.pad off))⟩
  | .tend =>
    -- the bundles issued behind it are discarded
    let b := s.ctx.oldest
    let d := s.ctx.discard b
    { s with ctx := { d with
      cur := Block.fresh b.seq b.entry b.clk b.entryRegs b.ps d.flight b.early Engine.reset false
      ending := some .done
      engine := Engine.reset
      comm := { d.comm with shadow := Shadow.reset } } }

/-! ## Commit (R33) -/

/-- A buffered store drained into the scratchpad (R171), which its banks serve ahead of loads (R191). -/
def State.drainStore (s : State) (b : BufStore) : State :=
  (s.bankWrite s.who.pad b.off b.data (s.storeTagWord b.tag b.ws b.poison)).useBanks s.who.pad b.off b.data.length

/-- The key of a tree entry of a router. -/
def treeKey (site t : Nat) : Nat := 16 * site + t

/-- A tree entry. -/
def State.tree (s : State) (site t : Nat) : Tree := clGet Tree.reset s.trees (treeKey site t)

/-- Writing a tree entry. -/
def State.setTree (s : State) (site t : Nat) (x : Tree) : State := { s with trees := clSet Tree.reset s.trees (treeKey site t) x }

/-- A result enters the root buffer of an entry (R292). -/
def rootEntryWork (site t : Nat) : Work := ⟨⟨site, 3⟩, .router site, false, false, false, .reductionRootBufferEntry site t⟩

/-- A reduction result consumed at the commit of its `rrecv` (R293): the buffer empties, or the claim on a result still to come is settled. -/
def State.consumeRoot (s : State) (t : Nat) : State :=
  let x := s.tree s.who.site t
  match x.root with
  | none => s.setTree s.who.site t { x with claimed := true }
  | some _ =>
    let s := s.setTree s.who.site t { x with root := none }
    if x.stuck.isSome then s.send (rootEntryWork s.who.site t) else s

/-- The clasp unit of a name: the XOR of the eight 3-bit groups of TENSOR (R318). -/
def claspUnit (n : Word) : Nat :=
  (((List.range 8).map fun i => (n.extractLsb' (38 + 3 * i) 3)).foldl (· ^^^ ·) (0 : BitVec 3)).toNat

/-- A committed block counted against the wounds delivered to its task; the grace message leaves once, at the first commit at which the count
is above the GRACE then in force (R329, R346). -/
def State.countGrace (s : State) : State :=
  match s.ctx.task with
  | none => s
  | some t =>
    let mine (w : Wound) : Bool := w.part == t.part && w.rank == t.rank && w.counted.isSome
    let due (w : Wound) : Bool := mine w && !w.graced && decide ((s.part t.part).grace ≤ w.counted.getD 0)
    let count (w : Wound) : Wound := if mine w then { w with counted := w.counted.map (· + 1), graced := w.graced || due w } else w
    State.sendAll { s with wounds := s.wounds.map count } ((s.wounds.filter due).map fun w => ⟨s.who, .clasp (claspUnit w.name), false, false, false, .graceMessage w.part w.rank w.name⟩)

/-- The requests of the blocks behind an oldest block that has committed leave (R36). -/
def State.sendRequests (s : State) : State :=
  match s.ctx.closings with
  | [] => { s.departAll s.ctx.cur.reqs with ctx := { s.ctx with cur := { s.ctx.cur with reqs := [] } } }
  | x :: r => { s.departAll x.blk.reqs with ctx := { s.ctx with closings := { x with blk := { x.blk with reqs := [] } } :: r } }

/-- The successor of a committed block keeps none of its writes of tile registers: they are done (R111). -/
def Block.spent (b : Block) : Block := { b with carry := b.carry.filter fun f => !f.tileWrite }

/-- The commit of the oldest closing block `x`, whose final registers are `fin` (R33, in its order). -/
def State.commitBlock (s : State) (x : Closing) (rest : List Closing) (fin : Regs) : State :=
  let b := x.blk
  let k := fin.tileW.length
  let cut (r : Regs) : Regs := { r with tileW := r.tileW.drop k }
  -- 1. working copies become committed
  let c : Ctx := { s.ctx with
    comm := { fin with tileW := [] }
    work := cut s.ctx.work
    cur := s.ctx.cur.spent
    closings := rest.map fun y => { y with work := cut y.work, blk := y.blk.spent }
    pend := s.ctx.pend ++ b.rets.map fun p => { p with start := x.commit + 1 }
    yieldMark := s.ctx.yieldMark || b.yields }
  let tile : Tile := fin.tileW.foldl (fun (t : Tile) e => t.commitCtl e.1 e.2) s.tile
  let s : State := { s with ctx := c, tile := tile }
  let s := { s with ctx := { s.ctx with task := s.ctx.task.map fun t => if t.keeps then { t with digest := b.digest.foldl digestStep t.digest } else t } }
  -- 2. local stores drain
  let s := b.stores.foldl State.drainStore s
  -- 3. streams advance
  let s := { s with tile := { s.tile with chunks := s.tile.chunks ++ b.pushes.map fun p => (s.who.cid, p) } }
  let s := s.sendAll (b.pushes.map fun _ => ⟨s.who, .bank s.who.site, true, false, false, .streamChunkDrain s.who⟩)
  let s := b.reserved.foldl State.consumeRoot s
  -- 4. commands are released, in list order
  let s := b.cmds.foldl (fun s cmd => s.release x.commit cmd) s
  -- 5. tags are rebased
  let s := { s with ctx := { s.ctx with comm := s.ctx.comm.rebase } }
  let s := { s with ctx := { s.ctx with safe := x.safe && !s.ctx.busy } }
  (s.countGrace.sendRequests).count 0x003

/-! ## The assay (R176, R178, R179) -/

/-- A block that fails its assay: re-run once without charge; then the successor fault or the lineage trap, with its charge (Table 9.2). -/
def State.failAssay (s : State) (x : Closing) (next : Word) (listed : Bool) : State :=
  let b := x.blk
  if !b.rerun then { s with ctx := s.ctx.reenter b true }.count 0x004
  else if !listed then
    (s.charge s.who.site false).takeTrap b ⟨false, 0x19, 0x00, next, x.hall⟩
  else match b.stale with
    | some (off, w) =>
      let s := s.send ⟨s.who, .context ⟨w.toNat, 3⟩, false, false, false, .transferCharge w.toNat⟩
      (s.tallyJob s.who fun j => { j with traps := j.traps + 1 }).takeTrap b ⟨false, 0x18, 0x01, w ++ BitVec.ofNat 22 off ++ b.lf, x.hall⟩
    | none =>
      ((s.tallyJob s.who fun j => { j with traps := j.traps + 1 }).charge s.who.site false).takeTrap b ⟨false, 0x18, 0x02, BitVec.ofNat 10 s.who.site ++ (0 : BitVec 22) ++ b.lf, x.hall⟩

/-- The assay of the oldest closing block: containment, commit or failure. -/
def State.assay (s : State) : State :=
  match s.ctx.closings with
  | [] => s
  | x :: rest =>
    let b := x.blk
    match b.taint with
    | some syl =>
      let s := s.contain s.who s.ctx.part syl
      { s with ctx := { s.ctx.discard b with flight := [], pend := [], ending := some .stopped } }
    | none =>
      let fin := x.work.landAll x.inflight
      let hm := Hallmark.of x.hall 0xF000000000000000
      let (next, ok) := match b.xfer with
        | .eret => (fin.epc, !fin.rdr || (match hm with | some m => s.listedClass s.ctx.part x.hallAddr m fin.epc | none => false))
        | _ => (x.next, x.listed)
      if ok && b.lf == x.hall.setWidth 32 then s.commitBlock x rest fin else s.failAssay x next ok

/-- Every closing block is assayed: at most three stand. -/
def State.settle (s : State) : State := if s.ctx.closings.isEmpty then s else
  let s := s.assay
  if s.ctx.closings.isEmpty then s else s.assay.assay

/-- A translation that a context has asked for is outstanding (R207). -/
def State.walkingOf (s : State) (c : Src) : Bool :=
  s.work.any fun w => w.src == c && (match w.ev with | .pageWalkComplete .. => true | _ => false)

/-- A block of the context in focus that closes waits for translations (R207). -/
def State.walking (s : State) : Bool := !s.ctx.closings.isEmpty && s.walkingOf s.who

/-- Whether the present block of `old` is still the one that issues, with its task going on. -/
def State.intact (s old : State) : Bool := s.ctx.cur.seq == old.ctx.cur.seq && s.ctx.ending == old.ctx.ending && s.ctx.ih == old.ctx.ih

/-! ## Stops of a context (R33, R38) -/

/-- The context waits for translations that its closing blocks need (R207). -/
def State.freezeWalk (s : State) : State :=
  { s with ctx := { s.ctx with frozen := some .translation }, iss := { s.iss with fate := .frozen } }

/-- A precise fault of the syllable being issued (R38): blocks that close are assayed first, once their translations are done (R207), and a
failed assay discards the fault. An error response met at issue is logged (R197). -/
def State.raise (s : State) (code detail : BitVec 8) (tval : Word) (log : Bool) : State :=
  if s.walking then s.freezeWalk else
  let t := s.settle
  let t := if t.intact s then
      (if log then t.logError t.ctx.part tval 2 else t).takeTrap t.ctx.cur ⟨false, code, detail, tval, s.iss.syl⟩
    else t
  { t with iss := { t.iss with fate := .fault } }

/-- The context stops issuing for a cause (R26): blocks that close commit at once, unless they wait for translations themselves (R207). -/
def State.freeze (s : State) (cause : Freeze) : State :=
  if s.walking then s.freezeWalk else
  let t := s.settle
  let t := if t.intact s then { t with ctx := { t.ctx with frozen := some cause } } else t
  { t with iss := { t.iss with fate := .frozen } }

/-- The custodian firmware ends its service on every tile until package reset (R87, log 65): its contexts stop where they last committed. -/
def State.endFirmware (s : State) : State :=
  let stop (c : Ctx) : Ctx := if c.task.isSome then c.stop .failed else c
  let t : State := { s with firmwareEnded := true, ctx := if s.who.cid = 3 then stop s.ctx else s.ctx }
  { t with parkedCtx := s.parkedCtx.map fun e => if e.1.cid = 3 then (e.1, stop e.2) else e }

/-- A decode fault (R84, R86). One of the custodian context goes to the root of trust and ends its firmware's service (R87, log 65). -/
def State.decodeTrap (s : State) (code reason : BitVec 8) (at_ : Word) : State :=
  if s.who.cid = 3 then
    if s.walking then s.freezeWalk else
    let t := s.settle
    let t : State := if t.intact s then
        { t.endFirmware with windowLog := t.windowLog ++ [(Trap.mk false code reason at_ t.iss.syl).word, at_] }
      else t
    { t with iss := { t.iss with fate := .fault } }
  else s.raise code reason at_ false

/-- The illegal-syllable fault of an operand check at issue (R84, R88): reason 0x04, before any effect. -/
def State.illegal (s : State) : State :=
  let t := s.decodeTrap 0x01 0x04 s.iss.addr
  { t with iss := { t.iss with fate := .illegal } }

/-! ## The end of a bundle -/

/-- An effect at the end of its bundle (R276, R286). -/
def Regs.portOp (r : Regs) : PortOp → Regs
  | .bind k b => { r with ports := r.ports.set k.toNat (some b) k.isLt }
  | .unbind k => { r with ports := r.ports.set k.toNat none k.isLt }
  | .deferral rs => { r with defer := rs }
  | .advance k n => { r with ports := r.ports.set k.toNat ((r.ports[k.toNat]'k.isLt).map fun b => b.moved n) k.isLt }

/-- The commit cycle of the oldest closing block has come. -/
def Ctx.commits (c : Ctx) : Bool := match c.closings with | x :: _ => x.commit ≤ c.sclk | [] => false

/-- Blocks whose commit cycle the schedule clock has reached are assayed, once their translations are done (R33, R207). -/
def State.commitDue (s : State) : State :=
  if s.ctx.commits && !s.walking then
    let t := s.assay
    if t.intact s && t.ctx.commits then
      let u := t.assay
      if u.intact t && u.ctx.commits then u.assay else u
    else t
  else s

/-- The touchstone compares of the cycle that ends, behind its commits (R111, R388). -/
def State.compareDue (s : State) : State :=
  { s with ctx := { s.ctx with flight := s.ctx.flight.filter fun f => !s.ctx.touches f } }.touchCompares (s.ctx.flight.filter s.ctx.touches)

/-- The touchstone compares still in flight, made at the return from a handler: only an abort discards one (R118, R388). -/
def State.compareAll (s : State) : State :=
  { s with ctx := { s.ctx with flight := s.ctx.flight.filter fun f => !f.isTouch } }.touchCompares (s.ctx.flight.filter Flight.isTouch)

/-- The schedule clock advances by one, and what is due lands (R25, R35). -/
def State.clock (s : State) : State :=
  let c := { s.ctx with sclk := s.ctx.sclk + 1 }
  { s with ctx := c.landDue.releaseHeld }

/-- The port whose chunks fetched ahead an effect discards (R280). -/
def PortOp.port : PortOp → Option (BitVec 3)
  | .bind k _ | .unbind k | .advance k _ => some k
  | .deferral _ => none

/-- The effects of stream and deferral forms at the end of their bundle. -/
def State.lateEffects (s : State) : State :=
  { s with
    ctx := { s.ctx with
      work := s.iss.late.foldl Regs.portOp s.ctx.work
      fetched := s.ctx.fetched.filter fun f => !(s.iss.late.any fun o => o.port == some f.port) }
    iss := { s.iss with late := [] } }

/-- What every bundle ends with: the effects of stream forms, the commits due, the compares, the engine, and the clock; a failed assay ends it
early. -/
def State.endBundle (s : State) : State :=
  let t := s.lateEffects.commitDue
  if t.intact s then t.compareDue.advanceEngine.clock else t

/-- The return of a context whose last closing block holds an `eret` (R118, R137): what closes is assayed and commits, the compares in flight are made,
and the return acts; a failed assay has entered the block again, or trapped. -/
def State.returnNow (s : State) : State :=
  let t := s.settle
  if t.intact s && t.ctx.closings.isEmpty && t.ctx.cur.nb != 0 then
    let u := t.compareAll
    let v : State := { u with ctx := Ctx.eret { u.ctx.resume with work := u.ctx.comm } }
    v.settleCopies v.who u.ctx.comm.rdr
  else t

/-- A block closes behind its last bundle of schedule cycle c (R29, R33, R139, R144); `fin` ends that cycle. `hallAddr` and `hall` are the address and
the first syllable of its hallmark `m`. A block that holds an `eret` returns once it has committed, for which it may have to wait (R118, R207). -/
def State.closeWith (fin : State → State) (s : State) (hallAddr hall : Word) (m : Hallmark) : State :=
  let c := s.ctx
  let b := c.cur
  let cyc := c.sclk
  let step := c.work.steps b.entry
  let after := hallAddr + 16
  match b.xfer with
  | .fall =>
    let rot := step && c.work.loops[0].kind == 2
    let w0 := (if rot then c.work.rotate else c.work).rebase
    let s1 := fin { s with ctx := { c with work := w0 } }
    if !s1.intact s then s1
    else
      let (w1, again) := if step then s1.ctx.work.loopStep else (s1.ctx.work, false)
      let next := if step && again then b.entry else after
      let own (f : Flight) : Bool := rot && decide (f.due ≤ cyc + 1) && f.dest == .p (w0.physP 8)
      let sent := (s1.ctx.flight.filter fun f => decide (cyc + 1 < f.due))
      -- products issued in this cycle are among the flights after the bundle, not among those before it
      let carry := (c.flight.filter fun f => decide (f.due ≤ cyc + 1) && !own f) ++ sent
      let x : Closing := ⟨s1.ctx.cur, w1, sent.filter fun f => decide (f.due ≤ cyc + 2), cyc + 2, hallAddr, hall, next, true, m.safe⟩
      let pre := if step then w0.loopStep.1 else w0
      -- the step prevails over what lands with it
      let kept := s1.ctx.landed.map fun l => if step then { l with flight := l.flight.filter fun f => !(own f || f.dest == .loop) } else l
      let nb := Block.fresh (s1.ctx.seq + 1) next (cyc + 1) pre c.ps carry (cyc + 2) s1.ctx.engine false
      { s1 with ctx := { s1.ctx with
          work := w1, pc := next, seq := s1.ctx.seq + 1, cur := nb, closings := s1.ctx.closings ++ [x], safe := false, landed := kept } }
  | .eret =>
    let s1 := s.lateEffects
    let soon (f : Flight) : Bool := decide (f.due ≤ cyc + 2) && !f.isTouch
    let x : Closing := ⟨b, s1.ctx.work, c.flight.filter soon, cyc + 2, hallAddr, hall, 0, false, m.safe⟩
    let s2 := { s1 with ctx := { s1.ctx with
      closings := s1.ctx.closings ++ [x]
      flight := c.flight.filter fun f => !soon f } }
    let s3 : State := if s2.walking then { s2 with ctx := { s2.ctx with frozen := some .translation } } else s2.returnNow
    { s3 with iss := { s3.iss with fate := .moved } }
  | _ =>
    let target := match b.xfer with | .to a => a | .label t => labelTarget hallAddr m t | _ => 0
    let ok := match b.xfer with | .to _ => s.listedClass c.part hallAddr m target | _ => s.listed c.part hallAddr m target
    let s1 := fin s
    if !s1.intact s then s1
    else
      let s1 := s1.count 0x031
      let w1 := if step then s1.ctx.work.loopStep.1 else s1.ctx.work
      let x : Closing := ⟨s1.ctx.cur, w1, s1.ctx.flight.filter fun f => decide (f.due ≤ cyc + 2), cyc + 2, hallAddr, hall, target, ok, m.safe⟩
      let nb := Block.fresh (s1.ctx.seq + 1) target (cyc + 3) w1 s1.ctx.ps [] 0 s1.ctx.engine false
      { s1 with ctx := { s1.ctx with
          work := w1, pc := target, seq := s1.ctx.seq + 1, cur := nb, closings := s1.ctx.closings ++ [x], empties := 2, safe := false } }

/-- A block closes as its last bundle ends. -/
def State.closeBlock (s : State) (hallAddr hall : Word) (m : Hallmark) : State := s.closeWith State.endBundle hallAddr hall m

/-- A block closes behind its last bundle, whose cycle has ended: its hallmark could not be read then. The clock goes back to that cycle, and on to the
next as the block closes, for one advance in all (R5). -/
def State.closeLate (s : State) (hallAddr hall : Word) (m : Hallmark) : State :=
  State.closeWith State.clock { s with ctx := { s.ctx.unland with sclk := s.ctx.sclk - 1 } } hallAddr hall m

/-- One of the two empty bundles of a taken transfer (R29, R139); behind the second, the target block is entered on the committed state. -/
def State.emptyBundle (s : State) : State :=
  if s.ctx.commits && s.walking then s.freezeWalk else
  let t := s.commitDue
  if t.intact s then
    let t := t.compareDue.advanceEngine
    if t.ctx.empties = 1 then
      let c := t.ctx
      let cur := Block.fresh c.cur.seq c.cur.entry (c.sclk + 1) c.comm c.ps c.flight 0 c.engine false
      { t with ctx := { c with work := c.comm, cur := cur, empties := 0 } }.clock
    else { t with ctx := { t.ctx with empties := t.ctx.empties - 1 } }.clock
  else t

end Sys2Proof.Machine
end

