-- ==== Sys2Proof/Machine/Operands.lean ====
section
/-! DEFINITION. How a syllable issues: its guard, the registers that it reads and writes, the checks and freezes at issue, its
fold steps, and the results, requests, stores and commands that it leaves (02_elastic_time.md R28 to R36, 04_encoding.md R67,
R68, 09_lineage.md R167 to R175, 11_memory_instructions.md R221, R222, R238). -/

namespace Sys2Proof

/-- The address value that a memory operand forms from the registers given (R221, R75). -/
def MemOp.addr (m : MemOp) (x : BitVec 6 → Word) : Word :=
  match m with
  | .m0 xb off => x xb + off.signExtend 64
  | .m0x xb off p => x xb + (p ++ off)
  | .m1 xb xi sh => x xb + (x xi <<< sh.toNat)

/-- The 64-bit immediate of format I, `signed` where the form extends the field by sign (R75, R129). -/
def Imm.value (i : Imm) (signed : Bool) : Word :=
  match i with
  | .short f => if signed then f.signExtend 64 else f.setWidth 64
  | .long f p => p ++ f

end Sys2Proof

namespace Sys2Proof.Machine

/-! ## Operands by name (R68) -/

/-- A register as an operand names it. -/
inductive Reg where
  | x (n : BitVec 6) | v (n : BitVec 6) | p (n : BitVec 4) | a (k : BitVec 3)
  deriving DecidableEq, Repr

/-- The tag of a register as a source. -/
def Regs.tagOf (r : Regs) : Reg → Tag
  | .x n => (r.getX n).tag
  | .v n => (r.getV n).tag
  | .p n => (r.getP n).tag
  | .a k => match r.acc[k.toNat]? with | some a => a.tag | none => 0

/-- The poison of a register as a source. -/
def Regs.poisonOf (r : Regs) : Reg → Bool
  | .x n => (r.getX n).poison
  | .v n => (r.getV n).poison
  | .p n => (r.getP n).poison
  | .a k => match r.acc[k.toNat]? with | some a => a.poison | none => false

/-- Where a result to a named register lands: the physical register selected at issue (R106). -/
def Regs.destOf (r : Regs) : Reg → Dest
  | .x n => .x n
  | .v n => .v (r.physV n)
  | .p n => .p (r.physP n)
  | .a k => .acc k

/-- A form as it stands in its slot: the tag sources in the order of its owning chapter, the registers it reads beside them, its
destinations in order, the register whose data it stores, whether a memory contribution takes the place of t1 (R168), and a source tag
that comes before those of its registers. -/
structure Form where
  h : Hdr
  major : BitVec 8
  srcs : List Reg := []
  also : List Reg := []
  dests : List Reg := []
  data : Option Reg := none
  mem : Bool := false
  lead : Option Tag := none
  clean : Bool := false
  deriving DecidableEq, Repr

/-- The value of x register n as an operand. -/
def State.xval (s : State) (n : BitVec 6) : Word := (s.ctx.work.getX n).val

/-- The lanes of v register n as an operand. -/
def State.vval (s : State) (n : BitVec 6) : Lanes := (s.ctx.work.getV n).val

/-- vl as an operand. -/
def State.vl (s : State) : Nat := s.ctx.work.vl.toNat

/-- Whether a syllable issues with effect: its guard's value XOR its sense is 1 (R67). -/
def Regs.admits (r : Regs) (h : Hdr) : Bool := (r.getP h.guard).val != h.sense

/-- The poison of a guard. -/
def Regs.guardPoison (r : Regs) (h : Hdr) : Bool := (r.getP h.guard).poison

/-! ## Pending registers (R35) -/

/-- Every register that a form reads or writes, its guard among them. -/
def Form.regs (f : Form) : List Reg := .p f.h.guard :: f.srcs ++ f.also ++ f.dests ++ f.data.toList

/-- The register is never pending. -/
def Reg.fixed : Reg → Bool
  | .x n => n == 0
  | .p n => n == 0
  | _ => false

/-- Why a form must wait for a pending register: for the root of a reduction tree, or for another answer (Table 13.2). -/
def Ctx.awaited (c : Ctx) (rs : List Reg) : Option Freeze :=
  let ds := (rs.filter fun r => !r.fixed).map c.work.destOf
  match c.pend.find? fun p => p.active c.sclk && p.dests.any ds.contains with
  | some p => some (if p.isReduction then .root else .pending)
  | none => none

/-! ## Tags and folds (R167, R168, R175) -/

/-- The tag of destination j under contribution m. -/
def Form.tag (f : Form) (r : Regs) (m : Tag) (j : Nat) : Tag :=
  let ts := f.lead.toList ++ (if f.mem then [m] else []) ++ f.srcs.map r.tagOf
  opConst f.h.slot f.major ^^^ (ts.getD 0 0).rotateLeft 1 ^^^ (ts.getD 1 0).rotateLeft 2 ^^^ (ts.getD 2 0).rotateLeft 3
    ^^^ BitVec.ofNat 32 j

/-- The fold steps: one for each destination, and one for stored data. -/
def Form.steps (f : Form) (r : Regs) (m : Tag) : List Tag :=
  (List.range f.dests.length).map (f.tag r m) ++ f.data.toList.map r.tagOf

/-- One fold step. -/
def foldStep (lf t : Tag) : Tag := lf.rotateLeft 5 ^^^ t

/-- Steps folded into lf, with the first STALE granule that the block has read (R169, R179). -/
def State.folded (s : State) (steps : List Tag) (con : Contribution) : State :=
  { s with ctx := { s.ctx with cur := { s.ctx.cur with
      lf := steps.foldl foldStep s.ctx.cur.lf
      stale := if s.ctx.cur.stale.isSome then s.ctx.cur.stale else con.stale } } }

/-- No contribution. -/
def noCon : Contribution := ⟨0, none⟩

/-! ## Outcomes of a syllable -/

/-- What stops a syllable at issue: a broken operand check, a precise fault, an error response, or a freeze. -/
inductive Halt where
  | illegal
  | fault (code detail : BitVec 8) (tval : Word)
  | error (detail : BitVec 8) (tval : Word)
  | freeze (c : Freeze)
  deriving DecidableEq, Repr

/-- A stop taken. -/
def State.halted (s : State) : Halt → State
  | .illegal => s.illegal
  | .fault c d v => s.raise c d v false
  | .error d v => s.raise 0x0A d v true
  | .freeze c => s.freeze c

/-- A result: its latency, its value and its flags. -/
structure Res where
  lat : Nat
  pay : Payload
  flags : Flags := 0
  deriving DecidableEq, Repr

/-- What a syllable issued with effect leaves: the state, the results of its destinations in order, its contribution, and poison
beyond that of its sources. -/
structure Out where
  s : State
  res : List Res := []
  con : Contribution := noCon
  poison : Bool := false
  deriving DecidableEq, Repr

/-- The poison of a form's results (R64, R124, R149): the OR over its register sources and its guard. -/
def Form.poison (f : Form) (r : Regs) : Bool :=
  !f.clean && (r.guardPoison f.h || (f.srcs ++ f.also ++ f.data.toList).any r.poisonOf)

/-- The results of a form entered in the pipeline, each under the tag of its destination. -/
def State.deliver (s : State) (f : Form) (r : Regs) (o : Out) : State :=
  let p := o.poison || f.poison r
  ((f.dests.zip o.res).zipIdx).foldl (fun s e => s.schedule e.1.2.lat (r.destOf e.1.1) e.1.2.pay (f.tag r o.con.m e.2) p e.1.2.flags) s

/-- THE issue of a syllable (R28, R35, R67, R175): an operand check that holds whatever the guard, the freeze on a pending register,
and then its fold, with its effect when the guard admits it. A syllable without effect folds with m = 0 (R169). -/
def State.issue (s : State) (f : Form) (illegal : Bool) (body : Except Halt Out) : State :=
  if illegal then s.illegal
  else match s.ctx.awaited f.regs with
    | some c => s.freeze c
    | none =>
      let r := s.ctx.work
      if r.admits f.h then
        match body with
        | .error h => s.halted h
        | .ok o => (o.s.folded (f.steps r o.con.m) o.con).deliver f r o
      else s.folded (f.steps r 0) noCon

/-- A result without further effect. -/
def State.gives (s : State) (lat : Nat) (pay : Payload) (fl : Flags) : Except Halt Out := .ok { s := s, res := [⟨lat, pay, fl⟩] }

/-! ## Commands, requests and queues (R30, R36, R238) -/

/-- The blocks that issue or close. -/
def Ctx.blocks (c : Ctx) : List Block := c.closings.map (·.blk) ++ [c.cur]

/-- A command that holds a message entry until its effect is acknowledged. -/
def CmdOp.isMsg : CmdOp → Bool
  | .send w => w.entry
  | .spawn _ => true
  | _ => false

/-- The message entries that a block's own list holds. -/
def Block.msgs (b : Block) : Nat := (b.cmds.filter fun c => c.op.isMsg).length + (b.rets.filter fun p => p.takes == .msg).length

/-- The message entries in use. -/
def State.msgs (s : State) : Nat :=
  (s.ctx.pend.filter fun p => p.takes == .msg && p.held.isNone).length + (s.ctx.holds.filter fun h => h.remote && h.answer.isNone && !h.refused && !h.expired).length + (s.work.filter fun w => w.src == s.who && w.entry).length
    + (s.ctx.blocks.map Block.msgs).sum

/-- A syllable that would exceed a queue's depth: the block-limit fault when the block's own list fills it, else a freeze (R238). -/
def State.queueFull (s : State) (depth used own : Nat) : Option Halt :=
  if used < depth then none
  else if depth ≤ own then some (.fault 0x03 0x02 s.iss.addr)
  else some (.freeze .queue)

/-- The message queue. -/
def State.msgFull (s : State) : Option Halt := s.queueFull 32 s.msgs s.ctx.cur.msgs

/-- A block has room for one more command, or takes the block-limit fault (R30). -/
def State.cmdFull (s : State) : Option Halt := if s.ctx.cur.ncmds < 32 then none else some (.fault 0x03 0x02 s.iss.addr)

/-- A block has room for n more bytes of local stores, or takes the block-limit fault (R30). -/
def State.bytesFull (s : State) (n : Nat) : Option Halt :=
  if s.ctx.cur.bytes + n ≤ 4096 then none else some (.fault 0x03 0x01 s.iss.addr)

/-- Checks in order: the first that stops the syllable, else what it does. -/
def checked (hs : List (Option Halt)) (o : Except Halt Out) : Except Halt Out :=
  match hs.findSome? id with
  | some h => .error h
  | none => o

/-- The block that issues changed. -/
def State.modCur (s : State) (f : Block → Block) : State := { s with ctx := { s.ctx with cur := f s.ctx.cur } }

/-- One commit-issued command entered in the block's list, which may consist of several messages. -/
def State.command (s : State) (ops : List CmdOp) : State :=
  s.modCur fun b => { b with cmds := b.cmds ++ ops.map fun o => ⟨s.iss.addr, o⟩, ncmds := b.ncmds + 1 }

/-- A request that leaves the tile: at once, or behind the predecessor's commit (R36). -/
def State.request (s : State) (w : Work) : State :=
  if s.ctx.closings.isEmpty then s.depart w else s.modCur fun b => { b with reqs := b.reqs ++ [w] }

/-- A result awaited from issue on (R35). -/
def State.awaitNow (s : State) (id : Nat) (takes : Entry) (ds : List Dest) (conv : Conv) (poison : Bool) (start : Nat) : State :=
  { s with ctx := s.ctx.awaits ⟨id, takes, ds, conv, poison, start, s.ctx.cur.seq, true, none⟩ }

/-- A result awaited from the block's commit on (R35). -/
def State.awaitCommit (s : State) (id : Nat) (takes : Entry) (ds : List Dest) (conv : Conv) (poison : Bool) : State :=
  s.modCur fun b => { b with rets := b.rets ++ [⟨id, takes, ds, conv, poison, 0, b.seq, false, none⟩] }

/-- The block will not commit: poison would cross a boundary, or steered a transfer (R387). -/
def State.tainted (s : State) : State := s.modCur fun b => { b with taint := if b.taint.isSome then b.taint else some s.iss.addr }

/-! ## Local stores (R31, R171, R224) -/

/-- A store into the store buffer. -/
def State.buffer (s : State) (off : Nat) (data : List Byte) (tag : Tag) (poison : Bool) : State :=
  s.modCur fun b => { b with stores := b.stores ++ [⟨off, data, tag, s.ctx.work.ws, poison⟩], bytes := b.bytes + data.length }

/-- The space codes of Table 4.10 above an address value read in its layout (R205, R383). -/
def digestAddr (sp : Space) (ea : Word) : Word :=
  let keep := match sp with | .loc => 22 | .tile => 34 | .slice => 28 | .glob => 57
  ((sp.code.setWidth 64 : Word) <<< 62) ^^^ (ea &&& BitVec.ofNat 64 (2 ^ keep - 1))

/-- A store as the task's digest folds it at commit (R383). -/
def State.digests (s : State) (sp : Space) (ea : Word) (data : List Byte) : State :=
  s.modCur fun b => { b with digest := b.digest ++ [(digestAddr sp ea, data.mapIdx fun i y => ((ea.extractLsb' 0 3).toNat + i, y))] }

/-! ## Places (R205, R207, R222) -/

/-- A part of an access that one home serves: its place in the access, its length, its home and offset, E of its page, whether the page
is a device page, the address value of its first byte, and the logical number that a tile-space access names. -/
structure Leg where
  pos : Nat
  len : Nat
  home : Home
  off : Nat
  expE : Bool
  dev : Bool
  addr : Word
  tile : Option Nat
  deriving DecidableEq, Repr

/-- Where an access goes: an offset of the context's scratchpad, or homes elsewhere. -/
inductive Target where
  | loc (off : Nat)
  | away (legs : List Leg)
  deriving DecidableEq, Repr

/-- The pieces of n bytes from an address that stand in one 256-byte unit each: position and length (R201); of no bytes, one piece. -/
def unitPieces (a n : Nat) : List (Nat × Nat) :=
  if n = 0 then [(0, 0)] else (granulesOf a n).map fun g => (max a g - a, min (a + n) (g + 256) - max a g)

/-- The pieces of a global access, each translated (R207). -/
def State.globalLegs (s : State) (ea : Word) (need : Need) : List (Nat × Nat) → Except Halt (List Leg)
  | [] => .ok []
  | (pos, len) :: r =>
    let va := ea + BitVec.ofNat 64 pos
    match s.translate s.who.site s.ctx.part va need with
    | .noPage => .error (.fault 0x08 need.detail va)
    | .denied => .error (.fault 0x09 need.detail va)
    | .ok p =>
      match s.globalLegs ea need r with
      | .error h => .error h
      | .ok ls => .ok (⟨pos, len, p.home, p.off, pteE p.leaf, pteType p.leaf == 2, va, none⟩ :: ls)

/-- The checks of R222 on an access of n bytes at ea, in their order, and where it goes. -/
def State.locate (s : State) (sp : Space) (ea : Word) (n esz : Nat) (need : Need) : Except Halt Target :=
  if ea.toNat % esz != 0 then .error (.fault 0x0B need.detail ea)
  else match sp with
  | .loc =>
    let off := (ea.extractLsb' 0 22).toNat
    if s.inPad off n then .ok (.loc off) else .error (.error need.detail (BitVec.ofNat 64 off))
  | .tile =>
    let off := (ea.extractLsb' 0 22).toNat
    match s.siteOf (ea.extractLsb' 22 12).toNat with
    | some site =>
      if ea.extractLsb' 34 30 == 0 && off + n ≤ 2 ^ 22 then .ok (.away [⟨0, n, .pool site, off, false, false, ea, some (ea.extractLsb' 22 12).toNat⟩])
      else .error (.error need.detail ea)
    | none => .error (.error need.detail ea)
  | .slice =>
    let off := (ea.extractLsb' 0 23).toNat
    let k := (ea.extractLsb' 23 5).toNat
    if ea.extractLsb' 28 36 == 0 && k < 24 && off + n ≤ 2 ^ 23 then .ok (.away [⟨0, n, .slice k, off, false, false, ea, none⟩])
    else .error (.error need.detail ea)
  | .glob =>
    match s.globalLegs ea need (unitPieces ea.toNat n) with
    | .error h => .error h
    | .ok ls => .ok (.away ls)

/-- A leg crosses a boundary of R21: host or peer memory. -/
def Leg.crosses (l : Leg) : Bool :=
  match l.home with
  | .host | .peerMem _ | .peerPool _ _ => true
  | _ => false

/-- The request of a leg. -/
def State.reqOf (s : State) (l : Leg) (id : Nat) (body : Access) : Req :=
  ⟨s.who, id, l.home, l.off, l.tile, (s.part s.ctx.part).pasid.toNat, s.ctx.part, l.expE, l.addr, body⟩

/-- The message that carries a request; `write`: a later drain waits for it; `entry`: it holds a message entry. -/
def State.reqWork (s : State) (r : Req) (write entry : Bool) : Work := ⟨s.who, dstOf r.home r.off, write, false, entry, .remoteAccessArrival r⟩

/-- The translations of an access that no TLB entry of the tile holds: a walk each, which is outstanding until it completes (R206, R207). -/
def State.walks (s : State) (legs : List Leg) : State :=
  let pasid := (s.part s.ctx.part).pasid
  let pages := legs.filter fun l => (match l.home with | .dram | .host | .peerMem _ => true | _ => false)
    && (s.tlbHit s.who.site pasid (l.addr.setWidth 57).toNat).isNone
  s.sendAll (pages.map fun l => ⟨s.who, .context s.who, false, false, false, .pageWalkComplete s.who.site pasid l.addr⟩)

/-- A syllable that acts only behind its predecessor's commit (R33, R36, R245): the blocks that close commit first, once their translations
are done, and a failed assay takes the syllable with it. -/
def State.behindCommit (s : State) (k : State → State) : State :=
  if s.walking then s.freezeWalk else
  let t := s.settle
  if t.intact s then k t else { t with iss := { t.iss with fate := .moved } }

/-- The bytes of lane elements 0 to n − 1, b bytes each (R225). -/
def laneBytes (l : Lanes) (b n : Nat) : List Byte := (l.toList.take n).flatMap fun w => leBytes b w.toNat

end Sys2Proof.Machine
end

