-- ==== Sys2Proof/Machine/Scalar.lean ====
section
/-! DEFINITION. The register-writing scalar and address forms (07_scalar_control.md R122 to R138). -/

namespace Sys2Proof.Machine

/-! ## Shapes -/

/-- The form of two x sources and an x destination. -/
def formXXX (h : Hdr) (major : BitVec 8) (d s1 s2 : BitVec 6) : Form :=
  { h := h, major := major, srcs := [.x s1, .x s2], dests := [.x d] }

/-- The form of one x source and an x destination. -/
def formXX (h : Hdr) (major : BitVec 8) (d s1 : BitVec 6) : Form := { h := h, major := major, srcs := [.x s1], dests := [.x d] }

/-- A form of two x sources: what it delivers to xd, after how many cycles. -/
def State.issueXXX (s : State) (h : Hdr) (major : BitVec 8) (lat : Nat) (d s1 s2 : BitVec 6) (f : Word → Word → Word × Flags) : State :=
  let r := f (s.xval s1) (s.xval s2)
  s.issue (formXXX h major d s1 s2) false (s.gives lat (.word r.1) r.2)

/-- A form of one x source: what it delivers to xd one cycle later. -/
def State.issueXX (s : State) (h : Hdr) (major : BitVec 8) (d s1 : BitVec 6) (f : Word → Word) : State :=
  s.issue (formXX h major d s1) false (s.gives 1 (.word (f (s.xval s1))) 0)

/-! ## Values -/

/-- A sum or difference that wraps or saturates (R126). -/
def arith (ty : Fmt) (sat : Bool) (op : Int → Int → Int) (a b : Word) : Word × Flags :=
  let r := ty.satInt sat (op (ty.opnd a) (ty.opnd b))
  (ty.fit r.1, r.2)

/-- Quotient and remainder of R127: a division by zero gives −1 and the dividend, with DZ; the one overflow gives the dividend and 0. -/
def divide (ty : Fmt) (a b : Int) : Int × Int × Flags :=
  if b = 0 then (-1, a, .DZ)
  else if ty.isSignedInt && a = ty.lo && b = -1 then (a, 0, 0)
  else (a.tdiv b, a.tmod b, 0)

/-- A shift to the left of the low N bits (R128). -/
def shiftLeft (ty : Fmt) (a : Word) (k : Nat) : Word := ty.fit ((lowBits ty.width a.toNat * 2 ^ k : Nat) : Int)

/-- A shift to the right of the low N bits, zeros entering (R128). -/
def shiftRight (ty : Fmt) (a : Word) (k : Nat) : Word := ty.fit ((lowBits ty.width a.toNat / 2 ^ k : Nat) : Int)

/-- A shift to the right of the low N bits read as signed (R128). -/
def shiftArith (ty : Fmt) (a : Word) (k : Nat) : Word := ty.fit (intOf true ty.width a.toNat / 2 ^ k)

/-- `width` bits from `pos` on (R132). -/
def fieldOf (a : Word) (pos width : Nat) : Nat := a.toNat / 2 ^ pos % 2 ^ width

/-! ## Arithmetic (R126, R127) -/

/-- `nop` (R138): no effect. -/
def execNop (h : Hdr) (s : State) : Host.Outcome State Fault Refusal :=
  .next (s.issue { h := h, major := 0x00 } false (.ok { s := s }))

/-- `add` (R126). -/
def execAdd (h : Hdr) (ty : Fmt) (sat : Bool) (d s1 s2 : BitVec 6) (s : State) : Host.Outcome State Fault Refusal :=
  .next (s.issueXXX h 0x01 1 d s1 s2 (arith ty sat (· + ·)))

/-- `sub` (R126). -/
def execSub (h : Hdr) (ty : Fmt) (sat : Bool) (d s1 s2 : BitVec 6) (s : State) : Host.Outcome State Fault Refusal :=
  .next (s.issueXXX h 0x02 1 d s1 s2 (arith ty sat (· - ·)))

/-- `mul` (R126): the low N bits of the product. -/
def execMul (h : Hdr) (ty : Fmt) (d s1 s2 : BitVec 6) (s : State) : Host.Outcome State Fault Refusal :=
  .next (s.issueXXX h 0x03 3 d s1 s2 (arith ty false (· * ·)))

/-- `mulh` (R126): the high N bits of the product. -/
def execMulh (h : Hdr) (ty : Fmt) (d s1 s2 : BitVec 6) (s : State) : Host.Outcome State Fault Refusal :=
  .next (s.issueXXX h 0x04 3 d s1 s2 (arith ty false fun a b => a * b / 2 ^ ty.width))

/-- `div` (R127). -/
def execDiv (h : Hdr) (ty : Fmt) (d s1 s2 : BitVec 6) (s : State) : Host.Outcome State Fault Refusal :=
  .next (s.issueXXX h 0x05 20 d s1 s2 fun a b => let q := divide ty (ty.opnd a) (ty.opnd b); (ty.fit q.1, q.2.2))

/-- `rem` (R127). -/
def execRem (h : Hdr) (ty : Fmt) (d s1 s2 : BitVec 6) (s : State) : Host.Outcome State Fault Refusal :=
  .next (s.issueXXX h 0x06 20 d s1 s2 fun a b => let q := divide ty (ty.opnd a) (ty.opnd b); (ty.fit q.2.1, q.2.2))

/-- `min` (R126). -/
def execMin (h : Hdr) (ty : Fmt) (d s1 s2 : BitVec 6) (s : State) : Host.Outcome State Fault Refusal :=
  .next (s.issueXXX h 0x07 1 d s1 s2 (arith ty false fun a b => if a < b then a else b))

/-- `max` (R126). -/
def execMax (h : Hdr) (ty : Fmt) (d s1 s2 : BitVec 6) (s : State) : Host.Outcome State Fault Refusal :=
  .next (s.issueXXX h 0x08 1 d s1 s2 (arith ty false fun a b => if a < b then b else a))

/-! ## Logic, shifts, counts, select (R128) -/

/-- `and` (R128). -/
def execAnd (h : Hdr) (d s1 s2 : BitVec 6) (s : State) : Host.Outcome State Fault Refusal :=
  .next (s.issueXXX h 0x09 1 d s1 s2 fun a b => (a &&& b, 0))

/-- `or` (R128). -/
def execOr (h : Hdr) (d s1 s2 : BitVec 6) (s : State) : Host.Outcome State Fault Refusal :=
  .next (s.issueXXX h 0x0A 1 d s1 s2 fun a b => (a ||| b, 0))

/-- `xor` (R128). -/
def execXor (h : Hdr) (d s1 s2 : BitVec 6) (s : State) : Host.Outcome State Fault Refusal :=
  .next (s.issueXXX h 0x0B 1 d s1 s2 fun a b => (a ^^^ b, 0))

/-- `shl` (R128): the count is taken modulo N. -/
def execShl (h : Hdr) (ty : Fmt) (d s1 s2 : BitVec 6) (s : State) : Host.Outcome State Fault Refusal :=
  .next (s.issueXXX h 0x0C 1 d s1 s2 fun a b => (shiftLeft ty a (b.toNat % ty.width), 0))

/-- `shr` (R128). -/
def execShr (h : Hdr) (ty : Fmt) (d s1 s2 : BitVec 6) (s : State) : Host.Outcome State Fault Refusal :=
  .next (s.issueXXX h 0x0D 1 d s1 s2 fun a b => (shiftRight ty a (b.toNat % ty.width), 0))

/-- `sra` (R128). -/
def execSra (h : Hdr) (ty : Fmt) (d s1 s2 : BitVec 6) (s : State) : Host.Outcome State Fault Refusal :=
  .next (s.issueXXX h 0x0E 1 d s1 s2 fun a b => (shiftArith ty a (b.toNat % ty.width), 0))

/-- `sel` (R128). -/
def execSel (h : Hdr) (d s1 s2 : BitVec 6) (pn : BitVec 4) (s : State) : Host.Outcome State Fault Refusal :=
  .next (s.issue { h := h, major := 0x0F, srcs := [.x s1, .x s2, .p pn], dests := [.x d] } false
    (s.gives 1 (.word (if (s.ctx.work.getP pn).val then s.xval s1 else s.xval s2)) 0))

/-- `clz` (R128). -/
def execClz (h : Hdr) (ty : Fmt) (d s1 : BitVec 6) (s : State) : Host.Outcome State Fault Refusal :=
  .next (s.issueXX h 0x10 d s1 fun a => BitVec.ofNat 64 (clzN ty.width (lowBits ty.width a.toNat)))

/-- `ctz` (R128). -/
def execCtz (h : Hdr) (ty : Fmt) (d s1 : BitVec 6) (s : State) : Host.Outcome State Fault Refusal :=
  .next (s.issueXX h 0x11 d s1 fun a => BitVec.ofNat 64 (ctzN ty.width (lowBits ty.width a.toNat)))

/-- `popc` (R128). -/
def execPopc (h : Hdr) (ty : Fmt) (d s1 : BitVec 6) (s : State) : Host.Outcome State Fault Refusal :=
  .next (s.issueXX h 0x12 d s1 fun a => BitVec.ofNat 64 (popcN ty.width (lowBits ty.width a.toNat)))

/-! ## Compares and predicate logic (R130, R131) -/

/-- `cmp` (R130). -/
def execCmp (h : Hdr) (c : Cond) (ty : Fmt) (pd : BitVec 4) (s1 s2 : BitVec 6) (s : State) : Host.Outcome State Fault Refusal :=
  .next (s.issue { h := h, major := 0x13, srcs := [.x s1, .x s2], dests := [.p pd] } false
    (s.gives 2 (.bit (c.int (ty.opnd (s.xval s1)) (ty.opnd (s.xval s2)))) 0))

/-- The predicate forms (R131). -/
def State.issuePPP (s : State) (h : Hdr) (major : BitVec 8) (pd p1 p2 : BitVec 4) (f : Bool → Bool → Bool) : State :=
  s.issue { h := h, major := major, srcs := [.p p1, .p p2], dests := [.p pd] } false
    (s.gives 1 (.bit (f (s.ctx.work.getP p1).val (s.ctx.work.getP p2).val)) 0)

/-- `pand` (R131). -/
def execPand (h : Hdr) (pd p1 p2 : BitVec 4) (s : State) : Host.Outcome State Fault Refusal :=
  .next (s.issuePPP h 0x14 pd p1 p2 fun a b => a && b)

/-- `por` (R131). -/
def execPor (h : Hdr) (pd p1 p2 : BitVec 4) (s : State) : Host.Outcome State Fault Refusal :=
  .next (s.issuePPP h 0x15 pd p1 p2 fun a b => a || b)

/-- `pxor` (R131). -/
def execPxor (h : Hdr) (pd p1 p2 : BitVec 4) (s : State) : Host.Outcome State Fault Refusal :=
  .next (s.issuePPP h 0x16 pd p1 p2 fun a b => a != b)

/-- `pandn` (R131). -/
def execPandn (h : Hdr) (pd p1 p2 : BitVec 4) (s : State) : Host.Outcome State Fault Refusal :=
  .next (s.issuePPP h 0x17 pd p1 p2 fun a b => a && !b)

/-! ## Immediates (R129, R130, R132) -/

/-- `addi` (R129). -/
def execAddi (h : Hdr) (ty : Fmt) (d s1 : BitVec 6) (imm : Imm) (s : State) : Host.Outcome State Fault Refusal :=
  .next (s.issueXX h 0x20 d s1 fun a => ty.fit (ty.opnd a + ty.opnd (imm.value true)))

/-- `andi` (R129). -/
def execAndi (h : Hdr) (d s1 : BitVec 6) (imm : Imm) (s : State) : Host.Outcome State Fault Refusal :=
  .next (s.issueXX h 0x21 d s1 fun a => a &&& imm.value false)

/-- `ori` (R129). -/
def execOri (h : Hdr) (d s1 : BitVec 6) (imm : Imm) (s : State) : Host.Outcome State Fault Refusal :=
  .next (s.issueXX h 0x22 d s1 fun a => a ||| imm.value false)

/-- `xori` (R129). -/
def execXori (h : Hdr) (d s1 : BitVec 6) (imm : Imm) (s : State) : Host.Outcome State Fault Refusal :=
  .next (s.issueXX h 0x23 d s1 fun a => a ^^^ imm.value false)

/-- `shli` (R129). -/
def execShli (h : Hdr) (ty : Fmt) (d s1 : BitVec 6) (k : BitVec 16) (s : State) : Host.Outcome State Fault Refusal :=
  .next (s.issueXX h 0x24 d s1 fun a => shiftLeft ty a k.toNat)

/-- `shri` (R129). -/
def execShri (h : Hdr) (ty : Fmt) (d s1 : BitVec 6) (k : BitVec 16) (s : State) : Host.Outcome State Fault Refusal :=
  .next (s.issueXX h 0x25 d s1 fun a => shiftRight ty a k.toNat)

/-- `srai` (R129). -/
def execSrai (h : Hdr) (ty : Fmt) (d s1 : BitVec 6) (k : BitVec 16) (s : State) : Host.Outcome State Fault Refusal :=
  .next (s.issueXX h 0x26 d s1 fun a => shiftArith ty a k.toNat)

/-- `cmpi` (R130). -/
def execCmpi (h : Hdr) (c : Cond) (ty : Fmt) (pd : BitVec 4) (s1 : BitVec 6) (imm : Imm) (s : State) :
    Host.Outcome State Fault Refusal :=
  .next (s.issue { h := h, major := 0x27, srcs := [.x s1], dests := [.p pd] } false
    (s.gives 2 (.bit (c.int (ty.opnd (s.xval s1)) (ty.opnd (imm.value true)))) 0))

/-- `movi` (R129). -/
def execMovi (h : Hdr) (d : BitVec 6) (imm : Imm) (s : State) : Host.Outcome State Fault Refusal :=
  .next (s.issue { h := h, major := 0x28, dests := [.x d] } false (s.gives 1 (.word (imm.value true)) 0))

/-- `bfx` (R132): the field sign-extended for .i64, zero-extended for .n64. -/
def execBfx (h : Hdr) (ty : Fmt) (d s1 : BitVec 6) (pos wm1 : BitVec 6) (s : State) : Host.Outcome State Fault Refusal :=
  .next (s.issueXX h 0x29 d s1 fun a =>
    BitVec.ofInt 64 (intOf ty.isSignedInt (wm1.toNat + 1) (fieldOf a pos.toNat (wm1.toNat + 1))))

/-- xd with `width` bits from `pos` on replaced by the low bits of xs1 (R132). -/
def insertField (a b : Word) (pos width : Nat) : Word :=
  let m : Word := BitVec.ofNat 64 ((2 ^ width - 1) * 2 ^ pos)
  (a &&& ~~~m) ||| ((b <<< pos) &&& m)

/-- `bfi` (R132): it reads its destination. -/
def execBfi (h : Hdr) (d s1 : BitVec 6) (pos wm1 : BitVec 6) (s : State) : Host.Outcome State Fault Refusal :=
  .next (s.issue { h := h, major := 0x2A, srcs := [.x s1, .x d], dests := [.x d] } false
    (s.gives 1 (.word (insertField (s.xval d) (s.xval s1) pos.toNat (wm1.toNat + 1))) 0))

/-! ## Address arithmetic (R133) -/

/-- The registers of a memory operand, as tag sources in order. -/
def MemOp.srcs (m : MemOp) : List Reg :=
  match m with
  | .m0 xb _ | .m0x xb _ _ => [.x xb]
  | .m1 xb xi _ => [.x xb, .x xi]

/-- `lea` (R133). -/
def execLea (h : Hdr) (d : BitVec 6) (m : MemOp) (s : State) : Host.Outcome State Fault Refusal :=
  .next (s.issue { h := h, major := 0x30, srcs := MemOp.srcs m, dests := [.x d] } false (s.gives 1 (.word (m.addr s.xval)) 0))

/-! ## Control registers and traps (R134 to R136) -/

/-- `mfc` (R134): the register at issue; no poison, no tag source. -/
def execMfc (h : Hdr) (d : BitVec 6) (n : BitVec 16) (s : State) : Host.Outcome State Fault Refusal :=
  .next (s.issue { h := h, major := 0x2B, dests := [.x d], clean := true } false
    (if ctlAccess s.who.cid n = .none then .error (.fault 0x04 0x01 s.iss.addr) else s.gives 1 (.word (s.readCtl n)) 0))

/-- `mtc` (R134): the value reaches the working copy at c + 1; a write to an RO register is ignored (R110). -/
def execMtc (h : Hdr) (n : BitVec 16) (s1 : BitVec 6) (s : State) : Host.Outcome State Fault Refusal :=
  .next (s.issue { h := h, major := 0x2C, also := [.x s1] } false
    (match ctlAccess s.who.cid n with
      | .none => .error (.fault 0x04 0x01 s.iss.addr)
      | .ro => .ok { s := s }
      | .rw => .ok { s := s.schedule 1 (.ctl n) (.word (s.xval s1)) 0 false 0 }))

/-- `tfence` (R135): the arithmetic trap when a flag delivered is masked in. -/
def execTfence (h : Hdr) (s : State) : Host.Outcome State Fault Refusal :=
  let v := s.ctx.work.flags &&& s.ctx.work.fmask
  .next (s.issue { h := h, major := 0x18 } false
    (if v = 0 then .ok { s := s } else .error (.fault 0x20 0x00 (v.setWidth 64))))

/-- `trap` (R136). -/
def execTrap (h : Hdr) (imm : BitVec 16) (s : State) : Host.Outcome State Fault Refusal :=
  .next (s.issue { h := h, major := 0x2D } false (.error (.fault 0x21 (imm.setWidth 8) (imm.setWidth 64))))

end Sys2Proof.Machine
end

