-- ==== Sys2Proof/Machine/MemoryForms.lean ====
section
/-! DEFINITION. Loads, stores, gather and scatter, load-blocks and the monitor wait (11_memory_instructions.md R220 to R231, R236 to
R238). -/

namespace Sys2Proof.Machine

/-! ## Loads (R223, R225, R226) -/

/-- A load that leaves the tile at issue: one request a leg, its last leg under the load's message entry (R35, R214, R238). -/
def State.remoteLoad (s : State) (legs : List Leg) (d : Dest) (conv : Leg → Conv) (poison : Bool) (start : Nat) : State :=
  legs.foldl (fun s l =>
    let (id, s) := s.newId
    let t := s.request (s.reqWork (s.reqOf l id (.load l.len)) false false)
    t.awaitNow id (if some l = legs.getLast? then .msg else .none) [d] (conv l) poison start) s

/-- A load of a device page (R210): one command, which leaves at commit. -/
def State.deviceLoad (s : State) (legs : List Leg) (d : Dest) (conv : Leg → Conv) (poison : Bool) : State :=
  let r := legs.foldl (fun (a : State × List CmdOp) l =>
    let (id, s) := a.1.newId
    (s.awaitCommit id (if some l = legs.getLast? then .msg else .none) [d] (conv l) poison,
      a.2 ++ [.send (s.reqWork (s.reqOf l id (.load l.len)) false false)])) (s, [])
  r.1.command r.2

/-- The load of n bytes at ea under form f, into d: exposed from the local space, else asynchronous. -/
def State.load (s : State) (f : Form) (sp : Space) (ea : Word) (n esz : Nat) (ssel : BitVec 2) (d : Dest) (conv : Leg → Conv) (lat : Nat)
    (pay : List Byte → Payload) : Except Halt Out :=
  match s.locate sp ea n esz .read with
  | .error h => .error h
  | .ok (.loc off) =>
    if s.readHeld [(off, n)] then .error (.freeze .scoreboard)
    else
      let r := s.localRead (s.ctx.work.stamp ssel) [(off, n)]
      .ok { s := s.loadsGranules off n, res := [⟨lat, pay r.bytes, 0⟩], con := r.con, poison := r.poison }
  | .ok (.away legs) =>
    let p := f.poison s.ctx.work
    let t := s.walks legs
    if legs.any (·.dev) then checked [s.cmdFull, s.msgFull] (.ok { s := t.deviceLoad legs d conv p })
    else checked [s.msgFull] (.ok { s := t.remoteLoad legs d conv p (s.ctx.sclk + 1) })

/-- A scalar element as a load delivers it (R223). -/
def scalarOf (ty : Fmt) (bs : List Byte) : Word := ty.fit (ty.opnd (BitVec.ofNat 64 (leNat bs)))

/-- `ld` (R223, R226). -/
def execLd (h : Hdr) (ty : Fmt) (sp : Space) (d : BitVec 6) (m : MemOp) (ssel : BitVec 2) (_hint : Hint) (s : State) :
    Host.Outcome State Fault Refusal :=
  let f : Form := { h := h, major := 0x80, srcs := MemOp.srcs m, dests := [.x d], mem := true }
  let n := ty.width / 8
  .next (s.issue f false (s.load f sp (m.addr s.xval) n n ssel (.x d) (fun _ => .scalar ty) 5 fun bs => .word (scalarOf ty bs)))

/-- The elements of a leg of a vector load: the lanes it fills (R225). -/
def legConv (ty : Fmt) (b : Nat) (l : Leg) : Conv := if l.pos = 0 then .vector ty (l.len / b) else .more ty (l.pos / b) (l.len / b)

/-- `vld` (R225, R226). -/
def execVld (h : Hdr) (ty : Fmt) (sp : Space) (vd : BitVec 6) (m : MemOp) (ssel : BitVec 2) (_hint : Hint) (s : State) :
    Host.Outcome State Fault Refusal :=
  let f : Form := { h := h, major := 0x82, srcs := MemOp.srcs m, dests := [.v vd], mem := true }
  let b := ty.width / 8
  .next (s.issue f false (s.load f sp (m.addr s.xval) (s.vl * b) b ssel (s.ctx.work.destOf (.v vd)) (legConv ty b) 6 fun bs =>
    .lanes (elementLanes ty s.vl (leNat bs))))

/-! ## Stores (R224, R225, R226) -/

/-- Stores that leave at commit: one message a leg, the last under the store's message entry. -/
def State.remoteStore (s : State) (legs : List Leg) (data : List Byte) (tag : Tag) (poison : Bool) : State :=
  let (id, s) := s.newId
  s.command (legs.map fun l =>
    let last := some l == legs.getLast?
    .send (s.reqWork (s.reqOf l (if last then id else 0) (.store ((data.drop l.pos).take l.len) tag s.ctx.work.ws poison)) true last))

/-- A store of `data` at ea under form f: buffered in the local space, else a command. -/
def State.store (s : State) (f : Form) (sp : Space) (ea : Word) (esz : Nat) (data : List Byte) : Except Halt Out :=
  let tag := (f.data.map s.ctx.work.tagOf).getD 0
  let p := f.poison s.ctx.work
  match s.locate sp ea data.length esz .write with
  | .error h => .error h
  | .ok (.loc off) =>
    checked [s.bytesFull data.length, if s.writeHeld [(off, data.length)] then some (.freeze .scoreboard) else none]
      (.ok { s := (s.buffer off data tag p).digests sp ea data })
  | .ok (.away legs) =>
    let t : State := if p && legs.any Leg.crosses then s.tainted else s
    checked [s.cmdFull, s.msgFull] (.ok { s := ((t.walks legs).remoteStore legs data tag p).digests sp ea data })

/-- `st` (R224, R226). -/
def execSt (h : Hdr) (ty : Fmt) (sp : Space) (xs : BitVec 6) (m : MemOp) (_hint : Hint) (s : State) : Host.Outcome State Fault Refusal :=
  let f : Form := { h := h, major := 0x81, also := MemOp.srcs m, data := some (.x xs) }
  let n := ty.width / 8
  .next (s.issue f false (s.store f sp (m.addr s.xval) n (leBytes n (s.xval xs).toNat)))

/-- `vst` (R225, R226). -/
def execVst (h : Hdr) (ty : Fmt) (sp : Space) (vs : BitVec 6) (m : MemOp) (_hint : Hint) (s : State) : Host.Outcome State Fault Refusal :=
  let f : Form := { h := h, major := 0x83, also := MemOp.srcs m, data := some (.v vs) }
  let b := ty.width / 8
  .next (s.issue f false (s.store f sp (m.addr s.xval) b (laneBytes (s.vval vs) b s.vl)))

/-! ## Gather and scatter (R228) -/

/-- The address of lane l. -/
def laneAddr (base : Word) (idx : Lanes) (b : Nat) (l : Nat) : Word :=
  base + ((idx.toArray.getD l 0).signExtend 64 : Word) * BitVec.ofNat 64 b

/-- The offsets of the active lanes, checked under R222: the lowest failing lane decides. -/
def State.laneOffs (s : State) (need : Need) (b : Nat) : List Word → Except Halt (List Nat)
  | [] => .ok []
  | ea :: r =>
    match s.locate .loc ea b b need with
    | .error (.error d _) => .error (.error d ea)
    | .error h => .error h
    | .ok (.loc off) => (s.laneOffs need b r).map (off :: ·)
    | .ok (.away _) => .ok []

/-- The addresses of the active lanes of an indexed form. -/
def State.laneAddrs (s : State) (xb vi : BitVec 6) (off : BitVec 14) (b : Nat) : List Word :=
  (List.range s.vl).map (laneAddr (s.xval xb + off.signExtend 64) (s.vval vi) b)

/-- `vgath` (R228). -/
def execVgath (h : Hdr) (ty : Fmt) (vd xb vi : BitVec 6) (off : BitVec 14) (ssel : BitVec 2) (_hint : Hint) (s : State) :
    Host.Outcome State Fault Refusal :=
  let f : Form := { h := h, major := 0x84, srcs := [.x xb, .v vi], dests := [.v vd], mem := true }
  let b := ty.width / 8
  .next (s.issue f false
    (match s.laneOffs .read b (s.laneAddrs xb vi off b) with
      | .error e => .error e
      | .ok offs =>
        let rs := offs.map fun o => (o, b)
        if s.readHeld rs then .error (.freeze .scoreboard)
        else
          let r := s.localRead (s.ctx.work.stamp ssel) rs
          .ok { s := rs.foldl (fun s p => s.loadsGranules p.1 p.2) s, res := [⟨6, .lanes (elementLanes ty s.vl (leNat r.bytes)), 0⟩]
                con := r.con, poison := r.poison }))

/-- `vscat` (R228): one buffered store a lane, in ascending order. -/
def execVscat (h : Hdr) (ty : Fmt) (vs xb vi : BitVec 6) (off : BitVec 14) (_hint : Hint) (s : State) :
    Host.Outcome State Fault Refusal :=
  let f : Form := { h := h, major := 0x85, also := [.x xb, .v vi], data := some (.v vs) }
  let b := ty.width / 8
  let eas := s.laneAddrs xb vi off b
  .next (s.issue f false
    (match s.laneOffs .write b eas with
      | .error e => .error e
      | .ok offs =>
        let p := f.poison s.ctx.work
        let tag := s.ctx.work.tagOf (.v vs)
        let ps := (offs.zip eas).mapIdx fun l e => (e, leBytes b ((s.vval vs).toArray.getD l 0).toNat)
        checked [s.bytesFull (s.vl * b), if s.writeHeld (offs.map fun o => (o, b)) then some (.freeze .scoreboard) else none]
          (.ok { s := ps.foldl (fun s e => (s.buffer e.1.1 e.2 tag p).digests .loc e.1.2 e.2) s })))

/-! ## The line cache (R196, R197, R229 to R231) -/

/-- The copy-queue entries of a block's own list (R238). -/
def Block.copies (b : Block) : Nat := (b.cmds.filter fun c => match c.op with | .copy _ | .evblk _ => true | _ => false).length

/-- The copy queue (R238): the entries of blocks not committed and of copies not retired. -/
def State.copyFull (s : State) : Option Halt :=
  s.queueFull 16 ((s.tile.jobs.filter fun j => j.cid == s.who.cid).length + (s.ctx.blocks.map Block.copies).sum) s.ctx.cur.copies

/-- The tile slot of a slot name of the context in focus (R229). -/
def State.lineSlot (s : State) (k : BitVec 4) : Nat := 16 * s.who.cid + k.toNat

/-- `ldblk` (R229). -/
def execLdblk (h : Hdr) (s1 s2 : BitVec 6) (k : BitVec 4) (ph : Option (BitVec 12)) (hint : Hint) (s : State) :
    Host.Outcome State Fault Refusal :=
  let cmd : CopyCmd := ⟨.fill (s.lineSlot k) hint ph.isSome, s.xval s1, s.xval s2, 0, lanesOf [], ph.getD 0, s.iss.addr⟩
  .next (s.issue { h := h, major := 0x86, also := [.x s1, .x s2] } false
    (checked [s.cmdFull, s.copyFull] (.ok { s := s.command [.copy cmd] })))

/-- `evblk` (R230). -/
def execEvblk (h : Hdr) (k : BitVec 4) (s : State) : Host.Outcome State Fault Refusal :=
  .next (s.issue { h := h, major := 0x88 } false
    (checked [s.cmdFull, s.copyFull] (.ok { s := s.command [.evblk (s.lineSlot k)] })))

/-- The bytes and the poison that a ready block of the context holds at a virtual address (R197, R231); where two of its blocks cover it, those of
the lower slot number (log 85). -/
def State.lineHit (s : State) (ea : Word) (n : Nat) : Option (List Byte × Bool) :=
  let pasid := (s.part s.ctx.part).pasid
  let holds (x : LineSlot) : Bool :=
    x.st == .ready && x.owner == s.who.cid && x.pasid == pasid && x.base ≤ ea.toNat && ea.toNat + n ≤ x.base + 128 * x.lines
  (s.tile.slots.toList.find? holds).map fun x =>
    let o := ea.toNat - x.base
    ((x.data.drop o).take n, x.poison.getD (o / 64) false)

/-- `ldl` (R197, R223, R231): a hit delivers at c + 8 under the base tag; a miss is a global load that becomes pending then. -/
def execLdl (h : Hdr) (ty : Fmt) (d : BitVec 6) (m : MemOp) (_hint : Hint) (s : State) : Host.Outcome State Fault Refusal :=
  let f : Form := { h := h, major := 0x87, srcs := MemOp.srcs m, dests := [.x d], mem := true }
  let n := ty.width / 8
  let ea := m.addr s.xval
  let p := f.poison s.ctx.work
  .next (s.issue f false
    (if ea.toNat % n != 0 then .error (.fault 0x0B 0x01 ea)
     else match s.lineHit ea n with
      | some (bs, bad) => .ok { s := s.schedule 8 (.x d) (.word (scalarOf ty bs)) (baseX d) (p || bad) 0 }
      | none =>
        match s.globalLegs ea .read (unitPieces ea.toNat n) with
        | .error e => .error e
        | .ok legs => checked [s.msgFull] (.ok { s := (s.walks legs).remoteLoad legs (.x d) (fun _ => .scalar ty) p (s.ctx.sclk + 8) })))

/-! ## The monitor wait (R236, R237) -/

/-- The element as the context's own read finds it: its bytes and the tag words of its granules. -/
def State.monitorRead (s : State) (off n : Nat) : List Byte × List (Nat × Word) :=
  (s.localBytes off n, (granulesOf off n).map fun g => (g, s.localTagWord g))

/-- A wake-up is due at once: a pre-emption or a trap waits for the context (R236). A wound that is not held takes the context out of its wait by
its trap (R328). -/
def Ctx.wakes (c : Ctx) : Bool := c.preempt || c.traps.any c.wokenBy

/-- The read that ends the monitor wait of a slot: that of its own wake-up, or the comparison's where no wait occurs; none while the context
waits. -/
def State.monitorValue (s : State) (slot : Slot) (off n : Nat) (v : Word) : Option (List Byte × List (Nat × Word)) :=
  match s.ctx.woken.find? fun w => w.slot == slot with
  | some w => some (w.bytes, w.gs)
  | none =>
    let g := s.monitorRead off n
    if leNat g.1 = v.toNat % 2 ^ (8 * n) && !s.ctx.wakes then none else some g

/-- The comparison of an `mwait` may not be made yet: the monitor is armed, or a command that its predecessor released to the tile's own
scratchpad is still to be served there (R36, R236). -/
def State.mwaitHeld (s : State) : Bool :=
  s.ctx.monitor.isSome || s.work.any fun w => w.src == s.who && w.dst == .tile s.who.site && w.write

/-- The issue of an `mwait` behind its predecessor's commit. -/
def State.issueMwait (s : State) (f : Form) (ty : Fmt) (ea : Word) (v : Word) (ssel : BitVec 2) : State :=
  let n := ty.width / 8
  match s.locate .loc ea n n .read with
  | .ok (.loc off) =>
    if s.readHeld [(off, n)] then s.issue f false (.error (.freeze .scoreboard))
    else if s.mwaitHeld then s.issue f false (.error (.freeze .monitor))
    else match s.monitorValue f.h.slot off n v with
      | some g =>
        s.issue f false (.ok { s := s.loadsGranules off n, res := [⟨5, .word (scalarOf ty g.1), 0⟩]
                               con := contribution (s.ctx.work.stamp ssel) g.2, poison := g.2.any fun x => tagPoison x.2 })
      | none =>
        let armed : State := { s with ctx := { s.ctx with monitor := some ⟨f.h.slot, off, n, false⟩ } }
        (armed.useBanks s.who.pad off n).issue f false (.error (.freeze .monitor))
  | .ok (.away _) => s
  | .error e => s.issue f false (.error e)

/-- `mwait` (R236, R237): its bundle waits until a wake-up, then reads what ended the wait. -/
def execMwait (h : Hdr) (ty : Fmt) (xd : BitVec 6) (m : MemOp) (ssel : BitVec 2) (_hint : Hint) (s : State) :
    Host.Outcome State Fault Refusal :=
  let f : Form := { h := h, major := 0x8C, srcs := .x xd :: MemOp.srcs m, dests := [.x xd], mem := true }
  if s.ctx.work.admits h && (s.ctx.awaited f.regs).isNone then
    .next (s.behindCommit fun t => t.issueMwait f ty (m.addr t.xval) (t.xval xd) ssel)
  else .next (s.issue f false (.ok { s := s }))

/-- MONITOR_WAKEUP (R236, R237): the element is read by what ends the wait, and the context issues again. One left over from an earlier arming
ends nothing. -/
def execMonitorWakeup (c : Src) (s : State) : Host.Outcome State Fault Refusal :=
  if 288 ≤ c.site then .next s
  else
    let t := s.focus c
    .next (match t.ctx.monitor with
      | some m =>
        if !m.hit && !t.ctx.wakes then s else
        let t : State := { t with iss := { t.iss with nst := t.ctx.cur.stores.length } }
        let g := t.monitorRead m.off m.len
        let x := if t.ctx.frozen == some .monitor then t.ctx.resume else t.ctx
        State.focus { t with ctx := { x with monitor := none, woken := t.ctx.woken ++ [⟨m.slot, g.1, g.2⟩] } } s.who
      | none => s)

end Sys2Proof.Machine
end

