-- ==== Sys2Proof/Machine/Atomics.lean ====
section
/-! DEFINITION. The read-modify-write forms (11_memory_instructions.md R232 to R235). -/

namespace Sys2Proof.Machine

/-- The operations whose xs field names a register (Table 11.2). -/
def readsXs : RmwOp → Bool
  | .cas | .bfins | .plset => true
  | _ => false

/-- A form of layout MA as it stands: one destination step whether or not it returns (R235). -/
def rmwShape (h : Hdr) (major : BitVec 8) (op : RmwOp) (o : Rmw) : Form :=
  { h := h, major := major, srcs := if readsXs op then [.x o.rd, .x o.xs] else [.x o.rd], also := [.x o.xb], dests := [.x o.rd], mem := true }

/-- What a read-modify-write form performs at its home: the values of rd and xs, for `atom.fadd` its flush bits (R234), and the tag
that it writes there (R171). -/
def State.rmwAccess (s : State) (f : Form) (op : RmwOp) (o : Rmw) : Access :=
  let fadd := op == .fadd
  .rmw op o.ty (s.xval o.rd) (if readsXs op then s.xval o.xs else 0) (fadd && o.xs.getLsbD 1) (fadd && o.xs.getLsbD 0) o.ret
    (f.tag s.ctx.work 0 0) s.ctx.work.ws (f.poison s.ctx.work)

/-- A read-modify-write form entered in the command list; a returning one awaits the old value from the commit on (R232, R35). -/
def State.rmwCommand (s : State) (o : Rmw) (l : Leg) (local_ : Bool) (a : Access) (poison : Bool) : State :=
  let (id, s) := s.newId
  let t := if o.ret then s.awaitCommit id (if local_ then .none else .msg) [.x o.rd] .word poison else s
  let r := s.reqOf l (if local_ && !o.ret then 0 else id) a
  let w := s.reqWork r true (!local_ && !o.ret)
  t.command [.send (if local_ then { w with dst := .bank s.who.site } else w)]

/-- A read-modify-write form (R232 to R235). -/
def State.rmw (s : State) (h : Hdr) (major : BitVec 8) (op : RmwOp) (o : Rmw) : State :=
  let f := rmwShape h major op o
  let n := o.ty.width / 8
  let ea := s.xval o.xb + o.off.signExtend 64
  let p := f.poison s.ctx.work
  let a := s.rmwAccess f op o
  let data := leBytes n (s.xval o.rd).toNat
  s.issue f false
    (match s.locate o.space ea n n .both with
      | .error e => .error e
      | .ok (.loc off) =>
        checked [s.cmdFull, if s.writeHeld [(off, n)] then some (.freeze .scoreboard) else none]
          (.ok { s := (s.rmwCommand o ⟨0, n, s.who.pad, off, false, false, ea, none⟩ true a p).digests o.space ea data })
      | .ok (.away legs) =>
        match legs with
        | [] => .ok { s := s }
        | l :: _ =>
          let t : State := if p && l.crosses then s.tainted else s
          checked [s.cmdFull, s.msgFull] (.ok { s := ((t.walks legs).rmwCommand o l false a p).digests o.space ea data }))

/-- `atom.add` (R233). -/
def execAtomAdd (h : Hdr) (o : Rmw) (s : State) : Host.Outcome State Fault Refusal := .next (s.rmw h 0x90 .add o)
/-- `atom.fadd` (R234). -/
def execAtomFadd (h : Hdr) (o : Rmw) (s : State) : Host.Outcome State Fault Refusal := .next (s.rmw h 0x91 .fadd o)
/-- `atom.min` (R233). -/
def execAtomMin (h : Hdr) (o : Rmw) (s : State) : Host.Outcome State Fault Refusal := .next (s.rmw h 0x92 .min o)
/-- `atom.max` (R233). -/
def execAtomMax (h : Hdr) (o : Rmw) (s : State) : Host.Outcome State Fault Refusal := .next (s.rmw h 0x93 .max o)
/-- `atom.and` (R233). -/
def execAtomAnd (h : Hdr) (o : Rmw) (s : State) : Host.Outcome State Fault Refusal := .next (s.rmw h 0x94 .and o)
/-- `atom.or` (R233). -/
def execAtomOr (h : Hdr) (o : Rmw) (s : State) : Host.Outcome State Fault Refusal := .next (s.rmw h 0x95 .or o)
/-- `atom.xor` (R233). -/
def execAtomXor (h : Hdr) (o : Rmw) (s : State) : Host.Outcome State Fault Refusal := .next (s.rmw h 0x96 .xor o)
/-- `atom.swp` (R233). -/
def execAtomSwp (h : Hdr) (o : Rmw) (s : State) : Host.Outcome State Fault Refusal := .next (s.rmw h 0x97 .swp o)
/-- `atom.cas` (R233). -/
def execAtomCas (h : Hdr) (o : Rmw) (s : State) : Host.Outcome State Fault Refusal := .next (s.rmw h 0x98 .cas o)
/-- `bfins` (R233). -/
def execBfins (h : Hdr) (o : Rmw) (s : State) : Host.Outcome State Fault Refusal := .next (s.rmw h 0x89 .bfins o)
/-- `ffcs` (R233). -/
def execFfcs (h : Hdr) (o : Rmw) (s : State) : Host.Outcome State Fault Refusal := .next (s.rmw h 0x8A .ffcs o)
/-- `plset` (R233). -/
def execPlset (h : Hdr) (o : Rmw) (s : State) : Host.Outcome State Fault Refusal := .next (s.rmw h 0x8B .plset o)

end Sys2Proof.Machine
end

