-- ==== Sys2Proof/Machine/Clasp.lean ====
section
/-! DEFINITION. The clasp units: names, modes, decisions, queues, wounds and releases (15_clasp.md). -/

namespace Sys2Proof.Machine

/-! ## Names (R317) -/

/-- LEVEL of a name. -/
def nameLevel (n : Word) : Nat := (n.extractLsb' 62 2).toNat

/-- A well-formed name. -/
def nameOk (n : Word) : Bool :=
  match nameLevel n with
  | 0 => n.extractLsb' 0 38 == 0
  | 1 => n.extractLsb' 0 18 == 0
  | 2 => true
  | _ => false

/-- The parent of a name. -/
def nameParent (n : Word) : Option Word :=
  match nameLevel n with
  | 1 => some (n &&& 0x3FFFFFC000000000)
  | 2 => some ((n &&& 0x3FFFFFFFFFFC0000) ||| 0x4000000000000000)
  | _ => none

/-- Name `m` stands below name `n` in the hierarchy. -/
def nameBelow (n m : Word) : Bool :=
  match nameLevel n with
  | 0 => nameLevel m != 0 && m.extractLsb' 38 24 == n.extractLsb' 38 24
  | 1 => nameLevel m == 2 && m.extractLsb' 18 44 == n.extractLsb' 18 44
  | _ => false

/-! ## Modes (R319, R320) -/

/-- The join of two modes (Table 15.3). -/
def modeJoin (h m : BitVec 3) : BitVec 3 :=
  let table : List (List (BitVec 3)) :=
    [[0, 1, 2, 3, 4, 5, 6], [1, 1, 2, 3, 4, 6, 6], [2, 2, 2, 4, 4, 6, 6], [3, 3, 4, 3, 4, 6, 6],
     [4, 4, 4, 4, 4, 6, 6], [5, 6, 6, 6, 6, 5, 6], [6, 6, 6, 6, 6, 6, 6]]
  (table.getD h.toNat []).getD m.toNat 6

/-- The modes in which a parent must be held for a target (Table 15.2). -/
def parentOk (target held : BitVec 3) : Bool :=
  if target = 1 || target = 3 then held = 1 || held = 2 || held = 4 else held = 2 || held = 4

/-- A requested mode is compatible with a held mode under a matrix (R320). -/
def compatible (matrix : Word) (held asked : BitVec 3) : Bool :=
  held = 0 || asked = 0 || matrix.getLsbD (8 * held.toNat + asked.toNat)

/-- The matrix of a partition. -/
def State.matrix (s : State) (p : BitVec 4) : Word := (s.part p).word 7

/-! ## Entries (R321) -/

/-- The holders of a name. -/
def State.holders (s : State) (p : BitVec 4) (n : Word) : List Lock := s.locks.filter fun l => l.part == p && l.name == n

/-- The entry of a task on a name. -/
def State.lockOf (s : State) (p : BitVec 4) (rank : Nat) (n : Word) : Option Lock := (s.holders p n).find? (·.rank = rank)

/-- The mode of a task on a name; NL without an entry. -/
def State.modeOf (s : State) (p : BitVec 4) (rank : Nat) (n : Word) : BitVec 3 := ((s.lockOf p rank n).map (·.mode)).getD 0

/-- The waiters of a name, in queue order: upgrades in rank order, then the others in rank order (R324). -/
def State.queueOf (s : State) (p : BitVec 4) (n : Word) : List Waiter :=
  let ws := s.waiters.filter fun w => w.part == p && w.name == n
  let ins (acc : List Waiter) (w : Waiter) : List Waiter := (acc.takeWhile fun v => v.rank ≤ w.rank) ++ [w] ++ (acc.dropWhile fun v => v.rank ≤ w.rank)
  (ws.filter (·.upg)).foldl ins [] ++ (ws.filter fun w => !w.upg).foldl ins []

/-- Lock entries in use at a unit. -/
def State.locksAt (s : State) (u : Nat) : Nat := (s.locks.filter fun l => claspUnit l.name == u).length

/-- Waiter entries in use at a unit. -/
def State.waitersAt (s : State) (u : Nat) : Nat := (s.waiters.filter fun w => claspUnit w.name == u).length

/-- The status word (Table 15.6). -/
def claspStatus (count : Nat) (mode : BitVec 3) (holders waiters detail code : Nat) : Word :=
  BitVec.ofNat 16 count ++ (0 : BitVec 4) ++ mode ++ (0 : BitVec 1) ++ BitVec.ofNat 8 (min holders 255)
    ++ BitVec.ofNat 16 (min waiters 65535) ++ BitVec.ofNat 8 detail ++ (0 : BitVec 5) ++ BitVec.ofNat 3 code

/-- A status that shows the task's entry on the name as it stands. -/
def State.statusOf (s : State) (p : BitVec 4) (rank : Nat) (n : Word) (detail code : Nat) : Word :=
  match s.lockOf p rank n with
  | some l => claspStatus l.count l.mode 0 0 detail code
  | none => claspStatus 0 0 0 0 detail code

/-- A status on its way. -/
def State.sendStatus (s : State) (c : Src) (id : Nat) (w : Word) : State := s.send (answerWork ⟨c, id, [w], false, 0⟩)

/-! ## Grants and scans (R324, R325) -/

/-- A lock granted: a new entry with count 1, or the target mode on the entry held, which only a `clacq` counts; a mode never becomes weaker
(R330). -/
def State.grant (s : State) (p : BitVec 4) (rank : Nat) (n : Word) (t : BitVec 3) (acq : Bool) : State :=
  match s.lockOf p rank n with
  | none => { s with locks := s.locks ++ [⟨p, rank, n, t, 1⟩] }
  | some _ =>
    { s with locks := s.locks.map fun l =>
        if l.part = p && l.rank = rank && l.name = n then { l with mode := modeJoin l.mode t, count := if acq then l.count + 1 else l.count } else l }

/-- One waiter removed. -/
def State.dropWaiter (s : State) (w : Waiter) : State := { s with waiters := s.waiters.filter fun v => v != w }

/-- One pass over a queue from its head (R324); only a task that holds no entry on the name needs a free one. -/
def State.scanFrom (s : State) (p : BitVec 4) (n : Word) : List Waiter → List (BitVec 3) → State
  | [], _ => s
  | w :: ws, ahead =>
    let m := s.matrix p
    let free := w.upg || (s.lockOf p w.rank n).isSome || s.locksAt (claspUnit n) < 16384
    let ok := ((s.holders p n).filter fun l => l.rank != w.rank).all (fun l => compatible m l.mode w.target) && ahead.all fun t => compatible m t w.target
    if ok && free then
      let had := (s.lockOf p w.rank n).isSome
      let s := (s.grant p w.rank n w.target w.acq).dropWaiter w
      (s.sendStatus w.src w.id (s.statusOf p w.rank n (if had then 2 else 0) 0)).scanFrom p n ws ahead
    else s.scanFrom p n ws (ahead ++ [w.target])

/-- The queue of a name scanned from its head again behind every pass that has granted: a grant may change a holder's mode (R324). -/
def State.scanAgain (s : State) (p : BitVec 4) (n : Word) : Nat → State
  | 0 => s
  | k + 1 =>
    let t := s.scanFrom p n (s.queueOf p n) []
    if t.waiters.length < s.waiters.length then t.scanAgain p n k else t

/-- The queue of a name scanned. -/
def State.scan (s : State) (p : BitVec 4) (n : Word) : State := s.scanAgain p n ((s.queueOf p n).length + 1)

/-- The queues of a unit scanned after an entry has freed: that of the name first, then every other (R324). -/
def State.scanUnit (s : State) (p : BitVec 4) (n : Word) : State :=
  let others := (s.waiters.filter fun w => claspUnit w.name == claspUnit n && !(w.part == p && w.name == n)).map fun w => (w.part, w.name)
  others.dedup.foldl (fun s q => s.scan q.1 q.2) (s.scan p n)

/-- The waiters whose requests a wound has merged. -/
def State.woundedBy (s : State) (w : Wound) : List Waiter :=
  s.waiters.filter fun v => v.part == w.part && v.name == w.name && w.by_.contains v.id

/-- Wounds that still stand: the holder holds the name and a wounding request still waits (R329). The grace message of one that does not has no
effect any more, and none on a later wound of the same holder and name: it is gone. -/
def State.pruneWounds (s : State) : State :=
  let stands (w : Wound) : Bool := (s.lockOf w.part w.rank w.name).isSome && !(s.woundedBy w).isEmpty
  let over_ := s.wounds.filter fun w => w.graced && !stands w
  { s with
    wounds := (s.wounds.filter stands).map fun w => { w with by_ := (s.woundedBy w).map (·.id) }
    work := s.work.filter fun x => match x.ev with
      | .graceMessage p r n => !(over_.any fun w => w.part == p && w.rank == r && w.name == n)
      | _ => true }

/-- A wound of a younger holder by a request, merged into one that still stands (R327). -/
def State.wound (s : State) (p : BitVec 4) (holder : Nat) (n : Word) (by_ : Nat) : State :=
  if s.wounds.any fun w => w.part == p && w.rank == holder && w.name == n then
    { s with wounds := s.wounds.map fun w =>
        if w.part == p && w.rank == holder && w.name == n then { w with by_ := w.by_ ++ [by_] } else w }
  else
    let s' : State := { s with wounds := s.wounds ++ [⟨p, holder, n, [by_], none, false⟩] }
    s'.send ⟨s.who, .seq, false, false, false, .woundDelivery p holder n⟩

/-! ## Requests (R323) -/

/-- What a unit decides. -/
inductive Verdict where
  | status (detail code : Nat)
  | counted
  | granted (t : BitVec 3)
  | waits (t : BitVec 3)
  deriving DecidableEq, Repr

/-- The decision of R323. -/
def State.judge (s : State) (q : ClReq) : Verdict :=
  let h := s.modeOf q.part q.rank q.name
  let count : Nat := ((s.lockOf q.part q.rank q.name).map (·.count)).getD 0
  let r : Nat := if s.waiters.any fun w => w.part == q.part && w.rank == q.rank && w.name == q.name && w.upg && w.acq then 1 else 0
  let t := modeJoin h q.mode
  let m := s.matrix q.part
  let u := claspUnit q.name
  if q.form = .upg && h = 0 then .status 3 3
  else if t = h then
    if q.form != .acq then .status 1 0
    else if count + r = 65535 then .status 3 1
    else .counted
  else if q.form = .acq && h != 0 && count + r = 65535 then .status 3 1
  else if (match nameParent q.name with | some pn => !parentOk t (s.modeOf q.part q.rank pn) | none => false) then .status 1 3
  else if h = 0 && 16384 ≤ s.locksAt u then .status 1 1
  else
    let ahead := (s.queueOf q.part q.name).filter fun w => if h = 0 then w.upg || decide (w.rank < q.rank) else w.upg && decide (w.rank < q.rank)
    if ((s.holders q.part q.name).filter fun l => l.rank != q.rank).all (fun l => compatible m l.mode t)
        && ahead.all fun w => compatible m w.target t then .granted t
    else if q.form = .try then .status 0 4
    else if 32768 ≤ s.waitersAt u then .status 2 1
    else .waits t

/-- CLASP_REQUEST_SERVE (R323 to R327, R335). -/
def execClaspRequestServe (q : ClReq) (s : State) : Host.Outcome State Fault Refusal :=
  if 288 ≤ q.src.site then .next s
  else if q.form = .qry then
    let l := s.lockOf q.part q.rank q.name
    .next (s.sendStatus q.src q.id (claspStatus ((l.map (·.count)).getD 0) ((l.map (·.mode)).getD 0)
      (s.holders q.part q.name).length (s.queueOf q.part q.name).length 0 0))
  else
    let had := s.modeOf q.part q.rank q.name != 0
    match s.judge q with
    | .status d c => .next (s.sendStatus q.src q.id (s.statusOf q.part q.rank q.name d c))
    | .counted =>
      let s := s.grant q.part q.rank q.name (s.modeOf q.part q.rank q.name) true
      .next (s.sendStatus q.src q.id (s.statusOf q.part q.rank q.name 1 0))
    | .granted t =>
      let s := s.grant q.part q.rank q.name t (q.form == .acq)
      let s := s.sendStatus q.src q.id (s.statusOf q.part q.rank q.name (if had then 2 else 0) 0)
      .next (if had then (s.scan q.part q.name).pruneWounds else s)
    | .waits t =>
      let young := (s.holders q.part q.name).filter fun l => q.rank < l.rank && !compatible (s.matrix q.part) l.mode t
      let s := { s with waiters := s.waiters ++ [⟨q.part, q.rank, q.name, t, had, q.form == .acq, q.src, q.id⟩] }
      .next (young.foldl (fun s l => s.wound q.part l.rank q.name q.id) s)

/-! ## Releases (R330, R331) -/

/-- A waiting upgrade of a task on a name withdrawn by its release. -/
def State.withdrawUpgrade (s : State) (p : BitVec 4) (rank : Nat) (n : Word) : State :=
  let ws := s.waiters.filter fun w => w.part == p && w.rank == rank && w.name == n && w.upg
  ws.foldl (fun s w => (s.dropWaiter w).sendStatus w.src w.id (claspStatus 0 0 0 0 1 4)) s

/-- An entry freed. -/
def State.freeLock (s : State) (p : BitVec 4) (rank : Nat) (n : Word) : State :=
  { s with locks := s.locks.filter fun l => !(l.part == p && l.rank == rank && l.name == n) }

/-- CLASP_RELEASE_SERVE (R330). -/
def execClaspReleaseServe (q : ClReq) (s : State) : Host.Outcome State Fault Refusal :=
  if 288 ≤ q.src.site then .next s
  else match s.lockOf q.part q.rank q.name with
    | none => .next (s.sendStatus q.src q.id (s.statusOf q.part q.rank q.name 3 3))
    | some l =>
      let c := if q.all then 0 else l.count - 1
      if c = 0 && s.locks.any fun k => k.part == q.part && k.rank == q.rank && nameBelow q.name k.name then
        .next (s.sendStatus q.src q.id (s.statusOf q.part q.rank q.name 2 3))
      else if 0 < c then
        let s := { s with locks := s.locks.map fun k => if k = l then { k with count := c } else k }
        .next (s.sendStatus q.src q.id (s.statusOf q.part q.rank q.name 0 0))
      else
        let s := (s.withdrawUpgrade q.part q.rank q.name).freeLock q.part q.rank q.name
        let s := s.sendStatus q.src q.id (s.statusOf q.part q.rank q.name 0 0)
        .next (s.scanUnit q.part q.name).pruneWounds

/-- The locks and waits of a task at its end: waits withdrawn with no status, entries freed, queues scanned (R331). -/
def State.endLocks (s : State) (p : BitVec 4) (rank : Nat) : State :=
  let mine := s.waiters.filter fun w => w.part == p && w.rank == rank
  let held := s.locks.filter fun l => l.part == p && l.rank == rank
  let s := { s with
    waiters := s.waiters.filter fun w => !(w.part == p && w.rank == rank)
    locks := s.locks.filter fun l => !(l.part == p && l.rank == rank) }
  let names := (mine.map (·.name) ++ held.map (·.name)).dedup
  (names.foldl (fun s n => s.scanUnit p n) s).pruneWounds

/-! ## Wounds (R328, R329) -/

/-- The context that runs a task. -/
def State.runner (s : State) (p : BitVec 4) (rank : Nat) : Option Src :=
  s.contexts.find? fun c => match (s.getCtx c).task with | some t => t.part == p && t.rank == rank && c.cid != 3 | none => false

/-- Every waiting request of a task withdrawn as its wound trap is taken: its status arrives as wounded (R328). -/
def State.withdrawAll (s : State) (p : BitVec 4) (rank : Nat) : State :=
  let ws := s.waiters.filter fun w => w.part == p && w.rank == rank
  let s := ws.foldl (fun s w => (s.dropWaiter w).sendStatus w.src w.id (s.statusOf p rank w.name 0 2)) s
  ((ws.map (·.name)).dedup.foldl (fun s n => s.scan p n) s).pruneWounds

/-- WOUND_DELIVERY (R328, R329): the wound reaches the context that runs the holder; its count starts, and its trap falls due. A task that is
saved takes it at its resumption, and one that has it already takes it once. -/
def execWoundDelivery (p : BitVec 4) (rank : Nat) (n : Word) (s : State) : Host.Outcome State Fault Refusal :=
  if s.wounds.any fun w => w.part == p && w.rank == rank && w.name == n && w.counted.isNone then
    match s.runner p rank with
    | some c =>
      let s : State := { s with wounds := s.wounds.map fun w =>
        if w.part == p && w.rank == rank && w.name == n && w.counted.isNone then { w with counted := some 0 } else w }
      .next (s.postTrap c (.wound n))
    | none => .next s
  else .next s

/-- GRACE_MESSAGE (R329): the unit ends the holder as a failed task if the wound whose grace has run still stands as it serves the message. -/
def execGraceMessage (p : BitVec 4) (rank : Nat) (n : Word) (s : State) : Host.Outcome State Fault Refusal :=
  let s : State := s.pruneWounds
  match s.wounds.find? fun w => w.part == p && w.rank == rank && w.name == n && w.graced with
  | none => .next s
  | some w =>
    let ranks := (s.woundedBy w).map (·.rank)
    let oldest := ranks.foldl min (ranks.headD 0)
    let s := ((s.logError p n 1).logError p (BitVec.ofNat 64 rank) 1).logError p (BitVec.ofNat 64 oldest) 1
    let s := match s.runner p rank with
      | some c => (s.modCtx c fun x => x.stop .failed).report c 0x07 n
          (BitVec.ofNat 64 rank) (BitVec.ofNat 64 oldest)
      | none => s
    .next (s.endLocks p rank)

end Sys2Proof.Machine
end

