-- ==== Sys2Proof/Machine/Lineage.lean ====
section
/-! DEFINITION. The lineage forms, drift markers, debug guards and touchstones (09_lineage.md R183 to R187, 19_audit_counters.md
R388, R390, R395). -/

namespace Sys2Proof.Machine

/-- `lstamp` (R184): the stamp takes the low byte of xs1 + imm; no tag, no poison, no fold. -/
def execLstamp (h : Hdr) (d : BitVec 3) (s1 : BitVec 6) (imm : BitVec 8) (s : State) : Host.Outcome State Fault Refusal :=
  .next (s.issue { h := h, major := 0x60, also := [.x s1] } false
    (.ok { s := s.schedule 1 (.stamp d) (.word ((s.xval s1 + imm.setWidth 64) &&& 0xFF)) 0 false 0 }))

/-- `lseed` (R186): the tag of the destination becomes the seed at c + 1; the step folded is the seed itself. -/
def execLseed (h : Hdr) (vec : Bool) (d : BitVec 6) (imm : Imm) (s : State) : Host.Outcome State Fault Refusal :=
  let seed : Tag := (imm.value false).setWidth 32
  let r := s.ctx.work
  let dest : Dest := if vec then .tagV (r.physV d) else .tagX d
  let t := s.issue { h := h, major := 0x61, also := [if vec then .v d else .x d] } false
    (.ok { s := s.schedule 1 dest .tagOnly seed false 0 })
  .next (if (s.ctx.awaited [.p h.guard, if vec then .v d else .x d]).isSome then t else t.folded [seed] noCon)

/-- The register that the register forms of `ltag` read. -/
def tagReg (file : TagFile) (s1 : BitVec 6) : Reg :=
  match file with
  | .x => .x s1
  | .v => .v s1
  | .p => .p (s1.setWidth 4)
  | .a => .a (s1.setWidth 3)

/-- An accumulator index at or above the context's allotment (R68, R107). -/
def Regs.lacksAcc (r : Regs) (k : Nat) : Bool := r.acc.length ≤ k

/-- `ltag`, register forms (R185). -/
def execLtag (h : Hdr) (file : TagFile) (d s1 : BitVec 6) (s : State) : Host.Outcome State Fault Refusal :=
  let src := tagReg file s1
  .next (s.issue { h := h, major := 0x62, srcs := [src], dests := [.x d], clean := true }
    (file == .a && s.ctx.work.lacksAcc s1.toNat) (s.gives 1 (.word ((s.ctx.work.tagOf src).setWidth 64)) 0))

/-- `ltag.g` (R185): the committed tag word of a granule; no stamp check, no poison. -/
def execLtagG (h : Hdr) (d s1 : BitVec 6) (imm : BitVec 16) (s : State) : Host.Outcome State Fault Refusal :=
  let off := ((s.xval s1).setWidth 22 + imm.signExtend 22).toNat
  .next (s.issue { h := h, major := 0x62, srcs := [.x s1], dests := [.x d], clean := true } false
    (if !s.inPad off 1 then .error (.error 0x01 (BitVec.ofNat 64 off))
     else if s.readHeld [(off, 1)] then .error (.freeze .scoreboard)
     else (s.loadsGranules off 1).gives 5 (.word (s.tagWord s.who.pad off)) 0))

/-- `lfold` (R187): lf as the earlier bundles of the block left it. -/
def execLfold (h : Hdr) (d : BitVec 6) (s : State) : Host.Outcome State Fault Refusal :=
  .next (s.issue { h := h, major := 0x63, dests := [.x d], clean := true } false (s.gives 1 (.word (s.ctx.cur.lf.setWidth 64)) 0))

/-- sat32 of R390. -/
def sat32 (v : Int) : Int := if v < -(2 ^ 31) then -(2 ^ 31) else if 2 ^ 31 - 1 < v then 2 ^ 31 - 1 else v

/-- `mark` (R390): ctl.drift becomes sat32(ctl.wclk − n), and tracing arms when its magnitude passes ctl.dthr. -/
def execMark (h : Hdr) (imm : Imm) (s : State) : Host.Outcome State Fault Refusal :=
  let v := sat32 ((s.ctx.wclk.toNat : Int) - (imm.value false).toNat)
  let armed := decide (s.ctx.comm.dthr.toNat < v.natAbs)
  let t : State := { s with ctx := { s.ctx with drift := BitVec.ofInt 32 v, tracing := armed } }
  .next (s.issue { h := h, major := 0x70 } false (.ok { s := if armed then t.count 0x052 else t }))

/-- `dgrd` (R395): a debug stop is requested when the guard bit is set. -/
def execDgrd (h : Hdr) (g : BitVec 8) (s : State) : Host.Outcome State Fault Refusal :=
  .next (s.issue { h := h, major := 0x71 } false
    (.ok { s := if s.ctx.guardMask.getLsbD g.toNat then { s with ctx := { s.ctx with stopReq := true } } else s }))

/-- `touch` (R388): the known answer is compared on the sealed rail at c + 16. -/
def execTouch (h : Hdr) (seed : BitVec 16) (const : BitVec 32) (s : State) : Host.Outcome State Fault Refusal :=
  .next (s.issue { h := h, major := 0x10 } false
    (.ok { s := (s.count 0x050).schedule 16 .touch (.compare seed const (touchFold seed)) 0 false 0 }))

end Sys2Proof.Machine
end

