-- ==== Sys2Proof/Machine/CopyForms.lean ====
section
/-! DEFINITION. The copy commands, fences and drains (11_memory_instructions.md R239 to R246, 10_memories.md R209, R215). -/

namespace Sys2Proof.Machine

/-- A copy command of the x registers named, entered in the command list (R238, R239). -/
def State.copyForm (s : State) (h : Hdr) (major : BitVec 8) (regs : List Reg) (cmd : CopyCmd) : State :=
  s.issue { h := h, major := major, also := regs } false (checked [s.cmdFull, s.copyFull] (.ok { s := s.command [.copy cmd] }))

/-- `copy` (R240). -/
def execCopy (h : Hdr) (out slice : Bool) (s1 v2 s3 : BitVec 6) (ph : BitVec 12) (s : State) : Host.Outcome State Fault Refusal :=
  .next (s.copyForm h 0xA0 [.x s1, .v v2, .x s3] ⟨.tensor out slice, s.xval s1, 0, s.xval s3, s.vval v2, ph, s.iss.addr⟩)

/-- `copyr` (R241). -/
def execCopyr (h : Hdr) (s1 s2 s3 : BitVec 6) (ph : BitVec 12) (s : State) : Host.Outcome State Fault Refusal :=
  .next (s.copyForm h 0xA1 [.x s1, .x s2, .x s3] ⟨.weave, s.xval s1, s.xval s2, s.xval s3, lanesOf [], ph, s.iss.addr⟩)

/-- `copyx` (R241). -/
def execCopyx (h : Hdr) (s1 s2 s3 : BitVec 6) (ph : BitVec 12) (s : State) : Host.Outcome State Fault Refusal :=
  .next (s.copyForm h 0xA2 [.x s1, .x s2, .x s3] ⟨.peer, s.xval s1, s.xval s2, s.xval s3, lanesOf [], ph, s.iss.addr⟩)

/-- `copyc` (R243). -/
def execCopyc (h : Hdr) (s1 s2 s3 : BitVec 6) (ph : BitVec 12) (last : Option ChainEnd) (s : State) : Host.Outcome State Fault Refusal :=
  .next (s.copyForm h 0xA3 [.x s1, .x s2, .x s3] ⟨.chain last, s.xval s1, s.xval s2, s.xval s3, lanesOf [], ph, s.iss.addr⟩)

/-! ## Fences and drains -/

/-- A write or atomic that the context released and that its home has not served. -/
def State.undrained (s : State) : Bool := s.work.any fun w => w.src == s.who && w.write

/-- A pending result of a load. -/
def Pend.isLoad (p : Pend) : Bool := match p.conv with | .scalar _ | .vector _ _ | .more _ _ _ => true | _ => false

/-- A load issued before the present bundle has not arrived. One of a device page that its own block holds back until its commit (R210) awaits nothing
yet, and a `fence` of that block does not wait for it: its commit would never come (log 96). -/
def State.loadsOut (s : State) : Bool := s.ctx.pend.any fun p => p.isLoad && p.held.isNone && decide (p.id < s.iss.ids)

/-- A `drain`, or with `loads` a `fence` (R215): behind its predecessor's commit, it waits, then reports the oldest refusal that its scope
covers (R209, R246). -/
def State.fenceForm (s : State) (h : Hdr) (major : BitVec 8) (sc : Scope) (loads : Bool) : State :=
  let f : Form := { h := h, major := major }
  if s.ctx.work.admits h && (s.ctx.awaited f.regs).isNone then
    s.behindCommit fun t =>
      if t.undrained || (loads && t.loadsOut) then t.issue f false (.error (.freeze .drain))
      else match t.ctx.refusals.find? fun r => scopeRank r.scope ≤ scopeRank sc with
        | some r =>
          let u : State := { t with ctx := { t.ctx with refusals := t.ctx.refusals.erase r } }
          u.issue f false (.error (.fault 0x0A 0x02 r.addr))
        | none => t.issue f false (.ok { s := t })
  else s.issue f false (.ok { s := s })

/-- `fence` (R215, R245, R246). -/
def execFence (h : Hdr) (sc : Scope) (s : State) : Host.Outcome State Fault Refusal := .next (s.fenceForm h 0xA4 sc true)

/-- `drain` (R215, R245, R246). -/
def execDrain (h : Hdr) (sc : Scope) (s : State) : Host.Outcome State Fault Refusal := .next (s.fenceForm h 0xA5 sc false)

end Sys2Proof.Machine
end

