-- ==== Sys2Proof/Machine/TaskForms.lean ====
section
/-! DEFINITION. The task forms (12_task_queues.md R260 to R263). -/

namespace Sys2Proof.Machine

/-- `spawn` (R261): the record is read from the scratchpad at its release. -/
def execSpawn (h : Hdr) (s1 : BitVec 6) (s : State) : Host.Outcome State Fault Refusal :=
  .next (s.issue { h := h, major := 0xB0, also := [.x s1] } false
    (match s.locate .loc (s.xval s1) 64 64 .read with
      | .error e => .error e
      | .ok (.loc off) =>
        checked [s.cmdFull, s.msgFull, if s.readHeld [(off, 64)] then some (.freeze .scoreboard) else none]
          (.ok { s := s.command [.spawn off] })
      | .ok (.away _) => .ok { s := s }))

/-- `join` (R262): a decrement behind the drain of what the context released before it. -/
def execJoin (h : Hdr) (s1 : BitVec 6) (s : State) : Host.Outcome State Fault Refusal :=
  .next (s.issue { h := h, major := 0xB1, also := [.x s1] } false
    (match s.locate .glob (s.xval s1) 128 128 .both with
      | .error e => .error e
      | .ok (.away (l :: _)) =>
        let a : Access := .rmw .add .i64 (BitVec.ofNat 64 s.ctx.rank) 0 false false false 0 s.ctx.work.ws false
        let w : Work := ⟨s.who, dstOf l.home l.off, true, true, true, .joinDecrement s.who (s.reqOf l 0 a)⟩
        checked [s.cmdFull, s.msgFull] (.ok { s := (s.walks [l]).command [.send w] })
      | .ok _ => .ok { s := s }))

/-- `tend` (R259). -/
def execTend (h : Hdr) (s : State) : Host.Outcome State Fault Refusal :=
  .next (s.issue { h := h, major := 0xB2 } false (checked [s.cmdFull] (.ok { s := s.command [.tend] })))

/-- A counter index outside its limits (R260). -/
def counterIndexBad (v : Word) : Bool := v.extractLsb' 12 52 != 0

/-- `cancel` (R258). -/
def execCancel (h : Hdr) (s1 : BitVec 6) (level : BitVec 4) (s : State) : Host.Outcome State Fault Refusal :=
  let v := s.xval s1
  let w : Work := ⟨s.who, .seq, false, false, true, .cancelCounter s.ctx.part level.toNat (v.extractLsb' 0 12).toNat⟩
  .next (s.issue { h := h, major := 0xB3, also := [.x s1] } false
    (if counterIndexBad v then .error .illegal else checked [s.cmdFull, s.msgFull] (.ok { s := s.command [.send w] })))

/-- `ccrd` (R263): its destination is pending from issue and carries no poison. -/
def execCcrd (h : Hdr) (d s1 : BitVec 6) (level : BitVec 4) (s : State) : Host.Outcome State Fault Refusal :=
  let v := s.xval s1
  let (id, t) := s.newId
  let w : Work := ⟨s.who, .seq, false, false, false, .ccrdServe s.who id s.ctx.part level.toNat (v.extractLsb' 0 12).toNat⟩
  .next (s.issue { h := h, major := 0xB4, srcs := [.x s1], dests := [.x d], mem := true } false
    (if counterIndexBad v then .error .illegal
     else checked [s.msgFull] (.ok { s := (t.request w).awaitNow id .msg [.x d] .word false (s.ctx.sclk + 1) })))

/-- `yield` (R263): the yield mark is set at its block's commit. -/
def execYield (h : Hdr) (s : State) : Host.Outcome State Fault Refusal :=
  .next (s.issue { h := h, major := 0xB5 } false (.ok { s := s.modCur fun b => { b with yields := true } }))

end Sys2Proof.Machine
end

