-- ==== Sys2Proof/Machine/Reduce.lean ====
section
/-! DEFINITION. Reduction trees (13_engine_queues.md R290 to R294, 03_numbers.md R61, R62). -/

namespace Sys2Proof.Machine

/-! ## Lanes -/

/-- The identity of an operation (Table 3.13). -/
def redIdentity : RedOp → Lane
  | .fadd => 0x80000000
  | .iadd => 0
  | .fmax => 0xFF800000
  | .fmin => 0x7F800000
  | .imax => 0x80000000
  | .imin => 0x7FFFFFFF

/-- An FP32 lane operation on exact values, rounded under RNE with no flush (R49, R60, R62). -/
def redFloat (f : Ex → Ex → Ex × Flags) (a b : Lane) : Lane × Flags :=
  let (x, f1) := Fmt.f32.operand false a.toNat
  let (y, f2) := Fmt.f32.operand false b.toNat
  let (z, f3) := f x y
  let (w, f4) := Fmt.f32.round .rne false false 0 0 z
  (BitVec.ofNat 32 w, f1 ||| f2 ||| f3 ||| f4)

/-- One lane of a combining (R292). -/
def redLane (op : RedOp) (a b : Lane) : Lane × Flags :=
  match op with
  | .fadd => redFloat (Ex.add false) a b
  | .fmax => redFloat (fun x y => (Ex.max x y, 0)) a b
  | .fmin => redFloat (fun x y => (Ex.min x y, 0)) a b
  | .iadd => (a + b, 0)
  | .imax => (if a.toInt < b.toInt then b else a, 0)
  | .imin => (if b.toInt < a.toInt then b else a, 0)

/-- Two contributions combined lane by lane. -/
def redLanes (op : RedOp) (a b : Lanes) : Lanes × Flags :=
  let r := Vector.ofFn fun i : Fin 64 => redLane op a[i] b[i]
  (r.map (·.1), r.foldl (fun f x => f ||| x.2) 0)

/-! ## Tree entries (R290, Tables 13.8 and 13.9) -/

/-- PART of a configuration word. -/
def treePart (w : Word) : BitVec 4 := w.extractLsb' 59 4
/-- IN of a configuration word. -/
def treeIn (w : Word) (port : Nat) : Bool := port < 5 && w.getLsbD (54 + port)
/-- OUT of a configuration word. -/
def treeOut (w : Word) : Nat := (w.extractLsb' 51 3).toNat
/-- OP of a configuration word; none for the codes 6 and 7. -/
def treeOp (w : Word) : Option RedOp := RedOp.ofCode ((w.extractLsb' 48 3).setWidth 4)

/-- The neighbour site that a port leads to and the port at which its output arrives there; none off the edge (R290, R292). -/
def treeNeighbour (site out : Nat) : Option (Nat × Nat) :=
  match out with
  | 1 => if site % 16 = 0 then none else some (site - 1, 3)
  | 2 => if site < 16 then none else some (site - 16, 4)
  | 3 => if site % 16 = 15 then none else some (site + 1, 1)
  | 4 => if 272 ≤ site then none else some (site + 16, 2)
  | _ => none

/-- A valid entry (R290). -/
def treeValid (site : Nat) (w : Word) : Bool :=
  w.getLsbD 63 && (treeOp w).isSome && (treeOut w = 0 || (treeNeighbour site (treeOut w)).isSome)

/-- The contribution on a port. -/
def Tree.port (x : Tree) (i : Nat) : Option Packet := (x.ports.toArray.getD i none)
/-- The late packets still to discard on a port. -/
def Tree.owe (x : Tree) (i : Nat) : BitVec 8 := x.owed.toArray.getD i 0

/-- ARR. -/
def Tree.arr (x : Tree) : BitVec 5 := BitVec.ofBool (x.port 4).isSome ++ BitVec.ofBool (x.port 3).isSome ++ BitVec.ofBool (x.port 2).isSome
  ++ BitVec.ofBool (x.port 1).isSome ++ BitVec.ofBool (x.port 0).isSome

/-- The state word of an entry (Table 13.9). -/
def Tree.stateWord (x : Tree) : Word :=
  x.owe 4 ++ x.owe 3 ++ x.owe 2 ++ x.owe 1 ++ x.owe 0 ++ x.arr ++ (0 : BitVec 19)

/-- The configuration word as written: bits 31:0 read 0. -/
def treeCfg (w : Word) : Word := w &&& 0xFFFFFFFF00000000

/-! ## Rounds (R292) -/

/-- The packet of a closed round: the present contributions combined in port order. -/
def combine (site : Nat) (op : RedOp) (missing : BitVec 5) (late : Bool) : List Packet → Option Packet
  | [] => none
  | p :: ps =>
    let (l, f) := ps.foldl (fun a q => let (l, f) := redLanes op a.1 q.lanes; (l, a.2 ||| f)) (p.lanes, (0 : Flags))
    let all := p :: ps
    let from_ := all.find? (·.inc)
    let touts := (all.map fun q => q.touts.toNat).sum + (if late then 1 else 0)
    some {
      lanes := l
      op := op
      part := p.part
      poison := all.any (·.poison)
      flags := all.foldl (fun f q => f ||| q.flags) f
      touts := BitVec.ofNat 8 (min 255 touts)
      inc := late || from_.isSome
      site := if late then BitVec.ofNat 10 site else (from_.map (·.site)).getD 0
      mask := if late then missing else (from_.map (·.mask)).getD 0 }

/-- A port count of late packets that stops at 255. -/
def owedInc (n : BitVec 8) : BitVec 8 := if n = 255 then n else n + 1

/-- The close of a round: the combined packet leaves by OUT, or waits at the root for its buffer (R292). -/
def State.closeRound (s : State) (site t : Nat) (late : Bool) : State :=
  let x := s.tree site t
  let missing : BitVec 5 := x.cfg.extractLsb' 54 5 &&& ~~~x.arr
  match combine site ((treeOp x.cfg).getD .fadd) missing late (x.ports.toList.filterMap id) with
  | none => s
  | some p =>
    let x := if late then { x with owed := Vector.ofFn fun i : Fin 5 => if missing.getLsbD i.val then owedInc x.owed[i] else x.owed[i] } else x
    match treeNeighbour site (treeOut x.cfg) with
    | some (n, port) =>
      (s.setTree site t { x with ports := Vector.replicate 5 none, age := 0 }).send
        ⟨⟨site, 3⟩, .router n, false, false, false, .reductionPacketArrival n t port p⟩
    | none => (s.setTree site t { x with stuck := some p }).send (rootEntryWork site t)

/-- A packet for a router cannot enter its port yet: it owes no discard, and the port is occupied or the closed round waits for the
root buffer with ARR as it stands (R292). -/
def State.packetHeld (s : State) (site t port : Nat) (p : Packet) : Bool :=
  let x := s.tree site t
  treeValid site x.cfg && treePart x.cfg == p.part && treeIn x.cfg port && x.owe port == 0 && ((x.port port).isSome || x.stuck.isSome)

/-- A packet reaches its router (R291, R292): a contribution enters its port, is discarded, or waits. What a router discards belongs to no context (R392). -/
def State.packetIn (s : State) (site t port : Nat) (p : Packet) : State :=
  if 288 ≤ site || 16 ≤ t || 5 ≤ port then s
  else
    let x := s.tree site t
    if !(treeValid site x.cfg && treePart x.cfg == p.part && treeIn x.cfg port) then
      (s.modTile site fun u => u.count 0x043 4 1).logError p.part (BitVec.ofNat 64 t) 5
    else if x.owe port != 0 then
      (s.setTree site t { x with owed := x.owed.setIfInBounds port (x.owe port - 1) }).modTile site fun u => u.count 0x041 4 1
    else if (x.port port).isSome || x.stuck.isSome then s
    else
      let y := { x with ports := x.ports.setIfInBounds port (some p), age := if x.arr = 0 then 0 else x.age }
      let s := s.setTree site t y
      if y.arr == y.cfg.extractLsb' 54 5 then s.closeRound site t false else s

/-- REDUCTION_PACKET_ARRIVAL (R291, R292). -/
def execReductionPacketArrival (site t port : Nat) (p : Packet) (s : State) : Host.Outcome State Fault Refusal := .next (s.packetIn site t port p)

/-- A round of an entry times out: it is in progress and has not closed, TIMEOUT is not 0, and that many router cycles have passed since
its first arrival (R292). -/
def State.mayTimeOut (s : State) (site t : Nat) : Bool :=
  let x := s.tree site t
  treeValid site x.cfg && x.cfg.extractLsb' 32 16 != 0 && x.arr != 0 && x.stuck.isNone && (x.cfg.extractLsb' 32 16).toNat ≤ x.age

/-- REDUCTION_ROUND_TIMEOUT (R292): TIMEOUT router cycles have passed since the round's first arrival. -/
def execReductionRoundTimeout (site t : Nat) (s : State) : Host.Outcome State Fault Refusal :=
  if 288 ≤ site || 16 ≤ t then .next s
  else .next (if s.mayTimeOut site t then s.closeRound site t true else s)

/-- The n-th item of the work is a packet that can enter its router now: it need not wait there, none of its way stands before it, and the writes
that it leaves behind are done. -/
def State.packetReady (s : State) (n : Nat) : Bool :=
  match s.work[n]? with
  | none => false
  | some w => match w.ev with
    | .reductionPacketArrival site t port p =>
      !s.packetHeld site t port p && !heldByDrain (s.work.take n) w && (s.work.take n).all fun e =>
        match e.ev with
        | .reductionPacketArrival x u q _ => !(x == site && u == t && q == port)
        | _ => true
    | _ => false

/-- A round whose time-out has come (R292). -/
def State.roundDue (s : State) : Option Nat := (s.trees.find? fun e => s.mayTimeOut (e.1 / 16) (e.1 % 16)).map (·.1)

/-- A packet under way that can enter its router does so, since it waits for nothing but its port (R291, log 83). -/
def State.enterPacket (s : State) : Option State :=
  ((List.range s.work.length).find? s.packetReady).bind fun n => (s.work[n]?).bind fun w =>
    match w.ev with
    | .reductionPacketArrival site t port p => some (State.packetIn { s with work := s.work.eraseIdx n } site t port p)
    | _ => none

/-- The packets under way enter their routers, and behind them the rounds whose time-outs have come close (R292). -/
def State.closeRounds (s : State) : Nat → State
  | 0 => s
  | k + 1 =>
    match s.enterPacket with
    | some t => t.closeRounds k
    | none =>
      match s.roundDue with
      | none => s
      | some key => (s.closeRound (key / 16) (key % 16) true).closeRounds k

/-- What a router cycle brings as it passes (R291, R292). Every round that closes and every packet that arrives takes one step, of which each of the
4,608 entries makes a few at most. -/
def State.closeDue (s : State) : State := if s.enterPacket.isNone && s.roundDue.isNone then s else s.closeRounds 65536

/-- The status word of a result (Table 13.10). -/
def packetStatus (p : Packet) : Word :=
  (0 : BitVec 33) ++ p.flags ++ p.touts ++ (if p.inc then p.site else 0) ++ (if p.inc then p.mask else 0) ++ BitVec.ofBool p.inc

/-- The lanes as 32 words of an answer. -/
def packetWords (p : Packet) : List Word :=
  (List.range 32).map fun i => (p.lanes.toArray.getD (2 * i + 1) 0) ++ (p.lanes.toArray.getD (2 * i) 0)

/-- The answer of the root buffer to a pending `rrecv`. -/
def rootAnswer (c : Src) (id : Nat) (p : Packet) : Work := answerWork ⟨c, id, packetStatus p :: packetWords p, p.poison, p.flags⟩

/-- The pending `rrecv` results on an entry, with their contexts. -/
def State.receivers (s : State) (site t : Nat) : List (Src × Nat) :=
  [0, 1, 2, 3].flatMap fun k =>
    ((s.getCtx ⟨site, k⟩).pend.filter fun p => p.conv == .reduction t && p.held.isNone).map fun p => (⟨site, k⟩, p.id)

/-- REDUCTION_ROOT_BUFFER_ENTRY (R292, R293): a result enters the empty buffer, ARR is cleared, and an `rrecv` that waits is answered. -/
def execReductionRootBufferEntry (site t : Nat) (s : State) : Host.Outcome State Fault Refusal :=
  if 288 ≤ site || 16 ≤ t then .next s
  else
    let x := s.tree site t
    match x.root, x.stuck with
    | none, some p =>
      let s1 := s.setTree site t { x with
        root := if x.claimed then none else some p, stuck := none, claimed := false, ports := Vector.replicate 5 none, age := 0 }
      .next (s1.sendAll ((s.receivers site t).map fun r => rootAnswer r.1 r.2 p))
    | _, _ => .next s

/-- TREE_ENTRY_WRITE (R290), of system software behind the first step of bring-up (R350): the state word is cleared and a round in progress is
discarded. -/
def execTreeEntryWrite (site t : Nat) (w : Word) (s : State) : Host.Outcome State Fault Refusal :=
  if 288 ≤ site || 16 ≤ t || !s.firmwareUp then .next s
  else .next (s.setTree site t { s.tree site t with
    cfg := treeCfg w, owed := Vector.replicate 5 0, ports := Vector.replicate 5 none, age := 0, stuck := none })

/-! ## Reservations (R293) -/

/-- A context holds the result of a tree reserved: a block of it that has not ended issued an `rrecv`. -/
def Ctx.reserves (c : Ctx) (t : Nat) : Bool := c.cur.reserved.contains t || c.closings.any fun x => x.blk.reserved.contains t

/-- An `rrecv` of the context in focus waits: another context holds the result reserved, or a committed one still awaits it. -/
def State.rootTaken (s : State) (t : Nat) : Bool :=
  (s.tree s.who.site t).claimed || [0, 1, 2, 3].any fun k => k != s.who.cid && (s.getCtx ⟨s.who.site, k⟩).reserves t

end Sys2Proof.Machine
end

