-- ==== Sys2Proof/Machine/Vector.lean ====
section
/-! DEFINITION. The vector and conversion forms, with stream ports as their operands (08_vector.md, 13_engine_queues.md R274, R278,
R279). -/

namespace Sys2Proof.Machine

/-! ## Stream ports as operands (R274) -/

/-- The port that a v field of Table 8.1 denotes while it is bound. -/
def Regs.port (r : Regs) (n : BitVec 6) : Option (BitVec 3 × Binding) :=
  if 24 ≤ n.toNat && n.toNat < 32 then (r.ports[(n.setWidth 3).toNat]'((n.setWidth 3).isLt)).map fun b => (n.setWidth 3, b) else none

/-- The port that a register operand denotes. -/
def Regs.portOf (r : Regs) : Reg → Option (BitVec 3 × Binding)
  | .v n => r.port n
  | _ => none

/-- A port bound for writing. -/
def writePort (b : Binding) : Bool := streamKind b.desc == 2

/-- A syllable breaks R274: a port bound for reading as a destination, one bound for writing as a source, or more than one field that
reads a port. -/
def Form.portMisuse (f : Form) (r : Regs) : Bool :=
  let ins := f.srcs.filterMap r.portOf
  let outs := f.dests.filterMap r.portOf
  outs.any (fun p => !writePort p.2) || ins.any (fun p => writePort p.2) || 1 < ins.length

/-- The head chunk of the port that a syllable reads: its port, its number and what it holds. A syllable without effect waits for it but
meets no error: a chunk that cannot be delivered contributes 0 (R278). -/
def State.headChunk (s : State) (k : BitVec 3) (b : Binding) (eff : Bool) : Except Halt (Option (Nat × ChunkRead)) :=
  match b.head with
  | none => if eff then .error (.error 0x01 (b.off.setWidth 64)) else .ok none
  | some n =>
    match s.takeChunk k b n with
    | .ok c => .ok (some (n, c))
    | .error .absent => .error (.freeze .readPort)
    | .error (.error o) => if eff then .error (.error 0x01 (BitVec.ofInt 64 o)) else .ok none

/-- The contribution of a chunk: m under the stamp that the binding names (R169, R278). -/
def ChunkRead.con (c : ChunkRead) (r : Regs) (b : Binding) : Contribution := contribution (r.stamp (streamSsel b.desc)) c.gs

/-- A chunk popped: the position moves on in the working copy. -/
def State.pop (s : State) (k : BitVec 3) (b : Binding) (n : Nat) : State :=
  let r := s.ctx.work
  let t : State := { s with ctx := { s.ctx with
    work := { r with ports := r.ports.set k.toNat (some { b with pos := n + 1 }) k.isLt }
    fetched := s.ctx.fetched.filter fun f => !(f.port == k && f.pos == n) } }
  t.modCur fun x => { x with touched := x.touched ++ [k] }

/-- A result pushed to a write port as chunk n (R279): checked at issue, entered among the block's pushes, its flags due with its value. -/
def State.push (s : State) (k : BitVec 3) (b : Binding) (res : Res) (tag : Tag) (poison : Bool) : Except Halt State :=
  match b.head with
  | none => .error (.error 0x02 (b.off.setWidth 64))
  | some n =>
    let e := streamElem b.desc
    let bytes := streamLanes b.desc * e
    let size := s.padSize s.who.pad
    match (chunkOffsets b.desc n).find? fun o => decide (o < 0) || decide ((size : Int) < o + e) with
    | some o => .error (.error 0x02 (BitVec.ofInt 64 o))
    | none =>
      match s.bytesFull bytes with
      | some h => .error h
      | none =>
        let l := match res.pay with | .lanes l => l | _ => lanesOf []
        let ps := chunkPieces b.desc n l
        if 4096 < s.drainBytes k + ps.foldl (fun n p => n + p.2.length) 0 then .error (.freeze .writePort)
        else
          let r := s.ctx.work
          let t : State := { s with ctx := { s.ctx with
            work := { r with ports := r.ports.set k.toNat (some { b with pos := n + 1 }) k.isLt } } }
          let first := (ps.map (·.1)).headD 0
          .ok ((t.modCur fun x => { x with
            touched := x.touched ++ [k]
            bytes := x.bytes + bytes
            pushes := x.pushes ++ [⟨s.ctx.sclk + res.lat, k, ps, tag, r.ws, poison⟩]
            digest := x.digest ++ [(digestAddr .loc (BitVec.ofNat 64 first), ps.flatMap fun p => p.2.mapIdx fun i y => (p.1 + i, y))] }).schedule
              res.lat .flagsOnly .none 0 false res.flags)

/-- The registers as a syllable sees them: a chunk stands in place of the register that its port hides. -/
def Regs.withChunk (r : Regs) (k : BitVec 3) (b : Binding) (c : ChunkRead) : Regs :=
  let q : BitVec 6 := 24 + k.setWidth 6
  { r with v := r.v.set q.toNat ⟨c.lanes b.desc, 0, c.poison⟩ q.isLt }

/-- The issue of a form whose v fields may denote ports: the reads pop, the results pass to the pipeline or to a write port. -/
def State.issueV (s : State) (f : Form) (body : Regs → List Res) : State :=
  let r := s.ctx.work
  let plain (g : Reg) : Bool := (r.portOf g).isNone
  if f.portMisuse r then s.illegal
  else match s.ctx.awaited (f.regs.filter plain) with
    | some c => s.freeze c
    | none =>
      let eff := r.admits f.h
      let finish (s1 : State) (view : Regs) (g : Form) (con : Contribution) : State :=
        if !eff then s1.folded (g.steps r con.m) con
        else
          let res := body view
          let p := f.poison view
          match (f.dests.filterMap r.portOf).head?, res.head? with
          | some (k, b), some x =>
            match s1.push k b x (g.tag r con.m 0) p with
            | .error h => s.halted h
            | .ok s2 => s2.folded (g.steps r con.m) con
          | _, _ => (s1.folded (g.steps r con.m) con).deliver g r { s := s1, res := res, con := con, poison := p }
      match (f.srcs.filterMap r.portOf).head? with
      | none => finish s r f noCon
      | some (k, b) =>
        let g : Form := { f with mem := true, srcs := f.srcs.filter plain }
        match s.headChunk k b eff with
        | .error h => s.halted h
        | .ok none => finish s r g noCon
        | .ok (some (n, c)) => finish (if eff then s.pop k b n else s) (r.withChunk k b c) g (c.con r b)

/-! ## Lanes (R151, R152) -/

/-- The active lanes computed, the others zero, with the OR of the flags of the active ones. -/
def active (vl : Nat) (f : Fin 64 → Lane × Flags) : Lanes × Flags :=
  let g : Vector (Lane × Flags) 64 := Vector.ofFn fun i : Fin 64 => if i.val < vl then f i else (0, 0)
  (g.map (·.1), g.foldl (fun a x => a ||| x.2) 0)

/-- A vector result. -/
def laneRes (lat : Nat) (r : Lanes × Flags) : List Res := [⟨lat, .lanes r.1, r.2⟩]

/-- The lanes of a v register of a view. -/
def Regs.lanes (r : Regs) (n : BitVec 6) : Lanes := (r.getV n).val

/-- The form of v sources and a v destination. -/
def formV (h : Hdr) (major : BitVec 8) (vd : BitVec 6) (srcs : List (BitVec 6)) : Form :=
  { h := h, major := major, srcs := srcs.map .v, dests := [.v vd] }

/-- A lane-wise form. -/
def State.lanewise (s : State) (h : Hdr) (major : BitVec 8) (lat : Nat) (vd : BitVec 6) (srcs : List (BitVec 6))
    (f : Regs → Fin 64 → Lane × Flags) : State :=
  s.issueV (formV h major vd srcs) fun r => laneRes lat (active r.vl.toNat (f r))

/-- A float result of lane l laid out in its lane (R50, R151). -/
def VMod.rounded (m : VMod) (l : Fin 64) (x : Ex) (fl : Flags) : Lane × Flags :=
  let r := m.fmt.round m.rnd m.fo m.sat (l.val / 8) (l.val % 8) x
  (BitVec.ofNat 32 r.1, r.2 ||| fl)

/-- An integer result clamped or wrapped (R154). -/
def VMod.wrapped (m : VMod) (v : Int) : Lane × Flags :=
  let r := m.fmt.satInt m.sat v
  (m.fmt.put r.1, r.2)

/-- in(w) of R151. -/
def VMod.operand (m : VMod) (w : Lane) : Ex × Flags := Fmt.f32.operand m.fi w.toNat

/-! ## Arithmetic (R153, R154) -/

/-- A sum, difference or product of two lanes. -/
def arith2 (m : VMod) (l : Fin 64) (fop : Bool → Ex → Ex → Ex × Flags) (iop : Int → Int → Int) (a b : Lane) : Lane × Flags :=
  if m.fmt = .f32 then
    let x := VMod.operand m a
    let y := VMod.operand m b
    let z := fop (m.rnd == .rdn) x.1 y.1
    VMod.rounded m l z.1 (x.2 ||| y.2 ||| z.2)
  else VMod.wrapped m (iop (m.fmt.laneOpnd a) (m.fmt.laneOpnd b))

/-- A product with a third lane added or subtracted, rounded once. -/
def arith3 (m : VMod) (l : Fin 64) (minus : Bool) (a b c : Lane) : Lane × Flags :=
  if m.fmt = .f32 then
    let x := VMod.operand m a
    let y := VMod.operand m b
    let z := VMod.operand m c
    let p := Ex.mul x.1 y.1
    let e := if minus then Ex.sub (m.rnd == .rdn) p.1 z.1 else Ex.add (m.rnd == .rdn) p.1 z.1
    VMod.rounded m l e.1 (x.2 ||| y.2 ||| z.2 ||| p.2 ||| e.2)
  else
    let p := m.fmt.laneOpnd a * m.fmt.laneOpnd b
    VMod.wrapped m (if minus then p - m.fmt.laneOpnd c else p + m.fmt.laneOpnd c)

/-- The latency of an arithmetic form: `f` for .f32, 2 for integers (Table 8.1). -/
def arithLat (m : VMod) (f : Nat) : Nat := if m.fmt = .f32 then f else 2

/-- `vadd` (R153, R154). -/
def execVadd (h : Hdr) (m : VMod) (vd vs1 vs2 : BitVec 6) (s : State) : Host.Outcome State Fault Refusal :=
  .next (s.lanewise h 0x01 (arithLat m 3) vd [vs1, vs2] fun r l => arith2 m l Ex.add (· + ·) (r.lanes vs1)[l] (r.lanes vs2)[l])

/-- `vsub` (R153, R154). -/
def execVsub (h : Hdr) (m : VMod) (vd vs1 vs2 : BitVec 6) (s : State) : Host.Outcome State Fault Refusal :=
  .next (s.lanewise h 0x02 (arithLat m 3) vd [vs1, vs2] fun r l =>
    arith2 m l Ex.sub (· - ·) (r.lanes vs1)[l] (r.lanes vs2)[l])

/-- `vmul` (R153, R154). -/
def execVmul (h : Hdr) (m : VMod) (vd vs1 vs2 : BitVec 6) (s : State) : Host.Outcome State Fault Refusal :=
  .next (s.lanewise h 0x03 (arithLat m 3) vd [vs1, vs2] fun r l =>
    arith2 m l (fun _ x y => Ex.mul x y) (· * ·) (r.lanes vs1)[l] (r.lanes vs2)[l])

/-- `vfma` (R153, R154). -/
def execVfma (h : Hdr) (m : VMod) (vd vs1 vs2 vs3 : BitVec 6) (s : State) : Host.Outcome State Fault Refusal :=
  .next (s.lanewise h 0x04 (arithLat m 4) vd [vs1, vs2, vs3] fun r l =>
    arith3 m l false (r.lanes vs1)[l] (r.lanes vs2)[l] (r.lanes vs3)[l])

/-- `vfms` (R153, R154). -/
def execVfms (h : Hdr) (m : VMod) (vd vs1 vs2 vs3 : BitVec 6) (s : State) : Host.Outcome State Fault Refusal :=
  .next (s.lanewise h 0x05 (arithLat m 4) vd [vs1, vs2, vs3] fun r l =>
    arith3 m l true (r.lanes vs1)[l] (r.lanes vs2)[l] (r.lanes vs3)[l])

/-- `vmin` (R62, R155). -/
def execVmin (h : Hdr) (m : VMod) (vd vs1 vs2 : BitVec 6) (s : State) : Host.Outcome State Fault Refusal :=
  .next (s.lanewise h 0x06 2 vd [vs1, vs2] fun r l =>
    arith2 m l (fun _ x y => (Ex.min x y, 0)) (fun a b => if a < b then a else b) (r.lanes vs1)[l] (r.lanes vs2)[l])

/-- `vmax` (R62, R155). -/
def execVmax (h : Hdr) (m : VMod) (vd vs1 vs2 : BitVec 6) (s : State) : Host.Outcome State Fault Refusal :=
  .next (s.lanewise h 0x07 2 vd [vs1, vs2] fun r l =>
    arith2 m l (fun _ x y => (Ex.max x y, 0)) (fun a b => if a < b then b else a) (r.lanes vs1)[l] (r.lanes vs2)[l])

/-- The magnitude of an exact value. -/
def Ex.abs : Ex → Ex
  | .nan => .nan
  | .inf _ => .inf false
  | .fin _ m e => .fin false m e

/-- A form of one source lane: on exact values or on integers. -/
def arith1 (m : VMod) (l : Fin 64) (fop : Ex → Ex) (iop : Int → Int) (a : Lane) : Lane × Flags :=
  if m.fmt = .f32 then
    let x := VMod.operand m a
    VMod.rounded m l (fop x.1) x.2
  else VMod.wrapped m (iop (m.fmt.laneOpnd a))

/-- `vabs` (R155). -/
def execVabs (h : Hdr) (m : VMod) (vd vs1 : BitVec 6) (s : State) : Host.Outcome State Fault Refusal :=
  .next (s.lanewise h 0x08 2 vd [vs1] fun r l => arith1 m l Ex.abs (fun a => (a.natAbs : Int)) (r.lanes vs1)[l])

/-- `vneg` (R155). -/
def execVneg (h : Hdr) (m : VMod) (vd vs1 : BitVec 6) (s : State) : Host.Outcome State Fault Refusal :=
  .next (s.lanewise h 0x09 2 vd [vs1] fun r l => arith1 m l Ex.neg (fun a => -a) (r.lanes vs1)[l])

/-! ## Compare, select, logic and shifts (R156 to R158) -/

/-- One lane of `vcmp`. -/
def cmpLane (c : Cond) (m : VMod) (a b : Lane) : Lane × Flags :=
  let r : Bool × Flags :=
    if m.fmt = .f32 then
      let x := VMod.operand m a
      let y := VMod.operand m b
      (c.float x.1 y.1, x.2 ||| y.2)
    else (c.int (m.fmt.laneOpnd a) (m.fmt.laneOpnd b), 0)
  (if r.1 then 0xFFFFFFFF else 0, r.2)

/-- `vcmp` (R156). -/
def execVcmp (h : Hdr) (c : Cond) (m : VMod) (vd vs1 vs2 : BitVec 6) (s : State) : Host.Outcome State Fault Refusal :=
  .next (s.lanewise h 0x0A 2 vd [vs1, vs2] fun r l => cmpLane c m (r.lanes vs1)[l] (r.lanes vs2)[l])

/-- `vsel` (R157). -/
def execVsel (h : Hdr) (vd vs1 vs2 vs3 : BitVec 6) (s : State) : Host.Outcome State Fault Refusal :=
  .next (s.lanewise h 0x0B 2 vd [vs1, vs2, vs3] fun r l =>
    (if (r.lanes vs3)[l] != 0 then (r.lanes vs1)[l] else (r.lanes vs2)[l], 0))

/-- `vand` (R157). -/
def execVand (h : Hdr) (vd vs1 vs2 : BitVec 6) (s : State) : Host.Outcome State Fault Refusal :=
  .next (s.lanewise h 0x0C 2 vd [vs1, vs2] fun r l => ((r.lanes vs1)[l] &&& (r.lanes vs2)[l], 0))

/-- `vor` (R157). -/
def execVor (h : Hdr) (vd vs1 vs2 : BitVec 6) (s : State) : Host.Outcome State Fault Refusal :=
  .next (s.lanewise h 0x0D 2 vd [vs1, vs2] fun r l => ((r.lanes vs1)[l] ||| (r.lanes vs2)[l], 0))

/-- `vxor` (R157). -/
def execVxor (h : Hdr) (vd vs1 vs2 : BitVec 6) (s : State) : Host.Outcome State Fault Refusal :=
  .next (s.lanewise h 0x0E 2 vd [vs1, vs2] fun r l => ((r.lanes vs1)[l] ^^^ (r.lanes vs2)[l], 0))

/-- `vnot` (R157). -/
def execVnot (h : Hdr) (vd vs1 : BitVec 6) (s : State) : Host.Outcome State Fault Refusal :=
  .next (s.lanewise h 0x0F 2 vd [vs1] fun r l => (~~~(r.lanes vs1)[l], 0))

/-- `vshl` (R158). -/
def execVshl (h : Hdr) (fmt : Fmt) (vd vs1 vs2 : BitVec 6) (s : State) : Host.Outcome State Fault Refusal :=
  .next (s.lanewise h 0x10 2 vd [vs1, vs2] fun r l =>
    (fmt.put ((lowBits fmt.width (r.lanes vs1)[l].toNat * 2 ^ ((r.lanes vs2)[l].toNat % fmt.width) : Nat) : Int), 0))

/-- `vshr` (R158). -/
def execVshr (h : Hdr) (fmt : Fmt) (vd vs1 vs2 : BitVec 6) (s : State) : Host.Outcome State Fault Refusal :=
  .next (s.lanewise h 0x11 2 vd [vs1, vs2] fun r l =>
    (fmt.put ((lowBits fmt.width (r.lanes vs1)[l].toNat / 2 ^ ((r.lanes vs2)[l].toNat % fmt.width) : Nat) : Int), 0))

/-- `vsra` (R158). -/
def execVsra (h : Hdr) (fmt : Fmt) (vd vs1 vs2 : BitVec 6) (s : State) : Host.Outcome State Fault Refusal :=
  .next (s.lanewise h 0x12 2 vd [vs1, vs2] fun r l =>
    (fmt.put (intOf true fmt.width (r.lanes vs1)[l].toNat / 2 ^ ((r.lanes vs2)[l].toNat % fmt.width)), 0))

/-! ## Conversion (R159, R160) -/

/-- A real value delivered in a format at the coordinates of element k (R49 to R52). -/
def realTo (m : VMod) (k : Nat) (x : Ex) (fl : Flags) : Lane × Flags :=
  if m.fmt.isFloat then
    let r := m.fmt.round m.rnd m.fo m.sat (k / 8) (k % 8) x
    (BitVec.ofNat 32 r.1, r.2 ||| fl)
  else
    let r := m.fmt.toInt m.rnd (k / 8) (k % 8) x
    (m.fmt.put r.1, r.2 ||| fl)

/-- The element of a source format in a lane as an exact value, with its flags (R151, R53). -/
def elemOf (src : Fmt) (fi : Bool) (w : Lane) : Ex × Flags :=
  if src.isFloat then src.operand fi (lowBits src.width w.toNat) else (Ex.ofInt (src.laneOpnd w) 0 false, 0)

/-- One element converted (R159): integers to integers clamp or wrap, every other case is real. -/
def convert (m : VMod) (src : Fmt) (k : Nat) (w : Lane) : Lane × Flags :=
  if !src.isFloat && !m.fmt.isFloat then VMod.wrapped m (src.laneOpnd w)
  else
    let x := elemOf src m.fi w
    realTo m k x.1 x.2

/-- `vcvt` (R159). -/
def execVcvt (h : Hdr) (m : VMod) (sfmt : Fmt) (vd vs1 : BitVec 6) (s : State) : Host.Outcome State Fault Refusal :=
  .next (s.lanewise h 0x20 4 vd [vs1] fun r l => convert m sfmt l.val (r.lanes vs1)[l])

/-- One element narrowed, scaled or not (R160). -/
def narrowElem (m : VMod) (src : Fmt) (k : Nat) (w : Lane) (scale : Option Lane) : Lane × Flags :=
  match scale with
  | none => convert m src k w
  | some c =>
    let x := elemOf src m.fi w
    let y := VMod.operand m c
    let p := Ex.mul x.1 y.1
    let nv := match p.1 with | .nan => Flags.NV | _ => 0
    realTo m k p.1 (x.2 ||| y.2 ||| p.2 ||| nv)

/-- Bytes packed into lanes, four a lane, the rest zero. -/
def packLanes (bs : List Byte) : Lanes :=
  Vector.ofFn fun i : Fin 64 => BitVec.ofNat 32 (leNat ((bs.drop (4 * i.val)).take 4))

/-- `vnarrow` (R160). The scale stands in field s3: its tag is t3 with t2 absent, also when vs1 is read from a port (R148, R168; log 76). -/
def execVnarrow (h : Hdr) (m : VMod) (sfmt : Fmt) (vd vs1 : BitVec 6) (scale : Option (BitVec 6)) (s : State) :
    Host.Outcome State Fault Refusal :=
  let f : Form := { h := h, major := 0x21, srcs := [.v vs1], dests := [.v vd] }
  .next (match scale with
    | none => s.issueV f fun r =>
        let es := (List.finRange 64).take r.vl.toNat |>.map fun k => narrowElem m sfmt k.val (r.lanes vs1)[k] none
        [⟨4, .lanes (packLanes (es.flatMap fun e => leBytes (m.fmt.width / 8) e.1.toNat)), Flags.all (es.map (·.2))⟩]
    | some v3 => s.issueV { f with srcs := [.v vs1, .x 0, .v v3] } fun r =>
        let es := (List.finRange 64).take r.vl.toNat |>.map fun k => narrowElem m sfmt k.val (r.lanes vs1)[k] (some (r.lanes v3)[k])
        [⟨4, .lanes (packLanes (es.flatMap fun e => leBytes (m.fmt.width / 8) e.1.toNat)), Flags.all (es.map (·.2))⟩])

/-! ## Approximations (R161, R162) -/

/-- p × f + c rounded once under RNE to FP32, without flags. -/
def rneFma (p f c : Ex) : Ex := Fmt.f32.exact (Fmt.f32.round .rne false false 0 0 (Ex.add false (Ex.mul p f).1 c).1).1

/-- The coefficients c6 to c0 (Table 8.2). -/
def exp2Coefs : List Nat := [0x39218489, 0x3AAEC3FF, 0x3C1D955B, 0x3D635847, 0x3E75FDF0, 0x3F317218, 0x3F800000]

/-- `vexp2` on one value: the result before its layout, and its flags (R161). -/
def exp2Of (fo : Bool) (x : Ex) : Nat × Flags :=
  match x with
  | .nan => (Fmt.f32.qnan, 0)
  | .inf neg => (if neg then 0 else Fmt.f32.infCode false, 0)
  | .fin neg mant e =>
    if Cond.float .ge x (.fin false 1 7) then (Fmt.f32.infCode false, .OF ||| .NX)
    else if Cond.float .lt x (.fin true 160 0) then (0, .UF ||| .NX)
    else
      let n := (roundInt .rne 0 0 neg mant e).1
      let f := (Ex.add false x (Ex.ofInt (-n) 0 false)).1
      let fzero := match f with | .fin _ m _ => m == 0 | _ => false
      let p := match exp2Coefs with
        | c6 :: cs => cs.foldl (fun p c => rneFma p f (Fmt.f32.exact c)) (Fmt.f32.exact c6)
        | [] => .nan
      let r := Fmt.f32.round .rne fo false 0 0 (Ex.scale n p)
      (r.1, r.2 ||| Flags.when (!fzero) .NX)

/-- `vexp2` (R161). -/
def execVexp2 (h : Hdr) (m : VMod) (vd vs1 : BitVec 6) (s : State) : Host.Outcome State Fault Refusal :=
  .next (s.lanewise h 0x28 8 vd [vs1] fun r l =>
    let x := VMod.operand m (r.lanes vs1)[l]
    let e := exp2Of m.fo x.1
    (BitVec.ofNat 32 e.1, e.2 ||| x.2))

/-- `vrcp` on one value (R162), by its steps alone: of a magnitude of exactly 2^127 they give an exact subnormal without a flag (log 76). -/
def rcpOf (fo : Bool) (x : Ex) : Nat × Flags :=
  match x with
  | .nan => (Fmt.f32.qnan, 0)
  | .inf neg => (Fmt.f32.signOf neg, 0)
  | .fin neg 0 _ => (Fmt.f32.infCode neg, .DZ)
  | .fin neg mant e =>
    let k := Nat.log2 mant
    let q : Int := (k : Int) + e
    let m : Ex := .fin false mant (-(k : Int))
    let one : Ex := .fin false 1 0
    let y0 := rneFma (Ex.neg (Fmt.f32.exact 0x3EF0F0F1)) m (Fmt.f32.exact 0x3FB4B4B5)
    let step (y : Ex) : Ex := rneFma y (rneFma (Ex.neg m) y one) y
    let y := step (step (step y0))
    let r := Fmt.f32.round .rne fo false 0 0 (Ex.scale (-q) y)
    (Fmt.f32.signOf neg + r.1, r.2 ||| Flags.when (mant != 2 ^ k) .NX)

/-- `vrcp` (R162). -/
def execVrcp (h : Hdr) (m : VMod) (vd vs1 : BitVec 6) (s : State) : Host.Outcome State Fault Refusal :=
  .next (s.lanewise h 0x29 8 vd [vs1] fun r l =>
    let x := VMod.operand m (r.lanes vs1)[l]
    let e := rcpOf m.fo x.1
    (BitVec.ofNat 32 e.1, e.2 ||| x.2))

/-! ## Lane reductions (R163) -/

/-- One value in lane 0, the others zero. -/
def lane0 (w : Lane) : Lanes := Vector.ofFn fun i : Fin 64 => if i.val = 0 then w else 0

/-- A reduction of the active lanes in ascending order. -/
def reduceLanes (vl : Nat) (l : Lanes) (id0 : Lane) (f : Lane → Lane → Lane × Flags) : Lane × Flags :=
  (l.toList.take vl).foldl (fun a w => let r := f a.1 w; (r.1, a.2 ||| r.2)) (id0, 0)

/-- One addition of `vredsum`: under R60 with FO for .f32, wrapped or clamped for .i32. -/
def redsumStep (m : VMod) (acc w : Lane) : Lane × Flags :=
  if m.fmt = .f32 then
    let y := VMod.operand m w
    let z := Ex.add (m.rnd == .rdn) (Fmt.f32.exact acc.toNat) y.1
    let r := Fmt.f32.round m.rnd m.fo false 0 0 z.1
    (BitVec.ofNat 32 r.1, y.2 ||| z.2 ||| r.2)
  else VMod.wrapped m (m.fmt.laneOpnd acc + m.fmt.laneOpnd w)

/-- One comparison of `vredmax`. -/
def redmaxStep (m : VMod) (acc w : Lane) : Lane × Flags :=
  if m.fmt = .f32 then
    let y := VMod.operand m w
    let r := Fmt.f32.round .rne false false 0 0 (Ex.max (Fmt.f32.exact acc.toNat) y.1)
    (BitVec.ofNat 32 r.1, y.2 ||| r.2)
  else (if acc.toInt < w.toInt then w else acc, 0)

/-- `vredsum` (R163). -/
def execVredsum (h : Hdr) (m : VMod) (vd vs1 : BitVec 6) (s : State) : Host.Outcome State Fault Refusal :=
  .next (s.issueV (formV h 0x30 vd [vs1]) fun r =>
    let x := reduceLanes r.vl.toNat (r.lanes vs1) (redIdentity (if m.fmt = .f32 then .fadd else .iadd)) (redsumStep m)
    laneRes 12 (lane0 x.1, x.2))

/-- `vredmax` (R163). -/
def execVredmax (h : Hdr) (m : VMod) (vd vs1 : BitVec 6) (s : State) : Host.Outcome State Fault Refusal :=
  .next (s.issueV (formV h 0x31 vd [vs1]) fun r =>
    let x := reduceLanes r.vl.toNat (r.lanes vs1) (redIdentity (if m.fmt = .f32 then .fmax else .imax)) (redmaxStep m)
    laneRes 12 (lane0 x.1, x.2))

/-! ## Moving lanes and setting the length (R164, R165) -/

/-- `vperm` (R164). -/
def execVperm (h : Hdr) (vd vs1 vs2 : BitVec 6) (s : State) : Host.Outcome State Fault Refusal :=
  .next (s.lanewise h 0x38 2 vd [vs1, vs2] fun r l =>
    let i : BitVec 6 := (r.lanes vs2)[l].setWidth 6
    ((r.lanes vs1)[i.toNat]'(i.isLt), 0))

/-- `vbcast` (R164). -/
def execVbcast (h : Hdr) (vd xs1 : BitVec 6) (s : State) : Host.Outcome State Fault Refusal :=
  .next (s.issueV { h := h, major := 0x39, srcs := [.x xs1], dests := [.v vd] } fun r =>
    laneRes 2 (active r.vl.toNat fun _ => ((r.getX xs1).val.setWidth 32, 0)))

/-- `vext` (R164). -/
def execVext (h : Hdr) (fmt : Fmt) (xd vs1 : BitVec 6) (k : BitVec 6) (s : State) : Host.Outcome State Fault Refusal :=
  .next (s.issueV { h := h, major := 0x3A, srcs := [.v vs1], dests := [.x xd] } fun r =>
    [⟨2, .word (BitVec.ofInt 64 (fmt.laneOpnd ((r.lanes vs1)[k.toNat]'(k.isLt)))), 0⟩])

/-- `vins` (R164): it reads its destination. -/
def execVins (h : Hdr) (vd xs1 : BitVec 6) (k : BitVec 6) (s : State) : Host.Outcome State Fault Refusal :=
  .next (s.issueV { h := h, major := 0x3B, srcs := [.x xs1, .v vd], dests := [.v vd] } fun r =>
    laneRes 2 ((r.lanes vd).set k.toNat ((r.getX xs1).val.setWidth 32) k.isLt, 0))

/-- `vlane` (R164). -/
def execVlane (h : Hdr) (vd : BitVec 6) (s : State) : Host.Outcome State Fault Refusal :=
  .next (s.lanewise h 0x3C 2 vd [] fun _ l => (BitVec.ofNat 32 l.val, 0))

/-- The vector length that a count sets (R165). -/
def vlOf (v : Word) : Word := if v = 0 then 1 else if 64 < v.toNat then 64 else v

/-- `setvl` (R165): it folds nothing. -/
def execSetvl (h : Hdr) (xs1 : BitVec 6) (s : State) : Host.Outcome State Fault Refusal :=
  .next (s.issue { h := h, major := 0x3D, also := [.x xs1] } false
    (.ok { s := s.schedule 1 .vl (.word (vlOf (s.xval xs1))) 0 false 0 }))

/-- `vmov` (R164): all 64 lanes. -/
def execVmov (h : Hdr) (vd vs1 : BitVec 6) (s : State) : Host.Outcome State Fault Refusal :=
  .next (s.issueV (formV h 0x3E vd [vs1]) fun r => laneRes 2 (r.lanes vs1, 0))

end Sys2Proof.Machine
end

