-- ==== Sys2Proof/Machine/StreamForms.lean ====
section
/-! DEFINITION. The stream forms, the stream transfer units, the deferral forms and the reduction forms (13_engine_queues.md R274 to
R294). -/

namespace Sys2Proof.Machine

/-! ## Streams (R276, R277) -/

/-- An effect due at the end of the bundle. -/
def State.late (s : State) (o : PortOp) : State := { s with iss := { s.iss with late := s.iss.late ++ [o] } }

/-- Port k was popped or pushed in the current block instance. -/
def State.portTouched (s : State) (k : BitVec 3) : Bool := s.ctx.cur.touched.contains k

/-- The binding of port k as the bundle finds it. -/
def State.binding (s : State) (k : BitVec 3) : Option Binding := s.ctx.work.ports[k.toNat]'(k.isLt)

/-- `sbind` (R277). -/
def execSbind (h : Hdr) (k : BitVec 3) (s1 : BitVec 6) (s : State) : Host.Outcome State Fault Refusal :=
  .next (s.issue { h := h, major := 0xC0, also := [.x s1] } (s.portTouched k)
    (match s.locate .loc (s.xval s1) 40 8 .read with
      | .error e => .error e
      | .ok (.loc off) =>
        if s.readHeld [(off, 40)] then .error (.freeze .scoreboard)
        else
          let d : Vector Word 5 := Vector.ofFn fun i : Fin 5 => s.localWord (off + 8 * i.val)
          match streamBad d with
          | some i => .error (.error 0x01 (BitVec.ofNat 64 (off + 8 * i)))
          | none => .ok { s := (s.loadsGranules off 40).late (.bind k ⟨d, BitVec.ofNat 22 off, 0⟩) }
      | .ok (.away _) => .ok { s := s }))

/-- `sunbind` (R276). -/
def execSunbind (h : Hdr) (k : BitVec 3) (s : State) : Host.Outcome State Fault Refusal :=
  .next (s.issue { h := h, major := 0xC1 } (s.portTouched k || (s.binding k).isNone) (.ok { s := s.late (.unbind k) }))

/-- `sadv` (R276). -/
def execSadv (h : Hdr) (k : BitVec 3) (n : BitVec 12) (s : State) : Host.Outcome State Fault Refusal :=
  let b := s.binding k
  .next (s.issue { h := h, major := 0xC2 } (s.portTouched k || b.isNone)
    (match b with
      | some b =>
        if !streamWrap b.desc && decide (streamChunks b.desc < b.pos + n.toNat) then
          .error (.error (if writePort b then 0x02 else 0x01) (b.off.setWidth 64))
        else .ok { s := s.late (.advance k n.toNat) }
      | none => .ok { s := s }))

/-! ## The transfer units (R280, R281) -/

/-- The number of the next chunk that port k may fetch: the first of the four from its working position on that it does not hold. -/
def Ctx.nextFetch (c : Ctx) (k : BitVec 3) (b : Binding) : Option Nat :=
  let m := streamChunks b.desc
  let ns := (List.range 4).filterMap fun i =>
    if b.pos + i < m then some (b.pos + i) else if streamWrap b.desc && m != 0 then some ((b.pos + i) % m) else none
  ns.find? fun n => !(c.fetched.any fun f => f.port == k && f.pos == n)

/-- STREAM_CHUNK_FETCH (R280): a read port of the context in focus fetches its next chunk ahead. -/
def execStreamChunkFetch (k : BitVec 3) (s : State) : Host.Outcome State Fault Refusal :=
  .next (match s.binding k with
    | some b =>
      if writePort b then s
      else match s.ctx.nextFetch k b with
        | some n =>
          match s.readChunk b n with
          | .ok c =>
            let t : State := { s with ctx := { s.ctx with fetched := s.ctx.fetched ++ [⟨k, n, c.bytes, c.gs, c.poison⟩] } }
            if streamKind b.desc = 1 then t else c.gs.foldl (fun s g => s.useBanks s.who.pad g.1 1) t
          | .error _ => s
        | none => s
    | none => s)

/-- The oldest committed chunk of a context that is not drained. -/
def State.oldestChunk (s : State) (c : Src) : Option Push := ((s.getTile c.site).chunks.find? fun e => e.1 == c.cid).map (·.2)

/-- The content of a context's oldest committed chunk is fixed: its result has been delivered (R279), or, with the clock at rest in a freeze or at
the task's end, it will not be changed any more (log 73). -/
def State.chunkFixed (s : State) (c : Src) : Bool :=
  let x := s.getCtx c
  (s.oldestChunk c).all fun p => p.due ≤ x.sclk || x.frozen.isSome || x.ending.isSome || x.task.isNone

/-- The bytes of a chunk that fall in one granule written with its tag word, as one bank operation (R174, R281). -/
def State.drainGranule (s : State) (h : Home) (ps : List (Nat × List Byte)) (w : Word) (g : Nat) : State :=
  let t := ((ps.filter fun q => q.1 / 256 = g / 256).foldl (fun (s : State) q => s.putBytes h q.1 q.2) s).setTagWord h g w
  (t.wakeAll (t.watchers h g 1)).useBanks h g 1

/-- STREAM_CHUNK_DRAIN (R172, R279, R281): the oldest committed chunk of a context is written once its content is fixed, one granule after
another. -/
def execStreamChunkDrain (c : Src) (s : State) : Host.Outcome State Fault Refusal :=
  match s.oldestChunk c with
  | none => .next s
  | some p =>
    if s.chunkFixed c then
      let w := mkTagWord (s.getCtx c).part p.poison (BitVec.ofNat 10 c.site) p.ws p.tag
      let t := s.modTile c.site fun t => { t with chunks := t.chunks.erase (c.cid, p) }
      .next ((firstTouch (p.pieces.flatMap fun q => granulesOf q.1 q.2.length)).foldl (fun s g => s.drainGranule c.pad p.pieces w g) t)
    else .next s

/-! ## The deferral queue (R286 to R288) -/

/-- The registers vs1 to vs1 + n − 1. -/
def vRun (v : BitVec 6) (nm1 : BitVec 2) : List (BitVec 6) := (List.range (nm1.toNat + 1)).map fun i => v + BitVec.ofNat 6 i

/-- `vdefer` (R287). -/
def execVdefer (h : Hdr) (vm vs1 : BitVec 6) (nm1 : BitVec 2) (id : BitVec 8) (s : State) : Host.Outcome State Fault Refusal :=
  let live := vRun vs1 nm1
  let f : Form := { h := h, major := 0x70, also := .v vm :: live.map .v }
  let p := f.poison s.ctx.work
  let lanes := (List.range s.vl).filter fun l => (s.vval vm).toArray.getD l 0 != 0
  let rs : List DeferRec := lanes.map fun l => ⟨id, BitVec.ofNat 6 l, live.map fun v => (s.vval v).toArray.getD l 0, p⟩
  let q := s.ctx.work.defer
  .next (s.issue f false (if 512 < q.length + rs.length then .error .illegal else .ok { s := s.late (.deferral (q ++ rs)) }))

/-- The first n records of a path taken from a queue: those taken, and the queue that remains. -/
def takePath (id : BitVec 8) : Nat → List DeferRec → List DeferRec × List DeferRec
  | _, [] => ([], [])
  | 0, r => ([], r)
  | n + 1, x :: r =>
    if x.id = id then ((takePath id n r).1.cons x, (takePath id n r).2)
    else ((takePath id (n + 1) r).1, x :: (takePath id (n + 1) r).2)

/-- `vdrain` (R288). -/
def execVdrain (h : Hdr) (vd vmap : BitVec 6) (nm1 : BitVec 2) (id : BitVec 8) (s : State) : Host.Outcome State Fault Refusal :=
  let ds := vRun vd nm1
  let (got, rest) := takePath id 64 s.ctx.work.defer
  let value (i : Nat) : Lanes := lanesOf (got.map fun r => r.vals.getD i 0)
  let map := lanesOf (got.map fun r => 0x80000000 ||| (id.setWidth 32 : Lane) <<< 8 ||| r.lane.setWidth 32)
  let res : List Res := (List.range ds.length).map (fun i => ⟨4, .lanes (value i), 0⟩) ++ [⟨4, .lanes map, 0⟩]
  let t := (s.late (.deferral rest)).schedule 4 .vl (.word (BitVec.ofNat 64 (max got.length 1))) 0 false 0
  .next (s.issue { h := h, major := 0x71, dests := ds.map .v ++ [.v vmap] } false
    (.ok { s := t, res := res, poison := got.any (·.poison) }))

/-! ## Reductions (R291, R293) -/

/-- A packet on its way to the local port of an entry. -/
def CmdOp.isRsend : CmdOp → Bool
  | .send w => match w.ev with | .reductionPacketArrival _ _ 0 _ => true | _ => false
  | _ => false

/-- The reduction-send queue (R271, R272, R291): an entry beyond its depth freezes, whoever fills it. -/
def State.rsendFull (s : State) : Option Halt :=
  let own (b : Block) : Nat := (b.cmds.filter fun c => c.op.isRsend).length
  if (s.work.filter fun w => w.src == s.who && CmdOp.isRsend (.send w)).length + (s.ctx.blocks.map own).sum < 4 then none
  else some (.freeze .queue)

/-- `rsend` (R291): checked against the local router's entry at issue. -/
def execRsend (h : Hdr) (vs : BitVec 6) (t : BitVec 4) (op : RedOp) (s : State) : Host.Outcome State Fault Refusal :=
  let site := s.who.site
  let f : Form := { h := h, major := 0xC3, also := [.v vs] }
  let w := (s.tree site t.toNat).cfg
  let v := s.vval vs
  let lanes : Lanes := Vector.ofFn fun i : Fin 64 => if i.val < s.vl then v[i] else redIdentity op
  let p : Packet := ⟨lanes, op, s.ctx.part, f.poison s.ctx.work, 0, 0, 0, 0, false⟩
  .next (s.issue f false
    (if !treeValid site w || treePart w != s.ctx.part || !treeIn w 0 || treeOp w != some op then .error (.fault 0x0A 0x02 (t.setWidth 64))
     else checked [s.cmdFull, s.rsendFull]
      (.ok { s := s.command [.send ⟨s.who, .router site, false, false, false, .reductionPacketArrival site t.toNat 0 p⟩] })))

/-- The read of a root buffer by an `rrecv`: its destinations pend, the result is reserved, and a result present is on its way. -/
def State.claimRoot (s : State) (t : Nat) (ds : List Dest) (poison : Bool) : State :=
  let (id, s) := s.newId
  let s := s.awaitNow id .none ds (.reduction t) poison (s.ctx.sclk + 2)
  let s := s.modCur fun b => { b with reserved := if b.reserved.contains t then b.reserved else b.reserved ++ [t] }
  match (s.tree s.who.site t).root with
  | some p => s.send (rootAnswer s.who id p)
  | none => s

/-- `rrecv` (R293): behind its predecessor's commit (R36), unless another context holds the result reserved. -/
def execRrecv (h : Hdr) (vd xs : BitVec 6) (t : BitVec 4) (s : State) : Host.Outcome State Fault Refusal :=
  let f : Form := { h := h, major := 0xC4, dests := [.v vd, .x xs] }
  let body (s : State) : Except Halt Out :=
    let w := (s.tree s.who.site t.toNat).cfg
    if !treeValid s.who.site w || treePart w != s.ctx.part || treeOut w != 0 then .error (.fault 0x0A 0x01 (t.setWidth 64))
    else if s.rootTaken t.toNat then .error (.freeze .root)
    else .ok { s := s.claimRoot t.toNat (f.dests.map s.ctx.work.destOf) (f.poison s.ctx.work) }
  if s.ctx.work.admits h && (s.ctx.awaited f.regs).isNone then .next (s.behindCommit fun u => u.issue f false (body u))
  else .next (s.issue f false (.ok { s := s }))

end Sys2Proof.Machine
end

