-- ==== Sys2Proof/Machine/Matrix.lean ====
section
/-! DEFINITION. The matrix forms, and what the matrix array does of itself (14_matrix_tables.md R302 to R315). -/

namespace Sys2Proof.Machine

/-! ## Nests (R306, R309, R310) -/

/-- The words of a nest table at an offset, as the context's own load reads them. -/
def State.nestTable (s : State) (off : Nat) : Vector Word 8 := Vector.ofFn fun i : Fin 8 => s.localWord (off + 8 * i.val)

/-- The index of the first word at which a nest table breaks R309. -/
def State.nestBad (s : State) (t : Vector Word 8) : Option Nat :=
  let bad (i : Nat) : Bool := nestWordBad i (t.toArray.getD i 0) || (nestTooMany t).map (· + 1) == some i
    || (i == 0 && (nestLevels t).all (fun w => nestCount w != 0) && nestOutside t (s.padSize s.who.pad) s.ctx.work.acc.length)
  (List.range 8).find? bad

/-- The working shadow changed. -/
def State.setShadow (s : State) (sh : Shadow) : State := { s with ctx := { s.ctx with work := { s.ctx.work with shadow := sh } } }

/-- `mnest` (R309). -/
def execMnest (h : Hdr) (s1 : BitVec 6) (s : State) : Host.Outcome State Fault Refusal :=
  let off := (s.xval s1).setWidth 22 |>.toNat
  let size := s.padSize s.who.pad
  .next (s.issue { h := h, major := 0x01, also := [.x s1] } false
    (if s.ctx.ih || s.ctx.work.shadow.st == .armed then .error .illegal
     else if off % 8 != 0 then .error (.fault 0x0B 0x01 (s.xval s1))
     else match (List.range 8).find? fun i => decide (size < off + 8 * i + 8) with
      | some i => .error (.error 0x01 (BitVec.ofNat 64 (off + 8 * i)))
      | none =>
        if s.readHeld [(off, 64)] then .error (.freeze .scoreboard)
        else
          let t := s.nestTable off
          match s.nestBad t with
          | some i => .error (.error 0x01 (BitVec.ofNat 64 (off + 8 * i)))
          | none => .ok { s := (s.loadsGranules off 64).setShadow ⟨.loaded, t, .bf16, 0⟩ }))

/-- `mgo` (R310): the loaded shadow is armed with its format. -/
def State.mgo (s : State) (h : Hdr) (major : BitVec 8) (fmt : Prod) : State :=
  let sh := s.ctx.work.shadow
  s.issue { h := h, major := major } false
    (if s.ctx.ih || sh.st != .loaded then .error .illegal
     else checked [s.cmdFull] (.ok { s := (s.setShadow { sh with st := .armed, fmt := fmt, op := major }).command [.mgo] }))

/-- `mgo.bf16` (R310). -/
def execMgoBf16 (h : Hdr) (s : State) : Host.Outcome State Fault Refusal := .next (s.mgo h 0x20 .bf16)
/-- `mgo.f8e4` (R310). -/
def execMgoF8e4 (h : Hdr) (s : State) : Host.Outcome State Fault Refusal := .next (s.mgo h 0x21 .f8e4)
/-- `mgo.f8e5` (R310). -/
def execMgoF8e5 (h : Hdr) (s : State) : Host.Outcome State Fault Refusal := .next (s.mgo h 0x22 .f8e5)
/-- `mgo.i8` (R310). -/
def execMgoI8 (h : Hdr) (s : State) : Host.Outcome State Fault Refusal := .next (s.mgo h 0x23 .i8)
/-- `mgo.i4x` (R310). -/
def execMgoI4x (h : Hdr) (s : State) : Host.Outcome State Fault Refusal := .next (s.mgo h 0x24 .i4x)

/-! ## Block products (R311) -/

/-- `mblk` (R311): one product, placed at its commit. -/
def State.mblk (s : State) (h : Hdr) (major : BitVec 8) (fmt : Prod) (o : MblkOp) : State :=
  let a := ((s.xval o.s1).setWidth 22).toNat
  let b := ((s.xval o.s2).setWidth 22).toNat
  let bad (x : Nat) : Bool := x % 256 != 0 || decide (s.padSize s.who.pad < x + 8192)
  let p : Product := ⟨0, fmt, major, a, b, o.acc.toNat, o.selA, o.selB, o.imA, o.imB⟩
  s.issue { h := h, major := major, also := [.x o.s1, .x o.s2] } (s.ctx.work.lacksAcc o.acc.toNat)
    (if s.ctx.ih || s.ctx.engine.run.isSome || s.ctx.work.shadow.st == .armed then .error .illegal
     else match [a, b].find? bad with
      | some x => .error (.error 0x01 (BitVec.ofNat 64 x))
      | none => checked [s.cmdFull] (.ok { s := s.command [.mblk p] }))

/-- `mblk.bf16` (R311). -/
def execMblkBf16 (h : Hdr) (o : MblkOp) (s : State) : Host.Outcome State Fault Refusal := .next (s.mblk h 0x28 .bf16 o)
/-- `mblk.f8e4` (R311). -/
def execMblkF8e4 (h : Hdr) (o : MblkOp) (s : State) : Host.Outcome State Fault Refusal := .next (s.mblk h 0x29 .f8e4 o)
/-- `mblk.f8e5` (R311). -/
def execMblkF8e5 (h : Hdr) (o : MblkOp) (s : State) : Host.Outcome State Fault Refusal := .next (s.mblk h 0x2A .f8e5 o)
/-- `mblk.i8` (R311). -/
def execMblkI8 (h : Hdr) (o : MblkOp) (s : State) : Host.Outcome State Fault Refusal := .next (s.mblk h 0x2B .i8 o)
/-- `mblk.i4x` (R311). -/
def execMblkI4x (h : Hdr) (o : MblkOp) (s : State) : Host.Outcome State Fault Refusal := .next (s.mblk h 0x2C .i4x o)

/-! ## Accumulators (R312 to R314) -/

/-- The accumulator that a `scacc` names: by its field, or in the ps form by the index that ps carries. -/
def State.scaccIndex (s : State) (acc : Option (BitVec 3)) : Int := match acc with | some k => k.toNat | none => s.ctx.ps.idx

/-- `scacc` (R312): ps and the scale vectors as at issue; the sum is formed at delivery. -/
def execScacc (h : Hdr) (acc : Option (BitVec 3)) (ver vec : BitVec 6) (rnd : Rnd) (sat : Bool) (s : State) :
    Host.Outcome State Fault Refusal :=
  let k := s.scaccIndex acc
  let ps := s.ctx.ps
  .next (s.issue
    { h := h, major := 0x60, srcs := [.v ver, .v vec], dests := [.a (BitVec.ofInt 3 k)], lead := some ps.tag }
    (decide (k < 0) || s.ctx.work.lacksAcc k.toNat)
    (if s.ctx.ih then .error .illegal
     else .ok { s := s, res := [⟨4, .scale ps (s.vval ver) (s.vval vec) rnd sat, ps.flags⟩], poison := ps.poison }))

/-- `mzero` (R313). -/
def execMzero (h : Hdr) (acc : BitVec 3) (s : State) : Host.Outcome State Fault Refusal :=
  .next (s.issue { h := h, major := 0x04, dests := [.a acc] } (s.ctx.work.lacksAcc acc.toNat) (s.gives 1 .zero 0))

/-- Element (r, j) of an accumulator as `mdrain` stores it: FP32 exact, else rounded at its dither coordinates. -/
def drainElem (fmt : Fmt) (rnd : Rnd) (sat : Bool) (r j : Nat) (w : Lane) : Nat × Flags :=
  if fmt = .f32 then (w.toNat, 0)
  else
    let (x, f1) := Fmt.f32.operand false w.toNat
    let (v, f2) := fmt.round rnd false sat (r % 8) (j % 8) x
    (v, f1 ||| f2)

/-- Row r of an accumulator as `mdrain` stores it: its bytes and its flags. -/
def drainRow (fmt : Fmt) (rnd : Rnd) (sat : Bool) (g : Grid) (r : Nat) : List Byte × Flags :=
  let es := (g.toArray.getD r (Vector.replicate 64 0)).toList.mapIdx (drainElem fmt rnd sat r)
  (es.flatMap fun e => leBytes (fmt.width / 8) e.1, Flags.all (es.map (·.2)))

/-- `mdrain` (R314): one buffered store a row, each with the accumulator's tag and poison. -/
def execMdrain (h : Hdr) (fmt : Fmt) (rnd : Rnd) (sat : Bool) (acc : BitVec 3) (s1 s2 r0 nm1 : BitVec 6) (s : State) :
    Host.Outcome State Fault Refusal :=
  let b := fmt.width / 8
  let n := nm1.toNat + 1
  let base := ((s.xval s1).setWidth 22).toNat
  let pitch := ((s.xval s2).setWidth 22).toNat
  let p := if pitch = 0 then 64 * b else pitch
  let f : Form := { h := h, major := 0x05, also := [.x s1, .x s2], data := some (.a acc) }
  let bad := (s.ctx.work.getA acc.toNat).any (·.poison)
  let tag := s.ctx.work.tagOf (.a acc)
  let grid := match s.ctx.work.acc[acc.toNat]? with | some a => a.val | none => Acc.reset.val
  let rows := (List.range n).map fun i => (base + i * p, drainRow fmt rnd sat grid (r0.toNat + i))
  .next (s.issue f (s.ctx.work.lacksAcc acc.toNat)
    (if base % b != 0 then .error (.fault 0x0B 0x02 (s.xval s1))
     else if p % b != 0 then .error (.fault 0x0B 0x02 (BitVec.ofNat 64 p))
     else if p < 64 * b || s.padSize s.who.pad < base + (n - 1) * p + 64 * b then .error (.error 0x02 (BitVec.ofNat 64 base))
     else checked [s.bytesFull (n * 64 * b), if s.writeHeld (rows.map fun r => (r.1, 64 * b)) then some (.freeze .scoreboard) else none]
      (let t := rows.foldl (fun (s : State) r => (s.buffer r.1 r.2.1 tag bad).digests .loc (BitVec.ofNat 64 r.1) r.2.1) s
       let fl := Flags.all (rows.map (·.2.2))
       .ok { s := { t with ctx := { t.ctx with work := { t.ctx.work with flags := t.ctx.work.flags ||| fl } } } })))

/-- The state code of a shadow (R315). -/
def ShadowSt.code : ShadowSt → BitVec 2
  | .empty => 0
  | .loaded => 1
  | .armed => 2

/-- `mstat` (R315). -/
def execMstat (h : Hdr) (d : BitVec 6) (s : State) : Host.Outcome State Fault Refusal :=
  let rem := s.ctx.engine.remaining
  let w : Word := BitVec.ofBool (rem != 0) ++ BitVec.ofBool s.ctx.busy ++ s.ctx.work.shadow.st.code ++ (0 : BitVec 20) ++ BitVec.ofNat 40 rem
  .next (s.issue { h := h, major := 0x06, dests := [.x d], clean := true } false (s.gives 1 (.word w) 0))

/-! ## What the array does (R302, R303, R305) -/

/-- BLOCK_PRODUCT_ISSUE (R302, R303): the product of the context in focus that is due at its schedule clock issues. -/
def execBlockProductIssue (s : State) : Host.Outcome State Fault Refusal := .next s.advanceEngine

/-- PARTIAL_SUM_DELIVERY (R302): the sums due at the schedule clock of the context in focus reach its port, the latest replacing it; one
that a debug stop has captured stays in the snapshot buffer (R284). -/
def execPartialSumDelivery (s : State) : Host.Outcome State Fault Refusal :=
  let c := s.ctx
  let due (f : Flight) : Bool := decide (f.due ≤ c.sclk) && f.dest == .ps
  .next (if c.halted then s else { s with ctx := { c with ps := c.ps.behind (c.flight.filter due), flight := c.flight.filter fun f => !due f } })

/-- TOUCHSTONE_COMPARE (R388): the compares of the context in focus due at its schedule clock are made. -/
def execTouchstoneCompare (s : State) : Host.Outcome State Fault Refusal :=
  .next s.compareDue

end Sys2Proof.Machine
end

