-- ==== Sys2Proof/Machine/ClaspForms.lean ====
section
/-! DEFINITION. The clasp forms (15_clasp.md R330, R333 to R336). -/

namespace Sys2Proof.Machine

/-- The clasp queue (R271, R333): the requests whose status has not arrived. -/
def State.claspFull (s : State) : Option Halt :=
  let own (b : Block) : Nat := (b.rets.filter fun p => p.takes == .clasp).length
  s.queueFull 8 ((s.ctx.pend.filter fun p => p.takes == .clasp && p.held.isNone).length + (s.ctx.blocks.map own).sum) (own s.ctx.cur)

/-- A clasp form (R333, R336): its name checked at issue, its request entered in the command list, its status awaited from the commit on.
`drains`: the request leaves behind the context's earlier effects. -/
def State.claspForm (s : State) (h : Hdr) (major : BitVec 8) (d s1 : BitVec 6) (detail : BitVec 8) (drains : Bool)
    (ev : ClReq → Instr) (form : ClForm) (mode : BitVec 3) (all : Bool) : State :=
  let f : Form := { h := h, major := major, srcs := [.x s1], dests := [.x d], mem := true }
  let n := s.xval s1
  let (id, t) := s.newId
  let q : ClReq := ⟨s.who, id, s.ctx.part, s.ctx.rank, n, form, mode, all⟩
  s.issue f (s.who.cid == 3)
    (if (s.ctx.work.getX s1).poison then .ok { s := s.tainted }
     else if !nameOk n then .error (.fault 0x0A detail n)
     else
       let w : Work := ⟨s.who, .clasp (claspUnit n), false, drains, false, ev q⟩
       checked [s.cmdFull, s.claspFull] (.ok { s := (t.awaitCommit id .clasp [.x d] .word (f.poison s.ctx.work)).command [.send w] }))

/-- `clacq` (R323). -/
def execClacq (h : Hdr) (d s1 : BitVec 6) (mode : BitVec 4) (s : State) : Host.Outcome State Fault Refusal :=
  .next (s.claspForm h 0xD0 d s1 0x02 false .claspRequestServe .acq (mode.setWidth 3) false)

/-- `clupg` (R323). -/
def execClupg (h : Hdr) (d s1 : BitVec 6) (mode : BitVec 4) (s : State) : Host.Outcome State Fault Refusal :=
  .next (s.claspForm h 0xD1 d s1 0x02 false .claspRequestServe .upg (mode.setWidth 3) false)

/-- `clrel` (R330): it acts behind an implicit drain. -/
def execClrel (h : Hdr) (d s1 : BitVec 6) (all : Bool) (s : State) : Host.Outcome State Fault Refusal :=
  .next (s.claspForm h 0xD2 d s1 0x02 true .claspReleaseServe .acq 0 all)

/-- `cltry` (R323). -/
def execCltry (h : Hdr) (d s1 : BitVec 6) (mode : BitVec 4) (s : State) : Host.Outcome State Fault Refusal :=
  .next (s.claspForm h 0xD3 d s1 0x02 false .claspRequestServe .try (mode.setWidth 3) false)

/-- `clqry` (R335). -/
def execClqry (h : Hdr) (d s1 : BitVec 6) (s : State) : Host.Outcome State Fault Refusal :=
  .next (s.claspForm h 0xD4 d s1 0x01 false .claspRequestServe .qry 0 false)

end Sys2Proof.Machine
end

