-- ==== Sys2Proof/Machine/Control.lean ====
section
/-! DEFINITION. The control transfers and the loop forms (07_scalar_control.md R124, R137, R139 to R146). -/

namespace Sys2Proof.Machine

/-- The issue of a control transfer. A poisoned guard, or with effect a poisoned register that steers it, makes it neither transfer nor
push a level, and its block does not commit (R124). -/
def State.transfer (s : State) (f : Form) (poisoned : Bool) (body : Except Halt Out) : State :=
  match s.ctx.awaited f.regs with
  | some c => s.freeze c
  | none =>
    if s.ctx.work.guardPoison f.h then (s.folded (f.steps s.ctx.work 0) noCon).tainted
    else s.issue f false (if poisoned then .ok { s := s.tainted } else body)

/-- The transfer that the block's close will make. -/
def State.xfers (s : State) (x : Xfer) : State := s.modCur fun b => { b with xfer := x }

/-- The first byte after the block's hallmark, which follows the bundle directly (R73). -/
def State.pastHallmark (s : State) : Word := s.iss.after + 16

/-- `br` (R140). -/
def execBr (h : Hdr) (tsel : Bool) (s : State) : Host.Outcome State Fault Refusal :=
  .next (s.transfer { h := h, major := 0x40 } false (.ok { s := s.xfers (.label tsel) }))

/-- `jr` (R141). -/
def execJr (h : Hdr) (xr : BitVec 6) (s : State) : Host.Outcome State Fault Refusal :=
  .next (s.transfer { h := h, major := 0x41, also := [.x xr] } (s.ctx.work.getX xr).poison (.ok { s := s.xfers (.to (s.xval xr)) }))

/-- `call` (R141): the link is the first byte after the hallmark, with no tag source and no poison. -/
def execCall (h : Hdr) (xr : BitVec 6) (tsel : Bool) (s : State) : Host.Outcome State Fault Refusal :=
  .next (s.transfer { h := h, major := 0x42, dests := [.x xr], clean := true } false
    ((s.xfers (.label tsel)).gives 1 (.word s.pastHallmark) 0))

/-- `ret` (R141): as `jr`, and counted as a return. -/
def execRet (h : Hdr) (xr : BitVec 6) (s : State) : Host.Outcome State Fault Refusal :=
  .next (s.transfer { h := h, major := 0x43, also := [.x xr] } (s.ctx.work.getX xr).poison
    (.ok { s := (s.xfers (.to (s.xval xr))).count 0x030 }))

/-- A loop form with count `n` and the level it pushes (R143, R146): count 0 transfers; a fifth level, or a level count that passes 32
bits, breaks its limits; else the level is delivered at c + 1. -/
def State.loopForm (s : State) (n : BitVec 32) (tsel : Bool) (stg : BitVec 3) (kind : BitVec 2) : Except Halt Out :=
  if n = 0 then .ok { s := s.xfers (.label tsel) }
  else if s.ctx.work.levels = 4 || 2 ^ 32 ≤ n.toNat + stg.toNat then .error .illegal
  else .ok { s := s.schedule 1 .loop (.push ⟨n + stg.setWidth 32, stg, kind, s.pastHallmark⟩) 0 false 0 }

/-- `loop` (R142, R143). -/
def execLoop (h : Hdr) (xr : BitVec 6) (tsel : Bool) (s : State) : Host.Outcome State Fault Refusal :=
  .next (s.transfer { h := h, major := 0x44, also := [.x xr] } (s.ctx.work.getX xr).poison
    (s.loopForm ((s.xval xr).setWidth 32) tsel 0 1))

/-- `loopi` (R142, R143). -/
def execLoopi (h : Hdr) (n : BitVec 16) (tsel : Bool) (s : State) : Host.Outcome State Fault Refusal :=
  .next (s.transfer { h := h, major := 0x45 } false (s.loopForm (n.setWidth 32) tsel 0 1))

/-- `swp` (R146). -/
def execSwp (h : Hdr) (xr : BitVec 6) (tsel : Bool) (stg : BitVec 3) (s : State) : Host.Outcome State Fault Refusal :=
  .next (s.transfer { h := h, major := 0x46, also := [.x xr] } (s.ctx.work.getX xr).poison
    (s.loopForm ((s.xval xr).setWidth 32) tsel stg 2))

/-- `eret` (R118, R137): outside a handler the privilege fault; else it acts behind the commit of its block. -/
def execEret (h : Hdr) (s : State) : Host.Outcome State Fault Refusal :=
  .next (s.transfer { h := h, major := 0x47 } false
    (if s.ctx.ih then .ok { s := s.xfers .eret } else .error (.fault 0x04 0x02 s.iss.addr)))

end Sys2Proof.Machine
end

