-- ==== Sys2Proof/Machine/Loader.lean ====
section
/-! DEFINITION. The Opkanil loader: the layout of an image, the checks that it makes, and the placing of an image (02_elastic_time.md R30, R39,
04_encoding.md R78, R89, 05_assembly.md R101, R102, R104, 07_scalar_control.md R142, 19_audit_counters.md R390). -/

namespace Sys2Proof.Machine

/-! ## The sections of an image (Table 5.2) -/

/-- A field of n bytes of an image; bytes behind its end read 0. -/
def imageField (b : List Byte) (at_ n : Nat) : Nat := leNat ((b.drop at_).take n)

/-- The offset and the size that a header word names. -/
def imageSection (b : List Byte) (at_ : Nat) : Nat × Nat := (imageField b (at_ + 4) 4, imageField b at_ 4)

/-- The 64-bit words of a section. -/
def imageWords (b : List Byte) (x : Nat × Nat) : List Word :=
  (List.range (x.2 / 8)).map fun i => BitVec.ofNat 64 (imageField b (x.1 + 8 * i) 8)

/-! ## Why an image is refused (Table 4.24, R104) -/

/-- The checks that an image may fail. -/
inductive LoadFault where
  | reason (r : BitVec 8)
  | target | indirectEntry | indirectLimit | taskEntry | imageEnd | storeBytes | commands | safePoint | drift | loopForm
  | declaration | accumulators | magic | version | reserved | outside | undeclared | noCode
  deriving DecidableEq, Repr

/-- A check of a syllable, a bundle or a block, whose report gives a code address (R89). -/
def LoadFault.inCode : LoadFault → Bool
  | .reason _ | .target | .imageEnd | .storeBytes | .commands | .safePoint | .drift | .loopForm => true
  | _ => false

/-- A failed check as the window's log shows it (log 66); the absence of a code section, which its header field shows, is one of the image's end. -/
def LoadFault.code : LoadFault → Word
  | .reason r => r.setWidth 64
  | .target => 0x100 | .indirectEntry => 0x101 | .indirectLimit => 0x102 | .taskEntry => 0x103 | .imageEnd => 0x104 | .storeBytes => 0x105
  | .noCode => 0x104 | .commands => 0x106 | .safePoint => 0x107 | .drift => 0x108 | .loopForm => 0x109 | .declaration => 0x10A | .accumulators => 0x10B
  | .magic => 0x10C | .version => 0x10D | .reserved => 0x10E | .outside => 0x10F | .undeclared => 0x110

/-- The header's own checks (R104): each failure at its field's first byte. R104 lists no refusal of a section whose offset is no multiple of
64, that stands out of Table 5.2's order or that overlaps another: such an image is accepted (log 67). -/
def headerFaults (b : List Byte) : List (Nat × LoadFault) :=
  (if imageField b 0 4 ≠ 0x4F504B41 then [(0, .magic)] else [])
    ++ (if imageField b 4 2 ≠ 1 then [(4, .version)] else [])
    ++ (if imageField b 6 2 ≠ 0 then [(6, .reserved)] else [])
    ++ ([8, 16, 24, 32, 40].filterMap fun k => if b.length < (imageSection b k).1 + (imageSection b k).2 then some (k, .outside) else none)
    ++ (if (imageSection b 8).2 < 8 then [(8, .noCode)] else [])
    ++ (if (imageSection b 32).2 = 0 then [(32, .undeclared)] else [])
    ++ (if imageField b 48 16 ≠ 0 then [(48, .reserved)] else [])

/-! ## The blocks of the code section -/

/-- A run of syllables where a bundle stands: its first word's number, its words, and whether it runs into a hallmark. -/
structure CodeRun where
  idx : Nat
  words : List Word
  into : Bool
  deriving DecidableEq, Repr

/-- A block as its syllables lie: the number of its first word, its runs, and its hallmark with that one's number. -/
structure CodeBlock where
  start : Nat
  runs : List CodeRun
  hall : Option (Nat × Word × Word)
  deriving DecidableEq, Repr

/-- The run at the head of some words: up to its stop bit or to a hallmark. -/
def splitRun : List Word → List Word × Bool
  | [] => ([], false)
  | w :: r => if isHall w then ([], true) else if stopBit w then ([w], false) else let x := splitRun r; (w :: x.1, x.2)

/-- The blocks from word `idx` on; `start` and `runs` are those of the block that is open. -/
def codeBlocks : Nat → Nat → Nat → List CodeRun → List Word → List CodeBlock
  | 0, _, _, _, _ => []
  | n + 1, idx, start, runs, ws =>
    match ws with
    | [] => if runs.isEmpty then [] else [⟨start, runs, none⟩]
    | w :: r =>
      if isHall w then ⟨start, runs, some (idx, w, r.headD 0)⟩ :: codeBlocks n (idx + 2) (idx + 2) [] (r.drop 1)
      else
        let x := splitRun ws
        codeBlocks n (idx + x.1.length) start (runs ++ [⟨idx, x.1, x.2⟩]) (ws.drop x.1.length)

end Sys2Proof.Machine

namespace Sys2Proof

/-! ## What a syllable counts for (R30, R39) -/

/-- The bytes that a local store writes at least (R30). -/
def Instr.storeBytes : Instr → Nat
  | .st _ ty .loc .. | .vst _ ty .loc .. => ty.width / 8
  | .vscat _ ty .. => ty.width / 8
  | .mdrain _ fmt _ _ _ _ _ _ nm1 => (nm1.toNat + 1) * 64 * (fmt.width / 8)
  | _ => 0

/-- A syllable of Table 2.2, whatever its operands' values. -/
def Instr.isCommand : Instr → Bool
  | .st _ _ sp .. | .vst _ _ sp .. => sp != .loc
  | .atomAdd .. | .atomFadd .. | .atomMin .. | .atomMax .. | .atomAnd .. | .atomOr .. | .atomXor .. | .atomSwp .. | .atomCas ..
  | .bfins .. | .ffcs .. | .plset .. => true
  | .copy .. | .copyr .. | .copyx .. | .copyc .. | .ldblk .. | .evblk .. => true
  | .mgoBf16 .. | .mgoF8e4 .. | .mgoF8e5 .. | .mgoI8 .. | .mgoI4x .. => true
  | .mblkBf16 .. | .mblkF8e4 .. | .mblkF8e5 .. | .mblkI8 .. | .mblkI4x .. => true
  | .phsig .. | .phreg .. | .phdrop .. => true
  | .clacq .. | .clupg .. | .clrel .. | .cltry .. | .clqry .. => true
  | .rsend .. => true
  | .spawn .. | .join .. | .tend .. | .cancel .. => true
  | _ => false

/-- The exposed latency of a syllable's result where it is above 2, the distance of the commit (Table 2.4); a nest's sums are not counted,
since R39 asks for them at run time. -/
def Instr.longLatency : Instr → Nat
  | .mul .. | .mulh .. => 3
  | .div .. | .rem .. => 20
  | .ld _ _ .loc .. | .ltagG .. | .mwait .. => 5
  | .vld _ _ .loc .. | .vgath .. => 6
  | .ldl .. => 8
  | .vadd _ m .. | .vsub _ m .. | .vmul _ m .. => if m.fmt = .f32 then 3 else 2
  | .vfma _ m .. | .vfms _ m .. => if m.fmt = .f32 then 4 else 2
  | .vcvt .. | .vnarrow .. | .vdrain .. => 4
  | .scacc .. => 4
  | .vexp2 .. | .vrcp .. => 8
  | .vredsum .. | .vredmax .. => 12
  | _ => 0

/-- A block product, whose sum is due 70 cycles behind its release and so always behind its block's commit (Table 14.5). -/
def Instr.isProduct : Instr → Bool
  | .mblkBf16 .. | .mblkF8e4 .. | .mblkF8e5 .. | .mblkI8 .. | .mblkI4x .. => true
  | _ => false

/-- The syllable never issues with effect: its guard is p0 with sense 1 (R67). -/
def Instr.never (i : Instr) : Bool := match i.parts with | some p => p.h.guard = 0 && p.h.sense | none => false

/-- The instruction is a `mark` (R390). -/
def Instr.isMark : Instr → Bool
  | .mark .. => true
  | _ => false

end Sys2Proof

namespace Sys2Proof.Machine

/-! ## The checks of the code section -/

/-- A block's bundles as far as they decode, and the faults of those that do not; `words` is the section. -/
def CodeBlock.bundles (b : CodeBlock) (words : List Word) (at_ : Nat) : List (Nat × Bundle) × List (Nat × LoadFault) :=
  b.runs.zipIdx.foldl (fun acc r =>
    match decodeBundle r.1.words r.1.into (256 ≤ r.2) (words.getD (r.1.idx + r.1.words.length) 0) with
    | .ok x => (acc.1 ++ [(r.2, x)], acc.2)
    | .error e => (acc.1, acc.2 ++ [(at_ + 8 * (r.1.idx + e.2), .reason e.1.code)])) ([], [])

/-- The transfer in a block's last bundle (R73). -/
def CodeBlock.transfer (b : CodeBlock) : Option Nat := (b.runs.getLast?).bind fun r => transferOf (r.words.map Syl.of)

/-- The conditions of R142 on a block that closes with a loop form and the block behind it. -/
def loopOk (base : Word) (m : Hallmark) (after : Word) (next : Option CodeBlock) : Bool :=
  m.succ == 1 && match next with
    | some n => match n.hall with
      | some (i, a, c) => match Hallmark.of a c with
        | some k => targetAt after m.tgtA == base + BitVec.ofNat 64 (8 * (i + 2)) && k.succ == 0
            && n.runs.all fun r => (transferOf (r.words.map Syl.of)).isNone
        | none => false
      | none => false
    | none => false

/-- The faults of one block at byte `at_` of the image, its section loaded at `base` (Table 4.24). -/
def CodeBlock.faults (b : CodeBlock) (words : List Word) (at_ : Nat) (base : Word) (entries : List Word) (next : Option CodeBlock) :
    List (Nat × LoadFault) :=
  let (bs, bad) := b.bundles words at_
  let slots := bs.flatMap fun x => x.2.slots.map fun p => (x.1, p.instr)
  let plain := slots.filterMap fun p => match p.2.parts with
    | some x => if x.h.guard = 0 && !x.h.sense then some p.2 else none
    | none => none
  let limits := (if 4096 < (plain.map (·.storeBytes)).sum then [(at_ + 8 * b.start, LoadFault.storeBytes)] else [])
    ++ (if 32 < (plain.filter (·.isCommand)).length then [(at_ + 8 * b.start, .commands)] else [])
  match b.hall with
  | none => limits ++ bad
  | some (i, x, y) =>
    let h := at_ + 8 * i
    limits ++ bad ++ match Hallmark.of x y with
      | none => [(h, .reason 0x06)]
      | some m =>
        let after := base + BitVec.ofNat 64 (8 * (i + 2))
        let aims := (if m.succ == 1 || m.succ == 2 then [targetAt after m.tgtA] else []) ++ (if m.succ == 2 then [targetAt after m.tgtB] else [])
        (if b.runs.isEmpty || m.count != b.runs.length then [(h, .reason 0x07)] else [])
          ++ (if aims.all entries.contains then [] else [(h, .target)])
          ++ (if m.drift == slots.any (·.2.isMark) then [] else [(h, .drift)])
          ++ (if m.safe && slots.any (fun p => (p.2.isProduct || b.runs.length + 1 < p.1 + p.2.longLatency) && !p.2.never) then [(h, .safePoint)] else [])
          ++ (if [some 0x44, some 0x45, some 0x46].contains b.transfer && !loopOk base m after next then [(h, .loopForm)] else [])

/-- Each block with the one behind it. -/
def withNext : List CodeBlock → List (CodeBlock × Option CodeBlock)
  | [] => []
  | b :: r => (b, r.head?) :: withNext r

/-- The faults of the code section (Table 4.24); its absence stands at its header field (R89). -/
def codeFaults (words : List Word) (at_ size : Nat) (base : Word) : List (Nat × LoadFault) :=
  let bs := codeBlocks (words.length + 1) 0 0 [] words
  let entries := bs.map fun b => base + BitVec.ofNat 64 (8 * b.start)
  let ended : Bool := size % 8 == 0 && match bs.getLast? with
    | some b => match b.hall with | some (i, _) => i + 2 == words.length | none => false
    | none => false
  ((withNext bs).flatMap fun b => b.1.faults words at_ base entries b.2)
    ++ if words.isEmpty || ended then [] else [(at_ + 8 * (words.length - 1), .imageEnd)]

/-! ## The other sections -/

/-- The classes of the indirect-target section, with the place of each count and entry: 16-bit counts, each before its 64-bit entries. -/
def indirectClasses (b : List Byte) : Nat → Nat → Nat → List (Nat × Nat × List (Nat × Word))
  | 0, _, _ => []
  | n + 1, at_, stop =>
    if stop < at_ + 2 then []
    else
      let k := imageField b at_ 2
      (at_, k, (List.range k).map fun i => (at_ + 2 + 8 * i, BitVec.ofNat 64 (imageField b (at_ + 2 + 8 * i) 8)))
        :: indirectClasses b n (at_ + 2 + 8 * k) stop

/-- The faults of the indirect-target section: at most 256 classes and 65,536 entries, each a block entry (R78). -/
def indirectFaults (cs : List (Nat × Nat × List (Nat × Word))) (stop : Nat) (entries : List Word) : List (Nat × LoadFault) :=
  let total (n : Nat) : Nat := ((cs.take (n + 1)).map (·.2.1)).sum
  cs.zipIdx.flatMap fun c =>
    (if 256 ≤ c.2 || 65536 < total c.2 || stop < c.1.1 + 2 + 8 * c.1.2.1 then [(c.1.1, .indirectLimit)] else [])
      ++ c.1.2.2.filterMap fun e => if entries.contains e.2 then none else some (e.1, .indirectEntry)

/-- The accumulators against which record `i` of a section of `n` words is held: those of context `i`, or of a single record, which every
context may run, the largest count of the pool partition word (log 67). -/
def declAccs (pool : Word) (n i : Nat) : Nat :=
  if n ≤ 9 then max (poolAcc pool 0) (max (poolAcc pool 1) (poolAcc pool 2)) else poolAcc pool i

/-- The limits of R101 in the order of its table. -/
def declLimits (accs : Nat) : List Nat := [16, 2, 8, 8, 32, 4, 512, 200000, accs]

/-- The faults of the declaration section (R101): records of nine words, one for each context that runs the image; words that are not there
declare nothing (log 67). -/
def declFaults (words : List Word) (at_ : Nat) (pool : Word) : List (Nat × LoadFault) :=
  words.zipIdx.filterMap fun d =>
    if d.1.toNat ≤ (declLimits (declAccs pool words.length (d.2 / 9))).getD (d.2 % 9) 0 then none
    else some (at_ + 8 * d.2, if d.2 % 9 = 8 then .accumulators else .declaration)

/-! ## The verdict and the placing -/

/-- The failed check that the loader reports: the one whose position is lowest (R89), and of those at one position the first as the checks are listed
here (log 67). -/
def lowestFault : List (Nat × LoadFault) → Option (Nat × LoadFault)
  | [] => none
  | f :: r => match lowestFault r with
    | some g => if g.1 < f.1 then some g else some f
    | none => some f

/-- The entries of an image's blocks, its code loaded at `base`. -/
def imageBlocks (b : List Byte) (base : Word) : List Word :=
  let ws := imageWords b (imageSection b 8)
  (codeBlocks (ws.length + 1) 0 0 [] ws).map fun x => base + BitVec.ofNat 64 (8 * x.start)

/-- The check that an image fails, with its position; none where the loader accepts it (R89). -/
def imageFault (b : List Byte) (base pool : Word) : Option (Nat × LoadFault) :=
  match headerFaults b with
  | f :: r => lowestFault (f :: r)
  | [] =>
    let code := imageSection b 8
    let ind := imageSection b 16
    let ent := imageSection b 24
    let dec := imageSection b 32
    let blocks := imageBlocks b base
    lowestFault (codeFaults (imageWords b code) code.1 code.2 base
      ++ indirectFaults (indirectClasses b 257 ind.1 (ind.1 + ind.2)) (ind.1 + ind.2) blocks
      ++ ((imageWords b ent).zipIdx.filterMap fun e => if blocks.contains e.1 then none else some (ent.1 + 8 * e.2, .taskEntry))
      ++ declFaults (imageWords b dec) dec.1 pool)

/-- What the device keeps of an image: its code's place, its task entries and its indirect classes (R78, R102). -/
def imageKept (b : List Byte) (part : BitVec 4) (base : Word) : Image :=
  let ind := imageSection b 16
  ⟨part, base.toNat, (imageSection b 8).2, imageWords b (imageSection b 24),
    (indirectClasses b 257 ind.1 (ind.1 + ind.2)).map fun c => c.2.2.map (·.2)⟩

/-- Every byte of a range of device memory lies in a frame with that owner. -/
def State.ownsRange (s : State) (owner : BitVec 8) (at_ n : Nat) : Bool :=
  at_ + n ≤ 0xC000000000 && (linesOf at_ n).all fun l => s.frameOwner (64 * l) == owner

/-! ## The pages of an image (R88, R103, R338) -/

/-- A 4 KiB page entered in the page tables below `table`, whose levels index from the bits listed; tables that are missing are taken from the
system-owned pages at `free`. None where a larger page or no such page stands there. -/
def mapPage (leaf : Word) (va : Nat) : List Nat → Nat → State × Nat → Option (State × Nat)
  | [], _, _ => none
  | sh :: rest, table, (s, free) =>
    let e := table + 8 * (va / 2 ^ sh % 512)
    if rest.isEmpty then some (s.homeWrite .dram e (leBytes 8 leaf.toNat) 0 false, free)
    else
      let w : Word := BitVec.ofNat 64 (s.word .dram e 8)
      if pteV w then (if pteLeaf w then none else mapPage leaf va rest (pteFrame w) (s, free))
      else if free % 4096 = 0 && s.frameOwner free == 0x10 then
        mapPage leaf va rest free ((s.zeroDram free 4096).homeWrite .dram e (leBytes 8 (free + 1)) 0 false, free + 4096)
      else none

/-- The pages that n bytes at a virtual address touch. -/
def pageCount (va n : Nat) : Nat := if n = 0 then 0 else (va + n - 1) / 4096 + 1 - va / 4096

/-- A section mapped: its pages, from the one that holds `va` on, name those of physical memory from `pa` on. -/
def mapSection (root va pa n : Nat) (flags : Word) (x : Option (State × Nat)) : Option (State × Nat) :=
  (List.range (pageCount va n)).foldl (fun x i => x.bind fun y =>
    mapPage (BitVec.ofNat 64 (pa / 4096 * 4096 + 4096 * i) ||| flags) (va / 4096 * 4096 + 4096 * i) [48, 39, 30, 21, 12] root y) x

/-- Two sections share no page and stand in theirs as in memory. -/
def sectionsFit (va pa n dva dpa m : Nat) : Bool :=
  va % 4096 == pa % 4096 && (m == 0 || dva % 4096 == dpa % 4096)
    && (m == 0 || n == 0 || (va + n - 1) / 4096 < dva / 4096 || (dva + m - 1) / 4096 < va / 4096)

/-- The loader places an image, or no part of it, and reports (R89): its code and its data section in device memory of its partition, the code
in pages that may only be executed (R88), the data in pages that may be read and written and not executed (R103). Where the sections and the
tables stand is system software's choice. An accepted image for which that choice leaves no place (frames not the partition's, code and data in one
page, a larger page or no table in the way) is not placed and is logged, and a 4 KiB page that stands there is replaced (log 66). -/
def State.loadImage (s : State) (part : BitVec 4) (base : Word) (phys data : Nat) (dbase : Word) (tables : Nat) (pool : Word) (b : List Byte) :
    State :=
  let code := imageSection b 8
  let dat := imageSection b 40
  let va := (base.setWidth 57).toNat
  let dva := (dbase.setWidth 57).toNat
  match imageFault b base pool with
  | some (p, f) => { s with windowLog := s.windowLog ++ [BitVec.ofNat 64 p, f.code]
      ++ if f.inCode then [base + BitVec.ofNat 64 (p - code.1)] else [] }
  | none =>
    if s.ownsRange (part.setWidth 8) phys code.2 && s.ownsRange (part.setWidth 8) data dat.2 then
      let mapped := if !sectionsFit va phys code.2 dva data dat.2 then none else (s.pasidRoot (s.part part).pasid part).bind fun root =>
        mapSection root dva data dat.2 0x117 (mapSection root va phys code.2 0x119 (some (s, tables)))
      match mapped with
      | none => { s with windowLog := s.windowLog ++ [BitVec.ofNat 64 phys, 0x112] }
      | some (s, _) =>
        let s := s.homeWrite .dram phys ((b.drop code.1).take code.2) 0 false
        let s := if dat.2 = 0 then s else s.homeWrite .dram data ((b.drop dat.1).take dat.2) 0 false
        { s with images := imageKept b part base :: s.images }
    else { s with windowLog := s.windowLog ++ [BitVec.ofNat 64 phys, 0x111] }

end Sys2Proof.Machine
end

