-- ==== Sys2Proof/Machine/Tasks.lean ====
section
/-! DEFINITION. Task records, completion counters, the scheduler, the start, the end and the pre-emption of tasks
(12_task_queues.md R248 to R266, 06_register_inventory.md R109, R121, 10_memories.md R190, 19_audit_counters.md R383 to R386). -/

namespace Sys2Proof.Machine

/-! ## Task records (Table 12.1) -/

/-- INDEX. -/
def recIndex (r : RecWords) : Nat := (r[3].extractLsb' 0 32).toNat
/-- AGE. -/
def recAge (r : RecWords) : Nat := (r[4].extractLsb' 0 48).toNat
/-- The launch ordinal in AGE (R250). -/
def recOrd (r : RecWords) : Nat := (r[4].extractLsb' 24 24).toNat
/-- The number n in AGE (R250). -/
def recNum (r : RecWords) : Nat := (r[4].extractLsb' 0 24).toNat
/-- CLASS. -/
def recClass (r : RecWords) : Nat := (r[4].extractLsb' 48 4).toNat
/-- HINT. -/
def recHint (r : RecWords) : Nat := (r[4].extractLsb' 52 12).toNat
/-- SAVED. -/
def recSaved (r : RecWords) : Bool := r[5].getLsbD 40
/-- GANG. -/
def recGang (r : RecWords) : Bool := r[5].getLsbD 41
/-- PART. -/
def recPart (r : RecWords) : BitVec 4 := r[6].extractLsb' 0 4
/-- The completion-counter index of a level, 1 to 4. -/
def recCounter (r : RecWords) (level : Nat) : Nat := (r[6].extractLsb' (12 * level + 4) 12).toNat
/-- Every reserved bit is zero. -/
def recClean (r : RecWords) : Bool := r[5].extractLsb' 42 22 == 0 && r[6].extractLsb' 4 12 == 0

/-- A record with another class. -/
def recSetClass (r : RecWords) (k : Nat) : RecWords :=
  r.set 4 ((r[4] &&& 0xFFF0FFFFFFFFFFFF) ||| (BitVec.ofNat 64 (k % 16) <<< 48))

/-! ## Completion counters (R252, Table 12.2) -/

/-- The address of a counter entry in device memory: levels 1 to 4 in ascending order (log 10). -/
def State.counterAddr (s : State) (p : BitVec 4) (level i : Nat) : Nat := ((s.part p).word 10).toNat + 8 * (4096 * (level - 1) + i)

/-- A counter entry. -/
def State.counter (s : State) (p : BitVec 4) (level i : Nat) : Word := BitVec.ofNat 64 (s.word .dram (s.counterAddr p level i) 8)

/-- Writing a counter entry, a write to device memory like any other (R202, R204). -/
def State.setCounter (s : State) (p : BitVec 4) (level i : Nat) (w : Word) : State :=
  s.homeWrite .dram (s.counterAddr p level i) (leBytes 8 w.toNat) 0 false

/-- STATE: 0 idle, 1 open, 2 cancelling, 3 complete. -/
def ccState (w : Word) : Nat := (w.extractLsb' 62 2).toNat
/-- FAILED. -/
def ccFailed (w : Word) : Nat := (w.extractLsb' 32 29).toNat
/-- OUT. -/
def ccOut (w : Word) : Nat := (w.extractLsb' 0 32).toNat

/-- An entry of its fields. -/
def ccWord (st : Nat) (canc : Bool) (failed out : Nat) : Word :=
  BitVec.ofNat 2 st ++ BitVec.ofBool canc ++ BitVec.ofNat 29 (min failed (2 ^ 29 - 1)) ++ BitVec.ofNat 32 out

/-- The four counters that a record names: level and index. -/
def recCounters (r : RecWords) : List (Nat × Nat) := [1, 2, 3, 4].map fun l => (l, recCounter r l)

/-- A named counter is cancelling. -/
def State.cancelling (s : State) (p : BitVec 4) (r : RecWords) : Bool := (recCounters r).any fun c => ccState (s.counter p c.1 c.2) == 2

/-! ## Launches (R250, R436) -/

/-- The launch of an ordinal. -/
def State.launch? (s : State) (ord : Nat) : Option Launch := s.launches.find? (·.ord = ord)

/-- The pool partition word of a record's launch (R436). -/
def State.poolWord (s : State) (r : RecWords) : Word := ((s.launch? (recOrd r)).map (·.pool)).getD 0

/-- Ordinals no longer held: the launch counter has completed, and no record, running task or push of the launch remains. -/
def State.pruneLaunches (s : State) : State :=
  let inQueue (o : Nat) : Bool := s.parts.toList.any fun x => x.queues.toList.any fun q => q.any fun r => recOrd r == o
  let running (o : Nat) : Bool := s.contexts.any fun c => match (s.getCtx c).task with | some t => recOrd t.words == o && c.cid != 3 | none => false
  let pushing (o : Nat) : Bool := s.work.any fun w => match w.ev with
    | .taskPush _ r => recOrd r == o
    | .joinDecrement _ q => (match q.body with | .rmw _ _ d _ _ _ _ _ _ _ => d.toNat / 2 ^ 24 % 2 ^ 24 == o | _ => false)
    | _ => false
  { s with launches := s.launches.filter fun l => !l.done || inQueue l.ord || running l.ord || pushing l.ord }

/-! ## Attestation (R349, Table 16.4) -/

/-- A fresh number for a free value. -/
def State.draw (s : State) : Nat × State := (s.fresh, { s with fresh := s.fresh + 1 })

/-- A log region's base and size in bytes (Table 16.3). -/
def logRegion (w : Word) : Nat × Nat := ((w.extractLsb' 12 40).toNat * 4096, (w.extractLsb' 0 12).toNat * 4096)

/-- Bytes, no more than the ring holds, written into it at a free-running position: writes to device memory like any other (R202, R204). -/
def State.putRing (s : State) (base size pos : Nat) (bs : List Byte) : State :=
  let k := pos % size
  let s := s.homeWrite .dram (base + k) (bs.take (size - k)) 0 false
  if bs.length ≤ size - k then s else s.homeWrite .dram base (bs.drop (size - k)) 0 false

/-- Launch digests in ascending ordinal. -/
def sortOrd (ds : List (Nat × Word)) : List (Nat × Word) :=
  ds.foldl (fun acc d => (acc.takeWhile fun e => e.1 ≤ d.1) ++ [d] ++ (acc.dropWhile fun e => e.1 ≤ d.1)) []

/-- The attestation record of a job appended to its partition's ring; none when the ring lacks room. SHA-384 and the signature are free values
(log 8). -/
def State.attest (s : State) (p : BitVec 4) (j : JobTally) : Option State :=
  let x := s.part p
  let (base, size) := logRegion (x.word 14)
  let ds := sortOrd j.digests
  let len := 248 + 8 * ds.length
  if size < x.attTail + len - x.attHead then none
  else
    let f (i : Nat) : Word := Config.crypto (s.fresh + i)
    let words (ws : List Word) : List Byte := ws.flatMap fun w => leBytes 8 w.toNat
    let bytes : List Byte :=
      words [p.setWidth 16 ++ (1 : BitVec 16) ++ BitVec.ofNat 32 len, BitVec.ofNat 52 j.seq ++ BitVec.ofNat 12 j.idx, BitVec.ofNat 64 x.attSeq]
        ++ leBytes 48 (Config.sha384 s.measures.flatten) ++ leBytes 48 x.attPrev
        ++ words ([BitVec.ofNat 64 j.traps, BitVec.ofNat 64 j.replays, BitVec.ofNat 64 j.touches, BitVec.ofNat 64 ds.length]
          ++ ds.map (·.2) ++ (List.range 12).map f)
    let t := State.putRing { s with fresh := s.fresh + 12 } base size x.attTail bytes
    some (t.setPart p { t.part p with attTail := x.attTail + len, attSeq := x.attSeq + 1, attPrev := Config.sha384 bytes })

/-! ## The completion of a counter (R257, R385) -/

/-- A 64-bit word of a partition's global address space, where the sequencer reaches it (log 11). -/
def State.globalPlace (s : State) (p : BitVec 4) (va : Word) (n : Need) : Option (Home × Nat) :=
  match s.translate 288 p va n with
  | .ok pl => if s.placeRefuses pl p 0 then none else some (pl.home, pl.off)
  | _ => none

/-- Reading a global word; 0, and a line of the error log, where it cannot be reached (R350). -/
def State.globalRead (s : State) (p : BitVec 4) (va : Word) : State × Word :=
  match s.globalPlace p va .read with
  | some (h, off) => (s.asked h, BitVec.ofNat 64 (s.word h off 8))
  | none => (s.logError p va 1, 0)

/-- Writing a global word; a place that cannot be reached is logged. -/
def State.putGlobal (s : State) (p : BitVec 4) (va w : Word) : State :=
  match s.globalPlace p va .write with
  | some (h, off) => (s.asked h).homeWrite h off (leBytes 8 w.toNat) 0 false
  | none => s.logError p va 1

/-- The launch digest formed over the slots as they stand, behind their reads (R385). -/
def State.launchDigest (s : State) (l : Launch) : State × Word :=
  (List.range l.g).foldl (fun d i =>
    let r := d.1.globalRead l.part (l.slots + BitVec.ofNat 64 (8 * i))
    (r.1, d.2.rotateLeft 3 ^^^ r.2)) (s, 0)

/-- A digest slot stands at a peer whose link is being re-keyed: what goes there waits (R348). -/
def State.slotRekeys (s : State) (p : BitVec 4) (va : Word) : Bool :=
  match s.globalPlace p va .read with
  | some (h, _) => s.rekeying h
  | none => false

/-- CLAUNCH of a LAUNCH packet (Table 12.5). -/
def pktCounter (w : RecWords) : Nat := (w[6].extractLsb' 0 12).toNat

/-- A packet's launch has completed: it leaves what its queue has running, and a GRAPH with it once all its launches have (R267, R269). -/
def Run.complete (cnt : Nat) : Run → Option Run
  | .launch c => if c = cnt then none else some (.launch c)
  | .graph es =>
    let es := es.map fun e => if e.started && pktCounter e.packet == cnt then { e with done := true } else e
    if es.all (·.done) then none else some (.graph es)

/-- The launches that complete with a launch counter: digest, job account and host queues (R267, R385, R349). -/
def State.completeLaunch (s : State) (p : BitVec 4) (cnt : Nat) : State :=
  let mine := s.launches.filter fun l => l.part == p && l.cnt[0] == cnt && !l.done
  let s := mine.foldl (fun (s : State) l =>
    let keeps := l.det != 0 && l.slots != 0
    let (s, d) := if keeps then s.launchDigest l else (s, 0)
    let s := if keeps then s.putGlobal p (l.slots + BitVec.ofNat 64 (8 * l.g)) d else s
    let x := s.part p
    s.setPart p { x with tally := x.tally.map fun j =>
      if j.idx = l.cnt[3] then { j with digests := j.digests ++ [(l.ord, d)] } else j }) s
  let s : State := { s with launches := s.launches.map fun l => if l.part == p && l.cnt[0] == cnt then { l with done := true } else l }
  let x := s.part p
  s.setPart p { x with hq := x.hq.map fun q => (q.1, { q.2 with running := q.2.running.filterMap (Run.complete cnt) }) }

/-- A counter whose OUT has reached 0 completes; a job counter only once its record has been appended (R257, R349). -/
def State.completeCounter (s : State) (p : BitVec 4) (level i : Nat) (canc : Bool) : State :=
  let done (s : State) : State := s.setCounter p level i (ccWord 3 canc (ccFailed (s.counter p level i)) 0)
  if level = 1 then done (s.completeLaunch p i)
  else if level = 4 then
    match (s.part p).tally.find? (·.idx = i) with
    | none => done s
    | some j =>
      match s.attest p j with
      | none => s
      | some s =>
        let x := s.part p
        done (s.setPart p { x with tally := x.tally.filter (·.idx != i) })
  else done s

/-- One outstanding task less under a counter. -/
def State.decCounter (s : State) (p : BitVec 4) (failed : Bool) (c : Nat × Nat) : State :=
  let w := s.counter p c.1 c.2
  let out := ccOut w - 1
  let s := s.setCounter p c.1 c.2 (ccWord (ccState w) (w.getLsbD 61) (if failed then ccFailed w + 1 else ccFailed w) out)
  if out = 0 then s.completeCounter p c.1 c.2 (ccState w == 2) else s

/-- The end of a task as its counters see it (R257). -/
def State.endCount (s : State) (p : BitVec 4) (r : RecWords) (failed : Bool) : State := (recCounters r).foldl (fun s c => s.decCounter p failed c) s

/-- One outstanding task more under a counter, which opens if it was idle or complete (R253). -/
def State.incCounter (s : State) (p : BitVec 4) (c : Nat × Nat) : State :=
  let w := s.counter p c.1 c.2
  if ccState w = 1 then s.setCounter p c.1 c.2 (ccWord 1 (w.getLsbD 61) (ccFailed w) (ccOut w + 1))
  else
    let s := s.setCounter p c.1 c.2 (ccWord 1 false 0 1)
    if c.1 = 4 then
      let x := s.part p
      s.setPart p { x with jobSeq := x.jobSeq + 1, tally := x.tally ++ [⟨c.2, x.jobSeq, 0, 0, 0, []⟩] }
    else s

/-! ## Queues (R251, R253, R255) -/

/-- A class queue of a partition. -/
def Partition.queue (x : Partition) (k : Nat) : List RecWords := x.queues.toArray.getD k []

/-- 64-bit words as bytes. -/
def wordBytes (ws : List Word) : List Byte := ws.flatMap fun w => leBytes 8 w.toNat

/-- The capacity of the overflow region, in records (Table 16.3). -/
def Partition.overflowCap (x : Partition) : Nat := ((x.word 9).extractLsb' 0 32).toNat

/-- The records that stand behind the head caches: of each class those past its 256, the highest class first (R251, log 87). -/
def Partition.overflow (x : Partition) : List RecWords := [3, 2, 1, 0].flatMap fun k => (x.queue k).drop 256

/-- Where the records of a class begin among those of the overflow region. -/
def Partition.overflowAt (x : Partition) (k : Nat) : Nat :=
  (([3, 2, 1, 0].filter (k < ·)).map fun j => (x.queue j).length - 256).sum

/-- The records past the head caches written into the overflow region, as far as it reaches (R251): a write to device memory like any other. -/
def State.spill (s : State) (p : BitVec 4) : State :=
  let x := s.part p
  let rs := x.overflow.take x.overflowCap
  if rs.isEmpty then s else s.homeWrite .dram (x.word 8).toNat (wordBytes (rs.flatMap fun r => r.toList)) 0 false

/-- The records of the overflow region as they stand in device memory (R251). -/
def State.refill (s : State) (p : BitVec 4) : State :=
  let x := s.part p
  if x.overflow.isEmpty then s
  else
    let record (k : Nat) (e : RecWords × Nat) : RecWords :=
      let i := x.overflowAt k + (e.2 - 256)
      if e.2 < 256 || x.overflowCap ≤ i then e.1 else s.recordAt .dram ((x.word 8).toNat + 64 * i)
    s.setPart p { x with queues := Vector.ofFn fun k : Fin 4 => x.queues[k].zipIdx.map (record k.val) }

/-- The class queues replaced, with their overflow. -/
def State.setQueues (s : State) (p : BitVec 4) (qs : Vector (List RecWords) 4) : State :=
  State.spill (s.setPart p { s.part p with queues := qs }) p

/-- A class queue replaced. -/
def State.setQueue (s : State) (p : BitVec 4) (k : Nat) (q : List RecWords) : State :=
  s.setQueues p ((s.part p).queues.setIfInBounds k q)

/-- A refused push: FAILED of its launch counter, and a line of the log (R253). -/
def State.refusePush (s : State) (p : BitVec 4) (r : RecWords) : State :=
  let i := recCounter r 1
  let w := s.counter p 1 i
  (s.setCounter p 1 i (ccWord (ccState w) (w.getLsbD 61) (ccFailed w + 1) (ccOut w))).logError p r[0] 9

/-- A class queue has no place for a record: its head cache is full, and so is the overflow region, which the four queues share (R251). -/
def Partition.full (x : Partition) (k : Nat) : Bool :=
  256 ≤ (x.queue k).length
    && x.overflowCap ≤ x.overflow.length

/-- A push under R253; `spent`: its launch has no rank left. The second component says whether the record entered its queue. -/
def State.pushRecord (s : State) (p : BitVec 4) (r : RecWords) (spent : Bool) : State × Bool :=
  if s.cancelling p r then (s, false)
  else
    let x := s.part p
    let k := recClass r
    if 3 < k || spent || x.full k then (s.refusePush p r, false)
    else
      let s := (recCounters r).foldl (fun s c => s.incCounter p c) s
      (s.setQueue p k ((s.part p).queue k ++ [r]), true)

/-- TASK_PUSH (R250, R253, R261): a record pushed by `spawn` or by a continuation takes the next rank of its pusher's launch. -/
def execTaskPush (c : Src) (r : RecWords) (s : State) : Host.Outcome State Fault Refusal :=
  if 288 ≤ c.site then .next s
  else
    let p := recPart r
    let ord := recOrd r
    let n := ((s.launch? ord).map (·.n)).getD (2 ^ 24)
    let r' := r.set 4 ((r[4] &&& 0xFFFF000000000000) ||| BitVec.ofNat 64 (ord * 2 ^ 24 + n % 2 ^ 24))
    let (s, ok) := s.pushRecord p r' (decide (2 ^ 24 ≤ n))
    .next (if ok then { s with launches := s.launches.map fun l => if l.ord = ord then { l with n := n + 1 } else l } else s)

/-- The passed-over counts after a pop of class `k`, and the records that age (R255), into a full queue too (log 86). -/
def State.ageQueues (s : State) (p : BitVec 4) (k : Nat) : State :=
  let ag := (s.part p).ag
  if ag = 0 then s
  else
    let waiting := (List.range k).filter fun c => !((s.part p).queue c).isEmpty
    waiting.foldl (fun s c =>
      let x := s.part p
      let n := x.passed.toArray.getD c 0 + 1
      if n < ag then s.setPart p { x with passed := x.passed.setIfInBounds c n }
      else
        let s := s.setPart p { x with passed := x.passed.setIfInBounds c 0 }
        match x.queue c with
        | [] => s
        | r :: rest => (s.setQueue p c rest).setQueue p (c + 1) (((s.setQueue p c rest).part p).queue (c + 1) ++ [recSetClass r (c + 1)])) s

/-! ## The scheduler (R254, R256) -/

/-- The tiles of a partition in ascending logical number. -/
def Partition.tiles (x : Partition) : List Nat := (List.range 272).filter x.hasTile

/-- The slice of an ordered launch of g tasks that tile l of `ts` receives holds an index (R256). -/
def inSlice (ts : List Nat) (l g i : Nat) : Bool :=
  let k := ts.findIdx (· == l)
  let t := ts.length
  k < t && g * k / t ≤ i && i < g * (k + 1) / t

/-- A site takes tasks: active, not retiring, not at margin level 3 (R182, R377). -/
def State.siteOpen (s : State) (site : Nat) : Bool :=
  (s.logicalOf site).isSome && (s.getTile site).retire == .active && (s.getTile site).level != 3

/-- A partition may run tasks on a logical tile. -/
def State.partOn (s : State) (p : BitVec 4) (l : Nat) : Bool := (s.part p).valid && !(s.part p).stopped && (s.part p).hasTile l

/-- The other program contexts of a context's tile hold tasks only of a record's partition and pool partition word (R190, R254). -/
def State.sharesTile (s : State) (c : Src) (p : BitVec 4) (r : RecWords) : Bool :=
  [0, 1, 2].all fun k => k == c.cid || (match (s.getCtx ⟨c.site, k⟩).task with
    | some t => t.part == p && s.poolWord t.words == s.poolWord r
    | none => true)

/-- The re-execution that a record is queued for (R386). -/
def Partition.rerun? (x : Partition) (r : RecWords) : Option Rerun := x.reruns.find? fun y => y.rank == recAge r

/-- The tile that a saved task left gives its tasks up: its records wait until the mesh map has moved and no packet is on its way to the old
site (R13). -/
def State.mapMoves (s : State) (p : BitVec 4) (r : RecWords) : Bool :=
  recSaved r && (s.part p).kept.any fun k => recAge k.first == recAge r
    && if (s.logicalOf k.site).isSome then !s.siteOpen k.site else s.work.any fun w => w.dst == .tile k.site

/-- Where ordered placement puts a record (R256): in its tile's slice, or for a re-execution in the slice that the tile has among those
that did not run it first (R386, log 13). -/
def State.placed (s : State) (p : BitVec 4) (l : Nat) (r : RecWords) : Bool :=
  let x := s.part p
  match s.launch? (recOrd r), x.rerun? r with
  | some u, none => !u.ordered || 2 ^ 23 ≤ recNum r || inSlice x.tiles l u.g (recIndex r)
  | some u, some y => s.siteOf l != some y.site
      && (2 ^ 23 ≤ recNum r || inSlice (x.tiles.filter fun t => s.siteOf t != some y.site) l u.g (recIndex r))
  | none, _ => true

/-- A context of a tile may take a record of a partition, apart from gangs (R13, R190, R254, R256, R386). -/
def State.mayTake (s : State) (c : Src) (p : BitVec 4) (r : RecWords) : Bool :=
  match s.logicalOf c.site with
  | none => false
  | some l => s.siteOpen c.site && s.partOn p l && s.sharesTile c p r && !s.mapMoves p r && s.placed p l r

/-- The hop count between two sites (R254). -/
def hops (a b : Nat) : Nat := (max (a % 16) (b % 16) - min (a % 16) (b % 16)) + (max (a / 16) (b / 16) - min (a / 16) (b / 16))

/-- A record's HINT names a site or one within 2 hops of it. -/
def State.hintNear (s : State) (site : Nat) (r : RecWords) : Bool :=
  match s.siteOf (recHint r) with
  | some h => hops h site ≤ 2
  | none => false

/-- A record starts by itself: it belongs to no gang, or is re-executed (R264, R386). -/
def Partition.alone (x : Partition) (r : RecWords) : Bool := !recGang r || (x.rerun? r).isSome

/-- The record of a class queue that a context takes: its place. -/
def State.pickIn (s : State) (c : Src) (p : BitVec 4) (k : Nat) : Option Nat :=
  let q := ((s.part p).queue k).zipIdx.filter fun e => (s.part p).alone e.1 && s.mayTake c p e.1
  match (q.take 8).find? fun e => s.hintNear c.site e.1 with
  | some e => some e.2
  | none => (q.head?).map (·.2)

/-- The class and place of the record of a partition that a context takes: the highest class that holds one. -/
def State.pick (s : State) (c : Src) (p : BitVec 4) : Option (Nat × Nat) :=
  [3, 2, 1, 0].findSome? fun k => (s.pickIn c p k).map fun i => (k, i)

/-- All partitions. -/
def allParts : List (BitVec 4) := (List.range 16).map (BitVec.ofNat 4)

/-- The shares added to the deficits of the partitions with a queued record. -/
def State.addShares (s : State) : State :=
  allParts.foldl (fun s p =>
    let x := s.part p
    if x.queues.toList.all (·.isEmpty) then s else s.setPart p { x with deficit := x.deficit + max 1 x.share }) s

/-- The partition with the largest deficit; a tie goes to the lowest number. -/
def State.richest (s : State) (ps : List (BitVec 4)) : Option (BitVec 4) :=
  ps.foldl (fun b p => match b with
    | none => some p
    | some q => if (s.part q).deficit < (s.part p).deficit then some p else some q) none

/-- A context is idle (R254): it holds no task. -/
def Ctx.idle (c : Ctx) : Bool := c.task.isNone && c.ending.isNone

/-- The scheduler's answer to an idle context: the state with deficits settled, the partition, and the record's class and place. -/
def State.popChoice (s : State) (c : Src) : Option (State × BitVec 4 × Nat × Nat) :=
  if c.cid < 3 && (s.getCtx c).idle then
    let ps := allParts.filter fun p => (s.pick c p).isSome
    if ps.isEmpty then none
    else
      let s := if ps.any fun p => 1 ≤ (s.part p).deficit then s else s.addShares
      (s.richest ps).bind fun p => (s.pick c p).map fun e => (s, p, e.1, e.2)
  else none

/-! ## Tile changes (R190) -/

/-- Every block slot of a tile emptied. -/
def State.emptySlots (s : State) (site lo n : Nat) : State := (List.range n).foldl (fun s k => s.emptySlot site (lo + k)) s

/-- The registers of a context as a tile change leaves their areas of the pool: every accumulator +0.0, and behind a scrub every vector register zero;
their tags and poison bits stand outside the pool (R190, R195). -/
def Regs.cleared (r : Regs) (all : Bool) : Regs :=
  { r with
    acc := r.acc.map fun a => { a with val := Acc.reset.val }
    v := if all then r.v.map fun x => { x with val := VReg.reset.val } else r.v }

/-- The areas of the program contexts of a site that have left their reset state cleared, in every copy (R190). -/
def State.clearAreas (s : State) (site : Nat) (all : Bool) : State :=
  (s.contexts.filter fun c => c.site == site && c.cid < 3).foldl (fun s c => s.modCtx c fun x => x.writeAll (Regs.cleared · all)) s

/-- The tile set up for a task of a partition and a pool partition word (R190). -/
def State.changeTile (s : State) (site : Nat) (p : BitVec 4) (pool : Word) : State :=
  let t := s.getTile site
  if t.curPart != some p then
    let s := (s.emptySlots site 0 64).clearAreas site true
    (s.modTile site fun t => { t with curPart := some p, curPool := some pool, scrub := p }).wipe (.pool site) 0 (2 ^ 22)
  else if t.curPool != some pool then
    let s := (s.emptySlots site 0 64).clearAreas site false
    let old := poolSize (t.curPool.getD 0)
    let s := s.modTile site fun t => { t with curPool := some pool }
    if old < poolSize pool then s.wipe (.pool site) old (poolSize pool) else s
  else s

/-! ## Task start (R109) -/

/-- The registers at task start. -/
def Regs.start (r : RecWords) (gang : Nat) (allot : Nat) : Regs :=
  let x (n : BitVec 6) (w : Word) (g : Regs) : Regs := g.setX n ⟨w, 0, false⟩
  let g : Regs := { Regs.reset with
    acc := List.replicate allot Acc.reset
    es := #v[r[5].extractLsb' 0 8, r[5].extractLsb' 8 8, r[5].extractLsb' 16 8, r[5].extractLsb' 24 8]
    ws := r[5].extractLsb' 32 8 }
  (x 1 r[1] (x 2 (BitVec.ofNat 64 (recIndex r)) (x 3 ((r[3].extractLsb' 32 32).setWidth 64) (x 4 r[2] (x 5 (BitVec.ofNat 64 gang) g))))).rebase

/-- A context that takes a task, about to issue its first bundle on registers `g` at schedule cycle `clk` and address `pc`. What
debugging has set on the context stays. The partial-sum port reads exact zeros until the task's first delivery (R302), and so it does behind a
resumption, which finds no saved port (R107): the model's choice (log 82). -/
def Ctx.begin (c : Ctx) (t : Task) (g : Regs) (pc : Word) (clk : Nat) : Ctx :=
  { Ctx.reset with
    task := some t
    pc := pc
    sclk := clk
    work := g
    comm := g
    seq := c.seq + 1
    cur := Block.fresh (c.seq + 1) pc clk g PSum.reset [] 0 Engine.reset false
    part := t.part
    halted := c.halted
    stopReq := c.stopReq
    steps := c.steps
    guardMask := c.guardMask }

/-- Whether the task of a record keeps a digest (R383). -/
def State.keepsDigest (s : State) (r : RecWords) : Bool := r[7] != 0 && ((s.launch? (recOrd r)).any fun l => l.det != 0)

/-- The task of a record not saved. -/
def State.newTask (s : State) (p : BitVec 4) (r : RecWords) : Task :=
  ⟨r, r, p, 0, s.keepsDigest r, (((s.part p).rerun? r).map fun x => (x.site, x.digest))⟩

/-- A task started on a context whose tile is set up (R109). -/
def State.startTask (s : State) (c : Src) (p : BitVec 4) (r : RecWords) (gang : Nat) : State :=
  let s := s.emptySlots c.site (16 * c.cid) 16
  let t := s.newTask p r
  let x := s.part p
  let s := s.setPart p { x with reruns := x.reruns.filter fun y => y.rank != recAge r }
  let c0 := s.getCtx c
  s.setCtx c (c0.begin t (Regs.start r gang (poolAcc (s.poolWord r) c.cid)) (codeAddr r[0]) 0)

/-! ## Saved state (R266, Table 12.4; Table 13.5) -/

/-- 32-bit words as bytes. -/
def quadBytes (ws : List (BitVec 32)) : List Byte := ws.flatMap fun w => leBytes 4 w.toNat

/-- Bits as a number, the first the least significant. -/
def bitsNat : List Bool → Nat
  | [] => 0
  | b :: bs => (if b then 1 else 0) + 2 * bitsNat bs

/-- A saved stream binding (Table 13.5). -/
def portWords (o : Option Binding) : List Word :=
  match o with
  | some b => b.desc.toList ++ [BitVec.ofNat 64 b.pos, 1, b.off.setWidth 64]
  | none => List.replicate 8 0

/-- The bytes of a save area (Table 12.4). -/
def Ctx.saveBytes (c : Ctx) : List Byte :=
  let r := c.comm
  wordBytes ((List.range 32).map (c.readCtl r))
    ++ wordBytes [r.vl.setWidth 64, BitVec.ofNat 64 (bitsNat (r.x.toList.map (·.poison))), BitVec.ofNat 64 (bitsNat (r.v.toList.map (·.poison))),
      BitVec.ofNat 64 (bitsNat (r.p.toList.map (·.poison)) + 2 ^ 16 * bitsNat (r.acc.map (·.poison))),
      BitVec.ofNat 64 (bitsNat ((r.p.toList.map (·.val)).set 0 true)), BitVec.ofNat 64 r.acc.length, (c.task.map (·.digest)).getD 0, 0]
    ++ quadBytes (r.p.toList.map (·.tag)) ++ quadBytes ((r.acc.map (·.tag)) ++ List.replicate (8 - r.acc.length) 0) ++ List.replicate 96 0
    ++ wordBytes (r.x.toList.map (·.val)) ++ quadBytes (r.x.toList.map (·.tag)) ++ quadBytes (r.v.toList.map (·.tag))
    ++ wordBytes (r.ports.toList.flatMap portWords)
    ++ (r.v.toList.flatMap fun v => quadBytes v.val.toList)
    ++ (r.acc.flatMap fun a => a.val.toList.flatMap fun row => quadBytes row.toList)

/-- A saved word. -/
def State.savedWord (s : State) (a off : Nat) : Word := BitVec.ofNat 64 (s.word .dram (a + off) 8)
/-- A saved 32-bit word. -/
def State.savedLane (s : State) (a off : Nat) : BitVec 32 := BitVec.ofNat 32 (s.word .dram (a + off) 4)

/-- A loop level from its saved words. -/
def savedLevel (stack body : Word) : Level := ⟨stack.extractLsb' 32 32, stack.extractLsb' 29 3, stack.extractLsb' 27 2, codeAddr body⟩

/-- The registers of a save area at `a`. -/
def State.savedRegs (s : State) (a : Nat) : Regs :=
  let w := s.savedWord a
  let n := (w 0x128).toNat
  let px := w 0x108
  let pv := w 0x110
  let pp := w 0x118
  { x := Vector.ofFn fun i : Fin 64 => if i.val = 0 then XReg.reset else ⟨w (0x200 + 8 * i.val), s.savedLane a (0x400 + 4 * i.val), px.getLsbD i.val⟩
    v := Vector.ofFn fun i : Fin 64 =>
      ⟨Vector.ofFn fun j : Fin 64 => s.savedLane a (0x800 + 256 * i.val + 4 * j.val), s.savedLane a (0x500 + 4 * i.val), pv.getLsbD i.val⟩
    p := Vector.ofFn fun i : Fin 16 =>
      if i.val = 0 then PReg.reset else ⟨(w 0x120).getLsbD i.val, s.savedLane a (0x140 + 4 * i.val), pp.getLsbD i.val⟩
    acc := (List.range n).map fun k =>
      ⟨Vector.ofFn fun i : Fin 64 => Vector.ofFn fun j : Fin 64 => s.savedLane a (0x4800 + 16384 * k + 256 * i.val + 4 * j.val),
        s.savedLane a (0x180 + 4 * k), pp.getLsbD (16 + k)⟩
    vl := (w 0x100).setWidth 7
    es := #v[(w 0x98).extractLsb' 0 8, (w 0x98).extractLsb' 8 8, (w 0x98).extractLsb' 16 8, (w 0x98).extractLsb' 24 8]
    ws := (w 0x98).extractLsb' 32 8
    epc := codeAddr (w 0x18)
    tvec := w 0x20 &&& 0x01FFFFFFFFFFFFF9
    flags := (w 0x40).setWidth 7
    fmask := (w 0x48).setWidth 7
    dthr := (w 0xB0).setWidth 32
    vb := (w 0x80).extractLsb' 0 5
    pb := (w 0x80).extractLsb' 8 3
    loops := #v[savedLevel (w 0xC0) (w 0xE0), savedLevel (w 0xC8) (w 0xE8), savedLevel (w 0xD0) (w 0xF0), savedLevel (w 0xD8) (w 0xF8)]
    rdr := (w 0x28).getLsbD 1
    ports := Vector.ofFn fun k : Fin 8 =>
      let b := 0x600 + 64 * k.val
      if (w (b + 48)).getLsbD 0 then
        some ⟨#v[w b, w (b + 8), w (b + 16), w (b + 24), w (b + 32)], (w (b + 56)).setWidth 22, ((w (b + 40)).extractLsb' 0 40).toNat⟩
      else none
    defer := []
    shadow := Shadow.reset
    tileW := [] }

/-- The bytes of a save area of the save pool (Table 16.3). -/
def saveAreaSize : Nat := 0x25000

/-- A save area lies in frames owned by a partition (R265). -/
def State.areaOwned (s : State) (p : BitVec 4) (a n : Nat) : Bool :=
  (List.range ((a + n - 1) / 2 ^ 21 + 1 - a / 2 ^ 21)).all fun i => s.frameOwner (a / 2 ^ 21 * 2 ^ 21 + 2 ^ 21 * i) == p.setWidth 8

/-- A save area returned to its pool, and what was kept of its task with it. -/
def State.freeArea (s : State) (p : BitVec 4) (r : RecWords) : State :=
  let x := s.part p
  let base := (x.word 11).toNat
  s.setPart p { x with
    saves := x.saves.filter fun k => base + saveAreaSize * k != r[1].toNat
    kept := x.kept.filter fun k => recAge k.first != recAge r }

/-- A saved task restored on a context whose tile is set up (R121, R265, R266); none when it fails: also where its saved ctl.part is not the partition
of the tile's assignment, a check that R121 names without its consequence (log 92). The accumulators of a larger allotment than the saved one start
at +0.0 (log 92). A wound of the task that is not counted yet stands as its trap before its first bundle (R328). -/
def State.restoreTask (s : State) (c : Src) (p : BitVec 4) (r : RecWords) : Option State :=
  let a := r[1].toNat
  let w := s.savedWord a
  let n := (w 0x128).toNat
  let allot := poolAcc (s.poolWord r) c.cid
  if !s.areaOwned p a (0x4800 + 0x4000 * min n 8) || allot < n || (w 0xA0).setWidth 4 != p then none
  else
    let s := s.emptySlots c.site (16 * c.cid) 16
    let g := s.savedRegs a
    let g := { g with acc := g.acc ++ List.replicate (allot - n) { Acc.reset with tag := 0 } }
    let kept := ((s.part p).kept.find? fun k => recAge k.first == recAge r).getD ⟨r, c.site, g, [], 0, []⟩
    let first := kept.first
    let t0 := s.newTask p first
    let t : Task := { t0 with words := r, first := first, digest := w 0x130 }
    let c0 := s.getCtx c
    let x := c0.begin t g.rebase (codeAddr r[0]) (w 0x88).toNat
    let b : Block := { x.cur with entryRegs := kept.regs, carry := kept.carry, early := kept.early, back := kept.back }
    let x := { x with
      work := b.entryWork x.comm, flight := b.carry, pend := b.toCome, cur := { b with back := [] }
      wclk := w 0x90, cause := w 0x00 &&& 0x1FFFF, tval := w 0x08, tsyl := w 0x10, tsched := w 0x30, drift := (w 0xA8).setWidth 32 }
    let s := (s.setCtx c x.landDue).freeArea p r
    let y := s.part p
    let s := s.setPart p { y with reruns := y.reruns.filter fun z => z.rank != recAge r }
    let due (d : Wound) : Bool := d.part == p && d.rank == recAge r && d.counted.isNone
    let ws := s.wounds.filter due
    let s : State := { s with wounds := s.wounds.map fun d => if due d then { d with counted := some 0 } else d }
    some (s.modCtx c fun x => { x with traps := ws.map fun d => ATrap.wound d.name })

/-! ## Pops (R249, R254) -/

/-- CODE is a listed task entry of an image of a partition (R102). -/
def State.listedEntry (s : State) (p : BitVec 4) (code : Word) : Bool := s.images.any fun m => m.part == p && m.entries.contains code

/-- The check that a popped record fails, by its reason in the error log (R249); the CODE of a saved record is the resume entry that the sequencer
wrote (log 12). -/
def State.recordBad (s : State) (p : BitVec 4) (r : RecWords) : Option ErrReason :=
  if !(recSaved r || s.listedEntry p r[0]) then some 11
  else if !recClean r then some 12
  else if recPart r != p then some 13
  else none

/-- The task of a record that runs no more ends (R257): what was kept of it goes back, its locks are freed, and its counters are lowered. -/
def State.endRecord (s : State) (p : BitVec 4) (r : RecWords) (failed : Bool) : State :=
  let s := if recSaved r then s.freeArea p r else s
  let x := s.part p
  let s := s.setPart p { x with reruns := x.reruns.filter fun y => y.rank != recAge r }
  (s.endLocks p (recAge r)).endCount p r failed

/-- A record that never issues a bundle (R249): logged with its reason under its CODE (log 86), ended as a failed task. -/
def State.failRecord (s : State) (p : BitVec 4) (r : RecWords) (why : ErrReason) : State :=
  ((s.logError p r[0] why).endRecord p r true).pruneLaunches

/-- A record given to a context: its check, the change of the tile, and the start or the resumption. -/
def State.give (s : State) (c : Src) (p : BitVec 4) (r : RecWords) (gang : Nat) : State :=
  match s.recordBad p r with
  | some why => s.failRecord p r why
  | none =>
    let s := s.changeTile c.site p (s.poolWord r)
    if recSaved r then (s.restoreTask c p r).getD (s.failRecord p r 14) else s.startTask c p r gang

/-- The size of the gangs of a record's launch. -/
def State.gangSize (s : State) (r : RecWords) : Nat := ((s.launch? (recOrd r)).map (·.gang)).getD 0

/-- The base that a record started by itself finds in x5: for a gang member that is re-executed, that of its gang's group (R264, R386). -/
def State.loneBase (s : State) (p : BitVec 4) (r : RecWords) : Nat :=
  match (s.part p).rerun? r with
  | some y => if recGang r && s.gangSize r != 0 then (s.logicalOf y.site).getD 0 / s.gangSize r * s.gangSize r else 0
  | none => 0

/-- The overflow regions of every partition read (R251). -/
def State.refillAll (s : State) : State := allParts.foldl State.refill s

/-- TASK_POP (R254): an idle context takes a record. -/
def execTaskPop (c : Src) (s : State) : Host.Outcome State Fault Refusal :=
  if 288 ≤ c.site || 4 ≤ c.cid then .next s
  else
    let s := s.refillAll
    match s.popChoice c with
    | none => .next s
    | some (s, p, k, i) =>
      let x := s.part p
      match (x.queue k)[i]? with
      | none => .next s
      | some r =>
        let s := s.setPart p { x with deficit := x.deficit - 1 }
        let s := (s.setQueue p k ((x.queue k).eraseIdx i)).ageQueues p k
        .next (s.give c p r (s.loneBase p r))

/-! ## Gangs (R264) -/

/-- The records of the gang that a record belongs to, of a size `g`. -/
def sameGang (g : Nat) (a b : RecWords) : Bool := recGang b && recOrd a == recOrd b && recIndex a / g == recIndex b / g && recNum b < 2 ^ 23

/-- The idle context of a tile that may take a record. -/
def State.freeContext (s : State) (site : Nat) (p : BitVec 4) (r : RecWords) : Option Src :=
  ([0, 1, 2].map (Src.mk site)).find? fun c => (s.getCtx c).idle && s.mayTake c p r

/-- The members of a gang queued are all that have not ended: g of them, or of one once started all those saved, no other being at work (R264). -/
def State.gangWhole (s : State) (p : BitVec 4) (g : Nat) (ms : List RecWords) : Bool :=
  ms.length == g || (ms.all recSaved && !(s.contexts.any fun c => match (s.getCtx c).task with
    | some t => t.part == p && c.cid != 3 && ms.any fun r => sameGang g r t.words
    | none => false))

/-- The contexts on which the queued members of a gang can start together at base `b`: one for each, with its record. -/
def State.gangPlaces (s : State) (p : BitVec 4) (b g : Nat) (ms : List RecWords) : Option (List (Src × RecWords)) :=
  if !s.gangWhole p g ms || g = 0 || b % g != 0 then none
  else ms.mapM fun r =>
    match s.siteOf (b + recIndex r % g) with
    | some site => (s.freeContext site p r).map fun c => (c, r)
    | none => none

/-- The first queued gang of a partition that can start at base `b`, highest class first; aging may have parted its members (R255). -/
def State.gangAt (s : State) (p : BitVec 4) (b : Nat) : Option (List (Src × RecWords)) :=
  let x := s.part p
  let q := ([3, 2, 1, 0].flatMap x.queue).filter fun r => recGang r && !x.alone r
  q.findSome? fun r => s.gangPlaces p b (s.gangSize r) (q.filter (sameGang (s.gangSize r) r))

/-- GANG_PLACEMENT (R264): every member gets its context before any issues a bundle. A gang takes no part in the choice by deficit, and a
deficit below its size becomes 0 (log 86). -/
def execGangPlacement (p : BitVec 4) (b : Nat) (s : State) : Host.Outcome State Fault Refusal :=
  if 272 ≤ b then .next s
  else
    let s := s.refill p
    match s.gangAt p b with
    | none => .next s
    | some ms =>
      let x := s.part p
      let s := (s.setPart p { x with deficit := x.deficit - ms.length }).setQueues p
        (x.queues.map fun q => q.filter fun r => !(ms.any fun m => m.2 == r))
      let s := ms.foldl (fun s m => s.ageQueues p (recClass m.2)) s
      .next (ms.foldl (fun s m => s.give m.1 p m.2 b) s)

/-! ## Cancellation (R258) -/

/-- CANCEL_COUNTER (R258). -/
def execCancelCounter (p : BitVec 4) (level i : Nat) (s : State) : Host.Outcome State Fault Refusal :=
  if level = 0 || 4 < level || 4096 ≤ i then .next s
  else
    let w := s.counter p level i
    let s := if ccState w = 1 || ccState w = 2 then s.setCounter p level i (ccWord 2 (w.getLsbD 61) (ccFailed w) (ccOut w))
      else s.setCounter p level i (ccWord 3 true (ccFailed w) 0)
    let hit (r : RecWords) : Bool := recCounter r level == i
    let s := s.refill p
    let x := s.part p
    let gone := x.queues.toList.flatMap fun q => q.filter hit
    let s := s.setQueues p (x.queues.map fun q => q.filter fun r => !hit r)
    let s := gone.foldl (fun (s : State) r => s.endRecord p r false) s
    let running := s.contexts.filter fun c => match (s.getCtx c).task with
      | some t => t.part == p && hit t.words && (s.getCtx c).ending.isNone && c.cid != 3
      | none => false
    .next (running.foldl (fun s c => s.postTrap c (.cancel level)) s).pruneLaunches

/-- CCRD_SERVE (R263): the entry as it stands goes back to the context. -/
def execCcrdServe (c : Src) (id : Nat) (p : BitVec 4) (level i : Nat) (s : State) : Host.Outcome State Fault Refusal :=
  if 288 ≤ c.site || level = 0 || 4 < level || 4096 ≤ i then .next s
  else .next (s.send (answerWork ⟨c, id, [s.counter p level i], false, 0⟩))

/-- JOIN_DECREMENT (R262): the count falls by one at its home; at 0 the continuation is pushed. A count of 0 refuses. -/
def execJoinDecrement (c : Src) (r : Req) (s : State) : Host.Outcome State Fault Refusal :=
  if 288 ≤ c.site then .next s
  else
    let n := s.word r.home r.off 8
    let refused := (r.home == .dram && s.frameRefuses r.off r.part r.src.cid r.expE) || !s.reaches r.part r.home || n == 0
    if refused then .next (((if s.reaches r.part r.home then s.asked r.home else s).refuse c r.part r.addr (homeScope c r.home) 1).send (ackWork c))
    else
      let s := (s.asked r.home).homeWrite r.home r.off (leBytes 8 (n - 1)) 0 (s.homePoison r.home r.off 8)
      let rank := match r.body with | .rmw _ _ d _ _ _ _ _ _ _ => d.toNat | _ => 0
      let s := if n = 1 then s.send ⟨c, .seq, false, false, false, .taskPush c (stampRecord rank r.part (s.recordAt r.home (r.off + 64)))⟩ else s
      .next (s.send (ackWork c))

/-! ## The end of a task (R259, R386) -/

/-- The digests that the end of a task reads or writes go over a link that is being re-keyed (R348). -/
def State.digestWaits (s : State) (c : Src) : Bool :=
  match (s.getCtx c).task with
  | none => false
  | some t =>
    let l := s.launch? (recOrd t.words)
    t.keeps && (s.slotRekeys t.part t.words[7] || l.any fun l => s.slotRekeys t.part l.slots || s.slotRekeys t.part (l.slots + BitVec.ofNat 64 (8 * l.g)))

/-- The end of a context's task awaits something: a result that has not arrived, a copy, an effect still under way (R259 steps 1 and 2), or a link
for its digest. -/
def State.endWaits (s : State) (c : Src) : Bool :=
  s.digestWaits c ||
  ((s.getCtx c).pend.any fun p => p.held.isNone) || (s.getTile c.site).jobs.any (fun j => j.cid == c.cid && !j.suspended)
    || (s.getTile c.site).chunks.any (·.1 == c.cid) || s.work.any fun w => w.src == c && w.dst != .context c

/-- The verdicts of Table 19.1 as their report shows them; 0 reports the mismatch that starts the re-execution (log 13). -/
def verdictReport (s : State) (c : Src) (verdict : Nat) (slot d : Word) : State := s.report c 0x05 (BitVec.ofNat 64 verdict) slot d

/-- A task that has ended leaves its context idle and its counters lowered. -/
def State.leave (s : State) (c : Src) (t : Task) (count : Option Bool) : State :=
  let s := if c.cid = 3 then s else s.endLocks t.part t.rank
  let s := match count with | some failed => s.endCount t.part t.words failed | none => s
  let s := s.modCtx c fun x => { x with
    task := none, ending := none, frozen := none, holds := [], monitor := none, woken := [], chain := none, traps := [], ih := false, heldBit := false
    preempt := false, yieldMark := false, safe := false, refusals := [], saved := [], savedBlk := none, closings := [], flight := []
    pend := [], empties := 0, engine := Engine.reset, fetched := [], bankLeft := 0 }
  s.pruneLaunches

/-- The verify rules at the end of a task with digest D (R386). -/
def State.verify (s : State) (c : Src) (t : Task) : State :=
  let slot := t.words[7]
  let (s, rf) := s.globalRead t.part slot
  match t.again with
  | none =>
    if t.digest = rf then s.leave c t (some false)
    else
      let s := verdictReport s c 0 slot t.digest
      let r := recSetClass t.first 3
      let x := s.part t.part
      let s := s.setPart t.part { x with reruns := x.reruns ++ [⟨recAge r, c.site, t.digest⟩] }
      -- its launch goes on with the record queued anew
      (s.setQueue t.part 3 (r :: (s.part t.part).queue 3)).leave c t none
  | some (site, d) =>
    if t.digest = rf then ((verdictReport s c 1 slot t.digest).charge site false).leave c t (some false)
    else if t.digest = d then (((verdictReport s c 2 slot t.digest).putGlobal t.part slot d)).leave c t (some false)
    else (verdictReport s c 3 slot t.digest).leave c t (some true)

/-- The end of a context's task once nothing is awaited (R257, R259, R384, R387): suspended copies are abandoned (log 14), the digest is
written or compared, locks are released, counters are lowered, and the context is idle. Firmware of a custodian is no task of a launch. -/
def State.finish (s : State) (c : Src) : State :=
  let x := s.getCtx c
  match x.task, x.ending with
  | some t, some e =>
    if c.cid = 3 then (s.settleCopies c true).leave c t none else
    let s := s.settleCopies c true
    let det := ((s.launch? (recOrd t.words)).map (·.det)).getD 0
    match e with
    | .done =>
      if t.keeps && det = 2 then s.verify c t
      else (if t.keeps then s.putGlobal t.part t.words[7] t.digest else s).leave c t (some false)
    | .failed => s.leave c t (some true)
    | .stopped => s.leave c t none
  | _, _ => s

/-! ## Pre-emption (R265, R266) -/

/-- The gang-mates of a context's task: every context that runs a member of its gang, itself included (R264). -/
def State.gangMates (s : State) (c : Src) : List Src :=
  match (s.getCtx c).task with
  | none => []
  | some t =>
    if recGang t.words then
      let g := ((s.launch? (recOrd t.words)).map (·.gang)).getD 1
      s.contexts.filter fun d => match (s.getCtx d).task with
        | some u => u.part == t.part && sameGang g t.words u.words
        | none => false
    else [c]

/-- A context stands at a safe point at which it can be saved (R39, R121, R244, R265, R282, R289). -/
def State.savable (s : State) (c : Src) : Bool :=
  let x := s.getCtx c
  x.task.isSome && x.ending.isNone && x.safe && x.cur.nb == 0 && x.closings.isEmpty && x.empties == 0 && !x.ih && x.chain.isNone && !x.busy
    && x.traps.isEmpty && x.comm.defer.isEmpty && !s.endWaits c && !((s.getTile c.site).jobs.any fun j => j.cid == c.cid)

/-- The free areas of a partition's save pool. -/
def Partition.freeAreas (x : Partition) : List Nat :=
  (List.range (min ((x.word 12).extractLsb' 0 32).toNat (x.saves.length + 16))).filter fun k => !x.saves.contains k

/-- The answers that have arrived and are still held (R35) written: at a save the results awaited are those that have not arrived (R39, log 34). -/
def Ctx.flushHeld (c : Ctx) : Ctx :=
  c.pend.foldl (fun c p => match p.held with | some a => c.answered p a | none => c) c

/-- What a context's save keeps beside its area (log 34). -/
def Ctx.keeps (x : Ctx) (first : RecWords) (site : Nat) : Kept :=
  ⟨first, site, x.cur.entryRegs, x.cur.carry.map (fun f => { f with blk := 0 }), x.cur.early, x.cur.toCome.map fun p => { p with blk := 0 }⟩

/-- A context's task saved into area `k` of its partition's pool, its record pushed at the head of its class queue, be that full too (log 86),
and the context freed. A frame of the area that the partition no longer owns refuses the writes (R203, R265). -/
def State.saveInto (s : State) (c : Src) (k : Nat) : State :=
  let x := (s.getCtx c).flushHeld
  match x.task with
  | none => s
  | some t =>
    let p := s.part t.part
    let a := (p.word 11).toNat + saveAreaSize * k
    let s := if s.areaOwned t.part a x.saveBytes.length then s.homeWrite .dram a x.saveBytes 0 false
      else s.logError t.part (BitVec.ofNat 64 a) 15
    let r := ((t.words.set 0 x.pc).set 1 (BitVec.ofNat 64 a)).set 5 (t.words[5] ||| 0x0000010000000000)
    let s := s.setPart t.part { s.part t.part with saves := k :: p.saves, kept := x.keeps t.first c.site :: p.kept }
    let cl := recClass r
    let s := s.setQueue t.part cl (r :: (s.part t.part).queue cl)
    let s := match t.again with
      | some (site, d) => s.setPart t.part { s.part t.part with reruns := ⟨t.rank, site, d⟩ :: (s.part t.part).reruns }
      | none => s
    s.modCtx c fun x => { x.resume with
      task := none, preempt := false, yieldMark := false, safe := false, bankLeft := 0, traps := [], heldBit := false, pend := [] }

/-- PREEMPTION (R264, R265): a task asked to leave is saved at its safe point, with every member of its gang; it waits for a save area. -/
def execPreemption (c : Src) (s : State) : Host.Outcome State Fault Refusal :=
  if 288 ≤ c.site || 3 ≤ c.cid then .next s
  else
    let x := s.getCtx c
    let ms := s.gangMates c
    match x.task with
    | none => .next s
    | some t =>
      let areas := (s.part t.part).freeAreas
      if x.preempt && ms.all s.savable && ms.length ≤ areas.length then
        .next ((ms.zip areas).foldl (fun s m => s.saveInto m.1 m.2) s)
      else .next s

/-- A yield mark at a safe point (R263): cleared, and the task asked to leave if a record of equal or higher class that the tile may take is queued. -/
def State.yieldPoint (s : State) (c : Src) : State :=
  let x := s.getCtx c
  match x.task with
  | some t =>
    if x.yieldMark && x.safe then
      let better := [0, 1, 2, 3].any fun k => recClass t.words ≤ k && ((s.part t.part).queue k).any fun r => s.mayTake c t.part r
      s.setCtx c { x with yieldMark := false, preempt := x.preempt || better }
    else s
  | none => s

end Sys2Proof.Machine
end

