-- ==== Sys2Proof/Machine/Queues.lean ====
section
/-! DEFINITION. Host command queues and their packets (12_task_queues.md R267 to R270, 10_memories.md R204, 19_audit_counters.md R387). -/

namespace Sys2Proof.Machine

/-! ## Queues (R267) -/

/-- A queue that system software has not configured. -/
def HostQueue.unset : HostQueue := ⟨false, 0, 0, 0, 0, 0, false, [], none, [], none⟩

/-- A command queue of a partition. -/
def State.queue (s : State) (p : BitVec 4) (q : Nat) : HostQueue :=
  match (s.part p).hq.find? (·.1 = q) with
  | some (_, x) => x
  | none => HostQueue.unset

/-- Writing a command queue. -/
def State.setHostQueue (s : State) (p : BitVec 4) (q : Nat) (x : HostQueue) : State :=
  let y := s.part p
  s.setPart p { y with hq := (q, x) :: y.hq.filter (·.1 != q) }

/-- A place of a queue's ring, buffer or signal, under the PASID of its configuration (R340). -/
def State.queuePlace (s : State) (p : BitVec 4) (q : Nat) (va : Word) (n : Need) : Option (Home × Nat) :=
  match s.translateUnder 288 (s.queue p q).pasid p va n with
  | .ok pl => if s.placeRefuses pl p 0 then none else some (pl.home, pl.off)
  | _ => none

/-- A 64-byte packet read in one access; none where it cannot be read. -/
def State.packetAt (s : State) (p : BitVec 4) (q : Nat) (va : Word) : Option RecWords :=
  (s.queuePlace p q va .read).map fun x => s.recordAt x.1 x.2

/-- The address of the packet that a queue executes next: of the INDIRECT at its head, or at its head (R267, R269). -/
def HostQueue.next (x : HostQueue) : Word :=
  match x.indirect with
  | some (a, _) => a
  | none => x.base + BitVec.ofNat 64 (64 * x.head)

/-- The packet that a queue executes next. -/
def State.headPacket (s : State) (p : BitVec 4) (q : Nat) : Option RecWords := s.packetAt p q (s.queue p q).next

/-- A place of a queue stands at a peer whose link is being re-keyed: the access waits (R348). -/
def State.queueRekeys (s : State) (p : BitVec 4) (q : Nat) (e : Word × Need) : Bool :=
  match s.queuePlace p q e.1 e.2 with
  | some (h, _) => s.rekeying h
  | none => false

/-- An access of a queue sent, and answered (R348). -/
def State.queueAsked (s : State) (p : BitVec 4) (q : Nat) (e : Word × Need) : State :=
  match s.queuePlace p q e.1 e.2 with
  | some (h, _) => s.asked h
  | none => s

/-- The packets of a buffer from an address up to the end of its 4 KiB window, as they stand when they are prefetched (R269). -/
def State.prefetch (s : State) (p : BitVec 4) (q : Nat) (a : Word) (n : Nat) : List RecWords :=
  (((List.range (min n (64 - a.toNat % 4096 / 64))).map fun k => s.packetAt p q (a + BitVec.ofNat 64 (64 * k))).takeWhile (·.isSome)).filterMap id

/-- The head register past the packet just started, or past one packet of an INDIRECT. -/
def HostQueue.advance (x : HostQueue) : HostQueue :=
  match x.indirect with
  | some (a, n) =>
    if 1 < n then { x with indirect := some (a + 64, n - 1), window := x.window.drop 1 }
    else { x with indirect := none, window := [], head := (x.head + 1) % x.size }
  | none => { x with head := (x.head + 1) % x.size }

/-- A queue past the packet just started, with the next window of its INDIRECT prefetched where that packet was its window's last. -/
def State.advanced (s : State) (p : BitVec 4) (q : Nat) : HostQueue :=
  let y := (s.queue p q).advance
  match y.indirect with
  | some (a, n) => if a.toNat % 4096 = 0 then { y with window := s.prefetch p q a n } else y
  | none => y

/-- A queue halted at its head packet, and the halt logged (R268). -/
def State.haltQueue (s : State) (p : BitVec 4) (q : Nat) : State :=
  let x := s.queue p q
  (s.setHostQueue p q { x with halted := true }).logError p (x.base + BitVec.ofNat 64 (64 * x.head)) 8

/-! ## Packets (R268, Table 12.5) -/

/-- The kind of a packet. -/
def pktKind (w : RecWords) : Nat := (w[0].extractLsb' 0 8).toNat
/-- The barrier bit. -/
def pktBarrier (w : RecWords) : Bool := w[0].getLsbD 8

/-- Words from `i` on are zero. -/
def zeroFrom (w : RecWords) (i : Nat) : Bool := (w.toList.drop i).all (· == 0)

/-- Scope codes of Table 4.14. -/
def scopeOk (c : BitVec 3) : Bool := (Scope.ofCode c).isSome

/-- A packet is of a known kind, and its reserved bits are zero; fields outside their stated ranges count as malformed (log 15). -/
def pktOk (w : RecWords) : Bool :=
  w[0].extractLsb' 9 7 == 0 && match pktKind w with
    | 1 => w[0].extractLsb' 29 3 == 0 && w[5].extractLsb' 40 24 == 0 && w[6].extractLsb' 48 16 == 0
    | 2 => w[0].extractLsb' 16 48 == 0 && w[3].extractLsb' 7 57 == 0 && w[3] != 0 && w[3].toNat ≤ 64 && zeroFrom w 4
    | 3 => w[0].extractLsb' 20 44 == 0 && scopeOk (w[0].extractLsb' 16 3) && w[1].extractLsb' 0 3 == 0 && zeroFrom w 3
    | 4 => w[0].extractLsb' 17 47 == 0 && w[1].extractLsb' 0 3 == 0 && zeroFrom w 3
    | 5 => w[0].extractLsb' 16 48 == 0 && w[1].extractLsb' 0 6 == 0 && w[2].extractLsb' 16 48 == 0 && zeroFrom w 3
    | 6 => w[0].extractLsb' 16 48 == 0 && zeroFrom w 2
    | _ => false

/-- The places that executing a packet accesses beside its own: a GRAPH's two arrays, a signal, and an INDIRECT's buffer (Table 12.5). -/
def pktPlaces (w : RecWords) : List (Word × Need) :=
  match pktKind w with
  | 2 => (List.range (min 64 w[3].toNat)).flatMap fun k => [(w[1] + BitVec.ofNat 64 (64 * k), .read), (w[2] + BitVec.ofNat 64 (8 * k), .read)]
  | 3 => [(w[1], if w[0].getLsbD 19 then .both else .write)]
  | 4 => [(w[1], .read)]
  | _ => []

/-- What a queue accesses as it executes the packet at its head. -/
def HostQueue.places (x : HostQueue) (w : RecWords) : List (Word × Need) := (x.next, .read) :: pktPlaces w

/-- A packet is executed behind the accesses that it takes (R348). -/
def State.fetched (s : State) (p : BitVec 4) (q : Nat) (w : RecWords) : State := ((s.queue p q).places w).foldl (fun s e => s.queueAsked p q e) s

/-- A write or an atomic of a partition is still under way, or one of its copies (R204). -/
def State.writesOut (s : State) (p : BitVec 4) : Bool :=
  (s.work.any fun w => match w.ev with
    | .remoteAccessArrival r => r.part == p && (match r.body with | .load _ => false | _ => true)
    | .joinDecrement _ r => r.part == p
    | _ => false)
  || (s.who.site :: s.parkedTile.map (·.1)).any fun site => (s.getTile site).jobs.any fun j => !j.suspended && j.ph.part == p

/-- Nothing that a queue has started is unfinished. -/
def HostQueue.quiet (x : HostQueue) : Bool := x.running.isEmpty && x.waiting.isNone

/-- A queue may start the packet at its head (R267, R269): a CKPT behind every earlier packet and write of its partition (R204), and none over a link
that is being re-keyed (R348). -/
def State.mayStart (s : State) (p : BitVec 4) (q : Nat) (w : RecWords) : Bool :=
  let x := s.queue p q
  x.configured && !x.halted && x.waiting.isNone && (s.part p).valid && !(s.part p).stopped && (x.indirect.isSome || x.head != x.tail)
    && (!pktBarrier w || x.running.isEmpty)
    && (pktKind w != 3 || x.running.isEmpty)
    && (pktKind w != 6 || ((s.part p).hq.all fun y => y.2.quiet) && !s.writesOut p)
    && !((x.places w).any fun e => s.queueRekeys p q e)

/-- A launch of a GRAPH is not started and its predecessors have completed (R269). -/
def GraphEnt.ready (es : List GraphEnt) (e : GraphEnt) : Bool := !e.started && es.zipIdx.all fun f => !e.mask.getLsbD f.2 || f.1.done

/-- The launches of running GRAPHs whose predecessors have completed. -/
def HostQueue.graphReady (x : HostQueue) : List RecWords :=
  x.running.flatMap fun r => match r with
    | .graph es => (es.filter (GraphEnt.ready es)).map (·.packet)
    | .launch _ => []

/-- The event that executes a packet; a packet of unknown kind halts its queue as a malformed LAUNCH does. -/
def pktEvent (p : BitVec 4) (q : Nat) (w : RecWords) : Instr :=
  match pktKind w with
  | 2 => .graph p.toNat q w
  | 3 => .release p.toNat q w
  | 4 => .wait p.toNat q w
  | 5 => .indirect p.toNat q w
  | 6 => .ckpt p.toNat q w
  | _ => .launch p.toNat q w

/-- What a queue does next. A halted queue starts no further launch of a GRAPH that it runs (log 94). -/
def State.queueEvent (s : State) (p : BitVec 4) (q : Nat) : Option Instr :=
  let x := s.queue p q
  match x.graphReady with
  | w :: _ => if x.halted || (s.part p).stopped then none else some (.launch p.toNat q w)
  | [] =>
    if x.waiting.isSome then some (.waitConditionMet p.toNat q)
    else
      let w := (s.headPacket p q).getD (Vector.replicate 8 0)
      if s.mayStart p q w then some (pktEvent p q w) else none

/-- The packet named by an event is the one that its queue may start: as it stands, or within an INDIRECT as it was prefetched (R269). One of
unknown kind stands under LAUNCH. -/
def State.starts (s : State) (p : BitVec 4) (q kind : Nat) (w : RecWords) : Bool :=
  ((s.headPacket p q).getD (Vector.replicate 8 0) == w || (s.queue p q).window.head? == some w) && s.mayStart p q w 
    && (pktKind w == kind || kind == 1 && !(2 ≤ pktKind w && pktKind w ≤ 6))

/-! ## LAUNCH (R269) -/

/-- Task i of a LAUNCH. -/
def launchRecord (p : BitVec 4) (ord : Nat) (w : RecWords) (i : Nat) : RecWords :=
  let s := (w[3].extractLsb' 32 32).toNat
  let gang := w[0].extractLsb' 24 5 != 0
  #v[w[1], w[2] + BitVec.ofNat 64 (i * s), 0, w[0].extractLsb' 32 32 ++ BitVec.ofNat 32 i,
    (0xFFF : BitVec 12) ++ w[0].extractLsb' 20 4 ++ BitVec.ofNat 48 (ord * 2 ^ 24 + i),
    (0 : BitVec 22) ++ BitVec.ofBool gang ++ (0 : BitVec 1) ++ w[5].extractLsb' 0 40,
    w[6].extractLsb' 0 48 ++ (0 : BitVec 12) ++ p,
    if w[7] = 0 then 0 else w[7] + BitVec.ofNat 64 (8 * i)]

/-- The grounds on which a LAUNCH is refused (R269), in that rule's order, with their reasons in the error log (log 9). -/
def State.launchGrounds (s : State) (p : BitVec 4) (w : RecWords) : List (Bool × ErrReason) :=
  let g := (w[3].extractLsb' 0 32).toNat
  let k := (w[0].extractLsb' 24 5).toNat
  [(!poolOk w[4], 16), (!s.listedEntry p w[1], 17), (g = 0 || 2 ^ 23 < g, 18), (!([0, 2, 4, 8, 16].contains k) || (k != 0 && g % k != 0), 19),
    (s.cancelling p (launchRecord p 0 w 0), 20), (ccState (s.counter p 1 (pktCounter w)) == 1, 21), ((s.launch? s.nextOrd).isSome, 22),
    (w[0].getLsbD 17, 23), (w[0].extractLsb' 18 2 == 3, 24), ((w[0].extractLsb' 20 4).toNat > 3, 25)]

/-- A LAUNCH is refused. -/
def State.launchRefused (s : State) (p : BitVec 4) (w : RecWords) : Bool := (s.launchGrounds p w).any (·.1)

/-- A refused LAUNCH: logged with each ground, and its launch counter complete with FAILED = G if it was idle or complete. -/
def State.refuseLaunch (s : State) (p : BitVec 4) (w : RecWords) : State :=
  let i := pktCounter w
  let s := (s.launchGrounds p w).foldl (fun s e => if e.1 then s.logError p w[1] e.2 else s) s
  let st := ccState (s.counter p 1 i)
  if st = 0 || st = 3 then s.setCounter p 1 i (ccWord 3 false (w[3].extractLsb' 0 32).toNat 0) else s

/-- An accepted LAUNCH: its ordinal, its launch and its G pushes. One whose pushes were all refused completes at once. -/
def State.acceptLaunch (s : State) (p : BitVec 4) (w : RecWords) : State :=
  let ord := s.nextOrd
  let g := (w[3].extractLsb' 0 32).toNat
  let c (l : Nat) : Nat := recCounter (launchRecord p ord w 0) l
  let l : Launch := ⟨ord, p, w[4], g, (w[0].extractLsb' 24 5).toNat, 2 ^ 23, w[0].extractLsb' 18 2, w[0].getLsbD 16, w[7], #v[c 1, c 2, c 3, c 4], false⟩
  let s := { s with launches := s.launches ++ [l], nextOrd := (ord + 1) % 2 ^ 24 }
  let s := (List.range g).foldl (fun s i => (s.pushRecord p (launchRecord p ord w i) false).1) s
  if ccOut (s.counter p 1 (c 1)) = 0 then s.completeCounter p 1 (c 1) false else s

/-- The first ready entry of a GRAPH that holds a packet is marked started, and done if its LAUNCH was refused. -/
def Run.start (w : RecWords) (done : Bool) : List Run → List Run
  | [] => []
  | .launch c :: r => .launch c :: Run.start w done r
  | .graph es :: r =>
    match es.zipIdx.find? fun e => GraphEnt.ready es e.1 && e.1.packet == w with
    | none => .graph es :: Run.start w done r
    | some (e, i) =>
      let es := es.set i { e with started := true, done := done }
      if es.all (·.done) then r else .graph es :: r

/-- LAUNCH (R269): of a running GRAPH, or at its queue's head. -/
def execLaunch (p : Nat) (q : Nat) (w : RecWords) (s : State) : Host.Outcome State Fault Refusal :=
  if 16 ≤ p || 64 ≤ q then .next s
  else
    let pn := BitVec.ofNat 4 p
    let x := s.queue pn q
    if x.graphReady.contains w && !x.halted && !(s.part pn).stopped then
      let refused := s.launchRefused pn w
      let s := s.setHostQueue pn q { x with running := Run.start w refused x.running }
      .next (if refused then s.refuseLaunch pn w else s.acceptLaunch pn w)
    else if !s.starts pn q 1 w then .next s
    else
    let s := s.fetched pn q w
    if !pktOk w || pktKind w != 1 then .next (s.haltQueue pn q)
    else if s.launchRefused pn w then .next ((s.setHostQueue pn q (s.advanced pn q)).refuseLaunch pn w)
    else
      let y := s.advanced pn q
      .next ((s.setHostQueue pn q { y with running := y.running ++ [.launch (pktCounter w)] }).acceptLaunch pn w)

/-! ## GRAPH (R269) -/

/-- Nodes left after `fuel` rounds of removing those without predecessors among the rest. -/
def stripGraph (masks : List Word) : Nat → List Nat → List Nat
  | 0, left => left
  | fuel + 1, left => stripGraph masks fuel (left.filter fun k => left.any fun j => (masks.getD k 0).getLsbD j)

/-- The entries of a GRAPH; none where an array cannot be read, a packet is not a well-formed LAUNCH, a mask names a launch from n
up, or the masks form a cycle. The barrier bit of a LAUNCH in the array is not looked at: the masks alone order its launches (log 94). -/
def State.graphEntries (s : State) (p : BitVec 4) (q : Nat) (w : RecWords) : Option (List GraphEnt) :=
  let n := w[3].toNat
  let ps := (List.range n).filterMap fun k => s.packetAt p q (w[1] + BitVec.ofNat 64 (64 * k))
  let ms := (List.range n).filterMap fun k =>
    (s.queuePlace p q (w[2] + BitVec.ofNat 64 (8 * k)) .read).map fun x => BitVec.ofNat 64 (s.word x.1 x.2 8)
  if ps.length = n && ms.length = n && ps.all (fun r => pktOk r && pktKind r == 1) && ms.all (fun m => n = 64 || m.toNat < 2 ^ n)
      && (stripGraph ms n (List.range n)).isEmpty then
    some (List.zipWith (fun r m => ⟨r, m, false, false⟩) ps ms)
  else none

/-- GRAPH (R269). -/
def execGraph (p : Nat) (q : Nat) (w : RecWords) (s : State) : Host.Outcome State Fault Refusal :=
  if 16 ≤ p || 64 ≤ q then .next s
  else
    let pn := BitVec.ofNat 4 p
    if !s.starts pn q 2 w then .next s
    else
    let s := s.fetched pn q w
    if !pktOk w then .next (s.haltQueue pn q)
    else match s.graphEntries pn q w with
      | none => .next (s.haltQueue pn q)
      | some es =>
        let y := s.advanced pn q
        .next (s.setHostQueue pn q { y with running := y.running ++ [.graph es] })

/-! ## RELEASE and WAIT (R269) -/

/-- A signal's value. -/
def State.signal (s : State) (p : BitVec 4) (q : Nat) (va : Word) : Option Word :=
  (s.queuePlace p q va .read).map fun x => BitVec.ofNat 64 (s.word x.1 x.2 8)

/-- RELEASE (R269): every earlier packet of its queue has completed, and with it every write of its tasks (R259). A signal that is refused or does
not translate halts the queue (log 86). -/
def execRelease (p : Nat) (q : Nat) (w : RecWords) (s : State) : Host.Outcome State Fault Refusal :=
  if 16 ≤ p || 64 ≤ q then .next s
  else
    let pn := BitVec.ofNat 4 p
    if !s.starts pn q 3 w then .next s
    else
    let s := s.fetched pn q w
    if !pktOk w then .next (s.haltQueue pn q)
    else match s.queuePlace pn q w[1] (if w[0].getLsbD 19 then .both else .write) with
      | none => .next (s.haltQueue pn q)
      | some (h, off) =>
        let v := if w[0].getLsbD 19 then BitVec.ofNat 64 (s.word h off 8) + w[2] else w[2]
        let y := s.advanced pn q
        let s := s.homeWrite h off (leBytes 8 v.toNat) 0 (w[0].getLsbD 19 && s.homePoison h off 8)
        .next (s.setHostQueue pn q y)

/-- WAIT (R269): it registers and holds its queue. A signal that is refused or does not translate halts the queue (log 86). -/
def execWait (p : Nat) (q : Nat) (w : RecWords) (s : State) : Host.Outcome State Fault Refusal :=
  if 16 ≤ p || 64 ≤ q then .next s
  else
    let pn := BitVec.ofNat 4 p
    if !s.starts pn q 4 w then .next s
    else
    let s := s.fetched pn q w
    if !pktOk w || (s.signal pn q w[1]).isNone then .next (s.haltQueue pn q)
    else .next (s.setHostQueue pn q { s.queue pn q with waiting := some w })

/-- The condition of a registered WAIT holds. -/
def State.waitMet (s : State) (p : BitVec 4) (q : Nat) : Bool :=
  match (s.queue p q).waiting with
  | none => false
  | some w => !s.queueRekeys p q (w[1], .read) && match s.signal p q w[1] with
    | none => false
    | some v => if w[0].getLsbD 16 then w[2].toNat ≤ v.toNat else v == w[2]

/-- WAIT_CONDITION_MET (R269): the queue goes on. -/
def execWaitConditionMet (p : Nat) (q : Nat) (s : State) : Host.Outcome State Fault Refusal :=
  if 16 ≤ p || 64 ≤ q then .next s
  else
    let pn := BitVec.ofNat 4 p
    if s.waitMet pn q then
      let t := match (s.queue pn q).waiting with
        | some w => s.queueAsked pn q (w[1], .read)
        | none => s
      .next (t.setHostQueue pn q { t.advanced pn q with waiting := none })
    else .next s

/-! ## INDIRECT and CKPT (R269) -/

/-- INDIRECT (R269): its buffer's packets execute in its place; a count field of 0 stands for 65,536 (log 15). One inside a buffer halts. -/
def execIndirect (p : Nat) (q : Nat) (w : RecWords) (s : State) : Host.Outcome State Fault Refusal :=
  if 16 ≤ p || 64 ≤ q then .next s
  else
    let pn := BitVec.ofNat 4 p
    let x := s.queue pn q
    if !s.starts pn q 5 w then .next s
    else
    let s := s.fetched pn q w
    if !pktOk w || x.indirect.isSome then .next (s.haltQueue pn q)
    else
      let n := if w[2] = 0 then 65536 else w[2].toNat
      .next (s.setHostQueue pn q { x with indirect := some (w[1], n), window := s.prefetch pn q w[1] n })

/-- CKPT (R204, R269): the interval closes, the undo logs are emptied and the checkpoint is valid. -/
def execCkpt (p : Nat) (q : Nat) (w : RecWords) (s : State) : Host.Outcome State Fault Refusal :=
  if 16 ≤ p || 64 ≤ q then .next s
  else
    let pn := BitVec.ofNat 4 p
    if !s.starts pn q 6 w then .next s
    else
    let s := s.fetched pn q w
    if !pktOk w then .next (s.haltQueue pn q)
    else
      let s := s.setHostQueue pn q (s.advanced pn q)
      .next (s.setPart pn { s.part pn with undo := [], ckptValid := true, step := w[1] })

/-! ## The tail register, and abort tokens -/

/-- TAIL_REGISTER_WRITE (R22, R267): of a queue or partition not configured, or over an interface on which IDE is not established (R21), it is
discarded and logged. A value counts modulo the ring's size, and a tail at the head makes the ring empty (log 86). -/
def execTailRegisterWrite (p q : Nat) (v : Word) (s : State) : Host.Outcome State Fault Refusal :=
  if 16 ≤ p || 64 ≤ q then .next s
  else
    let pn := BitVec.ofNat 4 p
    let x := s.queue pn q
    if !(s.part pn).valid then .next { s with windowLog := s.windowLog ++ [BitVec.ofNat 64 (64 * p + q)] }
    else if !x.configured || !s.ideOn pn then .next (s.logError pn (BitVec.ofNat 64 (64 * p + q)) 9)
    else .next (s.setHostQueue pn q { x with tail := v.toNat % x.size })

/-- A peer's message can arrive: its link is up and is not being re-keyed (R348, R350). -/
def State.hears (s : State) (dev : Nat) : Bool := s.reaches 0 (.peerMem dev) && !s.rekeying (.peerMem dev)

/-- ABORT_TOKEN_RECEIVE (R387), over a link that is up: the partition stops as at a fault of its own, and its unwind step is the smallest known. -/
def execAbortTokenReceive (p : BitVec 4) (dev : Nat) (step : Word) (s : State) : Host.Outcome State Fault Refusal :=
  if 64 ≤ dev || !s.hears dev then .next s
  else
    let s := s.received (.peerMem dev)
    let x := s.part p
    let fresh := !x.stopped
    let s := if fresh then s.stopPartition p else s
    let s := s.sendTokens p
    let x := s.part p
    let s := s.setPart p { x with
      rollback := if fresh then false else x.rollback
      unwind := x.unwind.map fun u => if step.toNat < u.toNat then step else u }
    .next (if fresh then s.report ⟨0, 3⟩ 0x04 (p.setWidth 64) 1 0 else s)

end Sys2Proof.Machine
end

