-- ==== Sys2Proof/Machine/System.lean ====
section
/-! DEFINITION. System tables and the custodian's work: the mesh map, quarantine, translation caches, partitions, keys, links, resets
and the configuration window (01_device.md, 16_system_tables.md, 18_margin.md, 10_memories.md R202, R206). -/

namespace Sys2Proof.Machine

/-! ## The mesh map (R12, R13, R343) -/

/-- A site in state spare. -/
def State.isSpare (s : State) (site : Nat) : Bool := meshState (s.meshAt site) == 1

/-- The spare site to which a logical number moves (R13). -/
def State.spareFor (s : State) (site : Nat) : Option Nat :=
  let own := (List.range 288).find? fun t => s.isSpare t && siteDie t == siteDie site
  match own with
  | some t => some t
  | none => [0, 1, 2, 3].findSome? fun d => if d = siteDie site then none else (List.range 288).find? fun t => s.isSpare t && siteDie t == d

/-- An entry of the mesh map written. -/
def State.setMesh (s : State) (site : Nat) (e : BitVec 16) : State := { s with mesh := s.mesh.setIfInBounds site e }

/-- The phasers of a site copied to another with their waits (R353); the old site holds none of them any more. -/
def State.movePhasers (s : State) (a b : Nat) : State :=
  { s with phasers :=
      let stay := s.phasers.filter fun e => e.1 / 4096 != a && e.1 / 4096 != b
      (s.phasers.filter fun e => e.1 / 4096 == a).foldl (fun l e => clSet Phaser.reset l (phaserKey b (e.1 % 4096)) e.2) stay }

/-- The entries of a slice distance table of a logical number that a site carries (R200). -/
def State.writeDistances (s : State) (base l site : Nat) : State :=
  s.homeWrite .dram (base + 48 * l) ((List.range 24).flatMap fun k => leBytes 2 (Config.sliceDistance (24 * site + k)).toNat) 0 false

/-- A phaser message in local form, which names a phaser of its own site (R353). -/
def PhMsg.localTo (m : PhMsg) (site : Nat) : Bool := m.tile.isNone && m.dev == Config.device && m.site == site

/-- An event at a phaser of a site that its own tile has sent in local form. -/
def localEvent (site : Nat) (ev : Instr) : Bool :=
  match ev with
  | .phaserRegistration m .. | .phaserDrop m _ | .phaserSignal m | .phaserByteAddition m .. | .phaserErrorArrival m _ | .phaserWaitArrival m .. =>
    PhMsg.localTo m site
  | _ => false

/-- Nothing that counts at the phasers of a site in local form is under way: no message, and no copy that goes on (R353). -/
def State.quietPhasers (s : State) (site : Nat) : Bool :=
  !(s.work.any fun w => localEvent site w.ev)
    && (s.getTile site).jobs.all fun j => j.suspended || !j.cmd.counts || !PhMsg.localTo j.ph site

/-- The signals whose drains are over leave, each to the site that the mesh map names now (R344, R358, R437). -/
def State.sendSignals (s : State) : State :=
  { s with work := s.work.zipIdx.map fun e =>
      if e.1.isSignal && !heldByDrain (s.work.take e.2) e.1 then { s.routed e.1 with waits := false } else e.1 }

/-- The custodian firmware started on a site from its entry, unless it runs there or has ended its service (R22, R87, log 17). -/
def State.startCustodian (s : State) (entry : Word) (site : Nat) : State :=
  let c : Src := ⟨site, 3⟩
  let r : RecWords := (Vector.replicate 8 0).set 0 entry
  if (s.getCtx c).task.isSome || s.firmwareEnded then s
  else s.setCtx c ((s.getCtx c).begin ⟨r, r, 0, 0, false, none⟩ (Regs.start r 0 0) (codeAddr entry) 0)

/-- The logical number of a site moved to a spare, and the site left in state `st` (R13, R190, R200); what has left for the old site stays bound
for it (R437). The firmware of the old site's custodian
starts at the new one (log 17). A spare site has no number to move. -/
def State.moveLogical (s : State) (site st : Nat) : State :=
  let left : BitVec 16 := BitVec.ofNat 16 (st * 2 ^ 13)
  match s.logicalOf site with
  | none => s.setMesh site left
  | some l =>
    match s.spareFor site with
    | none => s.setMesh site left
    | some t =>
      let s := (s.sendSignals.movePhasers site t).setMesh site left
      let s := (s.setMesh t (BitVec.ofNat 16 l)).modTile t fun u => { u with curPart := none, curPool := none }
      let s := s.distTables.foldl (fun s b => s.writeDistances b l t) s
      match (s.getCtx ⟨site, 3⟩).task with
      | some k => s.startCustodian k.first[0] t
      | none => s

/-- No program context of a site holds a task, and nothing that its tile has sent to its own phasers is under way (R353). -/
def State.siteIdle (s : State) (site : Nat) : Bool :=
  ([0, 1, 2].all fun k => (s.getCtx ⟨site, k⟩).task.isNone) && s.quietPhasers site

/-- A site may leave the map: it retires or is quarantined, and its tasks have gone (R182, R377). A spare site is quarantined too. -/
def State.mayLeave (s : State) (site : Nat) (retiring : Bool) : Bool :=
  let t := s.getTile site
  ((s.logicalOf site).isSome || (s.isSpare site && !retiring)) && s.siteIdle site
    && (if retiring then t.retire == .retiring else t.retire == .active && t.level == 3)

/-- MESH_MAP_MOVE (R13, R182): the last step of a retirement. -/
def execMeshMapMove (site : Nat) (s : State) : Host.Outcome State Fault Refusal :=
  if 288 ≤ site then .next s
  else if s.mayLeave site true then .next ((s.moveLogical site 2).modTile site fun t => { t with retire := .retired })
  else .next s

/-- QUARANTINE_SITE (R377). -/
def execQuarantineSite (site : Nat) (s : State) : Host.Outcome State Fault Refusal :=
  if 288 ≤ site then .next s
  else if s.mayLeave site false then .next (s.moveLogical site 3) else .next s

/-- SIGNED_TEST_KERNEL_RESULT (R377, R389): in quarantine the site returns as a spare or is retired; elsewhere a failure acts as a
touchstone fault of context 3, which no job's account counts. No kernel runs before the root of trust has verified one (log 88). -/
def execSignedTestKernelResult (site : Nat) (pass : Bool) (s : State) : Host.Outcome State Fault Refusal :=
  if 288 ≤ site || !s.booted.any (2 ≤ ·) then .next s
  else if meshState (s.meshAt site) = 3 then
    if pass then
      let s := (s.setMesh site 0x2000).modTile site fun t =>
        { (t.writeMargin 0) with level := 0, rcount := 0, winCnt := 0, crossed := false, countCrossed := false }
      .next (s.modCtx ⟨site, 3⟩ fun c => c.patchMargin fun _ => 0)
    else .next ((s.setMesh site 0x4000).modTile site fun t => { t with retire := .retired })
  else if pass then .next s
  else
    let s := ((s.modTile site fun t => t.count 0x051 3 1).report ⟨site, 3⟩ 0x03 0 0 0).charge site false
    .next (s.modTile site fun t => { t with touches := t.touches + 1 })

/-! ## Margin events (R370, R374, R378, R379, R381) -/

/-- TRANSFER_CHARGE (R181): dropped unless the writer identity names an active site. -/
def execTransferCharge (site : Nat) (s : State) : Host.Outcome State Fault Refusal := .next (s.charge site true)

/-- MARGIN_REPLAY (R370 to R375): a detection in the site's present wall cycle. Behind its end, which has closed the window that it counts in, none
strikes in it any more (R382). -/
def execMarginReplay (site : Nat) (slot stage : BitVec 3) (b : BundleRef) (s : State) : Host.Outcome State Fault Refusal :=
  if 288 ≤ site || 4 < slot.toNat || !(s.getTile site).opened then .next s else .next (s.replay site slot stage b.ctx b.back)

/-- INJECTED_DETECTION (R378): in the bundle of the program context that issued last, once its count has been reached. -/
def execInjectedDetection (site : Nat) (s : State) : Host.Outcome State Fault Refusal :=
  if 288 ≤ site then .next s
  else
    let t := s.getTile site
    if t.injDue then .next (s.inject site (BitVec.ofNat 2 t.lastCtx)) else .next s

/-- REPLAY_WINDOW_CLOSE (R374): a window that has counted ctl.rwin closes with the wall cycle that ends it, behind what struck in that cycle (R382). -/
def execReplayWindowClose (site : Nat) (s : State) : Host.Outcome State Fault Refusal :=
  if 288 ≤ site then .next s
  else .next (if (s.getTile site).windowDue then (s.endCycle site).modTile site Tile.windowEnd else s)

/-- SWALLOWED_PULSE (R14, R379): the cluster's next pulse passes where it is a swallowed one; no counter of the cluster advances on it. The time-outs
that other clusters' routers reach with it close their rounds (R292). -/
def execSwallowedPulse (cl : Nat) (s : State) : Host.Outcome State Fault Refusal :=
  if 48 ≤ cl || !s.swallows cl then .next s else .next (s.pulse cl).closeDue

/-- AGEING_SAMPLE (R381): the frequency that a cluster's monitors measure. -/
def execAgeingSample (cl measured : Nat) (s : State) : Host.Outcome State Fault Refusal :=
  if 48 ≤ cl then .next s else .next (s.ageing cl measured)

/-! ## Device memory and translation (R202, R206, R270) -/

/-- PATROL_SCRUB (R202): one line read; a corrected error is counted, an uncorrectable one poisons the line. -/
def execPatrolScrub (line : Nat) (e : Ecc) (s : State) : Host.Outcome State Fault Refusal :=
  if 0xC000000000 ≤ 64 * line then .next s
  else match e with
    | .clean => .next s
    | .corrected =>
      let k := line / 4 % 8
      .next { s with stackErr := s.stackErr.setIfInBounds k (s.stackErr.toArray.getD k 0 + 1) }
    | .uncorrectable => .next (s.setUnit .dram (64 * line) true)

/-- A translation kept in a TLB of `n` entries; the oldest goes when it is full. -/
def State.keepTlb (s : State) (e : TlbEnt) (n : Nat) : State :=
  let same := s.tlb.filter fun x => x.at_ == e.at_
  let over_ := same.length + 1 - n
  let drop := same.take over_
  { s with tlb := (s.tlb.filter fun x => !drop.contains x) ++ [e] }

/-- PAGE_WALK_COMPLETE (R206, R338): a finished walk fills the micro-TLB of a site and the shared TLB of its hub; the response to one of a PASID that
is torn down is discarded (R270). -/
def execPageWalkComplete (site : Nat) (pasid : BitVec 20) (va : Word) (s : State) : Host.Outcome State Fault Refusal :=
  if 288 ≤ site || s.tearing.contains pasid then .next s
  else
    let p : BitVec 4 := (BitVec.ofNat 64 (s.word .dram (s.pasidBase + 16 * pasid.toNat) 8)).extractLsb' 1 4
    match s.leafOf site pasid p va with
    | none => .next s
    | some (leaf, b) =>
      let base := (va.setWidth 57).toNat / 2 ^ b * 2 ^ b
      let s := s.keepTlb ⟨site, pasid, base, b, leaf⟩ 64
      .next (s.keepTlb ⟨288 + siteDie site % 2, pasid, base, b, leaf⟩ 16384)

/-- The access that an event performs. -/
def eventAccess (ev : Instr) : Option Req :=
  match ev with
  | .remoteAccessArrival r | .joinDecrement _ r => some r
  | _ => none

/-- What the blocks of a context hold back until their commits. -/
def Ctx.unsent (c : Ctx) : List Work :=
  c.blocks.flatMap fun b => b.reqs ++ b.cmds.filterMap fun k => match k.op with | .send w => some w | _ => none

/-- Every access translated and not yet performed: under way, or held by its block (R206, R342). -/
def State.accesses (s : State) : List Req :=
  (s.work ++ s.contexts.flatMap fun c => (s.getCtx c).unsent).filterMap fun w => eventAccess w.ev

/-- The sites of the tile in focus and of those parked. -/
def State.tileSites (s : State) : List Nat := (s.who.site :: s.parkedTile.map (·.1)).dedup

/-- An access that used a translation of a PASID is still under way (R206, R270). -/
def State.pasidBusy (s : State) (pasid : BitVec 20) : Bool :=
  s.accesses.any fun r => (match r.home with | .dram | .host | .peerMem _ => true | _ => false) && (s.part r.part).pasid == pasid

/-- A translation of a PASID is outstanding (R270). -/
def State.pasidWalks (s : State) (pasid : BitVec 20) : Bool :=
  s.work.any fun w => match w.ev with | .pageWalkComplete _ q _ => q == pasid | _ => false

/-- An access to host memory is still under way (R341). -/
def State.hostBusy (s : State) : Bool := s.accesses.any fun r => r.home == .host

/-- A request of system software that waits for what is under way: it stands among the work until it may be served. -/
def State.later (s : State) (ev : Instr) : State := if s.work.any fun w => w.ev == ev then s else s.send (custodianWork 0 ev)

/-- The line-cache blocks that meet a condition are emptied, on every tile. -/
def State.emptyBlocks (s : State) (f : Nat → Nat → LineSlot → Bool) : State :=
  s.tileSites.foldl (fun s site => (List.range 64).foldl (fun s k =>
    let x := s.slot site k
    if x.st != .empty && f site k x then s.emptySlot site k else s) s) s

/-- A range of 57-bit addresses shares one with another. -/
def meets (a n b m : Nat) : Bool := decide (a < b + m) && decide (b < a + n)

/-- The bytes of a block. -/
def LineSlot.span (x : LineSlot) : Nat := 128 * max 1 x.lines

/-- What an invalidation removes: the TLB entries of a PASID that cover its range, and the line-cache blocks (R206). -/
def State.invalidate (s : State) (pasid : BitVec 20) (va len : Nat) : State :=
  let a := va % 2 ^ 57
  let s := s.emptyBlocks fun _ _ x => x.pasid == pasid && meets (x.base % 2 ^ 57) x.span a len
  { s with tlb := s.tlb.filter fun t => !(t.pasid == pasid && meets t.base (2 ^ t.size) a len) }

/-- TLB_INVALIDATION (R206): it completes once every access that used the old translation has performed. -/
def execTlbInvalidation (pasid : BitVec 20) (va len : Nat) (s : State) : Host.Outcome State Fault Refusal :=
  .next (if s.pasidBusy pasid then s.later (.tlbInvalidation pasid va len) else s.invalidate pasid va len)

/-- PASID_TEARDOWN (R270): it completes once no translation of the PASID is outstanding; responses that come meanwhile are discarded. -/
def execPasidTeardown (pasid : BitVec 20) (s : State) : Host.Outcome State Fault Refusal :=
  let t : State := { s with tearing := if s.tearing.contains pasid then s.tearing else s.tearing ++ [pasid] }
  .next (if s.pasidBusy pasid || s.pasidWalks pasid then t.later (.pasidTeardown pasid)
    else { t.invalidate pasid 0 (2 ^ 57) with tearing := s.tearing.filter (· != pasid) })

/-- The host bus pages from `page` on that a leaf's page reaches: an ATS invalidation covers it (R341). -/
def hostMeets (leaf : Word) (bits page pages : Nat) : Bool :=
  pteTarget leaf == 1 && meets (pteFrame leaf) (2 ^ bits) (4096 * page) (4096 * pages)

/-- The line-cache block in slot k holds bytes of some of those host pages; the custodian's sixteen slots are those of partition 0. -/
def State.blockOfHost (s : State) (site k : Nat) (x : LineSlot) (page pages : Nat) : Bool :=
  let p := if k < 48 then (s.getTile site).curPart.getD 0 else 0
  (List.range (x.span / 4096 + 2)).any fun i =>
    match s.leafOf site x.pasid p (BitVec.ofNat 64 (x.base + 4096 * i)) with
    | some (leaf, b) => hostMeets leaf b page pages
    | none => false

/-- An ATS invalidation of the host's IOMMU (R206, R341): as any invalidation, for the pages that reach those of the host. -/
def State.atsInvalidate (s : State) (page pages : Nat) : State :=
  let s := s.emptyBlocks fun site k x => s.blockOfHost site k x page pages
  { s with tlb := s.tlb.filter fun t => !hostMeets t.leaf t.size page pages }

/-- Copies or accesses of the present owner of a frame still land there (R342, R351): a system-owned frame is the custodian's. -/
def State.frameBusy (s : State) (frame : Nat) : Bool :=
  let o := (clGet 0xFF s.frames frame).toNat
  (s.accesses.any fun r => r.home == .dram && r.off / 2 ^ 21 == frame && (if o = 16 then r.src.cid == 3 else r.part.toNat == o))
    || s.tileSites.any fun site => (s.getTile site).jobs.any fun j => !j.suspended && (if o = 16 then j.cid == 3 else j.ph.part.toNat == o)

/-- FRAME_OWNERSHIP_CHANGE (R342), of system software behind the first step of bring-up (R350): it takes effect after every access under the old owner has performed. -/
def execFrameOwnershipChange (frame : Nat) (owner : BitVec 8) (s : State) : Host.Outcome State Fault Refusal :=
  if 393216 ≤ frame || !s.firmwareUp then .next s
  else if s.frameBusy frame then .next (s.later (.frameOwnershipChange frame owner))
  else .next { s with frames := clSet 0xFF s.frames frame owner }

/-! ## Partition descriptors (R345, R346) -/

/-- The reserved bits and alignments of a descriptor (Table 16.3, R320); TDISP is read-only, and its bit as written is ignored. -/
def descriptorOk (d : Vector Word 16) : Bool :=
  let w (i : Nat) : Word := d.toArray.getD i 0
  (w 0).extractLsb' 20 41 == 0 && (w 1).extractLsb' 16 16 == 0 && (w 6).extractLsb' 16 48 == 0
    && (w 7).extractLsb' 56 8 == 0 && (List.range 8).all (fun h => !(w 7).getLsbD (8 * h + 7))
    && (w 8).extractLsb' 0 12 == 0 && (w 9).extractLsb' 56 8 == 0 && (w 11).extractLsb' 0 12 == 0 && (w 12).extractLsb' 32 32 == 0
    && (w 13).extractLsb' 52 12 == 0 && (w 14).extractLsb' 52 12 == 0 && (w 15).extractLsb' 52 12 == 0

/-- A slice named by a descriptor is allotted to another partition by the copy in force there, which stands until it is replaced or reset. -/
def State.sliceTaken (s : State) (p : Nat) (w9 : Word) : Bool :=
  (List.range 16).any fun q => q != p && ((s.part (BitVec.ofNat 4 q)).word 9 &&& w9).extractLsb' 32 24 != 0

/-- What a descriptor copy may change only while V = 0 (R346). -/
def frozenChanged (a b : Vector Word 16) : Bool :=
  let w (d : Vector Word 16) (i : Nat) : Word := d.toArray.getD i 0
  let base (x : Word) : BitVec 40 := x.extractLsb' 12 40
  (w a 0).getLsbD 62 != (w b 0).getLsbD 62 || (w a 0).extractLsb' 0 20 != (w b 0).extractLsb' 0 20
    || (w a 9).extractLsb' 32 24 != (w b 9).extractLsb' 32 24
    || w a 8 != w b 8 || w a 10 != w b 10 || w a 11 != w b 11
    || base (w a 13) != base (w b 13) || base (w a 14) != base (w b 14) || base (w a 15) != base (w b 15)

/-- The save pool of a descriptor lies in frames of the partition (R265). -/
def State.poolOwned (s : State) (p : BitVec 4) (d : Vector Word 16) : Bool :=
  let n := ((d.toArray.getD 12 0).extractLsb' 0 32).toNat
  n = 0 || s.areaOwned p (d.toArray.getD 11 0).toNat (saveAreaSize * n)

/-- A descriptor as it is stored: SHARE 0 as 1, TDISP as it was (Table 16.3), GRACE 0 as 1 (R329). -/
def storedDescriptor (old d : Vector Word 16) : Vector Word 16 :=
  let t : Word := (d.toArray.getD 0 0 &&& 0xDFFFFFFFFFFFFFFF) ||| (old.toArray.getD 0 0 &&& 0x2000000000000000)
  let u : Word := d.toArray.getD 1 0
  let u : Word := if u.extractLsb' 0 16 = 0 then u ||| 1 else u
  (d.set 0 t).set 1 (if u.extractLsb' 48 16 = 0 then u ||| 0x0001000000000000 else u)

/-- The completion counters of a partition first configured: 4 times 4,096 entries at their reset value (Table 12.2, log 10). -/
def State.clearCounters (s : State) (p : BitVec 4) : State := s.zeroDram ((s.part p).word 10).toNat (4 * 4096 * 8)

/-- PARTITION_DESCRIPTOR_WRITE (R345 to R347), of system software behind the first step of bring-up (R350): the descriptor register takes the address, and the whole descriptor is copied as one step, or refused
and logged. A key is generated when V is first set, and the completion counters stand at their reset values whenever V is set anew. -/
def execPartitionDescriptorWrite (p : Nat) (addr : Nat) (s : State) : Host.Outcome State Fault Refusal :=
  if 16 ≤ p || !s.firmwareUp then .next s
  else
    let pn := BitVec.ofNat 4 p
    let s : State := { s with descAddr := s.descAddr.setIfInBounds p addr }
    let x := s.part pn
    let d : Vector Word 16 := Vector.ofFn fun i : Fin 16 => BitVec.ofNat 64 (s.word .dram (addr + 8 * i.val) 8)
    let locked := (s.locks.any fun l => l.part == pn) || (s.waiters.any fun l => l.part == pn)
    let bad := s.frameOwner addr != 0x10 || !descriptorOk d || s.sliceTaken p (d.toArray.getD 9 0)
      || (x.valid && frozenChanged x.d d) || (locked && x.word 7 != d.toArray.getD 7 0) || !s.poolOwned pn d
    if bad then .next (s.logError pn (BitVec.ofNat 64 addr) 10)
    else
      let s1 := s.setPart pn { x with d := storedDescriptor x.d d }
      let on := (d.toArray.getD 0 0).getLsbD 63
      let s2 : State := if on && s1.keys.toArray.getD p 0 == 0 then
          { s1 with keys := s1.keys.setIfInBounds p s1.nextKey, nextKey := s1.nextKey + 1 }
        else s1
      .next (if on && !x.valid then s2.clearCounters pn else s2)

/-! ## Resets (R7, R19, R22, R346) -/

/-- A task of a partition still runs. -/
def State.partBusy (s : State) (p : BitVec 4) : Bool := s.contexts.any fun c => match (s.getCtx c).task with
  | some t => t.part == p && c.cid != 3
  | none => false

/-- The slices of a partition scrubbed to zero, their poison marks cleared (R199). -/
def State.scrubSlices (s : State) (p : BitVec 4) : State :=
  ((List.range 24).filter (s.part p).hasSlice).foldl (fun s k =>
    let u : State := s.wipe (.slice k) 0 (2 ^ 23)
    { u with pois := u.pois.filter fun m => m.1 / 2 ^ 58 != (Home.slice k).number }) s

/-- Every piece of a partition's state at its reset value, its slices scrubbed, under a new key (R19, R199, R331, R347). Its tree entries keep their
configuration words, which stay in force until rewritten (R290), and lose every round and result. -/
def State.clearPartition (s : State) (p : BitVec 4) : State :=
  let s := s.scrubSlices p
  { s with
    parts := s.parts.set p.toNat Partition.reset p.isLt
    launches := s.launches.filter fun l => l.part != p
    images := s.images.filter fun m => m.part != p
    locks := s.locks.filter fun l => l.part != p
    waiters := s.waiters.filter fun l => l.part != p
    wounds := s.wounds.filter fun l => l.part != p
    phasers := s.phasers.filter fun e => !(e.2.v && e.2.part == p)
    trees := s.trees.filterMap fun e =>
      let x : Tree := if treePart e.2.cfg == p then { Tree.reset with cfg := e.2.cfg } else e.2
      if x = Tree.reset then none else some (e.1, x)
    descAddr := s.descAddr.setIfInBounds p.toNat 0
    keys := s.keys.setIfInBounds p.toNat s.nextKey
    nextKey := s.nextKey + 1 }

/-- PARTITION_RESET (R19, R346): every queue halts; V becomes 0 only after every task of the partition has ended. -/
def execPartitionReset (p : Nat) (s : State) : Host.Outcome State Fault Refusal :=
  if 16 ≤ p then .next s
  else
    let pn := BitVec.ofNat 4 p
    if s.partBusy pn then
      let s := s.stopPartition pn
      let s := s.setPart pn { s.part pn with rollback := false }
      let ev : Instr := .partitionReset p
      .next (if s.work.any fun w => w.ev == ev then s else s.send (custodianWork 0 ev))
    else .next (s.clearPartition pn)

/-- What outlives a package reset of a cluster clock word: AGE, DRIFT and the fused LIMIT (R380). -/
def ClClock.kept (c : ClClock) : ClClock := { c with k := 0, pwr := 0 }

/-- PACKAGE_RESET (R7, R22, R347): State.reset, but that device, host and peer memory keep their bytes, the former under keys that
no longer exist, and that AGE and DRIFT survive. -/
def execPackageReset (s : State) : Host.Outcome State Fault Refusal :=
  let outside (k : Nat) : Bool := k / 2 ^ 64 ≤ 1 || 4096 ≤ k / 2 ^ 64
  .next { State.reset with
    mem := s.mem.filter fun m => outside m.1
    gtags := s.gtags.filter fun m => outside (256 * m.1)
    pois := s.pois.filter fun m => outside (64 * m.1)
    lineKeys := s.lineKeys
    keys := (Vector.replicate 17 0).set 16 s.nextKey
    nextKey := s.nextKey + 1
    clusters := s.clusters.map ClClock.kept
    iommu := s.iommu
    nextId := s.nextId
    fresh := s.fresh
    turns := s.turns }

/-! ## Wale links (R348, R350) -/

/-- A link. -/
def State.link (s : State) (k : Nat) : Link := s.links.toArray.getD k Link.reset

/-- Writing a link. -/
def State.setLink (s : State) (k : Nat) (l : Link) : State := { s with links := s.links.setIfInBounds k l }

/-- A number of `n` 64-bit words drawn by the root of trust. -/
def State.drawn (s : State) (n : Nat) : Nat := wordsNat ((List.range n).map fun i => Config.crypto (s.fresh + i))

/-- A fresh exchange on a link from its first step (R348): an ephemeral key pair, and this side's keying message, which is sent. -/
def State.startKeying (s : State) (k : Nat) (l : Link) : State :=
  let priv := s.drawn 6
  let t : State := { s with fresh := s.fresh + 6 }
  let m : KeyMsg := ⟨Config.ecdhPub priv, t.drawn 4, Config.certificate, k⟩
  State.setLink { t with fresh := t.fresh + 4 } k { l with priv := priv, mine := some m, theirs := none, derived := none, sent := [.hello m] }

/-- LINK_TRAINING_COMPLETE (R350): training ends in keying. -/
def execLinkTrainingComplete (k : Nat) (s : State) : Host.Outcome State Fault Refusal :=
  if 12 ≤ k then .next s
  else if (s.link k).st = 1 then .next (s.startKeying k { s.link k with st := 2 }) else .next s

/-- LINK_REKEY (R348): a link that carries traffic starts a new exchange, and its traffic waits. -/
def execLinkRekey (k : Nat) (s : State) : Host.Outcome State Fault Refusal :=
  if 12 ≤ k then .next s
  else if (s.link k).st = 3 && (s.link k).mine.isNone then .next (s.startKeying k { s.link k with rekey := true }) else .next s

/-- A collective's path runs over a link: some device of its group is reached through it (log 16, log 55). -/
def Partition.spans (x : Partition) (k : Nat) : Bool := x.group.any fun d => d != Config.device && Config.linkOf d % 12 == k

/-- The bytes of a keying message. -/
def keyingBytes (m : KeyMsg) : List Byte := Config.keyingBytes m.pub m.rand m.cert m.link

/-- This side comes first in the order of device identities (R348, step 3). -/
def keyFirst (mine theirs : KeyMsg) : Bool := decide (Config.identity mine.cert ≤ Config.identity theirs.cert)

/-- The SHA-384 of the transcript: the two keying messages in ascending order of device identity (R348, step 3). -/
def transcriptHash (mine theirs : KeyMsg) : Nat :=
  Config.sha384 (if keyFirst mine theirs then keyingBytes mine ++ keyingBytes theirs else keyingBytes theirs ++ keyingBytes mine)

/-- The 104 bytes that HKDF derives (R348, step 4), as a little-endian number. -/
def keyMaterial (priv : Nat) (mine theirs : KeyMsg) : Nat :=
  let (a, b) := if keyFirst mine theirs then (mine.rand, theirs.rand) else (theirs.rand, mine.rand)
  Config.hkdf (Config.ecdh priv theirs.pub) (a + 2 ^ 256 * b)
    ("wale-link-keys".toList.map (fun c => BitVec.ofNat 8 c.toNat) ++ leBytes 48 (transcriptHash mine theirs))

/-- `n` bytes of key material from byte `i` on. -/
def keyPart (m i n : Nat) : Nat := m / 2 ^ (8 * i) % 2 ^ (8 * n)

/-- A link that is up under newly derived keys (R348, steps 4 and 5): the key and the salt of each direction, their counters at 0; `held` packets
have waited, and are the first that it sends. -/
def Link.keyed (m : Nat) (first : Bool) (held : Nat) : Link :=
  let low : LinkDir := ⟨keyPart m 0 32, BitVec.ofNat 32 (keyPart m 64 4), 0⟩
  let high : LinkDir := ⟨keyPart m 32 32, BitVec.ofNat 32 (keyPart m 68 4), 0⟩
  { Link.reset with
    st := 3
    out := { (if first then low else high) with ctr := BitVec.ofNat 64 held }
    inn := if first then high else low }

/-- A failed link in abort-token mode: a containment fault of every collective whose path runs over it (R350, R387). -/
def State.failCollectives (s : State) (k : Nat) : State :=
  allParts.foldl (fun (s : State) p =>
    let x := s.part p
    if x.valid && x.tokenMode && x.spans k then s.contain ⟨0, 3⟩ p 0 else s) s

/-- A link in state failed, and what that does to collectives over it (R350, R387). One that has not been up is on no collective's path. -/
def State.failLink (s : State) (k : Nat) : State :=
  let up := (s.link k).st = 3
  let t := s.setLink k { Link.reset with st := 4 }
  if up then t.failCollectives k else t

/-- This side's confirmation, and the one that it expects (R348, step 5): the HMAC of the transcript hash under the confirmation key. -/
def confirmation (a b : KeyMsg) (derived : Nat) : Nat := Config.hmac (keyPart derived 72 32) (transcriptHash a b)

/-- What a message of the peer does to a link in its exchange (R348): its keying message, whose certificate must chain to Cherel's root, and which
this side's signature of the transcript answers; its signature of the transcript, behind which the keys are derived and this side's confirmation
is sent; its confirmation, which brings the link up. One that fails its check fails the link, and one out of place is ignored. -/
def State.keyStep (s : State) (k : Nat) (l : Link) (m : KeyStep) : State :=
  match m, l.mine, l.theirs, l.derived with
  | .hello t, some a, none, _ =>
    if Config.chainOk t.cert then s.setLink k { l with theirs := some t, sent := l.sent ++ [.signature (Config.signature (transcriptHash a t))] }
    else s.failLink k
  | .signature sig, some a, some b, none =>
    if Config.sigOk b.cert (transcriptHash a b) sig then
      let d := keyMaterial l.priv a b
      s.setLink k { l with derived := some d, sent := l.sent ++ [.confirm (confirmation a b d)] }
    else s.failLink k
  | .confirm mac, some a, some b, some d =>
    if mac = confirmation a b d then s.setLink k (Link.keyed d (keyFirst a b) l.held) else s.failLink k
  | _, _, _, _ => s

/-- LINK_KEYING_MESSAGE (R348): of a link that is keyed, or keyed anew; an exchange that its own packet counter asked for starts with the
peer's message at the latest. -/
def execLinkKeyingMessage (k : Nat) (m : KeyStep) (s : State) : Host.Outcome State Fault Refusal :=
  if 12 ≤ k then .next s
  else
    let l := s.link k
    if l.st = 2 || (l.st = 3 && l.rekey) then
      let t := if l.mine.isNone then s.startKeying k l else s
      .next (t.keyStep k (t.link k) m)
    else .next s

/-- LINK_FAILURE (R348, R350, R387). -/
def execLinkFailure (k : Nat) (s : State) : Host.Outcome State Fault Refusal :=
  if 12 ≤ k then .next s
  else if (s.link k).st = 0 then .next s
  else .next (s.failLink k)

/-- LINK_RESET (R350): a failed link returns to state 0. -/
def execLinkReset (k : Nat) (s : State) : Host.Outcome State Fault Refusal :=
  if 12 ≤ k then .next s else if (s.link k).st = 4 then .next (s.setLink k Link.reset) else .next s

/-! ## The configuration window -/

/-- Job counters that wait only for room in their log complete once there is room (R349). -/
def State.retryJobs (s : State) (p : BitVec 4) : State :=
  ((s.part p).tally.map (·.idx)).foldl (fun s i =>
    let w := s.counter p 4 i
    if (ccState w = 1 || ccState w = 2) && ccOut w = 0 then s.completeCounter p 4 i (ccState w == 2) else s) s

/-- The custodian firmware started on every enabled site, no factory spare among them, from its entry (R12, R22, R350; log 17). -/
def State.startCustodians (s : State) (entry : Word) : State :=
  ((List.range 288).filter fun site => !siteIsSpare site).foldl (State.startCustodian · entry ·) s

/-- A stopped partition goes on once its tasks have ended and its rollback is done: the fault is over (log 54). -/
def State.restart (s : State) (p : BitVec 4) : State :=
  let x := s.part p
  if x.stopped && !x.rollback && !s.partBusy p then s.setPart p { x with stopped := false, unwind := none, tokens := [] } else s

/-- A write of the host to its own memory, or of system software to a frame that it owns; another frame refuses it (R342, log 66). -/
def State.outsideStore (s : State) (host : Bool) (at_ : Nat) (bs : List Byte) : State :=
  if host then (if at_ + bs.length ≤ 2 ^ 52 then s.homeWrite .host at_ bs 0 false else s)
  else if s.ownsRange 0x10 at_ bs.length then s.homeWrite .dram at_ bs 0 false
  else { s with windowLog := s.windowLog ++ [BitVec.ofNat 64 at_] }

/-- A slice distance table placed at a physical address, beside those that stand for other partitions (R200, log 91). -/
def State.placeDistances (s : State) (at_ : Nat) : State :=
  (List.range 288).foldl (fun (s : State) site => match s.logicalOf site with | some l => s.writeDistances at_ l site | none => s)
    { s with distTables := if s.distTables.contains at_ then s.distTables else s.distTables ++ [at_] }

/-- An ECC error met at a place (R195, R199, R202): one corrected is counted, one that is not poisons the granule, the unit or the line. -/
def State.upset (s : State) (h : Home) (off : Nat) (corrected : Bool) : State :=
  match h with
  | .pool site | .custodian site =>
    if corrected then s.modTile site fun t => t.count 0x042 4 1
    else s.setTagWord h (off / 256 * 256) (s.tagWord h (off / 256 * 256) ||| 0x0004000000000000)
  | .slice _ => if corrected then s else s.setUnit h off true
  | .dram =>
    let k := off / 256 % 8
    if corrected then { s with stackErr := s.stackErr.setIfInBounds k (s.stackErr.toArray.getD k 0 + 1) } else s.setUnit h off true
  | _ => s

/-- The poison bit of a vector register or an accumulator set by an uncorrectable error in its area (R195). -/
def Regs.upset (r : Regs) (acc : Bool) (n : Nat) : Regs :=
  if acc then { r with acc := r.acc.modify n fun a => { a with poison := true } }
  else { r with v := Vector.ofFn fun i : Fin 64 => if i.val = n then { r.v[i] with poison := true } else r.v[i] }

/-- A granule that a peer's copy lands here (R173, R241): written under this device's own PART check, with writer 0x3FF, or refused and logged. -/
def State.peerGranule (s : State) (p : BitVec 4) (logical off : Nat) (bs : List Byte) (w : Word) : State :=
  match s.siteOf logical with
  | some site =>
    if tagPart (s.tagWord (.pool site) off) = p then (s.bankWrite (.pool site) off bs w).useBanks (.pool site) off 256
    else s.logError p (BitVec.ofNat 64 (logical * 2 ^ 22 + off)) 1
  | none => s.logError p (BitVec.ofNat 64 (logical * 2 ^ 22 + off)) 1

/-- What the window stands for beside the registers that system software writes in bring-up (log 66, log 81): nothing of it waits for the
firmware (R350). -/
def outsideWindow : WindowReg → Bool
  | .measured .. | .ide | .ats .. | .store .. | .iommu .. | .upset .. | .upsetReg .. | .peerGranule .. | .peerLanded .. | .flip .. | .takeReport _ => true
  | _ => false

/-- A register of the window written (16_system_tables.md). A queue reset, which R268 leaves to system software, keeps the queue's configuration alone
(log 94). -/
def State.windowWrite (s : State) (r : WindowReg) (v : Word) : Host.Outcome State Fault Refusal :=
  let q (p n : Nat) (f : HostQueue → HostQueue) : Host.Outcome State Fault Refusal :=
    if 16 ≤ p || 64 ≤ n then .next s
    else .next (s.setHostQueue (BitVec.ofNat 4 p) n (f (s.queue (BitVec.ofNat 4 p) n)))
  match r with
  | .pasidTable => .next { s with pasidBase := v.toNat }
  | .queueBase p n => q p n fun x => { x with base := v }
  | .queuePasid p n => q p n fun x => { x with pasid := v.setWidth 20 }
  | .queueSize p n =>
    let k := Nat.log2 v.toNat
    q p n fun x => if v.toNat = 2 ^ k && 6 ≤ k && k ≤ 20 then { x with size := v.toNat, configured := true } else x
  | .queueReset p n =>
    let fresh (x : HostQueue) : HostQueue :=
      { HostQueue.unset with configured := x.configured, pasid := x.pasid, base := x.base, size := x.size }
    if 16 ≤ p || 64 ≤ n then .next s
    else .next ((s.setHostQueue (BitVec.ofNat 4 p) n (fresh (s.queue (BitVec.ofNat 4 p) n))).restart (BitVec.ofNat 4 p))
  | .attestHead p =>
    if 16 ≤ p then .next s
    else
      let pn := BitVec.ofNat 4 p
      let x := s.part pn
      .next ((s.setPart pn { x with attHead := max x.attHead (min v.toNat x.attTail) }).retryJobs pn)
  | .collective p =>
    if 16 ≤ p then .next s
    else .next (s.setPart (BitVec.ofNat 4 p) { s.part (BitVec.ofNat 4 p) with group := (List.range 64).filter fun d => v.getLsbD d })
  | .saveRequest site cid =>
    if 288 ≤ site || 3 ≤ cid then .next s
    else .next (s.askLeave ⟨site, cid⟩)
  | .measured image digest =>
    let s1 : State := { s with booted := s.booted ++ [image], measures := s.measures ++ [digest] }
    .next (if image = 1 && s.booted.contains 0 && !s.booted.contains 1 then s1.startCustodians v else s1)
  | .power cl =>
    if 48 ≤ cl then .next s
    else .next (s.setClClock cl { s.clClock cl with pwr := v.setWidth 6 })
  | .linkTrain k =>
    if 12 ≤ k then .next s
    else if (s.link k).st = 0 then .next (s.setLink k { Link.reset with st := 1 }) else .next s
  | .image p base phys data dbase tables b =>
    if 16 ≤ p then .next s else .next (s.loadImage (BitVec.ofNat 4 p) (BitVec.ofNat 64 base) phys data (BitVec.ofNat 64 dbase) tables v b)
  | .ide => .next { s with ide := v.setWidth 16 }
  | .ats page pages =>
    .next (if s.hostBusy then s.later (.configWindowWrite (.ats page pages) v) else s.atsInvalidate page pages)
  | .store host a bs => .next (s.outsideStore host a bs)
  | .iommu pasid page f => .next { s with iommu := (pasid, page, f) :: s.iommu.filter fun e => !(e.1 == pasid && e.2.1 == page) }
  | .distances => .next (s.placeDistances v.toNat)
  | .upset h off c => if homeMissing h then .next s else .next (s.upset h off c)
  | .upsetReg c acc n =>
    if 288 ≤ c.site || 4 ≤ c.cid then .next s else .next (s.modCtx c fun x => x.writeAll fun r => r.upset acc n)
  | .peerGranule dev p logical off bs stamp tag =>
    if 64 ≤ dev || dev = Config.device || !s.hears dev || bs.length != 256 || off % 256 != 0 || 2 ^ 22 ≤ off then .next s
    else .next ((s.received (.peerMem dev)).peerGranule p logical off bs (mkTagWord p false 0x3FF stamp tag))
  | .peerLanded m n =>
    let dev := m.src.site - 288
    if !fromPeer m || 64 ≤ dev || dev = Config.device || !s.hears dev then .next s
    else .next ((s.received (.peerMem dev)).countDown m n)
  | .flip site id mask => if 288 ≤ site then .next s else .next (s.modJob site id fun j => { j with flip := mask })
  | .takeReport site => if 288 ≤ site then .next s else .next (s.modTile site fun t => { t with reports := t.reports.drop 1 })

/-- CONFIG_WINDOW_WRITE: a register of the window written by system software, which does nothing before the firmware runs (R350, log 88). -/
def execConfigWindowWrite (r : WindowReg) (v : Word) (s : State) : Host.Outcome State Fault Refusal :=
  if s.firmwareUp || outsideWindow r then s.windowWrite r v else .next s

/-- TDISP_ASSIGNMENT (R19): the interface of a partition is assigned to a tenant, or withdrawn from it. -/
def execTdispAssignment (p : Nat) (on : Bool) (s : State) : Host.Outcome State Fault Refusal :=
  if 16 ≤ p then .next s
  else
    let pn := BitVec.ofNat 4 p
    let x := s.part pn
    .next (s.setPart pn { x with d := x.d.set 0 (if on then x.d[0] ||| 0x2000000000000000 else x.d[0] &&& 0xDFFFFFFFFFFFFFFF) })

end Sys2Proof.Machine
end

