-- ==== Sys2Proof/Machine/Debug.lean ====
section
/-! DEFINITION. The debug port: stops, steps, register writes and edits of snapshot entries (06_register_inventory.md R120,
13_engine_queues.md R283 to R285, 19_audit_counters.md R393 to R395). -/

namespace Sys2Proof.Machine

/-- The port is refused for a context that runs a task of a partition assigned under TDISP (R393). -/
def State.portRefused (s : State) (c : Src) : Bool :=
  match (s.getCtx c).task with
  | some t => (s.part t.part).tdisp && c.cid != 3
  | none => false

/-- A context halts at a bundle boundary (R38 item 5, R393): blocks that close commit first, a stop in progress is over, and a result delivered at the
resume point is captured with those behind it (R284). -/
def State.halt (s : State) : State :=
  let s := s.settle
  { s with ctx := { s.ctx.unland with halted := true, stopReq := false, steps := 0 } }

/-- An operation on a context other than the one in focus, which stays in focus. -/
def State.on (s : State) (c : Src) (f : State → State) : State := (f (s.focus c)).focus s.who

/-- A halted context goes on from its resume point: what is due there lands (R284). -/
def Ctx.goOn (c : Ctx) : Ctx := if c.halted then { c.landDue with halted := false } else c

/-- A debug stop asked for: a context with a task halts at its next bundle boundary, behind the traps that are due there (R38 items 4
and 5); an idle one stands still already. -/
def Ctx.askStop (x : Ctx) : Ctx := if x.task.isSome then { x with stopReq := true } else { x with halted := true }

/-- DEBUG_STOP_REQUEST (R38, R393). -/
def execDebugStopRequest (c : Src) (s : State) : Host.Outcome State Fault Refusal :=
  if 288 ≤ c.site || 4 ≤ c.cid then .next s
  else if s.portRefused c then .next s
  else .next (s.modCtx c Ctx.askStop)

/-- DEBUG_RESUME (R394). -/
def execDebugResume (c : Src) (s : State) : Host.Outcome State Fault Refusal :=
  if 288 ≤ c.site || 4 ≤ c.cid then .next s
  else if s.portRefused c then .next s
  else .next (s.modCtx c fun x => { x.goOn with steps := 0 })

/-- DEBUG_STEP (R394): k bundles of a halted context; `steps` holds one more than the bundles left. -/
def execDebugStep (c : Src) (k : BitVec 16) (s : State) : Host.Outcome State Fault Refusal :=
  if 288 ≤ c.site || 4 ≤ c.cid then .next s
  else if s.portRefused c || k = 0 || !(s.getCtx c).halted then .next s
  else .next (s.modCtx c fun x => { x.goOn with steps := k.toNat + 1 })

/-- DEBUG_STEP_END (R394): the context halts again at the bundle boundary behind its last bundle, where traps are taken first (R38). -/
def execDebugStepEnd (c : Src) (s : State) : Host.Outcome State Fault Refusal :=
  if 288 ≤ c.site || 4 ≤ c.cid then .next s
  else .next (s.modCtx c fun x => if x.steps = 1 then x.askStop else x)

/-- Lanes from 64-bit words, two lanes a word. -/
def wordLanes (w : List Word) : Lanes := Vector.ofFn fun i : Fin 64 => ((w.getD (i.val / 2) 0) >>> (32 * (i.val % 2))).setWidth 32

/-- An accumulator buffer from 64-bit words, row by row. -/
def wordGrid (w : List Word) : Grid :=
  Vector.ofFn fun i : Fin 64 => Vector.ofFn fun j : Fin 64 => ((w.getD (32 * i.val + j.val / 2) 0) >>> (32 * (j.val % 2))).setWidth 32

/-- A stream port as the port writes it: the words of Table 13.5. -/
def bindingOf (w : List Word) : Option Binding :=
  if (w.getD 6 0).getLsbD 0 then
    some ⟨#v[w.getD 0 0, w.getD 1 0, w.getD 2 0, w.getD 3 0, w.getD 4 0], (w.getD 7 0).setWidth 22, ((w.getD 5 0).extractLsb' 0 40).toNat⟩
  else none

/-- A register of one copy written by the port; its tag and poison only where the debugger writes them (R120). A vl outside 1 to 64, which no
register holds (Table 6.1), is not written (log 75). -/
def Regs.debugWrite (g : Regs) (r : DebugReg) (w : List Word) (tag : Option Tag) (poison : Option Bool) : Regs :=
  let v := w.headD 0
  match r with
  | .x n => let o := g.getX n; g.setX n ⟨v, tag.getD o.tag, poison.getD o.poison⟩
  | .v q => let o := g.v[q.toNat]'(q.isLt); g.setPhysV q ⟨wordLanes w, tag.getD o.tag, poison.getD o.poison⟩
  | .p q => let o := g.p[q.toNat]'(q.isLt); g.setPhysP q ⟨v.getLsbD 0, tag.getD o.tag, poison.getD o.poison⟩
  | .a k => match g.acc[k.toNat]? with
    | some o => g.setA k.toNat ⟨wordGrid w, tag.getD o.tag, poison.getD o.poison⟩
    | none => g
  | .vl => if 1 ≤ v.toNat && v.toNat ≤ 64 then { g with vl := v.setWidth 7 } else g
  | .q k => { g with ports := g.ports.set k.toNat (bindingOf w) k.isLt }
  | .es n => { g with es := g.es.set n.toNat (v.setWidth 8) n.isLt }
  | .ws => { g with ws := v.setWidth 8 }
  | .ctl n =>
    match n.toNat with
    | 0x03 | 0x04 | 0x08 | 0x09 | 0x16 => g.writeCtl n v
    | 0x10 => { g with vb := v.extractLsb' 0 5, pb := v.extractLsb' 8 3 }
    | 0x13 => { g with es := #v[v.extractLsb' 0 8, v.extractLsb' 8 8, v.extractLsb' 16 8, v.extractLsb' 24 8], ws := v.extractLsb' 32 8 }
    | 0x18 => { g with loops := g.loops.set 0 (savedLevel v g.loops[0].body) }
    | 0x19 => { g with loops := g.loops.set 1 (savedLevel v g.loops[1].body) }
    | 0x1A => { g with loops := g.loops.set 2 (savedLevel v g.loops[2].body) }
    | 0x1B => { g with loops := g.loops.set 3 (savedLevel v g.loops[3].body) }
    | 0x1C => { g with loops := g.loops.set 0 { g.loops[0] with body := codeAddr v } }
    | 0x1D => { g with loops := g.loops.set 1 { g.loops[1] with body := codeAddr v } }
    | 0x1E => { g with loops := g.loops.set 2 { g.loops[2] with body := codeAddr v } }
    | 0x1F => { g with loops := g.loops.set 3 { g.loops[3] with body := codeAddr v } }
    | _ => { g with tileW := g.tileW.filter (·.1 != n) }
  | .pc | .lf | .ps | .guardMask | .mark _ => g

/-- The partial-sum port written: 4,096 elements, row by row, each in the low 40 bits of a word. -/
def PSum.debugWrite (p : PSum) (w : List Word) (tag : Option Tag) (poison : Option Bool) : PSum :=
  let a := w.toArray
  { p with
    vals := Vector.ofFn fun i : Fin 64 => Vector.ofFn fun j : Fin 64 => (a.getD (64 * i.val + j.val) 0).setWidth 40
    tag := tag.getD p.tag
    poison := poison.getD p.poison }

/-- The partial sums of a snapshot entry written: the low 32 bits of each element, two to a word, row by row; the upper 8 stay (R283, log 75). -/
def PSum.lowWrite (p : PSum) (w : List Word) : PSum :=
  let g := wordGrid w
  { p with vals := Vector.ofFn fun i : Fin 64 => Vector.ofFn fun j : Fin 64 => (p.vals[i][j].extractLsb' 32 8) ++ g[i][j] }

/-- What a debug write changes outside the register copies: single copies, the pc between blocks, the guard mask of `dgrd`, and the pending mark
of the n-th result awaited, which it clears. ctl.sclk, ctl.tsched and ctl.tstat cannot be written (R120). -/
def Ctx.debugWrite (c : Ctx) (r : DebugReg) (w : List Word) (tag : Option Tag) (poison : Option Bool) : Ctx :=
  let v := w.headD 0
  match r with
  | .lf => { c with cur := { c.cur with lf := v.setWidth 32 } }
  | .ps => { c with ps := c.ps.debugWrite w tag poison, cur := { c.cur with ps := c.ps.debugWrite w tag poison } }
  | .mark n => { c with pend := c.pend.eraseIdx n }
  | .pc => if c.cur.nb = 0 then { c with pc := codeAddr v, cur := { c.cur with entry := codeAddr v } } else { c with pc := codeAddr v }
  | .guardMask => { c with guardMask := (w.getD 3 0) ++ (w.getD 2 0) ++ (w.getD 1 0) ++ (w.getD 0 0) }
  | .ctl n =>
    match n.toNat with
    | 0x00 => { c with cause := v &&& 0x1FFFF }
    | 0x01 => { c with tval := v }
    | 0x02 => { c with tsyl := v }
    | 0x12 => { c with wclk := v }
    | 0x14 => { c with part := v.setWidth 4 }
    | 0x15 => { c with drift := v.setWidth 32 }
    | _ => c
  | _ => c

/-- A tile register written by the port: its fields take the value whatever the access column says (R120). -/
def Tile.debugWrite (t : Tile) (n : BitVec 16) (v : Word) : Tile :=
  let k := n.toNat
  if k = 0x0A then { t with bflags := v.setWidth 7 }
  else if k = 0x33 then { t with rcount := v.setWidth 16 }
  else if k = 0x34 then { t with rtotal := v.setWidth 48 }
  else if 0x38 ≤ k && k ≤ 0x3F then { t with rlog := t.rlog.setIfInBounds (k - 0x38) (v &&& 0xFF800000FFFFFFFF) }
  else t.writeCtl n v

/-- DEBUG_REGISTER_WRITE (R120): both copies of a register of a halted context, or a register of its tile. -/
def execDebugRegisterWrite (c : Src) (r : DebugReg) (w : List Word) (tag : Option Tag) (poison : Option Bool) (s : State) :
    Host.Outcome State Fault Refusal :=
  if 288 ≤ c.site || 4 ≤ c.cid then .next s
  else if s.portRefused c || !(s.getCtx c).halted then .next s
  else
    let t := s.modCtx c fun x => (x.writeAll fun g => g.debugWrite r w tag poison).debugWrite r w tag poison
    .next (match r with
      | .ctl n => t.modTile c.site fun u => u.debugWrite n (w.headD 0)
      | _ => t)

/-! ## The snapshot buffer (R283 to R285, Table 13.6) -/

/-- KIND of a result in flight; none for one that is no entry: a touchstone compare, or the flags of a chunk pushed to a write port. -/
def Flight.kind (f : Flight) : Option (BitVec 4) :=
  match f.dest with
  | .x _ => some 0 | .v _ => some 1 | .p _ => some 2 | .acc _ => some 3 | .ps => some 4 | .vl => some 5 | .stamp _ => some 6 | .ctl _ => some 7
  | .tagX _ | .tagV _ => some 8 | .loop => some 9 | .touch | .flagsOnly => none

/-- NUM of a result in flight. -/
def Flight.num (f : Flight) : BitVec 10 :=
  match f.dest with
  | .x n | .v n | .tagX n | .tagV n => n.setWidth 10
  | .p n => n.setWidth 10
  | .acc k => k.setWidth 10
  | .stamp n => n.setWidth 10
  | .ctl n => n.setWidth 10
  | .ps | .vl | .loop | .touch | .flagsOnly => 0

/-- An accumulator entry with the value and the flags that its delivery will give, behind those before it to the same buffer (R312, R313); any
other entry as it is. -/
def Ctx.settled (c : Ctx) (before : List Flight) (f : Flight) : Flight :=
  match f.dest, f.pay with
  | .acc k, .scale .. | .acc k, .zero =>
    let r := if c.saved.contains f then c.comm else c.work
    match (r.landAll (before.filter fun g => g.dest == f.dest)).acc[k.toNat]? with
    | some a => let (a', fl) := a.land f; { f with pay := .grid a'.val, flags := f.flags ||| fl, poison := a'.poison }
    | none => f
  | _, _ => f

/-- The entry's data stands in the snapshot data area. -/
def Flight.inArea (f : Flight) : Bool := f.kind == some 1 || f.kind == some 3 || f.kind == some 4

/-- The snapshot buffer of a stopped context: the carry-ins that a trap keeps, then the results in flight, in issue order. -/
def Ctx.snapshot (c : Ctx) : List Flight := (c.saved ++ c.flight).filter (·.kind.isSome)

/-- Entry n of the snapshot buffer as the port shows it. -/
def Ctx.entry (c : Ctx) (n : Nat) (f : Flight) : Flight := c.settled (c.snapshot.take n) f

/-- The data of an entry in the snapshot data area, in 64-bit words: two lanes a word, or the low 32 bits of two elements of a partial sum (R283,
log 75). -/
def Flight.data (f : Flight) : List Word :=
  let pairs (l : List Lane) : List Word := (List.range (l.length / 2)).map fun i => l.getD (2 * i + 1) 0 ++ l.getD (2 * i) 0
  match f.pay with
  | .lanes l => pairs l.toList
  | .grid g => g.toList.flatMap fun row => pairs row.toList
  | .psum p => p.vals.toList.flatMap fun row => pairs (row.toList.map fun x => x.setWidth 32)
  | _ => []

/-- Word 0 of entry n (Table 13.6): the distance of a carry-in that a trap keeps counts from its block's entry, any other from the cycle after
the last bundle issued (R285). -/
def Ctx.snapWord0 (c : Ctx) (n : Nat) (f : Flight) : Word :=
  let g := c.entry n f
  let kept := c.saved.contains f
  let resume := if kept then ((c.savedBlk.map (·.clk)).getD 0) else c.sclk
  (1 : BitVec 1) ++ BitVec.ofBool g.poison ++ BitVec.ofBool (kept || c.cur.carry.contains f) ++ f.kind.getD 0 ++ BitVec.ofNat 8 (f.due - resume)
    ++ g.flags ++ f.num ++ f.tag

/-- Word 1 of entry n (R283): the value; of an entry with data in the snapshot data area its place there, counted over the entries before it
(log 75); of a loop-stack push its ctl.lstack word. -/
def Ctx.snapWord1 (c : Ctx) (n : Nat) (f : Flight) : Word :=
  if f.inArea then BitVec.ofNat 64 ((c.snapshot.take n).countP Flight.inArea)
  else match f.pay with
    | .word w => w
    | .bit b => (BitVec.ofBool b).setWidth 64
    | .push l => l.stack
    | _ => 0

/-- A snapshot entry with an edit of the port; one of KIND, NUM, DIST or CARRY is ignored (R285, R394). -/
def Flight.edit (f : Flight) : SnapEdit → Option Flight
  | .delete => none
  | .value w => some { f with pay := match f.pay with
      | .word _ => .word (w.headD 0)
      | .bit _ => .bit ((w.headD 0).getLsbD 0)
      | .lanes _ => .lanes (wordLanes w)
      | .push l => .push (savedLevel (w.headD 0) l.body)
      | .psum p => .psum (p.lowWrite w)
      | .grid _ => .grid (wordGrid w)
      | p => p }
  | .poison b => some { f with poison := b }
  | .flags g => some { f with flags := g }
  | .tag t => some { f with tag := t }
  | .ignored _ _ => some f

/-- The results of a list with the first that equals `f` edited. -/
def editFirst (f : Flight) (e : SnapEdit) : List Flight → List Flight
  | [] => []
  | g :: r => if g = f then (match g.edit e with | some h => h :: r | none => r) else g :: editFirst f e r

/-- An entry edited wherever the context keeps it: in flight, as a carry-in of its block, or for the return from a handler. -/
def Ctx.editEntry (c : Ctx) (f : Flight) (e : SnapEdit) : Ctx :=
  if c.saved.contains f then { c with saved := editFirst f e c.saved, savedBlk := c.savedBlk.map fun b => { b with carry := editFirst f e b.carry } }
  else { c with flight := editFirst f e c.flight, cur := { c.cur with carry := editFirst f e c.cur.carry } }

/-- A result replaced in a list by what it settles to. -/
def settleFirst (f g : Flight) (l : List Flight) : List Flight := l.map fun x => if x = f then g else x

/-- An accumulator entry that is edited holds its value from then on, wherever the context keeps it. -/
def Ctx.settleEntry (c : Ctx) (f g : Flight) : Ctx :=
  { c with
    saved := settleFirst f g c.saved
    savedBlk := c.savedBlk.map fun b => { b with carry := settleFirst f g b.carry }
    flight := settleFirst f g c.flight
    cur := { c.cur with carry := settleFirst f g c.cur.carry } }

/-- SNAPSHOT_ENTRY_EDIT (R285, R394): entry `n` of a halted context, in issue order. -/
def execSnapshotEntryEdit (c : Src) (n : Nat) (e : SnapEdit) (s : State) : Host.Outcome State Fault Refusal :=
  if 288 ≤ c.site || 4 ≤ c.cid then .next s
  else
    let x := s.getCtx c
    if s.portRefused c || !x.halted then .next s
    else match x.snapshot[n]? with
      | none => .next s
      | some f =>
        let g := match e with | .value _ | .flags _ | .poison _ => x.entry n f | _ => f
        .next (s.setCtx c ((if g = f then x else x.settleEntry f g).editEntry g e))

end Sys2Proof.Machine
end

