-- ==== Sys2Proof/Machine/PhaserForms.lean ====
section
/-! DEFINITION. The phaser forms (17_phasers.md R353, R358 to R365). -/

namespace Sys2Proof.Machine

/-! ## References (R353, R365) -/

/-- The register of a remote reference; in the local form x0 stands in its place, with tag 0. -/
def refReg : PhRef → Reg
  | .here _ => .x 0
  | .remote xr => .x xr

/-- A reference in a poisoned register (Table 17.6). -/
def State.refPoisoned (s : State) (r : PhRef) : Bool := s.ctx.work.poisonOf (refReg r)

/-- The message to the phaser that a reference names; an ill-formed remote reference is the error response with the detail of its form. -/
def State.phTarget (s : State) (r : PhRef) (detail : BitVec 8) : Except Halt PhMsg :=
  match r with
  | .here i => .ok ⟨s.who, Config.device, none, s.who.site, i.toNat, s.ctx.part, i.setWidth 64⟩
  | .remote xr =>
    let v := s.xval xr
    let l := (v.extractLsb' 12 12).toNat
    if v.extractLsb' 24 40 != 0 then .error (.error detail v)
    else match s.siteOf l with
      | some site => .ok ⟨s.who, Config.device, some l, site, (v.extractLsb' 0 12).toNat, s.ctx.part, v⟩
      | none => .error (.error detail v)

/-- The remote form. -/
def remoteRef : PhRef → Bool
  | .here _ => false
  | .remote _ => true

/-! ## Events (R356, R363) -/

/-- A phaser event entered in the command list (R363): `drains`: it leaves behind the context's earlier effects (R358). -/
def State.phaserCommand (s : State) (h : Hdr) (major : BitVec 8) (r : PhRef) (drains : Bool) (ev : PhMsg → Instr) : State :=
  s.issue { h := h, major := major, also := [refReg r] } (s.who.cid == 3)
    (if s.refPoisoned r then .ok { s := s.tainted }
     else match s.phTarget r 0x02 with
      | .error e => .error e
      | .ok m =>
        let w : Work := ⟨s.who, m.dst, false, drains, true, ev m⟩
        checked [s.cmdFull, s.msgFull] (.ok { s := s.command [.send w] }))

/-- `phreg` (R356, R364). -/
def execPhreg (h : Hdr) (r : PhRef) (sc : Scope) (mode : BitVec 2) (s : State) : Host.Outcome State Fault Refusal :=
  .next (s.phaserCommand h 0xE0 r false fun m => .phaserRegistration m mode sc)

/-- `phdrop` (R356). -/
def execPhdrop (h : Hdr) (r : PhRef) (mode : BitVec 2) (s : State) : Host.Outcome State Fault Refusal :=
  .next (s.phaserCommand h 0xE1 r false fun m => .phaserDrop m mode)

/-- `phsig` (R356, R358): it leaves behind its implicit drain. -/
def execPhsig (h : Hdr) (r : PhRef) (s : State) : Host.Outcome State Fault Refusal :=
  .next (s.phaserCommand h 0xE2 r true .phaserSignal)

/-! ## Held waits (R360, R364) -/

/-- The wait of a slot starts: it goes to its phaser, and a limit of 0 behind it, which tests once. -/
def State.startWait (s : State) (slot : Slot) (r : PhRef) (m : PhMsg) (p : BitVec 32) (limit : Option Nat) : State :=
  let (id, s) := s.newId
  let t : State := { s with ctx := { s.ctx with holds := s.ctx.holds ++ [⟨slot, id, remoteRef r, limit, none, false, false⟩] } }
  let u := t.send ⟨s.who, m.dst, false, false, false, .phaserWaitArrival m p id⟩
  if limit = some 0 then u.send ⟨s.who, m.dst, false, false, false, .phswLimitExpiry s.who⟩ else u

/-- The hold of a slot removed. -/
def State.unhold (s : State) (slot : Slot) : State :=
  { s with ctx := { s.ctx with holds := s.ctx.holds.filter fun h => h.slot != slot } }

/-- A held wait as its bundle comes to issue, behind its predecessor's commit (R36): it starts, waits on, or ends with its status, its
refusal, or its limit. -/
def State.phaserWait (s : State) (f : Form) (r : PhRef) (p : BitVec 32) (limit : Option Nat) : State :=
  if s.refPoisoned r then s.issue f false (.ok { s := s.tainted })
  else match s.phTarget r 0x01 with
    | .error e => s.issue f false (.error e)
    | .ok m =>
      match s.ctx.holds.find? fun h => h.slot == f.h.slot with
      | none =>
        match (if remoteRef r then s.msgFull else none) with
        | some e => s.issue f false (.error e)
        | none => (s.startWait f.h.slot r m p limit).issue f false (.error (.freeze .phaser))
      | some h =>
        match h.answer with
        | some w =>
          let t := s.unhold f.h.slot
          t.issue f false (t.gives 1 (.word w) 0)
        | none =>
          if h.refused then s.issue f false (.error (.fault 0x0A 0x01 m.ref))
          else if h.expired then
            let t := s.unhold f.h.slot
            t.issue f false (t.gives 1 (.word 0) 0)
          else s.issue f false (.error (.freeze .phaser))

/-- The form of a read of a phaser: its tag sources (R363). -/
def phaserForm (h : Hdr) (major : BitVec 8) (d : BitVec 6) (r : PhRef) (s2 : List Reg) (also : List Reg) : Form :=
  { h := h, major := major, srcs := refReg r :: s2, also := also, dests := [.x d], mem := true, clean := true }

/-- A form that holds its bundle. -/
def State.holdForm (s : State) (f : Form) (r : PhRef) (p : BitVec 32) (limit : Option Nat) : State :=
  if s.who.cid != 3 && s.ctx.work.admits f.h && (s.ctx.awaited f.regs).isNone then s.behindCommit fun t => t.phaserWait f r p limit
  else s.issue f (s.who.cid == 3) (.ok { s := s })

/-- `phwait` (R360, R364). -/
def execPhwait (h : Hdr) (d : BitVec 6) (r : PhRef) (s2 : BitVec 6) (s : State) : Host.Outcome State Fault Refusal :=
  .next (s.holdForm (phaserForm h 0xE3 d r [.x s2] []) r ((s.xval s2).setWidth 32) none)

/-- `phsw` (R364). -/
def execPhsw (h : Hdr) (d : BitVec 6) (r : PhRef) (s2 s3 : BitVec 6) (s : State) : Host.Outcome State Fault Refusal :=
  .next (s.holdForm (phaserForm h 0xE4 d r [.x s2] [.x s3]) r ((s.xval s2).setWidth 32) (some ((s.xval s3).setWidth 32).toNat))

/-- PHSW_LIMIT_EXPIRY (R364): a hold of the context whose limit has passed ends, unless its wait has not been tested yet or its answer is on its
way. -/
def execPhswLimitExpiry (c : Src) (s : State) : Host.Outcome State Fault Refusal :=
  if 288 ≤ c.site then .next s
  else
    let answered (id : Nat) : Bool := s.work.any fun w => match w.ev with
      | .asyncResultArrival a => a.src == c && a.id == id
      | .phaserWaitArrival m _ i => m.src == c && i == id
      | _ => false
    .next (s.modCtx c fun x => { x with
      holds := x.holds.map fun h => { h with expired := h.expired || (h.limit == some 0 && h.answer.isNone && !answered h.id) } })

/-! ## Reads (R364) -/

/-- `phexp` or `phrd`: asynchronous, pending from issue; only the remote form takes a message entry (R363). -/
def State.askPhaser (s : State) (f : Form) (r : PhRef) (d : BitVec 6) (a : Access) : State :=
  let (id, t) := s.newId
  s.issue f (s.who.cid == 3)
    (if s.refPoisoned r then .ok { s := s.tainted }
     else match s.phTarget r 0x01 with
      | .error e => .error e
      | .ok m =>
        let q : Req := ⟨s.who, id, .pool m.site, m.idx, m.tile, (s.part s.ctx.part).pasid.toNat, s.ctx.part, false, m.ref, a⟩
        let u := (t.request (t.reqWork q false false)).awaitNow id (if remoteRef r then .msg else .none) [.x d] .phaser false (s.ctx.sclk + 2)
        checked [if remoteRef r then s.msgFull else none] (.ok { s := u }))

/-- `phexp` (R364). -/
def execPhexp (h : Hdr) (d : BitVec 6) (r : PhRef) (s2 : BitVec 6) (s : State) : Host.Outcome State Fault Refusal :=
  .next (s.askPhaser (phaserForm h 0xE5 d r [.x s2] []) r d (.phexp ((s.xval s2).setWidth 32)))

/-- `phrd` (R364). -/
def execPhrd (h : Hdr) (d : BitVec 6) (r : PhRef) (w : BitVec 2) (s : State) : Host.Outcome State Fault Refusal :=
  .next (s.askPhaser (phaserForm h 0xE6 d r [] []) r d (.phrd w))

end Sys2Proof.Machine
end

