-- ==== Sys2Proof/Machine/Issue.lean ====
section
/-! DEFINITION. Fetching, checking and issuing a bundle, the boundaries between blocks, and the choice of what moves next
(02_elastic_time.md R24 to R39, 04_encoding.md R72 to R88, 06_register_inventory.md R116 to R121). -/

namespace Sys2Proof.Machine

/-! ## Fetch (R88) -/

/-- A word of code at a virtual address, or the cause of its fetch fault. A frame that refuses the context gives a zero word, as a
refused load does (log 33). An address that no TLB entry covers is walked as it is fetched: the walk takes no turn of its own and leaves no entry
(log 93). -/
def State.fetchWord (s : State) (va : Word) : Except (BitVec 8) Word :=
  match s.translate s.who.site s.ctx.part va .fetch with
  | .noPage => .error 0x08
  | .denied => .error 0x09
  | .ok p =>
    .ok (if s.placeRefuses p s.ctx.part s.who.cid then 0 else BitVec.ofNat 64 (s.word p.home p.off 8))

/-- The peer device whose memory holds the code at the pc of the context in focus. -/
def State.codePeer (s : State) : Option Place :=
  match s.translate s.who.site s.ctx.part s.ctx.pc .fetch with
  | .ok p => (match p.home with | .peerMem _ => some p | _ => none)
  | _ => none

/-- A bundle is fetched for the first time (R348, R350): over a link that is up, a request and its answer; over another, the error response, which
is logged (log 55). -/
def State.fetches (s : State) (p : Place) : State :=
  if s.ctx.frozen.isSome then s
  else if s.reaches s.ctx.part p.home then s.asked p.home
  else s.logError s.ctx.part s.ctx.pc 1

/-- The run of syllables at an address, up to its stop bit or to a class-111 syllable (R72, R79): the words, and whether it runs into one. -/
def State.fetchRun (s : State) : Nat → Word → Except (BitVec 8 × Word) (List Word × Bool)
  | 0, _ => .ok ([], false)
  | n + 1, a =>
    match s.fetchWord a with
    | .error c => .error (c, a)
    | .ok w =>
      if isHall w then .ok ([], true)
      else if stopBit w then .ok ([w], false)
      else match s.fetchRun n (a + 8) with
        | .error e => .error e
        | .ok r => .ok (w :: r.1, r.2)

/-- The first syllable of a slot class behind `last` words of a bundle that stands out of ascending order, in the words from an address up to the
bundle's end (R85): reason 0x10 comes before 0x11. A fetch fault ends the search (log 70). -/
def State.slotBehind (s : State) (codes : List Nat) : Nat → Word → List Word
  | 0, _ => []
  | n + 1, a =>
    match s.fetchWord a with
    | .error _ => []
    | .ok w =>
      if isHall w then []
      else if !ascending (codes ++ slotCodes [Syl.of w]) then [w]
      else if stopBit w then []
      else s.slotBehind (codes ++ slotCodes [Syl.of w]) n (a + 8)

/-- The words of the bundle at an address, and whether it runs into a hallmark: of one of more than eight syllables nine, with the first behind
them that breaks the order of slot classes. -/
def State.bundleAt (s : State) (pc : Word) : Except (BitVec 8 × Word) (List Word × Bool) :=
  match s.fetchRun 9 pc with
  | .error e => .error e
  | .ok (ws, into) =>
    if ws.length = 9 && !into && !(ws.any stopBit) then
      .ok (ws ++ s.slotBehind (slotCodes (ws.map Syl.of)) (2 ^ 54) (pc + 72), false)
    else .ok (ws, into)

/-- A well-formed hallmark at an address, with its first word. -/
def State.hallAt (s : State) (a : Word) : Option (Word × Hallmark) :=
  match s.fetchWord a, s.fetchWord (a + 8) with
  | .ok x, .ok y => (Hallmark.of x y).map fun m => (x, m)
  | _, _ => none

/-- A precise fault of the bundle or hallmark fetched, with the syllable that ctl.tsyl records (R84, R88). -/
def State.faultAt (s : State) (syl : Word) (code detail : BitVec 8) (tval : Word) : State :=
  State.raise { s with iss := { s.iss with syl := syl } } code detail tval false

/-- A decode fault: an illegal syllable, or from reason 0x10 on an illegal bundle (Table 4.23). -/
def State.decodeFault (s : State) (syl : Word) (reason : BitVec 8) (at_ : Word) : State :=
  State.decodeTrap { s with iss := { s.iss with syl := syl } } (if reason.toNat < 0x10 then 0x01 else 0x02) reason at_

/-- The bundle at the pc (R84, R85): its words decoded, or the state that its fault leaves, with the syllables that stand before the offending
one. The word behind a control transfer is fetched with its bundle, and a fault of that fetch comes first; a transfer whose bundle runs into a
hallmark is followed by it, so that its reason is 0x15 (log 70). -/
def State.decodeAt (s : State) (pc : Word) : Except (State × List Placed) Bundle :=
  match s.bundleAt pc with
  | .error (c, a) => .error (s.faultAt 0 c 0x03 a, [])
  | .ok (ws, into) =>
    let after := pc + BitVec.ofNat 64 (8 * ws.length)
    let moves := (transferOf (ws.map Syl.of)).isSome
    match (if moves then s.fetchWord after else .ok 0) with
    | .error c => .error (s.faultAt 0 c 0x03 after, [])
    | .ok next =>
      match decodeBundle ws into (s.ctx.cur.nb == 256) next with
      | .error (r, n) => .error (s.decodeFault (ws.getD n 0) r.code (pc + BitVec.ofNat 64 (8 * n)),
          if r.code.toNat < 0x10 then placedBefore ws n else [])
      | .ok b => .ok b

/-! ## The syllables of a bundle -/

/-- A meaning, as the step passes it: exec. -/
abbrev Meaning := Instr → State → Host.Outcome State Fault Refusal

/-- The issue latch as a bundle begins. -/
def State.begins (s : State) (after : Word) : State :=
  { s with iss := ⟨s.ctx.pc, 0, after, s.ctx.cur.stores.length, s.nextId, [], [], .issued⟩ }

/-- The issue latch as a syllable of the bundle issues. -/
def State.latch (s : State) (pc : Word) (p : Placed) : State :=
  { s with iss := { s.iss with addr := pc + BitVec.ofNat 64 (8 * p.idx), syl := p.word, fate := .issued } }

/-- What trying a bundle's syllables, each by itself, has shown: the state with the waits that they start, the first cause that holds the
bundle, and the fault of the first syllable that breaks an operand check. -/
structure Trial where
  s : State
  cause : Option Freeze
  illegal : Option State

/-- The fault of a syllable that breaks an operand check at issue, of its bundle as it began at `base`: a wait that an earlier syllable has started
since is none of a bundle that never issues (R84). -/
def illegalAt (ex : Meaning) (pc : Word) (base u : State) (p : Placed) : State :=
  match ex p.instr (base.latch pc p) with
  | .next v => v
  | _ => u

/-- The syllables of a bundle that begins at `base` tried one by one (R84, R85, R273). A failed assay of the predecessor ends the trial. -/
def tryAll (ex : Meaning) (pc : Word) (base : State) : List Placed → Trial → Except (Host.Outcome State Fault Refusal) Trial
  | [], t => .ok t
  | p :: ps, t =>
    match ex p.instr (t.s.latch pc p) with
    | .next u =>
      match u.iss.fate with
      | .illegal => tryAll ex pc base ps { t with illegal := some (t.illegal.getD (illegalAt ex pc base u p)) }
      | .frozen => if u.intact t.s then tryAll ex pc base ps { t with s := u, cause := t.cause.or u.ctx.frozen } else .error (.next u)
      | .moved => .error (.next u)
      | .issued | .fault => tryAll ex pc base ps t
    | o => .error o

/-- The syllables issued in slot order; the first that faults ends the bundle, and one that must wait holds it whole. -/
def runAll (ex : Meaning) (pc : Word) (whole : State) : List Placed → State → Host.Outcome State Fault Refusal
  | [], s => .next s
  | p :: ps, s =>
    match ex p.instr (s.latch pc p) with
    | .next u =>
      match u.iss.fate with
      | .issued => runAll ex pc whole ps u
      | .frozen => if u.intact whole then .next (whole.freeze (u.ctx.frozen.getD .pending)) else .next u
      | .illegal | .fault | .moved => .next u
    | o => o

/-- An outcome carried on from its next state. -/
def thenNext (o : Host.Outcome State Fault Refusal) (k : State → State) : Host.Outcome State Fault Refusal :=
  match o with
  | .next s => .next (k s)
  | .fault f => .fault f
  | .refused r => .refused r

/-! ## What an issued bundle counts as (R24, R29, R378, R391, R392, R394) -/

/-- N − 1 of the share. -/
def Tile.shareEnd (t : Tile) : Nat := t.share.toNat - 1

/-- The share counter and the choice of R24 as a bundle of a context issues. -/
def Tile.issuedBy (t : Tile) (cid : Nat) : Tile :=
  if cid = 3 then { t with shareCnt := if t.shareEnd ≤ t.shareCnt then 0 else t.shareCnt }
  else { t with lastCtx := cid, shareCnt := min (t.shareCnt + 1) t.shareEnd }

/-- A bundle of the context in focus counted as issued: the run of replays ends, the share counter and the injection counter count it,
its schedule cycle is the context's latest, and a debug step has one less to go. -/
def State.issued (s : State) : State :=
  let t : State := { s with
    tile := { (s.tile.issuedBy s.who.cid).injection s.who.cid with
      runLen := 0, latest := s.tile.latest.setIfInBounds s.who.cid (BitVec.ofNat 32 s.ctx.sclk) }
    ctx := { s.ctx with steps := if 1 < s.ctx.steps then s.ctx.steps - 1 else s.ctx.steps } }
  t.count 0x001

/-! ## Bank conflicts (R191, R223) -/

/-- How many wall cycles the latest of a bundle's local reads waits: each bank serves one operation on one granule in a wall cycle, those
of other units in it first. `busy` are the banks of those, `reads` the granules of the bundle's loads, each with its syllable: the loads of
several syllables do not delay one another (R406, log 24). -/
def bankDelay (busy : List Nat) (reads : List (Word × Nat)) : Nat :=
  let rs := reads.eraseDups
  (rs.map fun g => busy.count (g.2 % 32) + (rs.countP fun r => r.1 == g.1 && r.2 % 32 == g.2 % 32) - 1).foldl max 0

/-- A bundle whose loads must wait for their banks holds its context for that many wall cycles behind its own, and behind the commit of what closes,
which may wait for its translations (Table 2.1, R33, R207). -/
def State.bankHold (s : State) : State :=
  let d := bankDelay s.tile.banks s.iss.banks
  if d = 0 then s
  else
    let t := if s.walking then s else s.settle
    if t.intact s then { t with ctx := { t.ctx with bankLeft := d } } else t

/-- Behind the syllables of a bundle: it is counted, its waits are over, the pc stands behind it, and it ends, or its block closes where a
well-formed hallmark of the right count follows (R79). -/
def State.bundleDone (s : State) : State :=
  let after := s.iss.after
  let c := s.ctx
  let t : State := State.issued { s with ctx := { c with
    pc := after, holds := [], woken := [], safe := false, cur := { c.cur with nb := c.cur.nb + 1 } } }
  let u : State := match t.hallAt after with
    | some (w, m) => if m.count = t.ctx.cur.nb then t.closeBlock after w m else t.endBundle
    | none => t.endBundle
  if u.ctx.ending.isNone then u.bankHold else u

/-- A class-111 syllable where a bundle would begin, and the block not closed: the faults of R79 in order of their reasons. A hallmark of
the right count, which could not be read as its block's last bundle issued, closes the block now. -/
def State.hallmarkAt (s : State) (pc w : Word) : State :=
  match s.fetchWord (pc + 8) with
  | .error c => s.faultAt 0 c 0x03 (pc + 8)
  | .ok y =>
    match Hallmark.of w y with
    | none => s.decodeFault w 0x06 pc
    | some m => if m.count = s.ctx.cur.nb then s.closeLate pc w m else s.decodeFault w 0x07 pc

/-- A step of the debug port that reaches a trap ends there (R394). -/
def State.stepTrap (s old : State) : State :=
  if s.who = old.who && s.ctx.ih && !old.ctx.ih && s.ctx.steps != 0 then { s with ctx := { s.ctx with steps := 1 } } else s

/-- A bundle decoded issues, or is held (R28, R84, R273). The answers that its freeze awaits are written first (R35, R293); trying begins
without the freeze that may hold it. -/
def State.issueBundle (ex : Meaning) (s : State) (b : Bundle) : Host.Outcome State Fault Refusal :=
  let pc := s.ctx.pc
  let s : State := { s with ctx := s.ctx.releaseHeld }
  let s0 : State := State.begins { s with ctx := { s.ctx with frozen := none } } (pc + BitVec.ofNat 64 (8 * b.len))
  match tryAll ex pc s0 b.slots ⟨s0, none, none⟩ with
  | .error o => o
  | .ok t =>
    match t.illegal, t.cause with
    | some u, _ => .next u
    | none, some c => .next { t.s with ctx := { t.s.ctx with frozen := some c }, iss := { t.s.iss with fate := .frozen } }
    | none, none =>
      let s1 : State := State.begins { s with ctx := s.ctx.resume } (pc + BitVec.ofNat 64 (8 * b.len))
      thenNext (runAll ex pc s1 b.slots s1) fun u => if u.iss.fate = .issued then u.bundleDone else u

/-- A bundle that does not decode (R85): an operand check at issue that an earlier syllable of it breaks comes first; else the state `u` that its
fault leaves. -/
def State.decodeFails (ex : Meaning) (s u : State) (early : List Placed) : Host.Outcome State Fault Refusal :=
  match tryAll ex s.ctx.pc s early ⟨s, none, none⟩ with
  | .error o => o
  | .ok t => .next (t.illegal.getD u)

/-- The context in focus issues: an empty bundle of a taken transfer, or the bundle at its pc (R29, R79, R84, R88), behind a commit that its
translations have held up (R207), or a fetch over a link that is being re-keyed (R348). The fate of the latch says what became of it. -/
def State.issueNext (ex : Meaning) (s : State) : Host.Outcome State Fault Refusal :=
  let due := s.ctx.commits
  let old : State := s.begins s.ctx.pc
  let s0 : State := if due && !s.walking then old.commitDue else old
  let o : Host.Outcome State Fault Refusal :=
    if due && s.walking then .next old.freezeWalk
    else if !s0.intact old then .next { s0 with iss := { s0.iss with fate := .moved } }
    else if s.ctx.empties != 0 then .next (State.emptyBundle s0.issued)
    else if s0.codePeer.any fun p => s0.rekeying p.home then .next (s0.freeze .translation)
    else
      let s1 := match s0.codePeer with | some p => s0.fetches p | none => s0
      match s1.fetchWord s.ctx.pc with
      | .error c => .next (s1.faultAt 0 c 0x03 s.ctx.pc)
      | .ok w =>
        if isHall w then .next (s1.hallmarkAt s.ctx.pc w)
        else match s1.decodeAt s.ctx.pc with
          | .error (u, early) => s1.decodeFails ex u early
          | .ok b => s1.issueBundle ex b
  thenNext o fun u => u.stepTrap s

/-! ## Boundaries between blocks (R38, R39, R116, R119, R121) -/

/-- The context stands before the first bundle of a block. -/
def Ctx.atBoundary (c : Ctx) : Bool := c.cur.nb == 0 && c.empties == 0

/-- The boundary is a safe point, or will be one once the blocks that close have committed (R39). -/
def Ctx.atSafe (c : Ctx) : Bool := c.atBoundary && (match c.closings.getLast? with | some x => x.safe && !c.busy | none => c.safe)

/-- A trap that its boundary admits: a cancel trap only at a safe point. -/
def ATrap.admitted (safe : Bool) : ATrap → Bool
  | .cancel _ => safe
  | _ => true

/-- The place of a trap in the order of R119. -/
def ATrap.rank : ATrap → Nat
  | .cancel _ => 0
  | .wound _ => 1
  | .copyFault _ _ _ => 2

/-- The copy of a copy fault. -/
def ATrap.job : ATrap → Nat
  | .copyFault j _ _ => j
  | _ => 0

/-- The trap of R119 that is taken next: the first of the lowest rank, and among copy faults that of the oldest copy. -/
def nextTrap (ts : List ATrap) : Option ATrap :=
  [0, 1, 2].findSome? fun k =>
    let qs := ts.filter fun t => t.rank == k
    qs.find? fun t => qs.all fun u => t.job ≤ u.job

/-- What an asynchronous trap records (Table 6.7). -/
def ATrap.trap : ATrap → Trap
  | .cancel l => ⟨true, 0x29, BitVec.ofNat 8 l, 0, 0⟩
  | .wound n => ⟨true, 0x28, 0, n, 0⟩
  | .copyFault _ d a => ⟨true, 0x10, d, a, 0⟩

/-- An asynchronous trap of the context in focus taken at its present block; HELD stands while others wait (R119). A wound trap withdraws
every wait of its task (R328). -/
def State.takeAsync (s : State) (t : ATrap) : State :=
  let rest := s.ctx.traps.erase t
  let u : State := { s with ctx := { s.ctx with traps := rest } }
  let u : State := match t, s.ctx.task with
    | .wound _, some k => u.withdrawAll k.part k.rank
    | _, _ => u
  (u.takeTrap u.ctx.cur t.trap).stepTrap s

/-- A boundary of the context in focus at which a trap is due: the blocks that close commit, then it is taken (R33, R38). A replay in progress
completes first, and a halted context takes none. -/
def State.boundaryTrap (s : State) : State :=
  if s.ctx.ih || !s.ctx.atBoundary || s.walking || s.ctx.halted || s.tile.replayLeft != 0 then s
  else match nextTrap (s.ctx.traps.filter (ATrap.admitted s.ctx.atSafe)) with
    | none => s
    | some t =>
      let u := s.settle
      if u.intact s && t.admitted u.ctx.atSafe then u.takeAsync t else u

/-- ASYNC_TRAP_TAKEN (R119): of the context in focus, at its block boundary. -/
def execAsyncTrapTaken (s : State) : Host.Outcome State Fault Refusal := .next s.boundaryTrap

/-- The context's one closing block holds an `eret`, whose return follows its commit (R118). -/
def Ctx.returning (c : Ctx) : Bool := match c.closings with | [x] => x.blk.xfer == .eret | _ => false

/-- BLOCK_COMMIT (R33): the assay, and the commit, of the oldest block that closes, with the return that it holds (R118), unless it waits for
translations (R207) or a replay (R38). -/
def execBlockCommit (s : State) : Host.Outcome State Fault Refusal :=
  .next (if s.walking || s.tile.replayLeft != 0 then s else if s.ctx.returning then s.returnNow else s.assay)

/-- The cause of a freeze may have cleared (Table 13.2): a monitor wait or the held waits of a bundle have ended; any other cause is
tested again by the bundle itself, and that of a bank conflict ends with its cycles. -/
def Ctx.mayResume (c : Ctx) : Bool :=
  match c.frozen with
  | none => false
  | some .monitor => c.monitor.isNone
  | some .phaser => c.holds.all fun h => h.answer.isSome || h.refused || h.expired
  | some .bank => false
  | some _ => true

/-- CONTEXT_RESUME (R26, R273): a frozen context issues again, its results in flight at their distances. -/
def execContextResume (c : Src) (s : State) : Host.Outcome State Fault Refusal :=
  if 288 ≤ c.site || 4 ≤ c.cid then .next s
  else
    let x := s.getCtx c
    .next (if x.mayResume && !x.halted then s.setCtx c x.releaseHeld.resume else s)

/-- A context has a task that goes on, and is not halted (R24). -/
def Ctx.runs (c : Ctx) : Bool := c.task.isSome && c.ending.isNone && !c.halted

/-- CUSTODIAN_SHARE_TURN (R24): the counter has reached N − 1 and the custodian is ready: the custodian issues next, and with its bundle the counter
returns to 0. -/
def execCustodianShareTurn (site : Nat) (s : State) : Host.Outcome State Fault Refusal :=
  if 288 ≤ site then .next s
  else
    let t := s.getTile site
    let c := s.getCtx ⟨site, 3⟩
    if t.shareEnd ≤ t.shareCnt && c.runs && c.frozen.isNone then
      .next { s with turns := .context ⟨site, 3⟩ :: s.turns }
    else .next s

/-! ## What a context does beside issuing -/

/-- A cause that switches the context out (Table 13.2). -/
def Freeze.switchesOut : Freeze → Bool
  | .bank | .scoreboard => false
  | _ => true

/-- The context is frozen and switched out. -/
def Ctx.switchedOut (c : Ctx) : Bool := match c.frozen with | some f => f.switchesOut | none => false

/-- A task of a stopped partition ends: at its boundary, or at once where it stands still or in a handler (R387). -/
def Ctx.stopsNow (c : Ctx) : Bool := c.atBoundary || c.frozen.isSome || c.monitor.isSome || c.ih || c.halted

/-- The task in focus stopped with no counter lowered, behind the commit of what closes (R387). -/
def State.stopTask (s : State) : State :=
  let t := s.settle
  if t.ctx.ending.isSome then t else { t with ctx := t.ctx.stop .stopped }

/-- The wound trap of a context switched out mid-block, at that block's entry (R328). -/
def State.frozenWound (s : State) (t : ATrap) : State :=
  let u := s.settle
  if u.intact s then u.takeAsync t else u

/-- A member of a context's gang, or the context itself, is asked to leave (R264). -/
def State.leaving (s : State) (c : Src) : Bool := (s.gangMates c).any fun d => (s.getCtx d).preempt

/-- A context waits at its safe point for its pre-emption (R39, R264, R265). -/
def State.waitsSafe (s : State) (c : Src) : Bool :=
  let x := s.getCtx c
  c.cid < 3 && s.leaving c && x.atSafe && !x.ih && x.chain.isNone && x.comm.defer.isEmpty

/-- The wound among the traps of a context. -/
def Ctx.woundTrap (c : Ctx) : Option ATrap := c.traps.find? fun t => t.rank == 1

/-- What a context with a task has to do before its next bundle, if anything: its end, its partition's stop, a return or a commit that has waited for
translations, a trap, a debug stop, a yield point, its pre-emption (R38, R118, R119, R207, R263, R265, R328, R387, R394). -/
def State.pending (s : State) (c : Src) : Option State :=
  let x := s.getCtx c
  match x.task with
  | none => none
  | some t =>
    if x.ending.isSome then (if s.endWaits c then none else some (s.finish c))
    else if c.cid < 3 && (s.part t.part).stopped && x.stopsNow then some (s.on c State.stopTask)
    else if x.halted then none
    else if x.closings.any fun y => y.blk.xfer == .eret then some (s.on c State.returnNow)
    else if x.bankLeft != 0 && !x.closings.isEmpty then some (s.on c State.settle)
    else match (if x.switchedOut && !x.ih then x.woundTrap else none) with
      | some w => some (s.on c fun s => s.frozenWound w)
      | none =>
        if !x.ih && x.atBoundary && (nextTrap (x.traps.filter (ATrap.admitted x.atSafe))).isSome then some (s.on c State.boundaryTrap)
        else if x.stopReq || x.steps = 1 then some (s.on c State.halt)
        else if x.yieldMark && x.atSafe then
          some (s.on c fun s =>
            let u := s.settle
            if u.intact s then u.yieldPoint c else u)
        else if s.waitsSafe c then
          if !x.closings.isEmpty then some (s.on c State.settle)
          else
            let ms := s.gangMates c
            let areas := (s.part t.part).freeAreas
            if ms.all s.savable && ms.length ≤ areas.length then some ((ms.zip areas).foldl (fun s m => s.saveInto m.1 m.2) s) else none
        else none

/-- What a context does now beside issuing: what it has to do, once a replay in progress is over (R38) and the translations that its closing blocks
need have come (R207). -/
def State.chore (s : State) (c : Src) : Option State :=
  if (s.getTile c.site).replayLeft != 0 || (!(s.getCtx c).closings.isEmpty && s.walkingOf c) then none else s.pending c

/-! ## The choice of R24 -/

/-- The program contexts in cyclic order behind the one that issued last. -/
def cyclic (last : Nat) : List Nat := if last = 0 then [1, 2, 0] else if last = 1 then [2, 0, 1] else [0, 1, 2]

/-- A context holds its tile in place: a bank conflict, or an overlap of the range scoreboard (Table 2.1). -/
def Ctx.inPlace (c : Ctx) : Bool := c.bankLeft != 0 || (c.runs && match c.frozen with | some f => !f.switchesOut | none => false)

/-- A context may be asked for a bundle: it runs, and is not past a boundary at which it has something else to do (R38, R118, R119). -/
def State.asks (s : State) (c : Src) : Bool := (s.getCtx c).runs && !s.waitsSafe c && (s.pending c).isNone

/-- The contexts of a tile that may issue, in the order of R24. None does during a replay (R370) or while one holds the tile in place
(Table 2.1). -/
def State.candidates (s : State) (site : Nat) : List Src :=
  let t := s.getTile site
  let order := if t.shareEnd ≤ t.shareCnt then 3 :: cyclic t.lastCtx else cyclic t.lastCtx ++ [3]
  if t.replayLeft != 0 || [0, 1, 2, 3].any (fun k => (s.getCtx ⟨site, k⟩).inPlace) then []
  else (order.map (Src.mk site)).filter fun c => s.asks c && (s.getCtx c).frozen.isNone

/-- A frozen context is tested as a wall cycle opens: it has nothing else to do first. One that a debug stop has halted is tested too, since its
freeze counts on (R392); during a replay one whose test commits nothing (R38). -/
def State.tested (s : State) (c : Src) : Bool :=
  let x := s.getCtx c
  x.task.isSome && x.ending.isNone && x.mayResume && (x.halted || !s.waitsSafe c) && (s.pending c).isNone
    && ((s.getTile c.site).replayLeft == 0 || x.closings.isEmpty)

/-- A frozen context tested as a wall cycle opens (R273, R391): the bundle that it holds is tried, and where nothing holds it any more the freeze is
over, the answers that it awaits being written (R35); it issues when its turn comes. A halted one is tried at its resume point, and keeps of the
trial the cause that still holds it. -/
def State.thawCtx (ex : Meaning) (s : State) (c : Src) : State :=
  if s.tested c then
    match State.issueNext ex ((s.modCtx c Ctx.goOn).focus c) with
    | .next t =>
      if t.iss.fate = .frozen then
        if (s.getCtx c).halted then s.modCtx c fun x => { x with frozen := t.ctx.frozen } else t.focus s.who
      else s.on c fun s =>
        let u := s.settle
        if u.intact s then { u with ctx := u.ctx.releaseHeld.resume } else u
    | _ => s
  else s

/-- A site's next wall cycle opens: the one before it has ended, and its frozen contexts are tested (R273). -/
def State.opens (ex : Meaning) (site : Nat) (s : State) : State :=
  let s := s.endCycle site
  if s.heldByPulse site then s
  else [0, 1, 2, 3].foldl (fun s k => s.thawCtx ex ⟨site, k⟩) s

/-- The first of some contexts whose bundle issues, or whose fault is taken; one held in place holds the others too (Table 2.1). The
second component says whether one was found. -/
def issueFirst (ex : Meaning) : List Src → State → Host.Outcome State Fault Refusal × Bool
  | [], s => (.next s, false)
  | c :: cs, s =>
    match State.issueNext ex (s.focus c) with
    | .next t =>
      if t.iss.fate != .frozen then (.next t, true)
      else if t.ctx.switchedOut then issueFirst ex cs t
      else (.next t, false)
    | o => (o, true)

/-- One wall cycle of a tile: the one before it ends, a bundle issues if one can, and the rounds whose time-outs it completes close (R292). A pulse
that is swallowed is no cycle of the tile (R379). -/
def wallCycle (ex : Meaning) (site : Nat) (s : State) : Host.Outcome State Fault Refusal × Bool :=
  let s := s.opens ex site
  if s.heldByPulse site then (.next (s.pulse (clusterOf site)).closeDue, false)
  else
    let (o, b) := issueFirst ex (s.candidates site) s
    (thenNext o fun t => (t.tick site).closeDue, b)

/-- The sites that have left their reset state, and those with a round open at their router, the one in focus last. -/
def State.sites (s : State) : List Nat :=
  let known : List Nat := (s.parkedTile.map fun e => e.1).reverse ++ (s.parkedCtx.map fun e => e.1.site) ++ s.trees.map fun e => e.1 / 16
  known.eraseDups.filter (fun k => k != s.who.site && k < 288) ++ [s.who.site]

/-- Wall cycles of the sites in turn until a bundle issues. -/
def issueAny (ex : Meaning) : List Nat → State → Host.Outcome State Fault Refusal
  | [], s => .next s
  | site :: r, s =>
    match wallCycle ex site s with
    | (.next t, false) => issueAny ex r t
    | (o, _) => o

/-! ## Work that may be served (R214) -/

/-- Two messages keep their order: from one context to one destination, and of one tree for packets. What a custodian has begun of itself keeps
none. A charge goes by a channel of its own, to the custodian of its site (R181, R411). -/
def sameWay (a b : Work) : Bool :=
  a.src == b.src && a.dst == b.dst && !(a.src.cid == 3 && a.dst == .seq) && (match a.ev, b.ev with
    | .reductionPacketArrival x t p _, .reductionPacketArrival y u q _ => x == y && t == u && p == q
    | .reductionRootBufferEntry _ t, .reductionRootBufferEntry _ u => t == u
    | _, .reductionRootBufferEntry .. | .reductionRootBufferEntry .., _ => false
    | _, _ => true)

/-- What an event waits for at its destination. -/
def State.mayServe (s : State) (ev : Instr) : Bool :=
  match ev with
  | .streamChunkDrain c => s.chunkFixed c
  | .phaserByteAddition m _ _ => m.dev == Config.device || !s.rekeying (.peerMem m.dev)
  | .phaserErrorArrival m _ => m.dev == Config.device || !s.rekeying (.peerMem m.dev)
  | .copyBytesLand site id => match s.job? site id with | some j => j.suspended || s.mayLand site j | none => true
  | .remoteAccessArrival r | .joinDecrement _ r => !s.rekeying r.home
  | .reductionPacketArrival site t port p => !s.packetHeld site t port p
  | .reductionRootBufferEntry site t => (s.tree site t).root.isNone || (s.tree site t).stuck.isNone
  | .meshMapMove site | .quarantineSite site => s.siteIdle site
  | .partitionReset p => !s.partBusy (BitVec.ofNat 4 p)
  | .tlbInvalidation q _ _ => !s.pasidBusy q
  | .pasidTeardown q => !s.pasidBusy q && !s.pasidWalks q
  | .frameOwnershipChange f _ => !s.frameBusy f
  | .configWindowWrite (.ats _ _) _ => !s.hostBusy
  | _ => true

/-- A message to a clasp unit, where requests and releases arrive in release order (R318). -/
def Work.toClasp (w : Work) : Bool := match w.dst with | .clasp _ => true | _ => false

/-- An item of the work as it stands: a `phsig`, which leaves only behind its drain, goes where the mesh map then names its tile (R344, R358). -/
def State.leaves (s : State) (w : Work) : Work := if w.isSignal then s.routed w else w

/-- Item n of the work may be served: nothing of the same way stands before it, but for messages of another kind that wait for a drain. -/
def State.serveable (s : State) (n : Nat) : Bool :=
  match s.work[n]? with
  | none => false
  | some w =>
    let before := s.work.take n
    !heldByDrain before w && s.mayServe w.ev
      && !(before.zipIdx.any fun e => sameWay (s.leaves e.1) (s.leaves w) && (w.toClasp || !heldByDrain (s.work.take e.2) e.1))

/-- The oldest item that may be served. -/
def State.nextWork (s : State) : Option Nat := (List.range s.work.length).find? s.serveable

/-- A charge that a message to its site, served now, has overtaken: it waits behind none of the later ones any longer, so that it arrives before the
next of them (R411, log 78). -/
def Work.overtaken (w e : Work) : Work :=
  match e.ev with
  | .transferCharge k => if e.src == w.src && w.dst == .tile k then { e with dst := .tile k } else e
  | _ => e

/-- An item served. -/
def serve (ex : Meaning) (n : Nat) (s : State) : Host.Outcome State Fault Refusal :=
  match s.work[n]? with
  | some w => ex (s.leaves w).ev { s with work := (s.work.take n).map (s.leaves w).overtaken ++ s.work.drop (n + 1) }
  | none => .next s

/-! ## What the sequencer does of itself -/

/-- A partition whose rollback is due, its tasks having stopped (R204, R387). -/
def State.rollbackDue (s : State) : Option State :=
  (allParts.find? fun p => (s.part p).rollback && !s.partBusy p).map fun p => s.rollBack p

/-- A partition whose error log has a line more than its region, and room for it there: the line stands in device memory, its address and its
reason (Table 16.3, log 9). -/
def State.errorDue (s : State) : Option State :=
  allParts.findSome? fun p =>
    let x := s.part p
    let (base, size) := logRegion (x.word 13)
    match x.errlog[x.errOut]? with
    | some e =>
      if size < 16 * (x.errOut + 1) then none
      else
        let t := s.setPart p { x with errOut := x.errOut + 1 }
        some (t.homeWrite .dram (base + 16 * x.errOut) (wordBytes [e.addr, BitVec.ofNat 64 e.reason]) 0 false)
    | none => none

/-- The next packet of a host queue, or the WAIT whose condition holds (R267, R269). -/
def State.hostEvent (s : State) : Option Instr :=
  allParts.findSome? fun p => (s.part p).hq.findSome? fun q =>
    match s.queueEvent p q.1 with
    | some (.waitConditionMet a b) => if s.waitMet p q.1 then some (.waitConditionMet a b) else none
    | e => e

/-- Whether records that start by themselves, or gangs, are queued. -/
def State.queued (s : State) (gang : Bool) : Bool :=
  s.parts.toList.any fun x => x.queues.toList.any fun q => q.any fun r => x.alone r != gang

/-- A gang that can start (R264). -/
def State.gangEvent (s : State) : Option Instr :=
  if s.queued true then allParts.findSome? fun p => (List.range 272).findSome? fun b =>
    if (s.gangAt p b).isSome then some (.gangPlacement p b) else none
  else none

/-- An idle context for which a record is queued (R254). -/
def State.popEvent (s : State) : Option Instr :=
  if s.queued false then ((List.range 288).filter fun site => (s.logicalOf site).isSome).findSome? fun site =>
    [0, 1, 2].findSome? fun k => if (s.popChoice ⟨site, k⟩).isSome then some (.taskPop ⟨site, k⟩) else none
  else none

/-- A reduction round whose time-out has come (R292). -/
def State.roundEvent (s : State) : Option Instr :=
  (s.trees.find? fun e => s.mayTimeOut (e.1 / 16) (e.1 % 16)).map fun e => .reductionRoundTimeout (e.1 / 16) (e.1 % 16)

/-- An event of a router or of the sequencer that is due. -/
def State.sequencerEvent (s : State) : Option Instr := ((s.roundEvent.or s.hostEvent).or s.gangEvent).or s.popEvent

/-! ## What moves next (log 6) -/

/-- The machine moves of itself: the oldest work that may be served, what a context does beside issuing, a rollback, a line of an error log, the
sequencer, or else the wall cycles of the sites up to one in which a bundle issues. -/
def moveNext (ex : Meaning) (s : State) : Host.Outcome State Fault Refusal :=
  match s.nextWork with
  | some n => serve ex n s
  | none =>
    match s.contexts.findSome? s.chore with
    | some t => .next t
    | none =>
      match s.rollbackDue.or s.errorDue with
      | some t => .next t
      | none =>
        match s.sequencerEvent with
        | some i => ex i s
        | none => issueAny ex s.sites s

/-- The port by which what a site sends reaches another, in the order of R354: local, west, north, east, south. It goes column first, then row
(R344). -/
def portFrom (a b : Nat) : Nat :=
  if a / 16 < b / 16 then 2
  else if b / 16 < a / 16 then 4
  else if a % 16 < b % 16 then 1
  else if b % 16 < a % 16 then 3
  else 0

/-- The port of an item of the work: of a copy's bytes, which come over the mesh to the tile of their phaser, that of their way. -/
def State.portOf (s : State) (w : Work) : Nat :=
  match (s.leaves w).dst, w.ev with
  | .tile site, _ => portFrom w.src.site site
  | _, .copyBytesLand site id => match s.job? site id with
    | some j => (match j.cmd.form with | .weave => portFrom site (s.phNow j.ph).site | _ => 0)
    | none => 0
  | _, _ => 0

/-- The class of an item of the work in the order in which a bank serves those of one wall cycle (R191): 0 for what reaches no bank, and for an
atomic; then an arriving store or copy; then the copy engine and the stream units. -/
def State.bankClass (s : State) (w : Work) : Nat :=
  match w.ev with
  | .remoteAccessArrival r => (match r.body with | .store .. => 1 | _ => 0)
  | .copyBytesLand site id => match s.job? site id with
    | some j => (match j.cmd.form with | .weave | .peer | .chain _ => 1 | _ => 2)
    | none => 0
  | .streamChunkDrain _ => 2
  | _ => 0

/-- The sites whose banks serve an item of the work. -/
def State.bankSites (s : State) (w : Work) : List Nat :=
  match w.ev with
  | .remoteAccessArrival r => (match r.home, r.body with | _, .phexp _ | _, .phrd _ => [] | .pool site, _ => [site] | _, _ => [])
  | .copyBytesLand site id => match s.job? site id with
    | some j => (match j.cmd.form with | .weave | .peer | .chain _ => [site, (s.phNow j.ph).site] | _ => [site])
    | none => []
  | .streamChunkDrain c => [c.site]
  | _ => []

/-- The phasers of this device at which an item of the work is an event: a message, or bytes that count down as they land (Table 17.3). -/
def State.phasersOf (s : State) (w : Work) : List Nat :=
  let key (m : PhMsg) : List Nat := if m.dev = Config.device then [phaserKey m.site m.idx] else []
  match (s.leaves w).ev with
  | .phaserRegistration m .. | .phaserDrop m _ | .phaserSignal m | .phaserByteAddition m .. | .phaserErrorArrival m _ | .phaserWaitArrival m .. => key m
  | .remoteAccessArrival r => (match r.home, r.body with | .pool site, .phexp _ | .pool site, .phrd _ => [phaserKey site r.off] | _, _ => [])
  | .copyBytesLand site id => match s.job? site id with
    | some j => if j.chained || !j.cmd.counts then [] else key (s.phNow j.ph)
    | none => []
  | .chainCompare c => ((s.getTile c.site).jobs.filter fun j => (s.getCtx c).chain.any fun ch => ch.jobs.contains j.id).flatMap fun j => key (s.phNow j.ph)
  | _ => []

/-- An item that arrives in the wall cycle of another is served before it: of two events at one phaser that of the earlier port (R354), of two others
that a bank of one site serves that of the earlier class (R191). -/
def State.precedes (s : State) (a b : Work) : Bool :=
  if (s.phasersOf a).any fun k => (s.phasersOf b).contains k then s.portOf a < s.portOf b
  else (s.bankSites a).any (fun k => (s.bankSites b).contains k) && s.bankClass a < s.bankClass b

/-- Of items of the work that arrive in one wall cycle, the one that is served first: one that none of the others precedes, as they left; where each is
preceded, the oldest (R191, R354, log 24). -/
def State.firstOf (s : State) (ns : List Nat) : Option Nat :=
  let ms := (List.range s.work.length).filter fun n => ns.contains n && s.serveable n
  let free (n : Nat) : Bool := ms.all fun m => match s.work[m]?, s.work[n]? with
    | some a, some b => !s.precedes a b
    | _, _ => true
  (ms.find? free).or ms.head?

/-- The contexts of a site. -/
def siteCtxs (site : Nat) : List Src := [⟨site, 0⟩, ⟨site, 1⟩, ⟨site, 2⟩, ⟨site, 3⟩]

/-- The peer device whose message an event is: its contexts stand at site 288 and its number (log 81). -/
def peerOf (i : Instr) : Option Nat :=
  let site := match i with
    | .remoteAccessArrival r => r.src.site
    | .phaserByteAddition m _ _ | .phaserErrorArrival m _ => m.src.site
    | _ => 0
  if 288 ≤ site then some (site - 288) else none

/-- An event from outside: that of a peer comes over a link that is up, which counts it (R348, R350). -/
def State.outsideEvent (ex : Meaning) (s : State) (i : Instr) : Host.Outcome State Fault Refusal :=
  match peerOf i with
  | some d => if 64 ≤ d || d = Config.device || !s.hears d then .next s else ex i (s.received (.peerMem d))
  | none => ex i s

/-- The next turn taken. A slot form is no event, and no site stands outside the package. A context whose bundle is asked for first does
what it has to do at its boundary (R38), and issues if R24 selects it. The list of turns is the model's own (log 6). -/
def takeTurn (ex : Meaning) (t : Turn) (s : State) : Host.Outcome State Fault Refusal :=
  match t with
  | .event i => if i.parts.isNone then s.outsideEvent ex i else .next s
  | .work n => if s.serveable n then serve ex n s else .next s
  | .together ns =>
    match s.firstOf ns with
    | none => .next s
    | some n =>
      let rest := (ns.filter (· != n)).map fun m => if n < m then m - 1 else m
      serve ex n { s with turns := if rest.isEmpty then s.turns else .together rest :: s.turns }
  | .bundle site =>
    if 288 ≤ site then .next s
    else match (siteCtxs site).findSome? s.chore with
      | some t => .next t
      | none => (wallCycle ex site s).1
  | .context c =>
    if 288 ≤ c.site then .next s
    else match s.chore c with
      | some t => .next t
      | none => if ((s.opens ex c.site).candidates c.site).head? = some c then (wallCycle ex c.site s).1 else .next s

/-! ## A word placed where the next step fetches -/

/-- The context in focus can fetch its next four syllables, and issues them. -/
def State.fetchReady (s : State) : Bool :=
  (s.candidates s.who.site).contains s.who && s.ctx.empties == 0 && s.ctx.frozen.isNone
    && [0, 8, 16, 24].all fun k => match s.translate s.who.site s.ctx.part (s.ctx.pc + BitVec.ofNat 64 k) .fetch with
      | .ok p => p.home == .dram && !s.frameRefuses p.off s.ctx.part s.who.cid (pteE p.leaf)
      | _ => false

/-- The leaf of a 2 MiB code page of a partition at physical address 0x200000: V, X, LEAF and E. -/
def codeLeaf : Word := 0x0000000000200119

/-- The context in focus is the one that R24 selects, and nothing holds its tile: of a cluster that would swallow its pulse, no pulse is swallowed. -/
def State.chosen (s : State) : State :=
  let t := s.tile
  let s : State := { s with tile := { t with
    lastCtx := (s.who.cid + 2) % 3
    share := if t.share.toNat < 2 then 2 else t.share
    shareCnt := if s.who.cid = 3 then t.share.toNat else 0 } }
  let s := if s.heldByPulse s.who.site then s.setClClock (clusterOf s.who.site) { s.clClock (clusterOf s.who.site) with k := 0 } else s
  [0, 1, 2, 3].foldl (fun s k =>
    if (s.getCtx ⟨s.who.site, k⟩).inPlace then s.modCtx ⟨s.who.site, k⟩ fun c => { c with frozen := none, bankLeft := 0 } else s) s

/-- A task of partition 0 loaded into the context in focus (log 18): its page held by the micro-TLB, its frame owned by the partition, its pc
at the page, with eight accumulators. -/
def State.loaded (s : State) : State :=
  let s := if (s.part 0).stopped then s.setPart 0 { s.part 0 with stopped := false } else s
  let r : RecWords := (Vector.replicate 8 0).set 0 0x200000
  let c : Ctx := Ctx.begin s.ctx ⟨r, r, 0, 0, false, none⟩ (Regs.start r 0 8) 0x200000 0
  let pool : Word := 8 <<< (4 * s.who.cid)
  { s with
    ctx := { c with halted := false, stopReq := false, steps := 0 }
    tile := { s.tile with replayLeft := 0, curPart := some 0, curPool := some pool }
    tlb := ⟨s.who.site, (s.part 0).pasid, 0x200000, 21, codeLeaf⟩ :: s.tlb
    frames := clSet 0xFF s.frames 1 0 }

/-- The words of an instruction of `nbits` bits as a bundle of its own: the stop bit on its last syllable. -/
def bundleWords (nbits w : Nat) : List Word :=
  let a := BitVec.ofNat 64 w
  if nbits ≤ 64 then [a ||| 0x8000000000000000] else [a &&& 0x7FFFFFFFFFFFFFFF, BitVec.ofNat 64 (w >>> 64) ||| 0x8000000000000000]

/-- A hallmark that closes the present block behind one more bundle. -/
def State.nextHall (s : State) : List Word :=
  let h := Hallmark.words ⟨(s.ctx.cur.nb + 1) % 256, 2, false, false, 0, 0, 0, 0⟩
  [h.1, h.2]

/-- Words written at the physical place of the pc. -/
def State.putCode (s : State) (ws : List Word) : State :=
  match s.translate s.who.site s.ctx.part s.ctx.pc .fetch with
  | .ok p => s.putBytes p.home p.off (wordBytes ws)
  | _ => s

/-- An instruction stored where the context in focus fetches next, and that context chosen to issue. -/
def State.withWord (s : State) (nbits w : Nat) : State :=
  let t := if s.fetchReady then s else s.loaded
  let u := State.chosen (t.putCode (bundleWords nbits w ++ t.nextHall))
  { u with turns := .context u.who :: u.turns }

end Sys2Proof.Machine
end

