-- ==== Sys2Proof/Machine/Dispatch.lean ====
section
/-! DEFINITION. Which meaning an instruction or event has: one arm per row of spec/opcode_table.json. -/

namespace Sys2Proof.Machine

def exec (i : Instr) (s : State) : Host.Outcome State Fault Refusal :=
  match i with
  | .nop h => Sys2Proof.Machine.execNop h s
  | .add h ty sat d s1 s2 => Sys2Proof.Machine.execAdd h ty sat d s1 s2 s
  | .sub h ty sat d s1 s2 => Sys2Proof.Machine.execSub h ty sat d s1 s2 s
  | .mul h ty d s1 s2 => Sys2Proof.Machine.execMul h ty d s1 s2 s
  | .mulh h ty d s1 s2 => Sys2Proof.Machine.execMulh h ty d s1 s2 s
  | .div h ty d s1 s2 => Sys2Proof.Machine.execDiv h ty d s1 s2 s
  | .rem h ty d s1 s2 => Sys2Proof.Machine.execRem h ty d s1 s2 s
  | .min h ty d s1 s2 => Sys2Proof.Machine.execMin h ty d s1 s2 s
  | .max h ty d s1 s2 => Sys2Proof.Machine.execMax h ty d s1 s2 s
  | .and h d s1 s2 => Sys2Proof.Machine.execAnd h d s1 s2 s
  | .or h d s1 s2 => Sys2Proof.Machine.execOr h d s1 s2 s
  | .xor h d s1 s2 => Sys2Proof.Machine.execXor h d s1 s2 s
  | .shl h ty d s1 s2 => Sys2Proof.Machine.execShl h ty d s1 s2 s
  | .shr h ty d s1 s2 => Sys2Proof.Machine.execShr h ty d s1 s2 s
  | .sra h ty d s1 s2 => Sys2Proof.Machine.execSra h ty d s1 s2 s
  | .sel h d s1 s2 pn => Sys2Proof.Machine.execSel h d s1 s2 pn s
  | .clz h ty d s1 => Sys2Proof.Machine.execClz h ty d s1 s
  | .ctz h ty d s1 => Sys2Proof.Machine.execCtz h ty d s1 s
  | .popc h ty d s1 => Sys2Proof.Machine.execPopc h ty d s1 s
  | .cmp h c ty pd s1 s2 => Sys2Proof.Machine.execCmp h c ty pd s1 s2 s
  | .pand h pd p1 p2 => Sys2Proof.Machine.execPand h pd p1 p2 s
  | .por h pd p1 p2 => Sys2Proof.Machine.execPor h pd p1 p2 s
  | .pxor h pd p1 p2 => Sys2Proof.Machine.execPxor h pd p1 p2 s
  | .pandn h pd p1 p2 => Sys2Proof.Machine.execPandn h pd p1 p2 s
  | .tfence h => Sys2Proof.Machine.execTfence h s
  | .addi h ty d s1 imm => Sys2Proof.Machine.execAddi h ty d s1 imm s
  | .andi h d s1 imm => Sys2Proof.Machine.execAndi h d s1 imm s
  | .ori h d s1 imm => Sys2Proof.Machine.execOri h d s1 imm s
  | .xori h d s1 imm => Sys2Proof.Machine.execXori h d s1 imm s
  | .shli h ty d s1 k => Sys2Proof.Machine.execShli h ty d s1 k s
  | .shri h ty d s1 k => Sys2Proof.Machine.execShri h ty d s1 k s
  | .srai h ty d s1 k => Sys2Proof.Machine.execSrai h ty d s1 k s
  | .cmpi h c ty pd s1 imm => Sys2Proof.Machine.execCmpi h c ty pd s1 imm s
  | .movi h d imm => Sys2Proof.Machine.execMovi h d imm s
  | .bfx h ty d s1 pos wm1 => Sys2Proof.Machine.execBfx h ty d s1 pos wm1 s
  | .bfi h d s1 pos wm1 => Sys2Proof.Machine.execBfi h d s1 pos wm1 s
  | .mfc h d n => Sys2Proof.Machine.execMfc h d n s
  | .mtc h n s1 => Sys2Proof.Machine.execMtc h n s1 s
  | .trap h imm => Sys2Proof.Machine.execTrap h imm s
  | .br h tsel => Sys2Proof.Machine.execBr h tsel s
  | .jr h xr => Sys2Proof.Machine.execJr h xr s
  | .call h xr tsel => Sys2Proof.Machine.execCall h xr tsel s
  | .ret h xr => Sys2Proof.Machine.execRet h xr s
  | .loop h xr tsel => Sys2Proof.Machine.execLoop h xr tsel s
  | .loopi h n tsel => Sys2Proof.Machine.execLoopi h n tsel s
  | .swp h xr tsel stg => Sys2Proof.Machine.execSwp h xr tsel stg s
  | .eret h => Sys2Proof.Machine.execEret h s
  | .lstamp h d s1 imm => Sys2Proof.Machine.execLstamp h d s1 imm s
  | .lseed h vec d imm => Sys2Proof.Machine.execLseed h vec d imm s
  | .ltag h file d s1 => Sys2Proof.Machine.execLtag h file d s1 s
  | .ltagG h d s1 imm => Sys2Proof.Machine.execLtagG h d s1 imm s
  | .lfold h d => Sys2Proof.Machine.execLfold h d s
  | .mark h imm => Sys2Proof.Machine.execMark h imm s
  | .dgrd h g => Sys2Proof.Machine.execDgrd h g s
  | .lea h d m => Sys2Proof.Machine.execLea h d m s
  | .ld h ty sp d m ssel hint => Sys2Proof.Machine.execLd h ty sp d m ssel hint s
  | .st h ty sp xs m hint => Sys2Proof.Machine.execSt h ty sp xs m hint s
  | .vld h ty sp vd m ssel hint => Sys2Proof.Machine.execVld h ty sp vd m ssel hint s
  | .vst h ty sp vs m hint => Sys2Proof.Machine.execVst h ty sp vs m hint s
  | .vgath h ty vd xb vi off ssel hint => Sys2Proof.Machine.execVgath h ty vd xb vi off ssel hint s
  | .vscat h ty vs xb vi off hint => Sys2Proof.Machine.execVscat h ty vs xb vi off hint s
  | .ldblk h s1 s2 k ph hint => Sys2Proof.Machine.execLdblk h s1 s2 k ph hint s
  | .ldl h ty d m hint => Sys2Proof.Machine.execLdl h ty d m hint s
  | .evblk h k => Sys2Proof.Machine.execEvblk h k s
  | .bfins h o => Sys2Proof.Machine.execBfins h o s
  | .ffcs h o => Sys2Proof.Machine.execFfcs h o s
  | .plset h o => Sys2Proof.Machine.execPlset h o s
  | .mwait h ty xd m ssel hint => Sys2Proof.Machine.execMwait h ty xd m ssel hint s
  | .atomAdd h o => Sys2Proof.Machine.execAtomAdd h o s
  | .atomFadd h o => Sys2Proof.Machine.execAtomFadd h o s
  | .atomMin h o => Sys2Proof.Machine.execAtomMin h o s
  | .atomMax h o => Sys2Proof.Machine.execAtomMax h o s
  | .atomAnd h o => Sys2Proof.Machine.execAtomAnd h o s
  | .atomOr h o => Sys2Proof.Machine.execAtomOr h o s
  | .atomXor h o => Sys2Proof.Machine.execAtomXor h o s
  | .atomSwp h o => Sys2Proof.Machine.execAtomSwp h o s
  | .atomCas h o => Sys2Proof.Machine.execAtomCas h o s
  | .copy h out slice s1 v2 s3 ph => Sys2Proof.Machine.execCopy h out slice s1 v2 s3 ph s
  | .copyr h s1 s2 s3 ph => Sys2Proof.Machine.execCopyr h s1 s2 s3 ph s
  | .copyx h s1 s2 s3 ph => Sys2Proof.Machine.execCopyx h s1 s2 s3 ph s
  | .copyc h s1 s2 s3 ph last => Sys2Proof.Machine.execCopyc h s1 s2 s3 ph last s
  | .fence h sc => Sys2Proof.Machine.execFence h sc s
  | .drain h sc => Sys2Proof.Machine.execDrain h sc s
  | .spawn h s1 => Sys2Proof.Machine.execSpawn h s1 s
  | .join h s1 => Sys2Proof.Machine.execJoin h s1 s
  | .tend h => Sys2Proof.Machine.execTend h s
  | .cancel h s1 level => Sys2Proof.Machine.execCancel h s1 level s
  | .ccrd h d s1 level => Sys2Proof.Machine.execCcrd h d s1 level s
  | .yield h => Sys2Proof.Machine.execYield h s
  | .sbind h k s1 => Sys2Proof.Machine.execSbind h k s1 s
  | .sunbind h k => Sys2Proof.Machine.execSunbind h k s
  | .sadv h k n => Sys2Proof.Machine.execSadv h k n s
  | .rsend h vs t op => Sys2Proof.Machine.execRsend h vs t op s
  | .rrecv h vd xs t => Sys2Proof.Machine.execRrecv h vd xs t s
  | .clacq h d s1 mode => Sys2Proof.Machine.execClacq h d s1 mode s
  | .clupg h d s1 mode => Sys2Proof.Machine.execClupg h d s1 mode s
  | .clrel h d s1 all => Sys2Proof.Machine.execClrel h d s1 all s
  | .cltry h d s1 mode => Sys2Proof.Machine.execCltry h d s1 mode s
  | .clqry h d s1 => Sys2Proof.Machine.execClqry h d s1 s
  | .phreg h ref sc mode => Sys2Proof.Machine.execPhreg h ref sc mode s
  | .phdrop h ref mode => Sys2Proof.Machine.execPhdrop h ref mode s
  | .phsig h ref => Sys2Proof.Machine.execPhsig h ref s
  | .phwait h d ref s2 => Sys2Proof.Machine.execPhwait h d ref s2 s
  | .phsw h d ref s2 s3 => Sys2Proof.Machine.execPhsw h d ref s2 s3 s
  | .phexp h d ref s2 => Sys2Proof.Machine.execPhexp h d ref s2 s
  | .phrd h d ref w => Sys2Proof.Machine.execPhrd h d ref w s
  | .vadd h m vd vs1 vs2 => Sys2Proof.Machine.execVadd h m vd vs1 vs2 s
  | .vsub h m vd vs1 vs2 => Sys2Proof.Machine.execVsub h m vd vs1 vs2 s
  | .vmul h m vd vs1 vs2 => Sys2Proof.Machine.execVmul h m vd vs1 vs2 s
  | .vfma h m vd vs1 vs2 vs3 => Sys2Proof.Machine.execVfma h m vd vs1 vs2 vs3 s
  | .vfms h m vd vs1 vs2 vs3 => Sys2Proof.Machine.execVfms h m vd vs1 vs2 vs3 s
  | .vmin h m vd vs1 vs2 => Sys2Proof.Machine.execVmin h m vd vs1 vs2 s
  | .vmax h m vd vs1 vs2 => Sys2Proof.Machine.execVmax h m vd vs1 vs2 s
  | .vabs h m vd vs1 => Sys2Proof.Machine.execVabs h m vd vs1 s
  | .vneg h m vd vs1 => Sys2Proof.Machine.execVneg h m vd vs1 s
  | .vcmp h c m vd vs1 vs2 => Sys2Proof.Machine.execVcmp h c m vd vs1 vs2 s
  | .vsel h vd vs1 vs2 vs3 => Sys2Proof.Machine.execVsel h vd vs1 vs2 vs3 s
  | .vand h vd vs1 vs2 => Sys2Proof.Machine.execVand h vd vs1 vs2 s
  | .vor h vd vs1 vs2 => Sys2Proof.Machine.execVor h vd vs1 vs2 s
  | .vxor h vd vs1 vs2 => Sys2Proof.Machine.execVxor h vd vs1 vs2 s
  | .vnot h vd vs1 => Sys2Proof.Machine.execVnot h vd vs1 s
  | .vshl h fmt vd vs1 vs2 => Sys2Proof.Machine.execVshl h fmt vd vs1 vs2 s
  | .vshr h fmt vd vs1 vs2 => Sys2Proof.Machine.execVshr h fmt vd vs1 vs2 s
  | .vsra h fmt vd vs1 vs2 => Sys2Proof.Machine.execVsra h fmt vd vs1 vs2 s
  | .vcvt h m sfmt vd vs1 => Sys2Proof.Machine.execVcvt h m sfmt vd vs1 s
  | .vnarrow h m sfmt vd vs1 scale => Sys2Proof.Machine.execVnarrow h m sfmt vd vs1 scale s
  | .vexp2 h m vd vs1 => Sys2Proof.Machine.execVexp2 h m vd vs1 s
  | .vrcp h m vd vs1 => Sys2Proof.Machine.execVrcp h m vd vs1 s
  | .vredsum h m vd vs1 => Sys2Proof.Machine.execVredsum h m vd vs1 s
  | .vredmax h m vd vs1 => Sys2Proof.Machine.execVredmax h m vd vs1 s
  | .vperm h vd vs1 vs2 => Sys2Proof.Machine.execVperm h vd vs1 vs2 s
  | .vbcast h vd xs1 => Sys2Proof.Machine.execVbcast h vd xs1 s
  | .vext h fmt xd vs1 k => Sys2Proof.Machine.execVext h fmt xd vs1 k s
  | .vins h vd xs1 k => Sys2Proof.Machine.execVins h vd xs1 k s
  | .vlane h vd => Sys2Proof.Machine.execVlane h vd s
  | .setvl h xs1 => Sys2Proof.Machine.execSetvl h xs1 s
  | .vmov h vd vs1 => Sys2Proof.Machine.execVmov h vd vs1 s
  | .scacc h acc ver vec rnd sat => Sys2Proof.Machine.execScacc h acc ver vec rnd sat s
  | .vdefer h vm vs1 nm1 id => Sys2Proof.Machine.execVdefer h vm vs1 nm1 id s
  | .vdrain h vd vmap nm1 id => Sys2Proof.Machine.execVdrain h vd vmap nm1 id s
  | .mnest h s1 => Sys2Proof.Machine.execMnest h s1 s
  | .mgoBf16 h => Sys2Proof.Machine.execMgoBf16 h s
  | .mgoF8e4 h => Sys2Proof.Machine.execMgoF8e4 h s
  | .mgoF8e5 h => Sys2Proof.Machine.execMgoF8e5 h s
  | .mgoI8 h => Sys2Proof.Machine.execMgoI8 h s
  | .mgoI4x h => Sys2Proof.Machine.execMgoI4x h s
  | .mblkBf16 h o => Sys2Proof.Machine.execMblkBf16 h o s
  | .mblkF8e4 h o => Sys2Proof.Machine.execMblkF8e4 h o s
  | .mblkF8e5 h o => Sys2Proof.Machine.execMblkF8e5 h o s
  | .mblkI8 h o => Sys2Proof.Machine.execMblkI8 h o s
  | .mblkI4x h o => Sys2Proof.Machine.execMblkI4x h o s
  | .mzero h acc => Sys2Proof.Machine.execMzero h acc s
  | .mdrain h fmt rnd sat acc s1 s2 r0 nm1 => Sys2Proof.Machine.execMdrain h fmt rnd sat acc s1 s2 r0 nm1 s
  | .mstat h d => Sys2Proof.Machine.execMstat h d s
  | .touch h seed const => Sys2Proof.Machine.execTouch h seed const s
  | .blockCommit => Sys2Proof.Machine.execBlockCommit s
  | .transferCharge site => Sys2Proof.Machine.execTransferCharge site s
  | .asyncResultArrival a => Sys2Proof.Machine.execAsyncResultArrival a s
  | .contextResume c => Sys2Proof.Machine.execContextResume c s
  | .custodianShareTurn site => Sys2Proof.Machine.execCustodianShareTurn site s
  | .asyncTrapTaken => Sys2Proof.Machine.execAsyncTrapTaken s
  | .pageWalkComplete site pasid va => Sys2Proof.Machine.execPageWalkComplete site pasid va s
  | .remoteAccessArrival r => Sys2Proof.Machine.execRemoteAccessArrival r s
  | .monitorWakeup c => Sys2Proof.Machine.execMonitorWakeup c s
  | .ldblkFillComplete site slot => Sys2Proof.Machine.execLdblkFillComplete site slot s
  | .copyBytesLand site job => Sys2Proof.Machine.execCopyBytesLand site job s
  | .copyFault site job detail addr => Sys2Proof.Machine.execCopyFault site job detail addr s
  | .chainCompare c => Sys2Proof.Machine.execChainCompare c s
  | .streamChunkFetch k => Sys2Proof.Machine.execStreamChunkFetch k s
  | .streamChunkDrain c => Sys2Proof.Machine.execStreamChunkDrain c s
  | .blockProductIssue => Sys2Proof.Machine.execBlockProductIssue s
  | .partialSumDelivery => Sys2Proof.Machine.execPartialSumDelivery s
  | .touchstoneCompare => Sys2Proof.Machine.execTouchstoneCompare s
  | .phaserRegistration m mode sc => Sys2Proof.Machine.execPhaserRegistration m mode sc s
  | .phaserDrop m mode => Sys2Proof.Machine.execPhaserDrop m mode s
  | .phaserSignal m => Sys2Proof.Machine.execPhaserSignal m s
  | .phaserByteAddition m bytes job => Sys2Proof.Machine.execPhaserByteAddition m bytes job s
  | .phaserErrorArrival m bytes => Sys2Proof.Machine.execPhaserErrorArrival m bytes s
  | .phaserWaitArrival m p id => Sys2Proof.Machine.execPhaserWaitArrival m p id s
  | .phswLimitExpiry c => Sys2Proof.Machine.execPhswLimitExpiry c s
  | .claspRequestServe q => Sys2Proof.Machine.execClaspRequestServe q s
  | .claspReleaseServe q => Sys2Proof.Machine.execClaspReleaseServe q s
  | .woundDelivery part rank name => Sys2Proof.Machine.execWoundDelivery part rank name s
  | .graceMessage part rank name => Sys2Proof.Machine.execGraceMessage part rank name s
  | .reductionPacketArrival site t port p => Sys2Proof.Machine.execReductionPacketArrival site t port p s
  | .reductionRoundTimeout site t => Sys2Proof.Machine.execReductionRoundTimeout site t s
  | .reductionRootBufferEntry site t => Sys2Proof.Machine.execReductionRootBufferEntry site t s
  | .treeEntryWrite site t w => Sys2Proof.Machine.execTreeEntryWrite site t w s
  | .taskPop c => Sys2Proof.Machine.execTaskPop c s
  | .taskPush c r => Sys2Proof.Machine.execTaskPush c r s
  | .joinDecrement c r => Sys2Proof.Machine.execJoinDecrement c r s
  | .cancelCounter part level idx => Sys2Proof.Machine.execCancelCounter part level idx s
  | .ccrdServe c id part level idx => Sys2Proof.Machine.execCcrdServe c id part level idx s
  | .preemption c => Sys2Proof.Machine.execPreemption c s
  | .gangPlacement part base => Sys2Proof.Machine.execGangPlacement part base s
  | .tailRegisterWrite part q v => Sys2Proof.Machine.execTailRegisterWrite part q v s
  | .launch part q w => Sys2Proof.Machine.execLaunch part q w s
  | .graph part q w => Sys2Proof.Machine.execGraph part q w s
  | .release part q w => Sys2Proof.Machine.execRelease part q w s
  | .wait part q w => Sys2Proof.Machine.execWait part q w s
  | .waitConditionMet part q => Sys2Proof.Machine.execWaitConditionMet part q s
  | .indirect part q w => Sys2Proof.Machine.execIndirect part q w s
  | .ckpt part q w => Sys2Proof.Machine.execCkpt part q w s
  | .abortTokenReceive part dev step => Sys2Proof.Machine.execAbortTokenReceive part dev step s
  | .marginReplay site slot stage owner => Sys2Proof.Machine.execMarginReplay site slot stage owner s
  | .injectedDetection site => Sys2Proof.Machine.execInjectedDetection site s
  | .replayWindowClose site => Sys2Proof.Machine.execReplayWindowClose site s
  | .quarantineSite site => Sys2Proof.Machine.execQuarantineSite site s
  | .signedTestKernelResult site pass => Sys2Proof.Machine.execSignedTestKernelResult site pass s
  | .meshMapMove site => Sys2Proof.Machine.execMeshMapMove site s
  | .ageingSample cluster measured => Sys2Proof.Machine.execAgeingSample cluster measured s
  | .patrolScrub line e => Sys2Proof.Machine.execPatrolScrub line e s
  | .tlbInvalidation pasid va len => Sys2Proof.Machine.execTlbInvalidation pasid va len s
  | .pasidTeardown pasid => Sys2Proof.Machine.execPasidTeardown pasid s
  | .partitionDescriptorWrite part addr => Sys2Proof.Machine.execPartitionDescriptorWrite part addr s
  | .partitionReset part => Sys2Proof.Machine.execPartitionReset part s
  | .packageReset => Sys2Proof.Machine.execPackageReset s
  | .linkKeyingMessage link k => Sys2Proof.Machine.execLinkKeyingMessage link k s
  | .linkRekey link => Sys2Proof.Machine.execLinkRekey link s
  | .linkFailure link => Sys2Proof.Machine.execLinkFailure link s
  | .linkReset link => Sys2Proof.Machine.execLinkReset link s
  | .debugStopRequest c => Sys2Proof.Machine.execDebugStopRequest c s
  | .debugResume c => Sys2Proof.Machine.execDebugResume c s
  | .debugStep c k => Sys2Proof.Machine.execDebugStep c k s
  | .debugStepEnd c => Sys2Proof.Machine.execDebugStepEnd c s
  | .debugRegisterWrite c r w tag poison => Sys2Proof.Machine.execDebugRegisterWrite c r w tag poison s
  | .snapshotEntryEdit c n e => Sys2Proof.Machine.execSnapshotEntryEdit c n e s
  | .configWindowWrite r v => Sys2Proof.Machine.execConfigWindowWrite r v s
  | .writeAcknowledgement c => Sys2Proof.Machine.execWriteAcknowledgement c s
  | .swallowedPulse cluster => Sys2Proof.Machine.execSwallowedPulse cluster s
  | .linkTrainingComplete link => Sys2Proof.Machine.execLinkTrainingComplete link s
  | .tdispAssignment part on => Sys2Proof.Machine.execTdispAssignment part on s
  | .frameOwnershipChange frame owner => Sys2Proof.Machine.execFrameOwnershipChange frame owner s

end Sys2Proof.Machine
end

