-- ==== Sys2Proof/Machine/Step.lean ====
section
/-! DEFINITION. One step of the machine (02_elastic_time.md R24, R28; log 6). -/

namespace Sys2Proof.Machine

/-- One step: the turn that the state lists first, or else what the machine does of itself. -/
def step (s : State) : Host.Outcome State Fault Refusal :=
  match s.turns with
  | t :: r => takeTurn exec t { s with turns := r }
  | [] => moveNext exec s

/-- The state with an instruction stored where the next step fetches. -/
def State.withFetchWord (s : State) (nbits w : Nat) : State := s.withWord nbits w

end Sys2Proof.Machine
end

