-- ==== Sys2Proof/Safety.lean ====
section
/-! DEFINITION. What counts as a safe run, and the terms in which the statements say what an instruction leaves. -/

namespace Sys2Proof.Machine

/-- The lists of the state that are kept in canonical form (log 3): memory, granule tag words, poison marks, line keys, frame owners,
phasers and tree entries. -/
def State.canonical (s : State) : Bool :=
  Memory.wf s.mem && clWf 0 s.gtags && clWf false s.pois && clWf 0 s.lineKeys && clWf 0xFF s.frames
    && clWf Phaser.reset s.phasers && clWf Tree.reset s.trees

/-- A state that a run from `s` comes through. -/
inductive State.Reaches (s : State) : State → Prop where
  | here : s.Reaches s
  | next (t u : State) : s.Reaches t → step t = .next u → s.Reaches u

/-- The machine goes on from a state. -/
def State.goesOn (s : State) : Prop := ∃ t, step s = .next t

/-- A safe state: every state that a run from it comes through is canonical, and the machine goes on from there. -/
def State.Safe (s : State) : Prop := ∀ t, s.Reaches t → t.canonical = true ∧ t.goesOn

/-! ## Terms of the statements about slot forms

A syllable issued in schedule cycle c leaves results in flight; the register takes each at its latency (R25, R122). -/

/-- A syllable with header `h` issues with effect: its guard admits it (R67), and neither the guard nor any of the registers `rs`, those
that it reads and writes, is pending (R35). -/
def State.mayIssue (s : State) (h : Hdr) (rs : List Reg) : Prop :=
  s.ctx.work.admits h = true ∧ s.ctx.awaited (.p h.guard :: rs) = none

/-- The tag that R168 gives destination `j` of a syllable with source tags t1, t2 and t3, 0 where absent. -/
def destTag (h : Hdr) (major : BitVec 8) (t1 t2 t3 : Tag) (j : Nat) : Tag :=
  opConst h.slot major ^^^ t1.rotateLeft 1 ^^^ t2.rotateLeft 2 ^^^ t3.rotateLeft 3 ^^^ BitVec.ofNat 32 j

/-- The tag of destination 0 of a syllable whose tag sources are the registers `rs`, in order (R167, R168). -/
def State.tagFrom (s : State) (h : Hdr) (major : BitVec 8) (rs : List Reg) : Tag :=
  let ts := rs.map s.ctx.work.tagOf
  destTag h major (ts.getD 0 0) (ts.getD 1 0) (ts.getD 2 0) 0

/-- The poison of a result: the OR of the poison of the guard and of the registers `rs` (R64, R124). -/
def State.poisonFrom (s : State) (h : Hdr) (rs : List Reg) : Bool := s.ctx.work.guardPoison h || rs.any s.ctx.work.poisonOf

/-- One fold step (R169, R175): lf is rotated by 5 and takes the tag; nothing else changes. -/
def State.foldedBy (s : State) (tag : Tag) : State :=
  { s with ctx := { s.ctx with cur := { s.ctx.cur with lf := foldStep s.ctx.cur.lf tag } } }

/-- One result in flight, which lands `lat` cycles after the present one in the physical register `d`; nothing else changes. -/
def State.inFlight (s : State) (lat : Nat) (d : Dest) (pay : Payload) (tag : Tag) (poison : Bool) (fl : Flags) : State :=
  { s with ctx := { s.ctx with flight := s.ctx.flight ++ [⟨s.ctx.sclk + lat, d, pay, tag, poison, fl, s.ctx.cur.seq⟩] } }

/-- What a form with tag sources `rs` and one destination leaves: its result in flight with the tag of R168 and the poison of its sources,
and its fold step. -/
def State.writes (s : State) (h : Hdr) (major : BitVec 8) (lat : Nat) (d : Reg) (rs : List Reg) (pay : Payload) (fl : Flags) : State :=
  (s.foldedBy (s.tagFrom h major rs)).inFlight lat (s.ctx.work.destOf d) pay (s.tagFrom h major rs) (s.poisonFrom h rs) fl

/-- The same for a form whose result carries no poison. -/
def State.writesClean (s : State) (h : Hdr) (major : BitVec 8) (lat : Nat) (d : Reg) (rs : List Reg) (pay : Payload) (fl : Flags) : State :=
  (s.foldedBy (s.tagFrom h major rs)).inFlight lat (s.ctx.work.destOf d) pay (s.tagFrom h major rs) false fl

/-- The present block with what a commit-issued form adds: its commands in the list, with the address of their syllable, and one more
command counted (R30, R32); nothing else changes. -/
def State.lists (s : State) (ops : List CmdOp) : State :=
  { s with ctx := { s.ctx with cur := { s.ctx.cur with
      cmds := s.ctx.cur.cmds ++ ops.map fun o => ⟨s.iss.addr, o⟩
      ncmds := s.ctx.cur.ncmds + 1 } } }

/-- What a syllable that reads the local bytes `rs'` leaves (R168, R169): its result in flight under the tag that takes the contribution of
the granules read as t1, that fold step, the first STALE granule of the block, and the granules among those that the bundle reads (R191). -/
def State.loads (s : State) (h : Hdr) (major : BitVec 8) (lat : Nat) (d : Reg) (rs : List Reg) (rs' : List (Nat × Nat)) (got : LocalRead)
    (pay : Payload) : State :=
  let ts := rs.map s.ctx.work.tagOf
  let t := destTag h major got.con.m (ts.getD 0 0) (ts.getD 1 0) 0
  let u : State := { s with
    iss := { s.iss with banks := s.iss.banks ++ rs'.flatMap fun r => (granulesOf r.1 r.2).map fun g => (s.iss.addr, g / 256) }
    ctx := { s.ctx with cur := { s.ctx.cur with
      lf := foldStep s.ctx.cur.lf t
      stale := if s.ctx.cur.stale.isSome then s.ctx.cur.stale else got.con.stale } } }
  u.inFlight lat (s.ctx.work.destOf d) pay t (got.poison || s.poisonFrom h rs) 0

/-- The fold step of a form that reads memory elsewhere: its contribution is 0 (R169). -/
def State.foldedAway (s : State) (h : Hdr) (major : BitVec 8) (rs : List Reg) : State :=
  let ts := rs.map s.ctx.work.tagOf
  s.foldedBy (destTag h major 0 (ts.getD 0 0) (ts.getD 1 0) 0)

/-- The request of an access that leaves the tile: from whom, where to, under which PASID and partition (R194, R214). -/
def State.asking (s : State) (l : Leg) (id : Nat) (body : Access) : Instr :=
  .remoteAccessArrival ⟨s.who, id, l.home, l.off, l.tile, (s.part s.ctx.part).pasid.toNat, s.ctx.part, l.expE, l.addr, body⟩

/-- The page walk of an access that a TLB entry of its tile does not serve, outstanding until it completes (R206, R207). -/
def State.asksWalk (s : State) (l : Leg) : List Work :=
  let pasid := (s.part s.ctx.part).pasid
  match l.home with
  | .dram | .host | .peerMem _ =>
    if s.tlbHit s.who.site pasid (l.addr.setWidth 57).toNat = none
    then [⟨s.who, .context s.who, false, false, false, .pageWalkComplete s.who.site pasid l.addr⟩] else []
  | _ => []

/-- A load on its way to its home behind its page walk, and its destination pending from schedule cycle `start` on, under one message entry
(R35, R207, R238). -/
def State.loadSent (s : State) (l : Leg) (d : Dest) (conv : Conv) (poison : Bool) (start : Nat) : State :=
  { s with
    nextId := s.nextId + 1
    work := s.work ++ s.asksWalk l ++ [⟨s.who, dstOf l.home l.off, false, false, false, s.asking l s.nextId (.load l.len)⟩]
    ctx := { s.ctx with pend := s.ctx.pend ++ [⟨s.nextId, .msg, [d], conv, poison, start, s.ctx.cur.seq, true, none⟩] } }

/-- A store held in the store buffer, with the tag word's fields as read at issue, and its bytes in the digest (R31, R171, R224, R383). -/
def State.storeHeld (s : State) (off : Nat) (ea : Word) (data : List Byte) (tag : Tag) (poison : Bool) : State :=
  { s with ctx := { s.ctx with cur := { s.ctx.cur with
    stores := s.ctx.cur.stores ++ [⟨off, data, tag, s.ctx.work.ws, poison⟩]
    bytes := s.ctx.cur.bytes + data.length
    digest := s.ctx.cur.digest ++ [(digestAddr .loc ea, data.mapIdx fun i y => ((ea.extractLsb' 0 3).toNat + i, y))] } } }

/-- The offset of a local address value (R205). -/
def localOff (ea : Word) : Nat := (ea.extractLsb' 0 22).toNat

/-- A local access of n bytes at ea, of elements of `esz` bytes, passes its checks (R222). -/
def State.localOk (s : State) (ea : Word) (n esz : Nat) : Prop := ea.toNat % esz = 0 ∧ s.inPad (localOff ea) n = true

/-- The present block leaves through `x` (R139); nothing else changes. -/
def State.steersTo (s : State) (x : Xfer) : State := { s with ctx := { s.ctx with cur := { s.ctx.cur with xfer := x } } }

/-- `t` is `s` with a precise trap of the syllable being issued taken at the present block (R116): the cause, value, syllable, entry address
and entry schedule value recorded; IH set and RDR clear; the pc at the handler's entry, the schedule clock at the block's entry value; lf = 0
and every other register as committed before the block's own answers (R35); nothing in flight, the block's carry-ins kept; and all outside the context and the issue latch as before. -/
def State.entersHandler (s t : State) (code detail : BitVec 8) (tval : Word) : Prop :=
  let b := s.ctx.cur
  t = { s with ctx := t.ctx, iss := t.iss }
  ∧ t.ctx.cause = (0 : BitVec 48) ++ code ++ detail ∧ t.ctx.tval = tval ∧ t.ctx.tsyl = s.iss.syl
  ∧ t.ctx.tsched = BitVec.ofNat 64 b.clk ∧ t.ctx.ih = true ∧ t.ctx.sclk = b.clk
  ∧ t.ctx.pc = t.ctx.comm.tvec &&& 0x01FFFFFFFFFFFFF8
  ∧ t.ctx.comm = { b.undoAnswers s.ctx.comm with epc := b.entry &&& 0x01FFFFFFFFFFFFF8, rdr := false, shadow := t.ctx.comm.shadow }
  ∧ t.ctx.work = t.ctx.comm ∧ t.ctx.cur.lf = 0 ∧ t.ctx.cur.entry = t.ctx.pc ∧ t.ctx.cur.stores = [] ∧ t.ctx.cur.cmds = []
  ∧ t.ctx.flight = [] ∧ ∀ f ∈ b.carry, f.dest ≠ .touch → f ∈ t.ctx.saved

/-- A precise trap would enter the handler: one is installed, the context is not in it, and no older block waits for its commit. -/
def State.trapsEnter (s : State) : Prop := s.ctx.closings = [] ∧ s.ctx.comm.tvec.getLsbD 0 = true ∧ s.ctx.ih = false

/-- The forms of layout MA, each with its major and its operation (Table 11.2, R234). -/
def rmwForms : List ((Hdr → Rmw → Instr) × BitVec 8 × RmwOp) :=
  [(.atomAdd, 0x90, .add), (.atomFadd, 0x91, .fadd), (.atomMin, 0x92, .min), (.atomMax, 0x93, .max), (.atomAnd, 0x94, .and),
   (.atomOr, 0x95, .or), (.atomXor, 0x96, .xor), (.atomSwp, 0x97, .swp), (.atomCas, 0x98, .cas), (.bfins, 0x89, .bfins),
   (.ffcs, 0x8A, .ffcs), (.plset, 0x8B, .plset)]

/-- The operations whose xs field names a register (Table 11.2). -/
def RmwOp.takesXs (op : RmwOp) : Prop := op = .cas ∨ op = .bfins ∨ op = .plset

/-- `t` is `s` but for the bytes and marks at n bytes from `off` on of home `h`: every other byte reads as before. -/
def State.sameBytesBut (s t : State) (h : Home) (off n : Nat) : Prop :=
  ∀ (h' : Home) (a : Nat), a < 2 ^ 64 → h'.number ≠ h.number ∨ a < off ∨ off + n ≤ a → t.byte h' a = s.byte h' a

/-- No port is bound at any of the v fields named, so that each denotes its register (R274). -/
def State.noPorts (s : State) (vs : List (BitVec 6)) : Prop := ∀ v ∈ vs, s.ctx.work.port v = none

/-- A lane-wise form completes: lanes below vl hold what `f` says, the others 0, and its flags are the OR of those of the active lanes
(R151, R152). -/
def State.laneResult (s : State) (i : Instr) (h : Hdr) (major : BitVec 8) (lat : Nat) (vd : BitVec 6) (vs : List (BitVec 6))
    (f : Fin 64 → Lane × Flags) : Prop :=
  ∃ (l : Lanes) (fl : Flags), exec i s = .next (s.writes h major lat (.v vd) (vs.map .v) (.lanes l) fl)
    ∧ (∀ k : Fin 64, l[k] = if k.val < s.vl then (f k).1 else 0)
    ∧ ∀ b, fl.getLsbD b = true ↔ ∃ k : Fin 64, k.val < s.vl ∧ (f k).2.getLsbD b = true

/-- The issue latch with one more effect at the end of its bundle (R276, R286); nothing else changes. -/
def State.atEnd (s : State) (o : PortOp) : State := { s with iss := { s.iss with late := s.iss.late ++ [o] } }

/-- The context waits with its bundle for a cause; nothing else of it changes. -/
def State.waitsFor (s : State) (c : Freeze) : State :=
  { s with ctx := { s.ctx with frozen := some c }, iss := { s.iss with fate := .frozen } }

/-- A value saturated to a format (R126): the nearer end of its range with SAT, or the value itself. -/
def saturated (ty : Fmt) (v : Int) : Word × Flags :=
  if v < ty.lo then (ty.fit ty.lo, .SAT) else if ty.hi < v then (ty.fit ty.hi, .SAT) else (ty.fit v, 0)

end Sys2Proof.Machine
end

