-- ==== Sys2Proof/Certificates/Slice0/Obligations.lean ====
section
/-! DEFINITION. The statements for the provers. A statement about a slot form says what the machine is after `exec`: the state named, equal to
the one before in everything that the term does not name, which is the form's frame. -/

open Sys2Proof Sys2Proof.Machine

/-! ## Scalar forms (07_scalar_control.md) -/

/-- R126: `add` and `sub` deliver fit of the exact sum or difference one cycle later; the saturating forms deliver the nearer end of the
range with SAT when it lies outside. Nothing else of the state changes but lf. R126: `mul` and `mulh` deliver fit of the low and of the high
half of the exact product three cycles later, `min` and `max` the smaller and the larger operand one cycle later. -/
def Obligations.ArithmeticResults : Prop :=
  (∀ (h : Hdr) (ty : Fmt) (d s1 s2 : BitVec 6) (s : State), s.mayIssue h [.x s1, .x s2, .x d] →
     let a := ty.opnd (s.xval s1)
     let b := ty.opnd (s.xval s2)
     exec (.add h ty false d s1 s2) s = .next (s.writes h 0x01 1 (.x d) [.x s1, .x s2] (.word (ty.fit (a + b))) 0)
     ∧ exec (.add h ty true d s1 s2) s
         = .next (s.writes h 0x01 1 (.x d) [.x s1, .x s2] (.word (saturated ty (a + b)).1) (saturated ty (a + b)).2)
     ∧ exec (.sub h ty false d s1 s2) s = .next (s.writes h 0x02 1 (.x d) [.x s1, .x s2] (.word (ty.fit (a - b))) 0)
     ∧ exec (.sub h ty true d s1 s2) s
         = .next (s.writes h 0x02 1 (.x d) [.x s1, .x s2] (.word (saturated ty (a - b)).1) (saturated ty (a - b)).2))
  ∧
  (∀ (h : Hdr) (ty : Fmt) (d s1 s2 : BitVec 6) (s : State), s.mayIssue h [.x s1, .x s2, .x d] →
     let a := ty.opnd (s.xval s1)
     let b := ty.opnd (s.xval s2)
     exec (.mul h ty d s1 s2) s = .next (s.writes h 0x03 3 (.x d) [.x s1, .x s2] (.word (ty.fit (a * b))) 0)
     ∧ exec (.mulh h ty d s1 s2) s
         = .next (s.writes h 0x04 3 (.x d) [.x s1, .x s2] (.word (ty.fit (a * b / 2 ^ ty.width))) 0)
     ∧ exec (.min h ty d s1 s2) s = .next (s.writes h 0x07 1 (.x d) [.x s1, .x s2] (.word (ty.fit (Min.min a b))) 0)
     ∧ exec (.max h ty d s1 s2) s = .next (s.writes h 0x08 1 (.x d) [.x s1, .x s2] (.word (ty.fit (Max.max a b))) 0))

/-- R127: `div` and `rem` deliver, twenty cycles later, −1 and the dividend with DZ for a divisor 0; the dividend and 0 without a flag for
the least signed dividend and −1; else the quotient truncated toward zero and the dividend less quotient times divisor. -/
def Obligations.DivRemResults : Prop :=
  ∀ (h : Hdr) (ty : Fmt) (d s1 s2 : BitVec 6) (s : State), s.mayIssue h [.x s1, .x s2, .x d] →
    let a := ty.opnd (s.xval s1)
    let b := ty.opnd (s.xval s2)
    let leaves (q r : Int) (fl : Flags) : Prop :=
      exec (.div h ty d s1 s2) s = .next (s.writes h 0x05 20 (.x d) [.x s1, .x s2] (.word (ty.fit q)) fl)
      ∧ exec (.rem h ty d s1 s2) s = .next (s.writes h 0x06 20 (.x d) [.x s1, .x s2] (.word (ty.fit r)) fl)
    (b = 0 → leaves (-1) a .DZ)
    ∧ (ty.isSignedInt = true → a = -(2 ^ (ty.width - 1)) → b = -1 → leaves a 0 0)
    ∧ (b ≠ 0 → ¬(ty.isSignedInt = true ∧ a = -(2 ^ (ty.width - 1)) ∧ b = -1) → leaves (a.tdiv b) (a - a.tdiv b * b) 0)

/-- R128: the logic forms act on all 64 bits, and the shifts by a register take their count modulo N; all deliver one cycle later. R128:
`sel` chooses by its predicate; `clz` and `ctz` deliver the zero bits above the highest and below the lowest set bit of the low N bits, N
where these are zero; `popc` delivers how many are set. -/
def Obligations.LogicShiftCountResults : Prop :=
  (∀ (h : Hdr) (ty : Fmt) (d s1 s2 : BitVec 6) (s : State), s.mayIssue h [.x s1, .x s2, .x d] →
     let a := s.xval s1
     let b := s.xval s2
     let k := b.toNat % ty.width
     let low : Int := (a.toNat % 2 ^ ty.width : Nat)
     exec (.and h d s1 s2) s = .next (s.writes h 0x09 1 (.x d) [.x s1, .x s2] (.word (a &&& b)) 0)
     ∧ exec (.or h d s1 s2) s = .next (s.writes h 0x0A 1 (.x d) [.x s1, .x s2] (.word (a ||| b)) 0)
     ∧ exec (.xor h d s1 s2) s = .next (s.writes h 0x0B 1 (.x d) [.x s1, .x s2] (.word (a ^^^ b)) 0)
     ∧ exec (.shl h ty d s1 s2) s = .next (s.writes h 0x0C 1 (.x d) [.x s1, .x s2] (.word (ty.fit (low * 2 ^ k))) 0)
     ∧ exec (.shr h ty d s1 s2) s = .next (s.writes h 0x0D 1 (.x d) [.x s1, .x s2] (.word (ty.fit (low / 2 ^ k))) 0)
     ∧ exec (.sra h ty d s1 s2) s
         = .next (s.writes h 0x0E 1 (.x d) [.x s1, .x s2] (.word (ty.fit (intOf true ty.width a.toNat / 2 ^ k))) 0))
  ∧
  (∀ (h : Hdr) (ty : Fmt) (d s1 s2 : BitVec 6) (pn : BitVec 4) (s : State),
     (s.mayIssue h [.x s1, .x s2, .p pn, .x d] →
       exec (.sel h d s1 s2 pn) s = .next (s.writes h 0x0F 1 (.x d) [.x s1, .x s2, .p pn]
         (.word (if (s.ctx.work.getP pn).val then s.xval s1 else s.xval s2)) 0))
     ∧ (s.mayIssue h [.x s1, .x d] →
       let n := (s.xval s1).toNat % 2 ^ ty.width
       (∃ k, exec (.clz h ty d s1) s = .next (s.writes h 0x10 1 (.x d) [.x s1] (.word (BitVec.ofNat 64 k)) 0)
         ∧ (n = 0 → k = ty.width) ∧ (n ≠ 0 → k < ty.width ∧ 2 ^ (ty.width - 1 - k) ≤ n ∧ n < 2 ^ (ty.width - k)))
       ∧ (∃ k, exec (.ctz h ty d s1) s = .next (s.writes h 0x11 1 (.x d) [.x s1] (.word (BitVec.ofNat 64 k)) 0)
         ∧ (n = 0 → k = ty.width) ∧ (n ≠ 0 → n.testBit k = true ∧ ∀ j < k, n.testBit j = false))
       ∧ exec (.popc h ty d s1) s = .next (s.writes h 0x12 1 (.x d) [.x s1]
           (.word (BitVec.ofNat 64 ((Finset.range ty.width).filter fun i => n.testBit i = true).card)) 0)))

/-- R130: a compare writes its predicate two cycles later with the truth of its condition on the operands read at the type's width. R131:
the predicate forms deliver, one cycle later, AND, OR, XOR and AND NOT of their sources, in which p0 reads 1. -/
def Obligations.CompareAndPredicateResults : Prop :=
  (∀ (h : Hdr) (ty : Fmt) (pd : BitVec 4) (s1 s2 : BitVec 6) (imm : Imm) (s : State),
     let truth (c : Cond) (a b : Int) : Bool := match c with
       | .eq => decide (a = b) | .ne => decide (a ≠ b) | .lt => decide (a < b) | .le => decide (a ≤ b)
       | .gt => decide (a > b) | .ge => decide (a ≥ b) | .un => false
     (s.mayIssue h [.x s1, .x s2, .p pd] → ∀ c, exec (.cmp h c ty pd s1 s2) s
       = .next (s.writes h 0x13 2 (.p pd) [.x s1, .x s2] (.bit (truth c (ty.opnd (s.xval s1)) (ty.opnd (s.xval s2)))) 0))
     ∧ (s.mayIssue h [.x s1, .p pd] → ∀ c, exec (.cmpi h c ty pd s1 imm) s
       = .next (s.writes h 0x27 2 (.p pd) [.x s1] (.bit (truth c (ty.opnd (s.xval s1)) (ty.opnd (imm.value true)))) 0)))
  ∧
  (∀ (h : Hdr) (pd p1 p2 : BitVec 4) (s : State), s.mayIssue h [.p p1, .p p2, .p pd] →
     let reads (p : BitVec 4) : Bool := p = 0 ∨ (s.ctx.work.getP p).val = true
     exec (.pand h pd p1 p2) s = .next (s.writes h 0x14 1 (.p pd) [.p p1, .p p2] (.bit (reads p1 && reads p2)) 0)
     ∧ exec (.por h pd p1 p2) s = .next (s.writes h 0x15 1 (.p pd) [.p p1, .p p2] (.bit (reads p1 || reads p2)) 0)
     ∧ exec (.pxor h pd p1 p2) s = .next (s.writes h 0x16 1 (.p pd) [.p p1, .p p2] (.bit (Bool.xor (reads p1) (reads p2))) 0)
     ∧ exec (.pandn h pd p1 p2) s = .next (s.writes h 0x17 1 (.p pd) [.p p1, .p p2] (.bit (reads p1 && !reads p2)) 0))

/-- R129, R75: the immediate forms; `addi` and `movi` extend a 16-bit immediate by sign, the logic forms by zeros, and an extension gives
all 64 bits. A shift by an immediate acts as the shift by a register that holds it, for a count below N. R132, bit by bit: `bfx` delivers
the field, extended by its top bit for .i64 and by zeros for .n64; `bfi` delivers its destination with the field replaced. -/
def Obligations.ImmediateAndBitFieldResults : Prop :=
  (∀ (h : Hdr) (ty : Fmt) (d s1 : BitVec 6) (i : BitVec 16) (x : BitVec 48) (k : BitVec 16) (s : State),
     let a := s.xval s1
     let low : Int := (a.toNat % 2 ^ ty.width : Nat)
     (s.mayIssue h [.x d] →
       exec (.movi h d (.short i)) s = .next (s.writes h 0x28 1 (.x d) [] (.word (i.signExtend 64)) 0)
       ∧ exec (.movi h d (.long i x)) s = .next (s.writes h 0x28 1 (.x d) [] (.word (x ++ i)) 0))
     ∧ (s.mayIssue h [.x s1, .x d] →
       exec (.addi h ty d s1 (.short i)) s
         = .next (s.writes h 0x20 1 (.x d) [.x s1] (.word (ty.fit (ty.opnd a + ty.opnd (i.signExtend 64)))) 0)
       ∧ exec (.addi h ty d s1 (.long i x)) s
         = .next (s.writes h 0x20 1 (.x d) [.x s1] (.word (ty.fit (ty.opnd a + ty.opnd (x ++ i)))) 0)
       ∧ exec (.andi h d s1 (.short i)) s = .next (s.writes h 0x21 1 (.x d) [.x s1] (.word (a &&& i.setWidth 64)) 0)
       ∧ exec (.andi h d s1 (.long i x)) s = .next (s.writes h 0x21 1 (.x d) [.x s1] (.word (a &&& (x ++ i))) 0)
       ∧ exec (.ori h d s1 (.short i)) s = .next (s.writes h 0x22 1 (.x d) [.x s1] (.word (a ||| i.setWidth 64)) 0)
       ∧ exec (.ori h d s1 (.long i x)) s = .next (s.writes h 0x22 1 (.x d) [.x s1] (.word (a ||| (x ++ i))) 0)
       ∧ exec (.xori h d s1 (.short i)) s = .next (s.writes h 0x23 1 (.x d) [.x s1] (.word (a ^^^ i.setWidth 64)) 0)
       ∧ exec (.xori h d s1 (.long i x)) s = .next (s.writes h 0x23 1 (.x d) [.x s1] (.word (a ^^^ (x ++ i))) 0)
       ∧ exec (.shli h ty d s1 k) s = .next (s.writes h 0x24 1 (.x d) [.x s1] (.word (ty.fit (low * 2 ^ k.toNat))) 0)
       ∧ exec (.shri h ty d s1 k) s = .next (s.writes h 0x25 1 (.x d) [.x s1] (.word (ty.fit (low / 2 ^ k.toNat))) 0)
       ∧ exec (.srai h ty d s1 k) s
         = .next (s.writes h 0x26 1 (.x d) [.x s1] (.word (ty.fit (intOf true ty.width a.toNat / 2 ^ k.toNat))) 0)))
  ∧
  (∀ (h : Hdr) (d s1 pos wm1 : BitVec 6) (s : State), pos.toNat + wm1.toNat < 64 →
     (s.mayIssue h [.x s1, .x d] →
       (∃ w : Word, exec (.bfx h .i64 d s1 pos wm1) s = .next (s.writes h 0x29 1 (.x d) [.x s1] (.word w) 0)
         ∧ ∀ i < 64, w.getLsbD i = (s.xval s1).getLsbD (pos.toNat + Min.min i wm1.toNat))
       ∧ (∃ w : Word, exec (.bfx h .n64 d s1 pos wm1) s = .next (s.writes h 0x29 1 (.x d) [.x s1] (.word w) 0)
         ∧ ∀ i < 64, w.getLsbD i = (decide (i ≤ wm1.toNat) && (s.xval s1).getLsbD (pos.toNat + i))))
     ∧ (s.mayIssue h [.x s1, .x d, .x d] →
       ∃ w : Word, exec (.bfi h d s1 pos wm1) s = .next (s.writes h 0x2A 1 (.x d) [.x s1, .x d] (.word w) 0)
         ∧ ∀ i < 64, w.getLsbD i = if pos.toNat ≤ i ∧ i ≤ pos.toNat + wm1.toNat then (s.xval s1).getLsbD (i - pos.toNat)
             else (s.xval d).getLsbD i))

/-- R133: `lea` delivers its address value modulo 2^64 one cycle later, with its registers as tag sources; it makes no access and cannot
fault. R134: `mfc` delivers the register as it reads at issue, without poison and with no tag source; `mtc` sends its operand to the working
copy of a register it may write, and an `mtc` to a register the context may only read is ignored. -/
def Obligations.LeaAndControlRegisterResults : Prop :=
  (∀ (h : Hdr) (d xb xi : BitVec 6) (off : BitVec 20) (p : BitVec 44) (sh : BitVec 2) (s : State),
     (s.mayIssue h [.x xb, .x d] →
       exec (.lea h d (.m0 xb off)) s = .next (s.writes h 0x30 1 (.x d) [.x xb] (.word (s.xval xb + off.signExtend 64)) 0)
       ∧ exec (.lea h d (.m0x xb off p)) s = .next (s.writes h 0x30 1 (.x d) [.x xb] (.word (s.xval xb + (p ++ off))) 0))
     ∧ (s.mayIssue h [.x xb, .x xi, .x d] →
       exec (.lea h d (.m1 xb xi sh)) s
         = .next (s.writes h 0x30 1 (.x d) [.x xb, .x xi] (.word (s.xval xb + s.xval xi * BitVec.ofNat 64 (2 ^ sh.toNat))) 0)))
  ∧
  (∀ (h : Hdr) (d s1 : BitVec 6) (n : BitVec 16) (s : State),
     (s.mayIssue h [.x d] → ctlAccess s.who.cid n ≠ .none →
       exec (.mfc h d n) s = .next (s.writesClean h 0x2B 1 (.x d) [] (.word (s.readCtl n)) 0))
     ∧ (s.mayIssue h [.x s1] → ctlAccess s.who.cid n = .rw →
       exec (.mtc h n s1) s = .next (s.inFlight 1 (.ctl n) (.word (s.xval s1)) 0 false 0))
     ∧ (s.mayIssue h [.x s1] → ctlAccess s.who.cid n = .ro → exec (.mtc h n s1) s = .next s))

/-- R138, R135: `nop` has no effect, and `tfence` has none while no delivered flag is masked in. R215, R209, R246: a `fence` or `drain`
completes, changing nothing, once no write of the context is undrained (for a `fence` also no earlier load is to come) and no refusal in its
scope is recorded; it waits while one is, and reports the oldest refusal that its scope covers as an error response. -/
def Obligations.NopFencesAndDrains : Prop :=
  (∀ (h : Hdr) (s : State), s.mayIssue h [] →
     exec (.nop h) s = .next s ∧ (s.ctx.work.flags &&& s.ctx.work.fmask = 0 → exec (.tfence h) s = .next s))
  ∧
  (∀ (h : Hdr) (sc : Scope) (s : State), s.mayIssue h [] → s.ctx.closings = [] →
     let quiet : Prop := ∀ w ∈ s.work, w.src = s.who → w.write = false
     let loaded : Prop := ∀ p ∈ s.ctx.pend, p.isLoad = true → p.held = none → s.iss.ids ≤ p.id
     let covered (r : Refusal_) : Prop := scopeRank r.scope ≤ scopeRank sc
     (quiet → (∀ r ∈ s.ctx.refusals, ¬covered r) →
       exec (.drain h sc) s = .next s ∧ (loaded → exec (.fence h sc) s = .next s))
     ∧ (¬quiet → exec (.drain h sc) s = .next (s.waitsFor .drain) ∧ exec (.fence h sc) s = .next (s.waitsFor .drain))
     ∧ (¬loaded → exec (.fence h sc) s = .next (s.waitsFor .drain))
     ∧ (∀ before r after, quiet → s.ctx.refusals = before ++ r :: after → (∀ q ∈ before, ¬covered q) → covered r → s.trapsEnter →
       let u : State := { s with ctx := { s.ctx with refusals := before ++ after } }
       (∃ t, exec (.drain h sc) s = .next t ∧ u.entersHandler t 0x0A 0x02 r.addr)
       ∧ (loaded → ∃ t, exec (.fence h sc) s = .next t ∧ u.entersHandler t 0x0A 0x02 r.addr)))

/-! ## Traps, transfers and lineage forms (06_register_inventory.md, 07_scalar_control.md, 09_lineage.md) -/

/-- R136, R115, R116: `trap` takes the software trap, cause 0x21, with the low byte of its immediate as detail and the immediate as value.
R135, R134, R118: where the other system forms trap: `tfence` with a delivered flag masked in, `mfc` and `mtc` without access, `eret`
outside a handler. -/
def Obligations.SystemFormTraps : Prop :=
  (∀ (h : Hdr) (imm : BitVec 16) (s : State), s.mayIssue h [] → s.trapsEnter →
     ∃ t, exec (.trap h imm) s = .next t ∧ s.entersHandler t 0x21 (imm.setWidth 8) (imm.setWidth 64))
  ∧
  (∀ (h : Hdr) (d s1 : BitVec 6) (n : BitVec 16) (s : State), s.trapsEnter →
     (s.mayIssue h [] → s.ctx.work.flags &&& s.ctx.work.fmask ≠ 0 →
       ∃ t, exec (.tfence h) s = .next t ∧ s.entersHandler t 0x20 0x00 ((s.ctx.work.flags &&& s.ctx.work.fmask).setWidth 64))
     ∧ (s.mayIssue h [.x d] → ctlAccess s.who.cid n = .none →
       ∃ t, exec (.mfc h d n) s = .next t ∧ s.entersHandler t 0x04 0x01 s.iss.addr)
     ∧ (s.mayIssue h [.x s1] → ctlAccess s.who.cid n = .none →
       ∃ t, exec (.mtc h n s1) s = .next t ∧ s.entersHandler t 0x04 0x01 s.iss.addr)
     ∧ (s.mayIssue h [] → s.ctx.work.guardPoison h = false →
       ∃ t, exec (.eret h) s = .next t ∧ s.entersHandler t 0x04 0x02 s.iss.addr))

/-- R117: a `trap` without a handler installed, or inside the handler, is fatal: the task ends as failed, the context issues nothing further
for it, nothing of it is in flight or pending, the custodian's queue receives the report, and no memory changes. R34, R117, R134 to R137,
R222: every precise fault is taken by State.raise, and without a handler, or inside it, each is fatal so; named here for `trap`, `tfence`,
`mfc`, `mtc`, `eret` and a misaligned `ld` or `st`. Nothing that its block computed stays in a register: the committed copies are those of
the block's entry, the answers that its own syllables awaited undone (R34; model's reading, log 35), and the working copies are as at its
entry. -/
def Obligations.FatalTrapEndsTask : Prop :=
  (∀ (h : Hdr) (imm : BitVec 16) (s : State), s.mayIssue h [] → s.ctx.closings = [] →
     (s.ctx.comm.tvec.getLsbD 0 = false ∨ s.ctx.ih = true) →
     ∃ t, exec (.trap h imm) s = .next t ∧ t.ctx.ending = some .failed ∧ t.ctx.runs = false ∧ t.ctx.flight = [] ∧ t.ctx.pend = []
       ∧ t.mem = s.mem ∧ t.gtags = s.gtags ∧ t.parkedCtx = s.parkedCtx ∧ t.work = s.work
       ∧ (s.tile.reports.length < 64 → t.tile.reports.length = s.tile.reports.length + 1))
  ∧
  (∀ (h : Hdr) (imm n : BitVec 16) (d s1 : BitVec 6) (ty : Fmt) (sp : Space) (m : MemOp) (ssel : BitVec 2) (hint : Hint) (s : State),
     s.ctx.closings = [] → (s.ctx.comm.tvec.getLsbD 0 = false ∨ s.ctx.ih = true) →
     let b := s.ctx.cur
     let ends (t : State) : Prop := t.ctx.ending = some .failed ∧ t.ctx.runs = false ∧ t.ctx.flight = [] ∧ t.ctx.pend = []
       ∧ t.ctx.comm = { b.undoAnswers s.ctx.comm with shadow := t.ctx.comm.shadow } ∧ t.ctx.work = b.entryWork t.ctx.comm
       ∧ t.mem = s.mem ∧ t.gtags = s.gtags ∧ t.pois = s.pois ∧ t.work = s.work ∧ t.parkedCtx = s.parkedCtx
       ∧ (s.tile.reports.length < 64 → t.tile.reports.length = s.tile.reports.length + 1)
     let dies (i : Instr) : Prop := ∃ t, exec i s = .next t ∧ ends t
     (∀ code detail tval log, ends (s.raise code detail tval log))
     ∧ (s.mayIssue h [] → dies (.trap h imm) ∧ (s.ctx.work.flags &&& s.ctx.work.fmask ≠ 0 → dies (.tfence h))
       ∧ (s.ctx.ih = false → s.ctx.work.guardPoison h = false → dies (.eret h)))
     ∧ (ctlAccess s.who.cid n = .none → (s.mayIssue h [.x d] → dies (.mfc h d n)) ∧ (s.mayIssue h [.x s1] → dies (.mtc h n s1)))
     ∧ ((m.addr s.xval).toNat % (ty.width / 8) ≠ 0 → s.mayIssue h (MemOp.srcs m ++ [.x d]) →
       dies (.ld h ty sp d m ssel hint) ∧ dies (.st h ty sp d m hint)))

/-- R139 to R141: the taken transfers set where the block leaves to, and nothing else; `call` also writes the first byte after the hallmark
as its link, with no tag source and no poison, and `ret` is counted as a return. R124: a transfer whose guard is poisoned, or one whose
register is, neither transfers nor pushes a level, and its block will not commit. -/
def Obligations.ControlTransfers : Prop :=
  (∀ (h : Hdr) (tsel : Bool) (xr : BitVec 6) (s : State), s.ctx.work.guardPoison h = false →
     (s.mayIssue h [] → exec (.br h tsel) s = .next (s.steersTo (.label tsel)))
     ∧ (s.mayIssue h [.x xr] →
       exec (.call h xr tsel) s
         = .next ((s.steersTo (.label tsel)).writesClean h 0x42 1 (.x xr) [] (.word (s.iss.after + 16)) 0)
       ∧ ((s.ctx.work.getX xr).poison = false →
         exec (.jr h xr) s = .next (s.steersTo (.to (s.xval xr)))
         ∧ exec (.ret h xr) s = .next ((s.steersTo (.to (s.xval xr))).count 0x030))))
  ∧
  (∀ (h : Hdr) (xr : BitVec 6) (n : BitVec 16) (tsel : Bool) (stg : BitVec 3) (s : State),
     let contained (i : Instr) : Prop := ∃ t, exec i s = .next t ∧ t.ctx.cur.taint.isSome = true ∧ t.ctx.cur.xfer = s.ctx.cur.xfer
       ∧ t.ctx.flight = s.ctx.flight ∧ t.ctx.work = s.ctx.work ∧ t.mem = s.mem
     (s.ctx.awaited [.p h.guard] = none → s.ctx.work.guardPoison h = true →
       contained (.br h tsel) ∧ contained (.loopi h n tsel) ∧ contained (.eret h))
     ∧ (s.ctx.awaited [.p h.guard, .x xr] = none → s.ctx.work.guardPoison h = true →
       contained (.jr h xr) ∧ contained (.call h xr tsel) ∧ contained (.ret h xr) ∧ contained (.loop h xr tsel)
         ∧ contained (.swp h xr tsel stg))
     ∧ (s.mayIssue h [.x xr] → (s.ctx.work.getX xr).poison = true →
       contained (.jr h xr) ∧ contained (.ret h xr) ∧ contained (.loop h xr tsel) ∧ contained (.swp h xr tsel stg)))

/-- R142, R143, R146: a loop form with count 0 transfers to target A or B as its tsel says; with another count it pushes a level one cycle
later, unless four levels are active or, for `swp`, its count passes 32 bits: then it is an illegal syllable. R144, R145, R146: the loop
step as a block closes whose transfer is the fallthrough, over the working copies as its last bundle leaves them. Of the block that is the
body of level 0 the count falls by one; above 0 the body runs again, at 0 the level is popped and the fallthrough is next; a level of kind
0b10 rotates first and sets p8 while COUNT > STG. Any other block only falls through, the stack as it was. -/
def Obligations.LoopForms : Prop :=
  (∀ (h : Hdr) (xr : BitVec 6) (i : BitVec 16) (tsel : Bool) (stg : BitVec 3) (s : State), s.ctx.work.guardPoison h = false →
     (s.mayIssue h [] →
       (i = 0 → exec (.loopi h i tsel) s = .next (s.steersTo (.label tsel)))
       ∧ (i ≠ 0 → s.ctx.work.levels < 4 → exec (.loopi h i tsel) s
           = .next (s.inFlight 1 .loop (.push ⟨i.setWidth 32, 0, 1, s.iss.after + 16⟩) 0 false 0))
       ∧ (i ≠ 0 → s.ctx.work.levels = 4 → exec (.loopi h i tsel) s = .next s.illegal))
     ∧ (s.mayIssue h [.x xr] → (s.ctx.work.getX xr).poison = false →
       let n := (s.xval xr).setWidth 32
       (n = 0 → exec (.loop h xr tsel) s = .next (s.steersTo (.label tsel)) ∧ exec (.swp h xr tsel stg) s = .next (s.steersTo (.label tsel)))
       ∧ (n ≠ 0 → s.ctx.work.levels < 4 → exec (.loop h xr tsel) s
           = .next (s.inFlight 1 .loop (.push ⟨n, 0, 1, s.iss.after + 16⟩) 0 false 0))
       ∧ (n ≠ 0 → s.ctx.work.levels < 4 → n.toNat + stg.toNat < 2 ^ 32 → exec (.swp h xr tsel stg) s
           = .next (s.inFlight 1 .loop (.push ⟨n + stg.setWidth 32, stg, 2, s.iss.after + 16⟩) 0 false 0))
       ∧ (n ≠ 0 → s.ctx.work.levels = 4 → exec (.loop h xr tsel) s = .next s.illegal ∧ exec (.swp h xr tsel stg) s = .next s.illegal)
       ∧ (n ≠ 0 → 2 ^ 32 ≤ n.toNat + stg.toNat → exec (.swp h xr tsel stg) s = .next s.illegal)))
  ∧
  (∀ (a hall : Word) (m : Hallmark) (s : State), s.ctx.cur.xfer = .fall →
     let e := s.ctx.cur.entry
     let r := s.ctx.work
     let body : Prop := r.loops[0].kind ≠ 0 ∧ r.loops[0].body = e
     let w0 := if r.loops[0].kind ≠ 0 ∧ r.loops[0].body = e ∧ r.loops[0].kind = 2 then { r with vb := r.vb - 1, pb := r.pb - 1 } else r
     let u := ({ s with ctx := { s.ctx with work := w0.rebase } } : State).endBundle
     let l := u.ctx.work.loops[0]
     let t := s.closeBlock a hall m
     u.intact s = true → u.ctx.work.loops = r.loops →
     (¬body → t.ctx.work = u.ctx.work ∧ t.ctx.pc = a + 16)
     ∧ (body → (l.count ≠ 1 → t.ctx.pc = e ∧ t.ctx.work.loops = u.ctx.work.loops.set 0 { l with count := l.count - 1 })
       ∧ (l.count = 1 → t.ctx.pc = a + 16 ∧ t.ctx.work.loops = #v[u.ctx.work.loops[1], u.ctx.work.loops[2], u.ctx.work.loops[3], Level.reset])
       ∧ (l.kind = 2 → (t.ctx.work.getP 8).val = decide (l.stg.toNat < (l.count - 1).toNat))
       ∧ t.ctx.work.x = u.ctx.work.x ∧ t.ctx.work.v = u.ctx.work.v ∧ t.ctx.work.vb = u.ctx.work.vb ∧ t.ctx.work.pb = u.ctx.work.pb))

/-- R118, R137: `eret` in a handler leaves its block through the return; after that block's commit the return sets the schedule clock to
ctl.tsched, clears IH, and resumes at ctl.epc, with the saved carry-ins back in flight or landed if RDR is 0, and none of them if it is 1.
R145: with RDR 1 it pops loop level 0 where its body is the trapped block, and leaves the loop stack otherwise. That RDR reads 0 after the
return is log 28 (DEDUCED). R33, R118, R137: a block that holds an `eret`, as it closes at its last bundle. It is assayed like any other,
the return address listed by its first syllable (R77's indirect class) where RDR is 1; where it agrees it commits (State.commitBlock), and
once no block stands behind it the touchstone compares under way are made and the return acts on the committed copies (Ctx.eret), after
which the suspended copies of the context are settled by RDR. One that fails its first assay runs again from its entry and does not return.
While a page walk of the context is outstanding it only waits, frozen (R207). That it commits at its last bundle is log 28 (DEDUCED). -/
def Obligations.ReturnFromTrap : Prop :=
  (∀ (h : Hdr) (s : State),
     (s.mayIssue h [] → s.ctx.work.guardPoison h = false → s.ctx.ih = true → exec (.eret h) s = .next (s.steersTo .eret))
     ∧ ∀ c : Ctx,
       c.eret.ih = false ∧ c.eret.sclk = c.tsched.toNat ∧ c.eret.saved = [] ∧ c.eret.savedBlk = none ∧ c.eret.cause = c.cause
       ∧ c.eret.tval = c.tval ∧ c.eret.cur.lf = 0 ∧ c.eret.cur.rerun = false ∧ c.eret.cur.entry = c.eret.pc
       ∧ c.eret.pc = c.deliverAll.comm.epc &&& 0x01FFFFFFFFFFFFF8
       ∧ (c.deliverAll.comm.rdr = true → c.eret.flight = [] ∧ c.eret.comm.rdr = false ∧ c.eret.work = c.eret.comm
         ∧ (let old := (c.savedBlk.getD c.cur).entry
           let ls := c.deliverAll.comm.loops
           (ls[0].kind ≠ 0 → ls[0].body = old → c.eret.comm.loops = #v[ls[1], ls[2], ls[3], Level.reset])
           ∧ (ls[0].kind = 0 ∨ ls[0].body ≠ old → c.eret.comm.loops = ls)))
       ∧ (c.deliverAll.comm.rdr = false → c.eret.comm = c.deliverAll.comm
         ∧ ∀ f ∈ c.saved, c.tsched.toNat < f.due → f ∈ c.eret.flight))
  ∧
  (∀ (a hall : Word) (m m' : Hallmark) (s : State), s.ctx.cur.xfer = .eret → s.ctx.closings = [] → s.ctx.cur.taint = none → s.ctx.cur.nb ≠ 0 →
     Hallmark.of hall 0xF000000000000000 = some m' →
     let v := s.lateEffects
     let cyc := s.ctx.sclk
     let soon (f : Flight) : Bool := decide (f.due ≤ cyc + 2) && !f.isTouch
     let x : Closing := ⟨s.ctx.cur, v.ctx.work, s.ctx.flight.filter soon, cyc + 2, a, hall, 0, false, m.safe⟩
     let w : State := { v with ctx := { v.ctx with closings := [x], flight := s.ctx.flight.filter fun f => !soon f } }
     let fin := x.work.landAll x.inflight
     let agrees : Prop := (fin.rdr = false ∨ s.listedClass s.ctx.part a m' fin.epc = true) ∧ s.ctx.cur.lf = hall.setWidth 32
     let u : State := w.commitBlock x [] fin
     let t := s.closeBlock a hall m
     (s.walkingOf s.who = true → t.ctx.closings = [x] ∧ t.ctx.frozen = some .translation ∧ t.ctx.ih = s.ctx.ih ∧ t.ctx.pc = s.ctx.pc
       ∧ t.mem = s.mem ∧ t.work = s.work)
     ∧ (s.walkingOf s.who = false → agrees → u.intact w = true → u.ctx.closings = [] → u.ctx.cur.nb ≠ 0 →
       let k := u.compareAll
       let r := ({ k with ctx := Ctx.eret { k.ctx.resume with work := k.ctx.comm } } : State).settleCopies k.who k.ctx.comm.rdr
       t = { r with iss := { r.iss with fate := .moved } })
     ∧ (s.walkingOf s.who = false → ¬agrees → s.ctx.cur.rerun = false →
             t.ctx.pc = s.ctx.cur.entry ∧ t.ctx.sclk = s.ctx.cur.clk ∧ t.ctx.ih = s.ctx.ih ∧ t.ctx.cur.rerun = true ∧ t.ctx.saved = s.ctx.saved
         ∧ t.mem = s.mem ∧ t.work = s.work))

/-- R184 to R187: what the lineage forms deliver. -/
def Obligations.LineageForms : Prop :=
  ∀ (h : Hdr) (d3 : BitVec 3) (d s1 : BitVec 6) (imm : BitVec 8) (i : Imm) (file : TagFile) (off : BitVec 16) (s : State),
    (s.mayIssue h [.x s1] → exec (.lstamp h d3 s1 imm) s
      = .next (s.inFlight 1 (.stamp d3) (.word (((s.xval s1 + imm.setWidth 64).setWidth 8).setWidth 64)) 0 false 0))
    ∧ (s.mayIssue h [.x d] → exec (.lseed h false d i) s
      = .next ((s.foldedBy ((i.value false).setWidth 32)).inFlight 1 (.tagX d) .tagOnly ((i.value false).setWidth 32) false 0))
    ∧ (s.mayIssue h [.v d] → exec (.lseed h true d i) s
      = .next ((s.foldedBy ((i.value false).setWidth 32)).inFlight 1 (.tagV (s.ctx.work.physV d)) .tagOnly
          ((i.value false).setWidth 32) false 0))
    ∧ (s.mayIssue h [tagReg file s1, .x d] → (file = .a → s1.toNat < s.ctx.work.acc.length) → exec (.ltag h file d s1) s
      = .next (s.writesClean h 0x62 1 (.x d) [tagReg file s1] (.word ((s.ctx.work.tagOf (tagReg file s1)).setWidth 64)) 0))
    ∧ (let o := ((s.xval s1).setWidth 22 + off.signExtend 22).toNat
      s.mayIssue h [.x s1, .x d] → s.inPad o 1 = true → s.readHeld [(o, 1)] = false → exec (.ltagG h d s1 off) s
      = .next ((s.loadsGranules o 1).writesClean h 0x62 5 (.x d) [.x s1] (.word (s.tagWord s.who.pad o)) 0))
    ∧ (s.mayIssue h [.x d] → exec (.lfold h d) s
      = .next (s.writesClean h 0x63 1 (.x d) [] (.word (s.ctx.cur.lf.setWidth 64)) 0))

/-- R388, R390, R395: `mark` stores the clamped distance of the wall clock from its operand and arms the stall trace, counting event 0x052,
when that passes the committed threshold; `dgrd` requests a debug stop when its guard bit is set; `touch` sends its compare with the known
answer to c + 16, counting 0x050. That `mark` compares with the committed ctl.dthr is log 45 (DEDUCED). -/
def Obligations.AuditForms : Prop :=
  ∀ (h : Hdr) (i : Imm) (g : BitVec 8) (seed : BitVec 16) (c : BitVec 32) (s : State), s.mayIssue h [] →
    let v : Int := Max.max (-(2 ^ 31)) (Min.min (2 ^ 31 - 1) ((s.ctx.wclk.toNat : Int) - (i.value false).toNat))
    let drifts (armed : Bool) : State := { s with ctx := { s.ctx with drift := BitVec.ofInt 32 v, tracing := armed } }
    ((s.ctx.comm.dthr.toNat : Int) < |v| → exec (.mark h i) s = .next ((drifts true).count 0x052))
    ∧ (|v| ≤ (s.ctx.comm.dthr.toNat : Int) → exec (.mark h i) s = .next (drifts false))
    ∧ (s.ctx.guardMask.getLsbD g.toNat = true → exec (.dgrd h g) s = .next { s with ctx := { s.ctx with stopReq := true } })
    ∧ (s.ctx.guardMask.getLsbD g.toNat = false → exec (.dgrd h g) s = .next s)
    ∧ exec (.touch h seed c) s = .next ((s.count 0x050).inFlight 16 .touch (.compare seed c (touchFold seed)) 0 false 0)

/-! ## Memory forms (11_memory_instructions.md) -/

/-- R223, R225, R226, R228: a load of the local space that passes its checks and overlaps no copy delivers the bytes read, little-endian,
after 5 cycles for `ld` and 6 for `vld` and `vgath`, with its memory contribution as t1; lanes from vl up are 0. The poison that a load
takes from its address registers is log 38, the tag word of a granule that a buffered store of the context itself touches log 61 (both
DEDUCED). vd is no field of Table 8.1: it names its register whether or not a port is bound there (R274). -/
def Obligations.LocalLoads : Prop :=
  ∀ (h : Hdr) (ty : Fmt) (d xb vi : BitVec 6) (m : MemOp) (off : BitVec 14) (ssel : BitVec 2) (hint : Hint) (s : State),
    let b := ty.width / 8
    let ea := m.addr s.xval
    let stamp := s.ctx.work.stamp ssel
    (s.mayIssue h (MemOp.srcs m ++ [.x d]) → s.localOk ea b b → s.readHeld [(localOff ea, b)] = false →
      let got := s.localRead stamp [(localOff ea, b)]
      exec (.ld h ty .loc d m ssel hint) s = .next (s.loads h 0x80 5 (.x d) (MemOp.srcs m) [(localOff ea, b)] got (.word (scalarOf ty got.bytes))))
    ∧ (s.mayIssue h (MemOp.srcs m ++ [.v d]) → s.localOk ea (s.vl * b) b → s.readHeld [(localOff ea, s.vl * b)] = false →
      let got := s.localRead stamp [(localOff ea, s.vl * b)]
      exec (.vld h ty .loc d m ssel hint) s
        = .next (s.loads h 0x82 6 (.v d) (MemOp.srcs m) [(localOff ea, s.vl * b)] got (.lanes (elementLanes ty s.vl (leNat got.bytes)))))
    ∧ (s.mayIssue h [.x xb, .v vi, .v d] →
      (∀ a ∈ s.laneAddrs xb vi off b, s.localOk a b b) →
      let ps := (s.laneAddrs xb vi off b).map fun a => (localOff a, b)
      s.readHeld ps = false →
      let got := s.localRead stamp ps
      exec (.vgath h ty d xb vi off ssel hint) s
        = .next (s.loads h 0x84 6 (.v d) [.x xb, .v vi] ps got (.lanes (elementLanes ty s.vl (leNat got.bytes)))))

/-- R223, R231, R35: a scalar load that leaves the tile for a page that is no device page sends one request and makes its destination
pending from the next cycle on, and one for a device page is a command whose destination becomes pending at commit (R210); an `ldl` hit
delivers the block's bytes after 8 cycles under the base tag, and a miss goes to the global space and becomes pending then. Each folds its
step at once with a contribution of 0. The poison of the address registers is log 38, an ldl's hit whatever the page log 39, the page walk
sent as a message at issue log 41 (all DEDUCED). R225, R210, R35: a vector load that leaves the tile sends a request for each unit that it
touches, and its destination is pending afterwards; a load of a device page is one command in the block's list instead. Each request goes to
the home and the address of its unit, asks for the unit's bytes, and fills the lanes of those bytes as its answer comes; the last frees the
load's message entry. A translation that no TLB entry holds is asked for first (R207). Neither changes a register or memory. -/
def Obligations.RemoteLoads : Prop :=
  (∀ (h : Hdr) (ty : Fmt) (sp : Space) (d : BitVec 6) (m : MemOp) (ssel : BitVec 2) (hint : Hint) (l : Leg) (s : State),
     let n := ty.width / 8
     let ea := m.addr s.xval
     let p := s.poisonFrom h (MemOp.srcs m)
     s.mayIssue h (MemOp.srcs m ++ [.x d]) → s.ctx.closings = [] →
     (s.msgs < 32 → l.dev = false → s.locate sp ea n n .read = .ok (.away [l]) →
       exec (.ld h ty sp d m ssel hint) s
         = .next ((s.foldedAway h 0x80 (MemOp.srcs m)).loadSent l (.x d) (.scalar ty) p (s.ctx.sclk + 1)))
     ∧ (s.msgs < 32 → s.ctx.cur.ncmds < 32 → l.dev = true → s.locate sp ea n n .read = .ok (.away [l]) →
       ∃ t, exec (.ld h ty sp d m ssel hint) s = .next t ∧ t.work = s.work ++ s.asksWalk l ∧ t.ctx.pend = s.ctx.pend
         ∧ t.ctx.flight = s.ctx.flight
         ∧ t.ctx.cur.rets = s.ctx.cur.rets ++ [⟨s.nextId, .msg, [.x d], .scalar ty, p, 0, s.ctx.cur.seq, false, none⟩]
         ∧ t.ctx.cur.cmds = s.ctx.cur.cmds
             ++ [⟨s.iss.addr, .send ⟨s.who, dstOf l.home l.off, false, false, false, s.asking l s.nextId (.load l.len)⟩⟩])
     ∧ (∀ bs bad, ea.toNat % n = 0 → s.lineHit ea n = some (bs, bad) →
       exec (.ldl h ty d m hint) s
         = .next ((s.foldedAway h 0x87 (MemOp.srcs m)).inFlight 8 (.x d) (.word (scalarOf ty bs)) (baseX d) (p || bad) 0))
     ∧ (s.msgs < 32 → ea.toNat % n = 0 → s.lineHit ea n = none → s.globalLegs ea .read (unitPieces ea.toNat n) = .ok [l] →
       exec (.ldl h ty d m hint) s
         = .next ((s.foldedAway h 0x87 (MemOp.srcs m)).loadSent l (.x d) (.scalar ty) p (s.ctx.sclk + 8))))
  ∧
  (∀ (h : Hdr) (ty : Fmt) (sp : Space) (vd : BitVec 6) (m : MemOp) (ssel : BitVec 2) (hint : Hint) (legs : List Leg) (s : State),
     let b := ty.width / 8
     s.mayIssue h (MemOp.srcs m ++ [.v vd]) → s.ctx.closings = [] → s.msgs < 32 → legs ≠ [] →
     s.locate sp (m.addr s.xval) (s.vl * b) b .read = .ok (.away legs) →
     let asks (k : Nat) (l : Leg) : Work := ⟨s.who, dstOf l.home l.off, false, false, false, s.asking l (s.nextId + k) (.load l.len)⟩
     let awaits (start : Nat) (now : Bool) (k : Nat) (l : Leg) : Pend :=
       ⟨s.nextId + k, if some l = legs.getLast? then .msg else .none, [s.ctx.work.destOf (.v vd)],
         if l.pos = 0 then .vector ty (l.len / b) else .more ty (l.pos / b) (l.len / b), s.poisonFrom h (MemOp.srcs m), start, s.ctx.cur.seq, now, none⟩
     let u := s.foldedAway h 0x82 (MemOp.srcs m)
     ((∀ l ∈ legs, l.dev = false) → exec (.vld h ty sp vd m ssel hint) s
       = .next { u with
           nextId := s.nextId + legs.length
           work := s.work ++ legs.flatMap s.asksWalk ++ legs.mapIdx asks
           ctx := { u.ctx with pend := s.ctx.pend ++ legs.mapIdx (awaits (s.ctx.sclk + 1) true) } })
     ∧ ((∃ l ∈ legs, l.dev = true) → s.ctx.cur.ncmds < 32 → exec (.vld h ty sp vd m ssel hint) s
       = .next { u with
           nextId := s.nextId + legs.length
           work := s.work ++ legs.flatMap s.asksWalk
           ctx := { u.ctx with cur := { u.ctx.cur with
             cmds := s.ctx.cur.cmds ++ legs.mapIdx fun k l => ⟨s.iss.addr, .send (asks k l)⟩
             ncmds := s.ctx.cur.ncmds + 1
             rets := s.ctx.cur.rets ++ legs.mapIdx (awaits 0 false) } } }))

/-- R224, R225, R31, R274: a store of the local space that passes its checks is held in the store buffer with its data tag, ws and poison as
read at issue, and folds the tag of its data; no byte of memory changes at its issue. The poison of the address registers is log 38
(DEDUCED). A vector data register is no field of Table 8.1, so no port stands in for it. R228: `vscat` holds one store a lane in ascending
order, each the low bytes of its lane at that lane's address, and folds the tag of its data once. -/
def Obligations.LocalStores : Prop :=
  (∀ (h : Hdr) (ty : Fmt) (r : BitVec 6) (m : MemOp) (hint : Hint) (s : State),
     let b := ty.width / 8
     let ea := m.addr s.xval
     (s.mayIssue h (MemOp.srcs m ++ [.x r]) → s.localOk ea b b → s.ctx.cur.bytes + b ≤ 4096 → s.writeHeld [(localOff ea, b)] = false →
       exec (.st h ty .loc r m hint) s
         = .next ((s.storeHeld (localOff ea) ea (leBytes b (s.xval r).toNat) (s.ctx.work.tagOf (.x r))
             (s.poisonFrom h (MemOp.srcs m ++ [.x r]))).foldedBy (s.ctx.work.tagOf (.x r))))
     ∧ (let data := laneBytes (s.vval r) b s.vl
       s.mayIssue h (MemOp.srcs m ++ [.v r]) → s.localOk ea data.length b → s.ctx.cur.bytes + data.length ≤ 4096 →
       s.writeHeld [(localOff ea, data.length)] = false →
       exec (.vst h ty .loc r m hint) s
         = .next ((s.storeHeld (localOff ea) ea data (s.ctx.work.tagOf (.v r)) (s.poisonFrom h (MemOp.srcs m ++ [.v r]))).foldedBy
             (s.ctx.work.tagOf (.v r)))))
  ∧
  (∀ (h : Hdr) (ty : Fmt) (vs xb vi : BitVec 6) (off : BitVec 14) (hint : Hint) (s : State),
     let b := ty.width / 8
     let eas := s.laneAddrs xb vi off b
     let tag := s.ctx.work.tagOf (.v vs)
     let p := s.poisonFrom h [.x xb, .v vi, .v vs]
     s.mayIssue h [.x xb, .v vi, .v vs] → (∀ a ∈ eas, s.localOk a b b) → s.ctx.cur.bytes + s.vl * b ≤ 4096 →
     s.writeHeld (eas.map fun a => (localOff a, b)) = false →
     ∃ t, exec (.vscat h ty vs xb vi off hint) s = .next t
       ∧ t.ctx.cur.stores = s.ctx.cur.stores
           ++ eas.mapIdx (fun l a => ⟨localOff a, leBytes b ((s.vval vs).toArray.getD l 0).toNat, tag, s.ctx.work.ws, p⟩)
       ∧ t.ctx.cur.bytes = s.ctx.cur.bytes + s.vl * b ∧ t.ctx.cur.lf = foldStep s.ctx.cur.lf tag
       ∧ t.ctx.work = s.ctx.work ∧ t.ctx.flight = s.ctx.flight ∧ t.mem = s.mem ∧ t.gtags = s.gtags ∧ t.work = s.work)

/-- R224, R32, R238: a store that leaves the tile for one home is a command of the block's list, released at commit; nothing but its page
walk leaves and no byte of memory changes at its issue. Poisoned data bound for the host or a peer keeps its block from committing (R227).
The poison of the address registers is log 38, the page walk sent at issue log 41 (both DEDUCED). R201, R225, R238: a `vst` whose bytes
stand in several 256-byte units or homes is one command of the block's list, which consists of one message a part, each with the bytes of
its part; the last frees the store's message entry. Poison bound for the host or a peer by any part keeps the block from committing. -/
def Obligations.RemoteStores : Prop :=
  (∀ (h : Hdr) (ty : Fmt) (sp : Space) (r : BitVec 6) (m : MemOp) (hint : Hint) (l : Leg) (s : State), l.pos = 0 →
     s.ctx.cur.ncmds < 32 → s.msgs < 32 →
     let b := ty.width / 8
     let ea := m.addr s.xval
     let sends (t : State) (d : Reg) (data : List Byte) : Prop :=
       let p := s.poisonFrom h (MemOp.srcs m ++ [d])
       t.ctx.cur.cmds = s.ctx.cur.cmds ++ [⟨s.iss.addr, .send ⟨s.who, dstOf l.home l.off, true, false, true,
           s.asking l s.nextId (.store (data.take l.len) (s.ctx.work.tagOf d) s.ctx.work.ws p)⟩⟩]
       ∧ t.ctx.cur.ncmds = s.ctx.cur.ncmds + 1 ∧ t.ctx.cur.lf = foldStep s.ctx.cur.lf (s.ctx.work.tagOf d)
       ∧ (s.ctx.cur.taint = none → (t.ctx.cur.taint.isSome = true ↔ (p && l.crosses) = true))
       ∧ t.ctx.cur.stores = s.ctx.cur.stores ∧ t.ctx.work = s.ctx.work ∧ t.ctx.flight = s.ctx.flight
       ∧ t.mem = s.mem ∧ t.gtags = s.gtags ∧ t.work = s.work ++ s.asksWalk l
     (s.mayIssue h (MemOp.srcs m ++ [.x r]) → s.locate sp ea b b .write = .ok (.away [l]) →
       ∃ t, exec (.st h ty sp r m hint) s = .next t ∧ sends t (.x r) (leBytes b (s.xval r).toNat))
     ∧ (s.mayIssue h (MemOp.srcs m ++ [.v r]) →
       s.locate sp ea (laneBytes (s.vval r) b s.vl).length b .write = .ok (.away [l]) →
       ∃ t, exec (.vst h ty sp r m hint) s = .next t ∧ sends t (.v r) (laneBytes (s.vval r) b s.vl)))
  ∧
  (∀ (h : Hdr) (ty : Fmt) (sp : Space) (r : BitVec 6) (m : MemOp) (hint : Hint) (legs : List Leg) (s : State), legs ≠ [] →
     s.ctx.cur.ncmds < 32 → s.msgs < 32 → s.mayIssue h (MemOp.srcs m ++ [.v r]) →
     let data := laneBytes (s.vval r) (ty.width / 8) s.vl
     let p := s.poisonFrom h (MemOp.srcs m ++ [.v r])
     let tag := s.ctx.work.tagOf (.v r)
     s.locate sp (m.addr s.xval) data.length (ty.width / 8) .write = .ok (.away legs) →
     ∃ t, exec (.vst h ty sp r m hint) s = .next t
       ∧ t.ctx.cur.cmds = s.ctx.cur.cmds ++ legs.map (fun l => ⟨s.iss.addr, .send ⟨s.who, dstOf l.home l.off, true, false, decide (some l = legs.getLast?),
           s.asking l (if some l = legs.getLast? then s.nextId else 0) (.store ((data.drop l.pos).take l.len) tag s.ctx.work.ws p)⟩⟩)
       ∧ t.ctx.cur.ncmds = s.ctx.cur.ncmds + 1 ∧ t.ctx.cur.lf = foldStep s.ctx.cur.lf tag
       ∧ (s.ctx.cur.taint = none → (t.ctx.cur.taint.isSome = true ↔ p = true ∧ ∃ l ∈ legs, l.crosses = true))
       ∧ t.ctx.cur.stores = s.ctx.cur.stores ∧ t.ctx.work = s.ctx.work ∧ t.ctx.flight = s.ctx.flight
       ∧ t.mem = s.mem ∧ t.gtags = s.gtags ∧ t.work = s.work ++ legs.flatMap s.asksWalk)

/-- R222, R205, R189: where an access goes and how it fails, in the order of the checks: an address that is no multiple of the element size,
a local range past the scratchpad, a tile number that names no active site or a range past its offsets, a slice number or range past the
slices. R222: where a local load and a local store trap: a misaligned address takes the alignment fault with that address. R205, R207, R338,
R339: how an access of the global space fails: at its first unit that does not translate, with that unit's address. Without a leaf it is the
translation fault, cause 0x08: an address not in canonical form, or an L5 entry with V = 0, has none. A leaf that lacks the permission is
the permission fault, cause 0x09: R for loads, W for stores, both for atomics, X for fetches. An aligned `ld` or `st` traps so. -/
def Obligations.AccessChecks : Prop :=
  ((∀ (s : State) (ea : Word) (n esz : Nat) (need : Need),
      (∀ sp, ea.toNat % esz ≠ 0 → s.locate sp ea n esz need = .error (.fault 0x0B need.detail ea))
      ∧ (ea.toNat % esz = 0 →
        (localOff ea + n ≤ s.padSize s.who.pad → s.locate .loc ea n esz need = .ok (.loc (localOff ea)))
        ∧ (s.padSize s.who.pad < localOff ea + n →
          s.locate .loc ea n esz need = .error (.error need.detail (BitVec.ofNat 64 (localOff ea))))
        ∧ (∀ site, s.siteOf (ea.extractLsb' 22 12).toNat = some site → ea.extractLsb' 34 30 = 0 → localOff ea + n ≤ 2 ^ 22 →
          s.locate .tile ea n esz need = .ok (.away [⟨0, n, .pool site, localOff ea, false, false, ea, some (ea.extractLsb' 22 12).toNat⟩]))
        ∧ (s.siteOf (ea.extractLsb' 22 12).toNat = none ∨ ea.extractLsb' 34 30 ≠ 0 ∨ 2 ^ 22 < localOff ea + n →
          s.locate .tile ea n esz need = .error (.error need.detail ea))
        ∧ (ea.extractLsb' 28 36 = 0 → (ea.extractLsb' 23 5).toNat < 24 → (ea.extractLsb' 0 23).toNat + n ≤ 2 ^ 23 →
          s.locate .slice ea n esz need
            = .ok (.away [⟨0, n, .slice (ea.extractLsb' 23 5).toNat, (ea.extractLsb' 0 23).toNat, false, false, ea, none⟩]))
        ∧ (ea.extractLsb' 28 36 ≠ 0 ∨ 24 ≤ (ea.extractLsb' 23 5).toNat ∨ 2 ^ 23 < (ea.extractLsb' 0 23).toNat + n →
          s.locate .slice ea n esz need = .error (.error need.detail ea))))
   ∧
   (∀ (h : Hdr) (ty : Fmt) (sp : Space) (r : BitVec 6) (m : MemOp) (ssel : BitVec 2) (hint : Hint) (s : State), s.trapsEnter →
      s.mayIssue h (MemOp.srcs m ++ [.x r]) → (m.addr s.xval).toNat % (ty.width / 8) ≠ 0 →
      (∃ t, exec (.ld h ty sp r m ssel hint) s = .next t ∧ s.entersHandler t 0x0B 0x01 (m.addr s.xval))
      ∧ (∃ t, exec (.st h ty sp r m hint) s = .next t ∧ s.entersHandler t 0x0B 0x02 (m.addr s.xval))))
  ∧
  (∀ (h : Hdr) (ty : Fmt) (r : BitVec 6) (m : MemOp) (ssel : BitVec 2) (hint : Hint) (s : State),
     let pasid := (s.part s.ctx.part).pasid
     let leaf (va : Word) := s.leafOf s.who.site pasid s.ctx.part va
     let lacks (need : Need) (e : Word) : Prop := match need with
       | .read => e.getLsbD 1 = false | .write => e.getLsbD 2 = false | .both => e.getLsbD 1 = false ∨ e.getLsbD 2 = false | .fetch => e.getLsbD 3 = false
     let barred (va : Word) (need : Need) : Prop := ∃ e b, leaf va = some (e, b) ∧ lacks need e
     (∀ va : Word, va ≠ (va.extractLsb' 0 57).signExtend 64 → leaf va = none)
     ∧ (∀ (va : Word) (root : Nat), s.tlbHit s.who.site pasid (va.extractLsb' 0 57).toNat = none → s.pasidRoot pasid s.ctx.part = some root →
         s.word .dram (root + 8 * (va.extractLsb' 48 9).toNat) 8 % 2 = 0 → leaf va = none)
     ∧ (∀ (ea : Word) (n esz : Nat) (need : Need) (k pos len : Nat), ea.toNat % esz = 0 → (unitPieces ea.toNat n)[k]? = some (pos, len) →
         (∀ j < k, ∀ q, (unitPieces ea.toNat n)[j]? = some q → ∃ pl, s.translate s.who.site s.ctx.part (ea + BitVec.ofNat 64 q.1) need = .ok pl) →
         let va := ea + BitVec.ofNat 64 pos
         (leaf va = none → s.locate .glob ea n esz need = .error (.fault 0x08 need.detail va))
         ∧ (barred va need → s.locate .glob ea n esz need = .error (.fault 0x09 need.detail va)))
     ∧ (s.trapsEnter → s.mayIssue h (MemOp.srcs m ++ [.x r]) →
         let ea := m.addr s.xval
         let traps (i : Instr) (code detail : BitVec 8) : Prop := ∃ t, exec i s = .next t ∧ s.entersHandler t code detail ea
         ea.toNat % (ty.width / 8) = 0 →
         (leaf ea = none → traps (.ld h ty .glob r m ssel hint) 0x08 0x01 ∧ traps (.st h ty .glob r m hint) 0x08 0x02)
         ∧ (barred ea .read → traps (.ld h ty .glob r m ssel hint) 0x09 0x01)
         ∧ (barred ea .write → traps (.st h ty .glob r m hint) 0x09 0x02)))

/-- R232, R235, R171, R383: a read-modify-write form whose access passes its checks is one command of the block's list, with the operands,
tag, ws and poison as read at issue; a returning form makes its destination pending from the commit on; every form folds one destination
step with a contribution of 0, and its data enters the digest. Nothing is read or written at its issue, its page walk excepted nothing
leaves (R207), and nothing else changes. The poison of the address register is log 38, the page walk sent at issue log 41 (both DEDUCED). -/
def Obligations.ReadModifyWriteForms : Prop :=
  ∀ e ∈ rmwForms, ∀ (h : Hdr) (o : Rmw) (s : State),
    let n := o.ty.width / 8
    let ea := s.xval o.xb + o.off.signExtend 64
    let xs : Prop := RmwOp.takesXs e.2.2
    ∀ (rs : List Reg) (e3 : Word) (t3 : Tag), (xs ∧ rs = [.x o.rd, .x o.xs] ∧ e3 = s.xval o.xs ∧ t3 = s.ctx.work.tagOf (.x o.xs))
      ∨ (¬xs ∧ rs = [.x o.rd] ∧ e3 = 0 ∧ t3 = 0) →
    let tag := destTag h e.2.1 0 (s.ctx.work.tagOf (.x o.rd)) t3 0
    let p := s.poisonFrom h (rs ++ [.x o.xb])
    let asks : Access := .rmw e.2.2 o.ty (s.xval o.rd) e3 (e.2.2 == .fadd && o.xs.getLsbD 1) (e.2.2 == .fadd && o.xs.getLsbD 0) o.ret tag
      s.ctx.work.ws p
    let leaves (dst : Dst) (entry : Bool) (id : Nat) (l : Leg) (takes : Entry) (taint : Option Word) (walk : List Work) : State :=
      let b := s.ctx.cur
      { s with
        nextId := s.nextId + 1
        work := s.work ++ walk
        ctx := { s.ctx with cur := { b with
          cmds := b.cmds ++ [⟨s.iss.addr, .send ⟨s.who, dst, true, false, entry, s.asking l id asks⟩⟩]
          ncmds := b.ncmds + 1
          rets := b.rets ++ if o.ret then [⟨s.nextId, takes, [.x o.rd], .word, p, 0, b.seq, false, none⟩] else []
          lf := foldStep b.lf tag
          taint := taint
          digest := b.digest ++ [(digestAddr o.space ea,
            (leBytes n (s.xval o.rd).toNat).mapIdx fun i y => ((ea.extractLsb' 0 3).toNat + i, y))] } } }
    s.mayIssue h (rs ++ [.x o.xb, .x o.rd]) → s.ctx.cur.ncmds < 32 →
    (o.space = .loc → s.localOk ea n n → s.writeHeld [(localOff ea, n)] = false →
      exec (e.1 h o) s = .next (leaves (.bank s.who.site) false (if o.ret then s.nextId else 0)
        ⟨0, n, s.who.pad, localOff ea, false, false, ea, none⟩ .none s.ctx.cur.taint []))
    ∧ (∀ l, s.msgs < 32 → s.locate o.space ea n n .both = .ok (.away [l]) →
      exec (e.1 h o) s = .next (leaves (dstOf l.home l.off) (!o.ret) s.nextId l .msg
        (if p && l.crosses && s.ctx.cur.taint.isNone then some s.iss.addr else s.ctx.cur.taint) (s.asksWalk l)))

/-- R233, Table 11.2: the new element and the value returned, of the old element `a` of N bits and the operands. R234, R63: `atom.fadd`
leaves the exact sum of the two elements rounded once under RNE to the memory format, its flags those of its operands, of the sum and of the
rounding, and returns the old element's bits. Finite operands add exactly; infinities of opposite signs give NaN with NV; a NaN operand
gives NaN. -/
def Obligations.ReadModifyWriteValues : Prop :=
  (∀ (ty : Fmt) (fi fo : Bool) (a : Nat) (rd xs : Word), a < 2 ^ ty.width →
     let d := rd.toNat % 2 ^ ty.width
     let old := ty.fit (ty.opnd (BitVec.ofNat 64 a))
     let num (v : Nat) : Int := ty.opnd (BitVec.ofNat 64 v)
     let leaves (op : RmwOp) (new : Nat) : Prop := (rmwApply op ty fi fo a rd xs).new = new ∧ (rmwApply op ty fi fo a rd xs).ret = old
     leaves .add ((a + d) % 2 ^ ty.width)
     ∧ leaves .min (if num d < num a then d else a) ∧ leaves .max (if num a < num d then d else a)
     ∧ leaves .and (a &&& d) ∧ leaves .or (a ||| d) ∧ leaves .xor (a ^^^ d) ∧ leaves .swp d
     ∧ leaves .cas (if a = d then xs.toNat % 2 ^ ty.width else a)
     ∧ (∃ new, leaves .bfins new ∧ ∀ i < ty.width, new.testBit i = if xs.getLsbD i then rd.getLsbD i else a.testBit i)
     ∧ (∃ new, leaves .plset new ∧
         new = if ((Finset.range 64).filter fun i => (a ||| d).testBit i = true).card ≤ xs.toNat % 128 then a ||| d else a)
     ∧ (ty.width = 64 → ∃ k ≤ 64, (rmwApply .ffcs ty fi fo a rd xs).ret = BitVec.ofNat 64 k
         ∧ (∀ j < k, a.testBit j = true) ∧ (k < 64 → a.testBit k = false)
         ∧ (rmwApply .ffcs ty fi fo a rd xs).new = if k < 64 then a ||| 2 ^ k else a))
  ∧
  (∀ (ty : Fmt) (fi fo : Bool) (a : Nat) (rd xs : Word),
     let d := rd.toNat % 2 ^ ty.width
     let x := ty.operand fi a
     let y := ty.operand fi d
     let z := Ex.add false x.1 y.1
     let w := ty.round .rne fo false 0 0 z.1
     let signed (neg : Bool) (k : Int) : Int := if neg then -k else k
     rmwApply .fadd ty fi fo a rd xs = ⟨w.1, BitVec.ofNat 64 a, x.2 ||| y.2 ||| z.2 ||| w.2⟩
     ∧ (∀ s m e t n f, x.1 = .fin s m e → y.1 = .fin t n f → z.2 = 0
       ∧ ∃ neg, z.1 = Ex.ofInt (signed s (m * 2 ^ (e - Min.min e f).toNat) + signed t (n * 2 ^ (f - Min.min e f).toNat)) (Min.min e f) neg)
     ∧ (∀ s, x.1 = .inf s → y.1 = .inf (!s) → z = (.nan, .NV)) ∧ (x.1 = .nan ∨ y.1 = .nan → z = (.nan, 0)))

/-- R223, R224, R233, R209, R212: an access that its home admits is performed there when it arrives. A load answers with the bytes as they
stand, a store writes its bytes, a read-modify-write reads the element and writes the new one in one event; every byte elsewhere reads as
before. A non-returning read-modify-write ORs its flags into ctl.bflags of its tile. R171, R235, R64, R199, R202, R236: what else a write
served at its home leaves. At a scratchpad every granule that it touches holds the tag word of the write: the tag and ws of its issue, the
issuing site as writer, ctl.part, and its poison, with that of the old element for a read-modify-write; every other granule keeps its word,
and a monitor armed on a granule touched meets the write and is sent its wake-up. Elsewhere no tag word changes; of the 64-byte units
touched, poisoned data marks each, clean data that covers a unit clears its mark, and a partial clean write leaves it. -/
def Obligations.AccessesPerformed : Prop :=
  (∀ (r : Req) (s : State), s.canonical = true → homeMissing r.home = false → s.refuses r = false →
     (∀ n, r.body = .load n →
       ∃ t, exec (.remoteAccessArrival r) s = .next t
         ∧ t.work = s.work ++ [answerWork ⟨r.src, r.id, bytesWords (s.bytes r.home r.off n), s.homePoison r.home r.off n, 0⟩]
         ∧ t.ctx = s.ctx ∧ t.mem = s.mem ∧ t.gtags = s.gtags ∧ t.pois = s.pois)
     ∧ (∀ data tag ws p, r.body = .store data tag ws p → r.off + data.length ≤ 2 ^ 64 →
       ∃ t, exec (.remoteAccessArrival r) s = .next t ∧ t.bytes r.home r.off data.length = data
         ∧ s.sameBytesBut t r.home r.off data.length ∧ (∃ mo, t.ctx = { s.ctx with monitor := mo })
         ∧ (r.id ≠ 0 → ackWork r.src ∈ t.work))
     ∧ (∀ op ty d e fi fo ret tag ws p, r.body = .rmw op ty d e fi fo ret tag ws p → r.off + ty.width / 8 ≤ 2 ^ 64 →
       let n := ty.width / 8
       let x := rmwApply op ty fi fo (s.word r.home r.off n) d e
       ∃ t, exec (.remoteAccessArrival r) s = .next t ∧ t.bytes r.home r.off n = leBytes n x.new
         ∧ s.sameBytesBut t r.home r.off n ∧ (∃ mo, t.ctx = { s.ctx with monitor := mo })
         ∧ (ret = true → ∃ q, answerWork ⟨r.src, r.id, [x.ret], q, x.flags⟩ ∈ t.work)
         ∧ (ret = false → reqBank r = s.who.site → t.tile.bflags = s.tile.bflags ||| x.flags)))
  ∧
  (∀ (r : Req) (s : State), s.canonical = true → homeMissing r.home = false → s.refuses r = false →
     let marks (n : Nat) (tag : Tag) (ws : BitVec 8) (p : Bool) : Prop := ∃ t, exec (.remoteAccessArrival r) s = .next t
       ∧ (∀ site, r.home = .pool site ∨ r.home = .custodian site →
         (∀ g ∈ granulesOf r.off n, t.tagWord r.home g = (0 : BitVec 9) ++ r.part ++ BitVec.ofBool p ++ BitVec.ofNat 10 r.src.site ++ ws ++ tag)
         ∧ (∀ a, a < 2 ^ 64 → (∀ g ∈ granulesOf r.off n, a / 256 ≠ g / 256) → t.tagWord r.home a = s.tagWord r.home a)
         ∧ (∀ (c : Src) (mo : Monitor), c.site = site → c.pad = r.home → c.cid < 4 → (s.getCtx c).monitor = some mo → mo.hit = false →
           ((∃ g ∈ granulesOf r.off n, g / 256 = mo.off / 256) → wakeWork c ∈ t.work ∧ (t.getCtx c).monitor = some { mo with hit := true })
           ∧ ((∀ g ∈ granulesOf r.off n, g / 256 ≠ mo.off / 256) → (t.getCtx c).monitor = some mo)))
       ∧ ((∀ site, r.home ≠ .pool site ∧ r.home ≠ .custodian site ∧ ∀ d, r.home ≠ .peerPool d site) → t.gtags = s.gtags
         ∧ ∀ u ∈ linesOf r.off n, t.unitPoison r.home (64 * u) = if p then true
             else if r.off ≤ 64 * u ∧ 64 * u + 64 ≤ r.off + n then false else s.unitPoison r.home (64 * u))
     (∀ data tag ws p, r.body = .store data tag ws p → r.off + data.length ≤ 2 ^ 64 → marks data.length tag ws p)
     ∧ (∀ op ty d e fi fo ret tag ws p, r.body = .rmw op ty d e fi fo ret tag ws p → r.off + ty.width / 8 ≤ 2 ^ 64 →
       marks (ty.width / 8) tag ws (p || s.homePoison r.home r.off (ty.width / 8))))

/-- R236, R237, R36, R245: an `mwait` whose element differs from its operand, or for which a pre-emption or a trap waits, or which has been
woken, delivers the element after 5 cycles as a load does; else its bundle waits, with the monitor armed on the element, whose bank its
comparison has used (R191); a wound outside a handler is no such trap: it takes the context out of the wait itself (R328). While another
slot's monitor is armed, or a write of the context to its own scratchpad is still to be served there, the bundle waits and nothing is
compared. The load's poison union is log 38, the tag word under an own buffered store log 61 (both DEDUCED). -/
def Obligations.MonitorWait : Prop :=
  ∀ (h : Hdr) (ty : Fmt) (d : BitVec 6) (m : MemOp) (ssel : BitVec 2) (hint : Hint) (s : State),
    let n := ty.width / 8
    let ea := m.addr s.xval
    let off := localOff ea
    let rs := .x d :: MemOp.srcs m
    let elem := leNat (s.localBytes off n)
    let due : Prop := s.ctx.preempt = true ∨ ∃ t ∈ s.ctx.traps, s.ctx.ih = true ∨ ∀ n, t ≠ .wound n
    let held : Prop := s.ctx.monitor.isSome = true ∨ ∃ w ∈ s.work, w.src = s.who ∧ w.dst = .tile s.who.site ∧ w.write = true
    let mine (w : Woken) : Bool := decide (w.slot = h.slot)
    let gives (g : List Byte × List (Nat × Word)) : Prop :=
      exec (.mwait h ty d m ssel hint) s = .next (s.loads h 0x8C 5 (.x d) rs [(off, n)]
        ⟨g.1, g.2.any fun w => tagPoison w.2, contribution (s.ctx.work.stamp ssel) g.2⟩ (.word (scalarOf ty g.1)))
    s.mayIssue h (rs ++ [.x d]) → s.ctx.closings = [] → s.localOk ea n n → s.readHeld [(off, n)] = false →
    (held → exec (.mwait h ty d m ssel hint) s = .next (s.waitsFor .monitor))
    ∧ (∀ w, ¬held → s.ctx.woken.find? mine = some w → gives (w.bytes, w.gs))
    ∧ (¬held → s.ctx.woken.find? mine = none →
      (elem ≠ (s.xval d).toNat % 2 ^ (8 * n) ∨ due → gives (s.localBytes off n, (granulesOf off n).map fun g => (g, s.localTagWord g)))
      ∧ (elem = (s.xval d).toNat % 2 ^ (8 * n) → ¬due → exec (.mwait h ty d m ssel hint) s
          = .next ((({ s with ctx := { s.ctx with monitor := some ⟨h.slot, off, n, false⟩ } } : State).useBanks s.who.pad off n).waitsFor .monitor)))

/-- R229, R230, R239 to R241, R243: `copy`, `copyr`, `copyx`, `copyc`, `ldblk` and `evblk` put their command, with their operands as read at
issue, in the block's list; nothing moves at their issue, and they fold nothing. -/
def Obligations.CopyCommandsListed : Prop :=
  ∀ (h : Hdr) (out slice : Bool) (s1 s2 s3 : BitVec 6) (ph : BitVec 12) (last : Option ChainEnd) (k : BitVec 4) (opt : Option (BitVec 12))
    (hint : Hint) (s : State), s.ctx.cur.ncmds < 32 → s.copyFull = none →
    let a := s.xval s1
    let b := s.xval s2
    let c := s.xval s3
    let z : Lanes := Vector.replicate 64 0
    (s.mayIssue h [.x s1, .v s2, .x s3] →
      exec (.copy h out slice s1 s2 s3 ph) s = .next (s.lists [.copy ⟨.tensor out slice, a, 0, c, s.vval s2, ph, s.iss.addr⟩]))
    ∧ (s.mayIssue h [.x s1, .x s2, .x s3] →
      exec (.copyr h s1 s2 s3 ph) s = .next (s.lists [.copy ⟨.weave, a, b, c, z, ph, s.iss.addr⟩])
      ∧ exec (.copyx h s1 s2 s3 ph) s = .next (s.lists [.copy ⟨.peer, a, b, c, z, ph, s.iss.addr⟩])
      ∧ exec (.copyc h s1 s2 s3 ph last) s = .next (s.lists [.copy ⟨.chain last, a, b, c, z, ph, s.iss.addr⟩]))
    ∧ (s.mayIssue h [.x s1, .x s2] → exec (.ldblk h s1 s2 k opt hint) s
      = .next (s.lists [.copy ⟨.fill (16 * s.who.cid + k.toNat) hint opt.isSome, a, b, 0, z, opt.getD 0, s.iss.addr⟩]))
    ∧ (s.mayIssue h [] → exec (.evblk h k) s = .next (s.lists [.evblk (16 * s.who.cid + k.toNat)]))

/-- R258 to R263: `spawn`, `join`, `tend` and `cancel` are commands of the block's list; `ccrd` asks at once and its destination is pending
from the next cycle on, without poison; `yield` marks its block. A counter index above 4,095 is the illegal syllable with reason 0x04. -/
def Obligations.TaskForms : Prop :=
  ∀ (h : Hdr) (d s1 : BitVec 6) (lev : BitVec 4) (s : State),
    let v := s.xval s1
    (s.ctx.cur.ncmds < 32 →
      (s.mayIssue h [.x s1] → s.msgs < 32 →
        (s.localOk v 64 64 → s.readHeld [(localOff v, 64)] = false → exec (.spawn h s1) s = .next (s.lists [.spawn (localOff v)]))
        ∧ (∀ l, s.locate .glob v 128 128 .both = .ok (.away [l]) → exec (.join h s1) s
          = .next (({ s with work := s.work ++ s.asksWalk l } : State).lists [.send ⟨s.who, dstOf l.home l.off, true, true, true, .joinDecrement s.who ⟨s.who, 0, l.home, l.off, l.tile,
              (s.part s.ctx.part).pasid.toNat, s.ctx.part, l.expE, l.addr,
              .rmw .add .i64 (BitVec.ofNat 64 s.ctx.rank) 0 false false false 0 s.ctx.work.ws false⟩⟩]))
        ∧ (v.toNat < 4096 → exec (.cancel h s1 lev) s
          = .next (s.lists [.send ⟨s.who, .seq, false, false, true, .cancelCounter s.ctx.part lev.toNat v.toNat⟩])))
      ∧ (s.mayIssue h [] → exec (.tend h) s = .next (s.lists [.tend])))
    ∧ (s.mayIssue h [] →
      exec (.yield h) s = .next { s with ctx := { s.ctx with cur := { s.ctx.cur with yields := true } } })
    ∧ (s.mayIssue h [.x s1, .x d] → s.ctx.closings = [] → s.msgs < 32 → v.toNat < 4096 →
      exec (.ccrd h d s1 lev) s = .next ({ s.foldedAway h 0xB4 [.x s1] with
        nextId := s.nextId + 1
        work := s.work ++ [⟨s.who, .seq, false, false, false, .ccrdServe s.who s.nextId s.ctx.part lev.toNat v.toNat⟩]
        ctx := { (s.foldedAway h 0xB4 [.x s1]).ctx with
          pend := s.ctx.pend ++ [⟨s.nextId, .msg, [.x d], .word, false, s.ctx.sclk + 1, s.ctx.cur.seq, true, none⟩] } }))
    ∧ (s.mayIssue h [.x s1] → 4096 ≤ v.toNat → exec (.cancel h s1 lev) s = .next s.illegal)
    ∧ (s.mayIssue h [.x s1, .x d] → 4096 ≤ v.toNat → exec (.ccrd h d s1 lev) s = .next s.illegal)

/-! ## Engine forms (13_engine_queues.md, 15_clasp.md, 17_phasers.md) -/

/-- R276, R277: `sbind` reads its descriptor from the scratchpad and binds its port at the end of its bundle, at position 0; `sunbind` and
`sadv` on a bound port act there too. A port popped or pushed in the block, and an unbound one for `sunbind` and `sadv`, is the illegal
syllable with reason 0x04. R274, R278, R279, R28, R151, R169: a two-source vector form, shown for `vadd`, `vand`, `vor` and `vxor`, with a
bound port for a v field. As a source, a read port pops its head chunk: the elements, fetched ahead or read from the scratchpad now, stand
for the register, m under SSEL for t1, and the position moves on. With a false guard it only folds. An empty stream freezes the bundle; one
past its walk is the error response. As a destination, a write port takes the result as a push of the block. A port of the other kind, or
two that are read, is the illegal syllable with reason 0x04. -/
def Obligations.StreamForms : Prop :=
  (∀ (h : Hdr) (k : BitVec 3) (s1 : BitVec 6) (n : BitVec 12) (s : State),
     let bound := s.ctx.work.ports[k.toNat]'(k.isLt)
     let off := localOff (s.xval s1)
     let desc : Vector Word 5 := Vector.ofFn fun i : Fin 5 => s.localWord (off + 8 * i.val)
     let fresh : Prop := k ∉ s.ctx.cur.touched
     (fresh → s.mayIssue h [.x s1] → s.localOk (s.xval s1) 40 8 → s.readHeld [(off, 40)] = false → streamBad desc = none →
       exec (.sbind h k s1) s = .next ((s.loadsGranules off 40).atEnd (.bind k ⟨desc, BitVec.ofNat 22 off, 0⟩)))
     ∧ (fresh → s.mayIssue h [] → ∀ b, bound = some b →
       exec (.sunbind h k) s = .next (s.atEnd (.unbind k))
       ∧ (streamWrap b.desc = true ∨ b.pos + n.toNat ≤ streamChunks b.desc → exec (.sadv h k n) s = .next (s.atEnd (.advance k n.toNat))))
     ∧ (¬fresh → exec (.sbind h k s1) s = .next s.illegal)
     ∧ (¬fresh ∨ bound = none → exec (.sunbind h k) s = .next s.illegal ∧ exec (.sadv h k n) s = .next s.illegal))
  ∧
  (∀ (h : Hdr) (m : VMod) (k : BitVec 3) (b : Binding) (u w : BitVec 6) (s : State), s.noPorts [u, w] → s.ctx.work.ports[k.toNat]'(k.isLt) = some b →
     let q : BitVec 6 := 24 + k.setWidth 6
     let r := s.ctx.work
     let x := s.ctx.cur
     let e := streamElem b.desc
     let moved (n : Nat) : Regs := { r with ports := r.ports.set k.toNat (some { b with pos := n + 1 }) k.isLt }
     let fits (o : Int) : Prop := 0 ≤ o ∧ o + e ≤ s.padSize s.who.pad
     let lane (ty : Fmt) (v : Nat) : Lane := if ty.isSignedInt then ty.put (v : Int) else BitVec.ofNat 32 v
     (∀ n ty, streamKind b.desc = 0 → streamFmt b.desc = some ty → ty.isElement = true → (∀ o ∈ chunkOffsets b.desc n, fits o) →
       s.readHeld ((chunkOffsets b.desc n).map fun o => (o.toNat, e)) = false →
       ∃ c, s.readChunk b n = .ok c ∧ ∀ i : Fin 64, (c.lanes b.desc)[i] = match (chunkOffsets b.desc n)[i.val]? with
         | some o => lane ty (leNat (s.bytes s.who.pad o.toNat e))
         | none => 0)
     ∧ ∀ (form : BitVec 6 → BitVec 6 → BitVec 6 → Instr) (major : BitVec 8) (lat : Nat) (f : Fin 64 → Lane → Lane → Lane × Flags),
       (form = Instr.vadd h m ∧ major = 0x01 ∧ lat = arithLat m 3 ∧ f = fun i y z => arith2 m i Ex.add (· + ·) y z)
         ∨ (form = Instr.vand h ∧ major = 0x0C ∧ lat = 2 ∧ f = fun _ y z => (y &&& z, 0))
         ∨ (form = Instr.vor h ∧ major = 0x0D ∧ lat = 2 ∧ f = fun _ y z => (y ||| z, 0))
         ∨ (form = Instr.vxor h ∧ major = 0x0E ∧ lat = 2 ∧ f = fun _ y z => (y ^^^ z, 0)) →
       let gives (y z L : Lanes) (fl : Flags) : Prop := (∀ i : Fin 64, L[i] = if i.val < s.vl then (f i y[i] z[i]).1 else 0)
         ∧ ∀ c, fl.getLsbD c = true ↔ ∃ i : Fin 64, i.val < s.vl ∧ (f i y[i] z[i]).2.getLsbD c = true
       (writePort b = false →
         exec (form q u w) s = .next s.illegal ∧ exec (form u q q) s = .next s.illegal
         ∧ (s.ctx.awaited [.p h.guard, .v w, .v u] = none →
           (∀ n c, b.head = some n → s.takeChunk k b n = .ok c →
             let con := contribution (r.stamp (streamSsel b.desc)) c.gs
             let tag := destTag h major con.m (r.tagOf (.v w)) 0 0
             let folds : Block := { x with lf := foldStep x.lf tag, stale := if x.stale.isSome then x.stale else con.stale }
             (r.admits h = true → ∀ L fl, gives (c.lanes b.desc) (s.vval w) L fl → exec (form u q w) s
               = .next (State.inFlight { s with ctx := { s.ctx with
                   work := moved n
                   fetched := s.ctx.fetched.filter fun g => !(g.port == k && g.pos == n)
                   cur := { folds with touched := x.touched ++ [k] } } }
                 lat (r.destOf (.v u)) (.lanes L) tag (c.poison || s.poisonFrom h [.v w]) fl))
             ∧ (r.admits h = false → exec (form u q w) s = .next { s with ctx := { s.ctx with cur := folds } }))
           ∧ (∀ n, b.head = some n → s.takeChunk k b n = .error .absent → s.ctx.closings = [] →
             exec (form u q w) s = .next (s.waitsFor .readPort))
           ∧ (b.head = none → r.admits h = true → s.trapsEnter → ∃ t, exec (form u q w) s = .next t
             ∧ (s.logError s.ctx.part (b.off.setWidth 64) 2).entersHandler t 0x0A 0x01 (b.off.setWidth 64))))
       ∧ (writePort b = true → exec (form u q w) s = .next s.illegal
         ∧ (s.mayIssue h [.v u, .v w] → ∀ n, b.head = some n → (∀ o ∈ chunkOffsets b.desc n, fits o) → x.bytes + streamLanes b.desc * e ≤ 4096 →
           let tag := s.tagFrom h major [.v u, .v w]
           let size := s.drainBytes k + (chunkOffsets b.desc n).length * e
           (size ≤ 4096 → ∀ L fl, gives (s.vval u) (s.vval w) L fl →
             ∃ d, exec (form q u w) s = .next (State.inFlight { s with ctx := { s.ctx with
               work := moved n
               cur := { x with
                 touched := x.touched ++ [k]
                 bytes := x.bytes + streamLanes b.desc * e
                 pushes := x.pushes ++ [⟨s.ctx.sclk + lat, k, (chunkOffsets b.desc n).mapIdx (fun i o => (o.toNat, leBytes e (L.toArray.getD i 0).toNat)),
                   tag, r.ws, s.poisonFrom h [.v u, .v w]⟩]
                 digest := x.digest ++ [d]
                 lf := foldStep x.lf tag } } } lat .flagsOnly .none 0 false fl))
           ∧ (4096 < size → s.ctx.closings = [] → exec (form q u w) s = .next (s.waitsFor .writePort)))))

/-- R286 to R288: `vdefer` appends a record of each active lane that its mask selects, in ascending order, unless the queue would exceed
512; `vdrain` takes the first records of its path, up to 64, delivers their values and the map after 4 cycles, and sends vl their number, at
least 1; the records of other paths keep their order. R291, R293, R35, R36: `rsend` to an entry of its context's partition with port 0 among
its inputs and its operation is a command that carries the active lanes and the identity in the others; `rrecv` on an entry whose result
leaves here makes its two destinations pending, reserves the result, and has one present sent to it; while another context holds the result,
or a commit has claimed one still to come (log 46, DEDUCED), it waits. -/
def Obligations.ReductionAndDeferralForms : Prop :=
  (∀ (h : Hdr) (vm v1 : BitVec 6) (nm1 : BitVec 2) (id : BitVec 8) (s : State),
     let n := nm1.toNat + 1
     let run := (List.range n).map fun i => v1 + BitVec.ofNat 6 i
     let q := s.ctx.work.defer
     (s.mayIssue h (.v vm :: run.map .v) →
       let ls := (List.finRange 64).filter fun l => decide (l.val < s.vl) && decide ((s.vval vm)[l] ≠ 0)
       let new : List DeferRec := ls.map fun l =>
         ⟨id, BitVec.ofNat 6 l.val, run.map fun v => (s.vval v)[l], s.poisonFrom h (.v vm :: run.map .v)⟩
       if q.length + ls.length ≤ 512 then exec (.vdefer h vm v1 nm1 id) s = .next (s.atEnd (.deferral (q ++ new)))
       else exec (.vdefer h vm v1 nm1 id) s = .next s.illegal)
     ∧ (s.mayIssue h (run.map .v ++ [.v vm]) →
       let got := (q.filter fun r => r.id == id).take 64
       ∃ t rest, exec (.vdrain h v1 vm nm1 id) s = .next t ∧ t.iss.late = s.iss.late ++ [.deferral rest]
         ∧ rest.filter (fun r => r.id == id) = (q.filter fun r => r.id == id).drop 64
         ∧ rest.filter (fun r => r.id != id) = q.filter (fun r => r.id != id)
         ∧ rest.length + got.length = q.length
         ∧ (∃ pay : Fin (n + 1) → Payload, t.ctx.flight = s.ctx.flight
           ++ ⟨s.ctx.sclk + 4, .vl, .word (BitVec.ofNat 64 (max got.length 1)), 0, false, 0, s.ctx.cur.seq⟩
             :: (List.finRange (n + 1)).map (fun j => ⟨s.ctx.sclk + 4, s.ctx.work.destOf (.v ((run ++ [vm]).getD j.val vm)), pay j,
                 destTag h 0x71 0 0 0 j.val, got.any (·.poison) || s.ctx.work.guardPoison h, 0, s.ctx.cur.seq⟩)
           ∧ ∀ j : Fin (n + 1), ∃ l : Lanes, pay j = .lanes l ∧ ∀ k : Fin 64, l[k] =
               match got[k.val]? with
               | none => 0
               | some r => if j.val < n then r.vals.getD j.val 0
                   else 0x80000000 ||| (id.setWidth 32 : Lane) <<< 8 ||| r.lane.setWidth 32)
         ∧ t.ctx.cur.lf = (List.range (n + 1)).foldl (fun f j => foldStep f (destTag h 0x71 0 0 0 j)) s.ctx.cur.lf
         ∧ t.ctx.work = s.ctx.work ∧ t.mem = s.mem ∧ t.work = s.work))
  ∧
  (∀ (h : Hdr) (v x : BitVec 6) (t : BitVec 4) (op : RedOp) (s : State),
     let site := s.who.site
     let cfg := (s.tree site t.toNat).cfg
     let mine : Prop := treeValid site cfg = true ∧ treePart cfg = s.ctx.part
     (s.mayIssue h [.v v] → mine → treeIn cfg 0 = true → treeOp cfg = some op → s.ctx.cur.ncmds < 32 → s.rsendFull = none →
       ∃ l : Lanes, (∀ k : Fin 64, l[k] = if k.val < s.vl then (s.vval v)[k] else redIdentity op)
         ∧ exec (.rsend h v t op) s = .next (s.lists [.send ⟨s.who, .router site, false, false, false,
             .reductionPacketArrival site t.toNat 0 ⟨l, op, s.ctx.part, s.poisonFrom h [.v v], 0, 0, 0, 0, false⟩⟩]))
     ∧ (s.mayIssue h [.v v, .x x] → s.ctx.closings = [] → mine → treeOut cfg = 0 →
       (s.rootTaken t.toNat = true → exec (.rrecv h v x t) s = .next (s.waitsFor .root))
       ∧ (s.rootTaken t.toNat = false →
         let b := s.ctx.cur
         exec (.rrecv h v x t) s = .next { s with
           nextId := s.nextId + 1
           work := s.work ++ match (s.tree site t.toNat).root with
             | some p => [rootAnswer s.who s.nextId p]
             | none => []
           ctx := { s.ctx with
             pend := s.ctx.pend ++ [⟨s.nextId, .none, [s.ctx.work.destOf (.v v), .x x], .reduction t.toNat, s.ctx.work.guardPoison h,
               s.ctx.sclk + 2, b.seq, true, none⟩]
             cur := { b with
               reserved := if t.toNat ∈ b.reserved then b.reserved else b.reserved ++ [t.toNat]
               lf := foldStep (foldStep b.lf (destTag h 0xC4 0 0 0 0)) (destTag h 0xC4 0 0 0 1) } } }))
     ∧ (s.mayIssue h [.v v] → s.trapsEnter → ¬(mine ∧ treeIn cfg 0 = true ∧ treeOp cfg = some op) →
       ∃ u, exec (.rsend h v t op) s = .next u ∧ s.entersHandler u 0x0A 0x02 (t.setWidth 64))
     ∧ (s.mayIssue h [.v v, .x x] → s.trapsEnter → ¬(mine ∧ treeOut cfg = 0) →
       ∃ u, exec (.rrecv h v x t) s = .next u ∧ s.entersHandler u 0x0A 0x01 (t.setWidth 64)))

/-- R333, R336, R330: a clasp form with a well-formed name is one command, its status is pending from the commit on, and it folds one step;
`clrel` leaves behind the context's earlier effects. In context 3 it is the illegal syllable with reason 0x04, and an ill-formed name is an
error response. -/
def Obligations.ClaspForms : Prop :=
  ∀ (h : Hdr) (d s1 : BitVec 6) (mode : BitVec 4) (all : Bool) (s : State),
    let name := s.xval s1
    let forms : List (Instr × BitVec 8 × BitVec 8 × Bool × Instr) :=
      let q (f : ClForm) (m : BitVec 3) (a : Bool) : ClReq := ⟨s.who, s.nextId, s.ctx.part, s.ctx.rank, name, f, m, a⟩
      [(.clacq h d s1 mode, 0xD0, 0x02, false, .claspRequestServe (q .acq (mode.setWidth 3) false)),
       (.clupg h d s1 mode, 0xD1, 0x02, false, .claspRequestServe (q .upg (mode.setWidth 3) false)),
       (.clrel h d s1 all, 0xD2, 0x02, true, .claspReleaseServe (q .acq 0 all)),
       (.cltry h d s1 mode, 0xD3, 0x02, false, .claspRequestServe (q .try (mode.setWidth 3) false)),
       (.clqry h d s1, 0xD4, 0x01, false, .claspRequestServe (q .qry 0 false))]
    ∀ e ∈ forms,
      (s.who.cid = 3 → exec e.1 s = .next s.illegal)
      ∧ (s.who.cid ≠ 3 → s.mayIssue h [.x s1, .x d] → s.ctx.work.poisonOf (.x s1) = false →
        (nameOk name = true → s.ctx.cur.ncmds < 32 → s.claspFull = none →
          let b := s.ctx.cur
          exec e.1 s = .next { s with
            nextId := s.nextId + 1
            ctx := { s.ctx with cur := { b with
              cmds := b.cmds ++ [⟨s.iss.addr, .send ⟨s.who, .clasp (claspUnit name), false, e.2.2.2.1, false, e.2.2.2.2⟩⟩]
              ncmds := b.ncmds + 1
              rets := b.rets ++ [⟨s.nextId, .clasp, [.x d], .word, s.poisonFrom h [.x s1], 0, b.seq, false, none⟩]
              lf := foldStep b.lf (destTag h e.2.1 0 (s.ctx.work.tagOf (.x s1)) 0 0) } } })
        ∧ (nameOk name = false → s.trapsEnter → ∃ t, exec e.1 s = .next t ∧ s.entersHandler t 0x0A e.2.2.1 name))

/-- R363, R356, R358, R364: a phaser event whose reference names an active tile is one command, to the phaser's tile, and `phsig` leaves
behind the context's earlier effects; `phexp` and `phrd` ask at once and their destination is pending, without poison, a message entry held
by the remote form. In context 3 they are the illegal syllable with reason 0x04. -/
def Obligations.PhaserForms : Prop :=
  ∀ (h : Hdr) (r : PhRef) (sc : Scope) (mode w : BitVec 2) (d s2 : BitVec 6) (s : State),
    let reg : Reg := match r with | .here _ => .x 0 | .remote x => .x x
    let remote : Prop := ∃ x, r = .remote x
    (s.who.cid = 3 → exec (.phreg h r sc mode) s = .next s.illegal ∧ exec (.phdrop h r mode) s = .next s.illegal
      ∧ exec (.phsig h r) s = .next s.illegal ∧ exec (.phexp h d r s2) s = .next s.illegal ∧ exec (.phrd h d r w) s = .next s.illegal)
    ∧ ∀ tile site idx ref, s.who.cid ≠ 3 → s.ctx.work.poisonOf reg = false →
      (∀ i, r = .here i → tile = none ∧ site = s.who.site ∧ idx = i.toNat ∧ ref = i.setWidth 64) →
      (∀ x, r = .remote x → ref = s.xval x ∧ ref.toNat < 2 ^ 24 ∧ tile = some (ref.toNat / 4096) ∧ s.siteOf (ref.toNat / 4096) = some site
        ∧ idx = ref.toNat % 4096) →
      let m : PhMsg := ⟨s.who, Config.device, tile, site, idx, s.ctx.part, ref⟩
      let sends (drains : Bool) (ev : Instr) : State := s.lists [.send ⟨s.who, .tile site, false, drains, true, ev⟩]
      (s.mayIssue h [reg] → s.ctx.cur.ncmds < 32 → s.msgs < 32 →
        exec (.phreg h r sc mode) s = .next (sends false (.phaserRegistration m mode sc))
        ∧ exec (.phdrop h r mode) s = .next (sends false (.phaserDrop m mode))
        ∧ exec (.phsig h r) s = .next (sends true (.phaserSignal m)))
      ∧ (s.ctx.closings = [] → (remote → s.msgs < 32) →
        let asks (t : State) (tag : Tag) (a : Access) : Prop :=
          t = { s with
            nextId := s.nextId + 1
            work := s.work ++ [⟨s.who, .tile site, false, false, false, .remoteAccessArrival
              ⟨s.who, s.nextId, .pool site, idx, tile, (s.part s.ctx.part).pasid.toNat, s.ctx.part, false, ref, a⟩⟩]
            ctx := { s.ctx with
              pend := t.ctx.pend
              cur := { s.ctx.cur with lf := foldStep s.ctx.cur.lf tag } } }
          ∧ ∃ e : Entry, (e = .msg ↔ remote) ∧ t.ctx.pend = s.ctx.pend
              ++ [⟨s.nextId, e, [.x d], .phaser, false, s.ctx.sclk + 2, s.ctx.cur.seq, true, none⟩]
        (s.mayIssue h [reg, .x s2, .x d] → ∃ t, exec (.phexp h d r s2) s = .next t
          ∧ asks t (destTag h 0xE5 0 (s.ctx.work.tagOf reg) (s.ctx.work.tagOf (.x s2)) 0) (.phexp ((s.xval s2).setWidth 32)))
        ∧ (s.mayIssue h [reg, .x d] → ∃ t, exec (.phrd h d r w) s = .next t
          ∧ asks t (destTag h 0xE6 0 (s.ctx.work.tagOf reg) 0 0) (.phrd w)))

/-- R360, R364, R36: a held wait of `phwait` or `phsw` starts with a message to its phaser and holds its bundle; once answered it delivers
the status one cycle later, without poison, and once expired the value 0, each with its fold step and its hold gone; until then it goes on
holding. -/
def Obligations.PhaserWaits : Prop :=
  ∀ (h : Hdr) (r : PhRef) (d s2 s3 : BitVec 6) (s : State),
    let reg : Reg := match r with | .here _ => .x 0 | .remote x => .x x
    ∀ (i : Instr) (major : BitVec 8) (also : List Reg) (limit : Option Nat),
      (i = .phwait h d r s2 ∧ major = 0xE3 ∧ also = [] ∧ limit = none)
        ∨ (i = .phsw h d r s2 s3 ∧ major = 0xE4 ∧ also = [.x s3] ∧ limit = some ((s.xval s3).toNat % 2 ^ 32)) →
    (s.who.cid = 3 → exec i s = .next s.illegal)
    ∧ ∀ m, s.who.cid ≠ 3 → s.mayIssue h ([reg, .x s2] ++ also ++ [.x d]) → s.ctx.closings = [] →
      s.ctx.work.poisonOf reg = false → s.phTarget r 0x01 = .ok m →
      let held := s.ctx.holds.find? fun x => x.slot == h.slot
      let tag := destTag h major 0 (s.ctx.work.tagOf reg) (s.ctx.work.tagOf (.x s2)) 0
      let rest := s.ctx.holds.filter fun x => x.slot != h.slot
      let ends (w : Word) : Prop :=
        exec i s = .next (State.inFlight (({ s with ctx := { s.ctx with holds := rest } } : State).foldedBy tag)
          1 (.x d) (.word w) tag false 0)
      (∀ x w, held = some x → x.answer = some w → ends w)
      ∧ (∀ x, held = some x → x.answer = none → x.refused = false →
          (x.expired = true → ends 0) ∧ (x.expired = false → exec i s = .next (s.waitsFor .phaser)))
      ∧ (∀ x, held = some x → x.answer = none → x.refused = true → s.trapsEnter →
          ∃ t, exec i s = .next t ∧ s.entersHandler t 0x0A 0x01 m.ref)
      ∧ (held = none → s.msgs < 32 → exec i s = .next (({ s with
          nextId := s.nextId + 1
          work := s.work ++ ⟨s.who, .tile m.site, false, false, false, .phaserWaitArrival m ((s.xval s2).setWidth 32) s.nextId⟩
            :: if limit = some 0 then [⟨s.who, .tile m.site, false, false, false, .phswLimitExpiry s.who⟩] else []
          ctx := { s.ctx with
            holds := s.ctx.holds ++ [⟨h.slot, s.nextId, remoteRef r, limit, none, false, false⟩] } } : State).waitsFor .phaser))

/-! ## Vector forms (08_vector.md) -/

/-- R151 to R155: the arithmetic forms, lane by lane: on .f32 the exact result of the operands under FI, rounded once under the form's mode
at the lane's dither coordinates, after 3 cycles, 4 for the fused forms and 2 for the selecting ones, a difference of zeros of one sign
keeping it (R60); on integers the exact result wrapped or clamped, after 2. -/
def Obligations.VectorArithmetic : Prop :=
  ∀ (h : Hdr) (m : VMod) (vd v1 v2 v3 : BitVec 6) (s : State), s.noPorts [vd, v1, v2, v3] →
    let a (k : Fin 64) : Lane := (s.vval v1)[k]
    let b (k : Fin 64) : Lane := (s.vval v2)[k]
    let c (k : Fin 64) : Lane := (s.vval v3)[k]
    let inn (w : Lane) : Ex × Flags := Fmt.f32.operand m.fi w.toNat
    let num (w : Lane) : Int := m.fmt.laneOpnd w
    let rounded (k : Fin 64) (x : Ex × Flags) (fl : Flags) : Lane × Flags :=
      let r := Fmt.f32.round m.rnd m.fo m.sat (k.val / 8) (k.val % 8) x.1
      (BitVec.ofNat 32 r.1, r.2 ||| (fl ||| x.2))
    let wrapped (v : Int) : Lane × Flags := (m.fmt.put (m.fmt.satInt m.sat v).1, (m.fmt.satInt m.sat v).2)
    let down := m.rnd == .rdn
    (s.mayIssue h [.v v1, .v v2, .v vd] →
      ∀ (i : Instr) (major : BitVec 8) (lat : Nat) (fop : Ex → Ex → Ex × Flags) (iop : Int → Int → Int),
        (i = .vadd h m vd v1 v2 ∧ major = 0x01 ∧ lat = 3 ∧ fop = (fun x y => Ex.add down x y) ∧ iop = (fun x y => x + y))
        ∨ (i = .vsub h m vd v1 v2 ∧ major = 0x02 ∧ lat = 3 ∧ fop = (fun x y => Ex.sub down x y) ∧ iop = (fun x y => x - y))
        ∨ (i = .vmul h m vd v1 v2 ∧ major = 0x03 ∧ lat = 3 ∧ fop = (fun x y => Ex.mul x y) ∧ iop = (fun x y => x * y))
        ∨ (i = .vmin h m vd v1 v2 ∧ major = 0x06 ∧ lat = 2 ∧ fop = (fun x y => (Ex.min x y, 0)) ∧ iop = (fun x y => Min.min x y))
        ∨ (i = .vmax h m vd v1 v2 ∧ major = 0x07 ∧ lat = 2 ∧ fop = (fun x y => (Ex.max x y, 0)) ∧ iop = (fun x y => Max.max x y)) →
        (m.fmt = .f32 → s.laneResult i h major lat vd [v1, v2] fun k =>
          rounded k (fop (inn (a k)).1 (inn (b k)).1) ((inn (a k)).2 ||| (inn (b k)).2))
        ∧ (m.fmt ≠ .f32 → s.laneResult i h major 2 vd [v1, v2] fun k => wrapped (iop (num (a k)) (num (b k)))))
    ∧ (s.mayIssue h [.v v1, .v v2, .v v3, .v vd] →
      ∀ (i : Instr) (major : BitVec 8) (sub : Bool), (i = .vfma h m vd v1 v2 v3 ∧ major = 0x04 ∧ sub = false)
          ∨ (i = .vfms h m vd v1 v2 v3 ∧ major = 0x05 ∧ sub = true) →
        (m.fmt = .f32 → s.laneResult i h major 4 vd [v1, v2, v3] fun k =>
          let p := Ex.mul (inn (a k)).1 (inn (b k)).1
          rounded k (if sub then Ex.sub down p.1 (inn (c k)).1 else Ex.add down p.1 (inn (c k)).1) ((inn (a k)).2 ||| (inn (b k)).2 ||| (inn (c k)).2 ||| p.2))
        ∧ (m.fmt ≠ .f32 → s.laneResult i h major 2 vd [v1, v2, v3] fun k =>
          wrapped (num (a k) * num (b k) + if sub then -num (c k) else num (c k))))
    ∧ (s.mayIssue h [.v v1, .v vd] →
      (m.fmt = .f32 →
        s.laneResult (.vneg h m vd v1) h 0x09 2 vd [v1] (fun k => rounded k ((inn (a k)).1.neg, 0) (inn (a k)).2)
        ∧ s.laneResult (.vabs h m vd v1) h 0x08 2 vd [v1] (fun k =>
          rounded k (match (inn (a k)).1 with | .fin _ n e => .fin false n e | .inf _ => .inf false | .nan => .nan, 0) (inn (a k)).2))
      ∧ (m.fmt ≠ .f32 →
        s.laneResult (.vneg h m vd v1) h 0x09 2 vd [v1] (fun k => wrapped (-num (a k)))
        ∧ s.laneResult (.vabs h m vd v1) h 0x08 2 vd [v1] (fun k => wrapped |num (a k)|)))
    ∧ ∀ p q e f, Ex.sub down (.fin p 0 e) (.fin q 0 f) = (.fin (if p = q then p else down) 0 0, 0)

/-- R156 to R158: compares, selects, logic and shifts, lane by lane, after 2 cycles. -/
def Obligations.VectorLogic : Prop :=
  ∀ (h : Hdr) (m : VMod) (fmt : Fmt) (vd v1 v2 v3 : BitVec 6) (s : State), s.noPorts [vd, v1, v2, v3] →
    let a (k : Fin 64) : Lane := (s.vval v1)[k]
    let b (k : Fin 64) : Lane := (s.vval v2)[k]
    let inn (w : Lane) : Ex × Flags := Fmt.f32.operand m.fi w.toNat
    let num (w : Lane) : Int := m.fmt.laneOpnd w
    let n := fmt.width
    let low (w : Lane) : Int := (w.toNat % 2 ^ n : Nat)
    let all (t : Bool) : Lane := if t then 0xFFFFFFFF else 0
    (s.mayIssue h [.v v1, .v v2, .v vd] →
      (∀ c, (m.fmt = .f32 → s.laneResult (.vcmp h c m vd v1 v2) h 0x0A 2 vd [v1, v2] fun k =>
          (all (c.float (inn (a k)).1 (inn (b k)).1), (inn (a k)).2 ||| (inn (b k)).2))
        ∧ (m.fmt ≠ .f32 → s.laneResult (.vcmp h c m vd v1 v2) h 0x0A 2 vd [v1, v2] fun k => (all (c.int (num (a k)) (num (b k))), 0)))
      ∧ s.laneResult (.vand h vd v1 v2) h 0x0C 2 vd [v1, v2] (fun k => (a k &&& b k, 0))
      ∧ s.laneResult (.vor h vd v1 v2) h 0x0D 2 vd [v1, v2] (fun k => (a k ||| b k, 0))
      ∧ s.laneResult (.vxor h vd v1 v2) h 0x0E 2 vd [v1, v2] (fun k => (a k ^^^ b k, 0))
      ∧ s.laneResult (.vshl h fmt vd v1 v2) h 0x10 2 vd [v1, v2] (fun k => (fmt.put (low (a k) * 2 ^ ((b k).toNat % n)), 0))
      ∧ s.laneResult (.vshr h fmt vd v1 v2) h 0x11 2 vd [v1, v2] (fun k => (fmt.put (low (a k) / 2 ^ ((b k).toNat % n)), 0))
      ∧ s.laneResult (.vsra h fmt vd v1 v2) h 0x12 2 vd [v1, v2]
        (fun k => (fmt.put (intOf true n (a k).toNat / 2 ^ ((b k).toNat % n)), 0))
      ∧ s.laneResult (.vperm h vd v1 v2) h 0x38 2 vd [v1, v2] (fun k => ((s.vval v1).toArray.getD ((b k).toNat % 64) 0, 0)))
    ∧ (s.mayIssue h [.v v1, .v v2, .v v3, .v vd] →
      s.laneResult (.vsel h vd v1 v2 v3) h 0x0B 2 vd [v1, v2, v3] fun k => (if (s.vval v3)[k] = 0 then b k else a k, 0))
    ∧ (s.mayIssue h [.v v1, .v vd] → s.laneResult (.vnot h vd v1) h 0x0F 2 vd [v1] fun k => (~~~a k, 0))

/-- R159 to R162: conversion lane by lane after 4 cycles, narrowing into packed elements after 4, and the approximations after 8 with their
special cases. -/
def Obligations.VectorConversions : Prop :=
  ∀ (h : Hdr) (m : VMod) (sf : Fmt) (vd v1 v3 : BitVec 6) (s : State), s.noPorts [vd, v1, v3] →
    let a (k : Fin 64) : Lane := (s.vval v1)[k]
    let inn (w : Lane) : Ex × Flags := Fmt.f32.operand m.fi w.toNat
    let elem (w : Lane) : Ex × Flags :=
      if sf.isFloat then sf.operand m.fi (w.toNat % 2 ^ sf.width) else (Ex.ofInt (sf.laneOpnd w) 0 false, 0)
    let real (k : Fin 64) (x : Ex) (fl : Flags) : Lane × Flags :=
      if m.fmt.isFloat then
        ((BitVec.ofNat 32 (m.fmt.round m.rnd m.fo m.sat (k.val / 8) (k.val % 8) x).1),
          (m.fmt.round m.rnd m.fo m.sat (k.val / 8) (k.val % 8) x).2 ||| fl)
      else (m.fmt.put (m.fmt.toInt m.rnd (k.val / 8) (k.val % 8) x).1, (m.fmt.toInt m.rnd (k.val / 8) (k.val % 8) x).2 ||| fl)
    let conv (k : Fin 64) (w : Lane) : Lane × Flags :=
      if sf.isFloat = false ∧ m.fmt.isFloat = false then
        (m.fmt.put (m.fmt.satInt m.sat (sf.laneOpnd w)).1, (m.fmt.satInt m.sat (sf.laneOpnd w)).2)
      else real k (elem w).1 (elem w).2
    let scaled (k : Fin 64) (w c : Lane) : Lane × Flags :=
      let p := Ex.mul (elem w).1 (inn c).1
      let nv : Flags := match p.1 with | .nan => .NV | _ => 0
      real k p.1 ((elem w).2 ||| (inn c).2 ||| p.2 ||| nv)
    let b := m.fmt.width / 8
    let packs (i : Instr) (rs : List Reg) (f : Fin 64 → Lane × Flags) : Prop :=
      ∃ (l : Lanes) (fl : Flags), exec i s = .next (s.writes h 0x21 4 (.v vd) rs (.lanes l) fl)
        ∧ (∀ j < 256, (l.toArray.getD (j / 4) 0).extractLsb' (8 * (j % 4)) 8
            = if j < s.vl * b then (f (Fin.ofNat 64 (j / b))).1.extractLsb' (8 * (j % b)) 8 else 0)
        ∧ ∀ c, fl.getLsbD c = true ↔ ∃ k : Fin 64, k.val < s.vl ∧ (f k).2.getLsbD c = true
    let inf : Nat := 0x7F800000
    let minus : Nat := 0x80000000
    (s.mayIssue h [.v v1, .v vd] →
      s.laneResult (.vcvt h m sf vd v1) h 0x20 4 vd [v1] (fun k => conv k (a k))
      ∧ s.laneResult (.vexp2 h m vd v1) h 0x28 8 vd [v1]
        (fun k => (BitVec.ofNat 32 (exp2Of m.fo (inn (a k)).1).1, (exp2Of m.fo (inn (a k)).1).2 ||| (inn (a k)).2))
      ∧ s.laneResult (.vrcp h m vd v1) h 0x29 8 vd [v1]
        (fun k => (BitVec.ofNat 32 (rcpOf m.fo (inn (a k)).1).1, (rcpOf m.fo (inn (a k)).1).2 ||| (inn (a k)).2))
      ∧ (0 < b → b ≤ 4 → s.vl * b ≤ 256 → packs (.vnarrow h m sf vd v1 none) [.v v1] fun k => conv k (a k)))
    ∧ (s.mayIssue h [.v v1, .x 0, .v v3, .v vd] → 0 < b → b ≤ 4 → s.vl * b ≤ 256 →
      packs (.vnarrow h m sf vd v1 (some v3)) [.v v1, .x 0, .v v3] fun k => scaled k (a k) (s.vval v3)[k])
    ∧ (exp2Of m.fo .nan = (0x7FC00000, 0) ∧ exp2Of m.fo (.inf false) = (inf, 0) ∧ exp2Of m.fo (.inf true) = (0, 0)
      ∧ (∀ n e, Cond.float .ge (.fin false n e) (.fin false 128 0) = true → exp2Of m.fo (.fin false n e) = (inf, .OF ||| .NX))
      ∧ (∀ n e, Cond.float .lt (.fin true n e) (.fin true 160 0) = true → exp2Of m.fo (.fin true n e) = (0, .UF ||| .NX)))
    ∧ (rcpOf m.fo .nan = (0x7FC00000, 0)
      ∧ ∀ neg, rcpOf m.fo (.inf neg) = (if neg then minus else 0, 0) ∧ ∀ e, rcpOf m.fo (.fin neg 0 e) = (if neg then minus + inf else inf, .DZ))

/-- R163 to R165: the reductions take the active lanes in ascending order into lane 0 after 12 cycles, the other lanes 0; the moving forms
deliver their lanes, and `vext` an element, after 2; `setvl` sends vl its count clamped to 1 to 64 after 1 cycle and folds nothing. -/
def Obligations.VectorMoves : Prop :=
  ∀ (h : Hdr) (m : VMod) (fmt : Fmt) (vd v1 x k : BitVec 6) (s : State),
    let w : Lane := (s.xval x).setWidth 32
    let ls := (s.vval v1).toList.take s.vl
    let reduced (i : Instr) (major : BitVec 8) (id0 : Lane) (f : Lane → Lane → Lane × Flags) : Prop :=
      let r := ls.foldl (fun q y => ((f q.1 y).1, q.2 ||| (f q.1 y).2)) (id0, (0 : Flags))
      ∃ l : Lanes, exec i s = .next (s.writes h major 12 (.v vd) [.v v1] (.lanes l) r.2) ∧ ∀ j : Fin 64, l[j] = if j.val = 0 then r.1 else 0
    (s.noPorts [vd, v1] → s.mayIssue h [.v v1, .v vd] →
      reduced (.vredsum h m vd v1) 0x30 (if m.fmt = .f32 then 0x80000000 else 0) (redsumStep m)
      ∧ reduced (.vredmax h m vd v1) 0x31 (if m.fmt = .f32 then 0xFF800000 else 0x80000000) (redmaxStep m)
      ∧ (m.fmt = .i32 → m.sat = false → ∀ q y, redsumStep m q y = (q + y, 0))
      ∧ (m.fmt ≠ .f32 → ∀ q y, redmaxStep m q y = (if q.toInt < y.toInt then y else q, 0))
      ∧ exec (.vmov h vd v1) s = .next (s.writes h 0x3E 2 (.v vd) [.v v1] (.lanes (s.vval v1)) 0))
    ∧ (s.noPorts [vd] →
      (s.mayIssue h [.x x, .v vd] → ∃ l : Lanes, exec (.vbcast h vd x) s = .next (s.writes h 0x39 2 (.v vd) [.x x] (.lanes l) 0)
        ∧ ∀ j : Fin 64, l[j] = if j.val < s.vl then w else 0)
      ∧ (s.mayIssue h [.x x, .v vd, .v vd] → exec (.vins h vd x k) s
        = .next (s.writes h 0x3B 2 (.v vd) [.x x, .v vd] (.lanes ((s.vval vd).set k.toNat w k.isLt)) 0))
      ∧ (s.mayIssue h [.v vd] → s.laneResult (.vlane h vd) h 0x3C 2 vd [] fun j => (BitVec.ofNat 32 j.val, 0)))
    ∧ (s.noPorts [v1] → s.mayIssue h [.v v1, .x x] → exec (.vext h fmt x v1 k) s
      = .next (s.writes h 0x3A 2 (.x x) [.v v1] (.word (BitVec.ofInt 64 (fmt.laneOpnd ((s.vval v1)[k.toNat]'(k.isLt))))) 0))
    ∧ (s.mayIssue h [.x x] → exec (.setvl h x) s
      = .next (s.inFlight 1 .vl (.word (BitVec.ofNat 64 (max 1 (min 64 (s.xval x).toNat)))) 0 false 0))

/-! ## Matrix forms (14_matrix_tables.md) -/

/-- R304 to R311: `mnest` loads a valid table into the shadow; the `mgo` forms arm a loaded shadow with their format and are commands of the
block's list; the `mblk` forms are one product each, placed at commit. In a handler, and in a state of the shadow or the engine that a form
excludes, and with an accumulator outside the allotment, they are the illegal syllable with reason 0x04. R312 to R315: `mzero` sends zeros
to its accumulator after 1 cycle; `scacc` sends it, after 4, the port's partial sum to be added scaled by its vectors; `mdrain` stores its
rows, rounded at their coordinates, with the tag and the poison of its accumulator, and ORs the flags; `mstat` reads the engine. An
accumulator outside the allotment is the illegal syllable with reason 0x04. -/
def Obligations.MatrixForms : Prop :=
  (∀ (h : Hdr) (s1 : BitVec 6) (o : MblkOp) (s : State),
     let w := s.ctx.work
     let sh := w.shadow
     let shadowed (x : Shadow) : State := { s with ctx := { s.ctx with work := { w with shadow := x } } }
     let off := localOff (s.xval s1)
     let table : Vector Word 8 := Vector.ofFn fun i : Fin 8 => s.localWord (off + 8 * i.val)
     (s.mayIssue h [.x s1] →
       (s.ctx.ih = false → sh.st ≠ .armed → off % 8 = 0 → off + 64 ≤ s.padSize s.who.pad → s.readHeld [(off, 64)] = false →
         s.nestBad table = none → exec (.mnest h s1) s = .next ({ shadowed ⟨.loaded, table, .bf16, 0⟩ with iss := (s.loadsGranules off 64).iss }))
       ∧ (s.ctx.ih = true ∨ sh.st = .armed → exec (.mnest h s1) s = .next s.illegal))
     ∧ (s.mayIssue h [] → ∀ (i : Instr) (major : BitVec 8) (f : Prod),
         (i = .mgoBf16 h ∧ major = 0x20 ∧ f = .bf16) ∨ (i = .mgoF8e4 h ∧ major = 0x21 ∧ f = .f8e4) ∨ (i = .mgoF8e5 h ∧ major = 0x22 ∧ f = .f8e5)
           ∨ (i = .mgoI8 h ∧ major = 0x23 ∧ f = .i8) ∨ (i = .mgoI4x h ∧ major = 0x24 ∧ f = .i4x) →
       (s.ctx.ih = false → sh.st = .loaded → s.ctx.cur.ncmds < 32 →
         exec i s = .next ((shadowed ⟨.armed, sh.table, f, major⟩).lists [.mgo]))
       ∧ (s.ctx.ih = true ∨ sh.st ≠ .loaded → exec i s = .next s.illegal))
     ∧ (s.mayIssue h [.x o.s1, .x o.s2] → ∀ (i : Instr) (major : BitVec 8) (f : Prod),
         (i = .mblkBf16 h o ∧ major = 0x28 ∧ f = .bf16) ∨ (i = .mblkF8e4 h o ∧ major = 0x29 ∧ f = .f8e4)
           ∨ (i = .mblkF8e5 h o ∧ major = 0x2A ∧ f = .f8e5) ∨ (i = .mblkI8 h o ∧ major = 0x2B ∧ f = .i8)
           ∨ (i = .mblkI4x h o ∧ major = 0x2C ∧ f = .i4x) →
       let a := localOff (s.xval o.s1)
       let b := localOff (s.xval o.s2)
       (o.acc.toNat < w.acc.length → s.ctx.ih = false → s.ctx.engine.run = none → sh.st ≠ .armed → s.ctx.cur.ncmds < 32 →
         a % 256 = 0 → b % 256 = 0 → a + 8192 ≤ s.padSize s.who.pad → b + 8192 ≤ s.padSize s.who.pad →
         exec i s = .next (s.lists [.mblk ⟨0, f, major, a, b, o.acc.toNat, o.selA, o.selB, o.imA, o.imB⟩]))
       ∧ (w.acc.length ≤ o.acc.toNat ∨ s.ctx.ih = true ∨ s.ctx.engine.run.isSome = true ∨ sh.st = .armed → exec i s = .next s.illegal)))
  ∧
  (∀ (h : Hdr) (k : BitVec 3) (acc : Option (BitVec 3)) (ver vec s1 s2 r0 nm1 d : BitVec 6) (fmt : Fmt) (rnd : Rnd) (sat : Bool) (s : State),
     let w := s.ctx.work
     let ps := s.ctx.ps
     (k.toNat < w.acc.length → s.mayIssue h [.a k] → exec (.mzero h k) s = .next (s.writes h 0x04 1 (.a k) [] .zero 0))
     ∧ (∀ j : BitVec 3, (acc = some j ∨ (acc = none ∧ ps.idx = j.toNat)) → j.toNat < w.acc.length → s.ctx.ih = false →
       s.mayIssue h [.v ver, .v vec, .a j] →
       let tag := destTag h 0x60 ps.tag (w.tagOf (.v ver)) (w.tagOf (.v vec)) 0
       exec (.scacc h acc ver vec rnd sat) s = .next ((s.foldedBy tag).inFlight 4 (.acc j) (.scale ps (s.vval ver) (s.vval vec) rnd sat) tag
         (ps.poison || s.poisonFrom h [.v ver, .v vec]) ps.flags))
     ∧ (let b := fmt.width / 8
       let n := nm1.toNat + 1
       let base := localOff (s.xval s1)
       let p := if localOff (s.xval s2) = 0 then 64 * b else localOff (s.xval s2)
       let elem (g : Grid) (r j : Nat) : Nat × Flags :=
         let v := ((g.toArray.getD r (Vector.replicate 64 0)).toArray.getD j 0).toNat
         if fmt = .f32 then (v, 0)
         else
           let x := Fmt.f32.operand false v
           ((fmt.round rnd false sat (r % 8) (j % 8) x.1).1, x.2 ||| (fmt.round rnd false sat (r % 8) (j % 8) x.1).2)
       ∀ a, w.acc[k.toNat]? = some a → s.mayIssue h [.x s1, .x s2, .a k] → 0 < b → base % b = 0 → p % b = 0 → 64 * b ≤ p →
         base + (n - 1) * p + 64 * b ≤ s.padSize s.who.pad → s.ctx.cur.bytes + n * 64 * b ≤ 4096 →
         s.writeHeld ((List.range n).map fun i => (base + i * p, 64 * b)) = false →
         ∃ t, exec (.mdrain h fmt rnd sat k s1 s2 r0 nm1) s = .next t
           ∧ t.ctx.cur.stores = s.ctx.cur.stores ++ (List.range n).map (fun i =>
               ⟨base + i * p, (List.range 64).flatMap fun j => leBytes b (elem a.val (r0.toNat + i) j).1, a.tag, w.ws, a.poison⟩)
           ∧ t.ctx.cur.bytes = s.ctx.cur.bytes + n * 64 * b ∧ t.ctx.cur.lf = foldStep s.ctx.cur.lf a.tag
           ∧ (∀ c, t.ctx.work.flags.getLsbD c = true ↔ w.flags.getLsbD c = true
               ∨ ∃ i < n, ∃ j < 64, (elem a.val (r0.toNat + i) j).2.getLsbD c = true)
           ∧ t.ctx.work = { w with flags := t.ctx.work.flags } ∧ t.ctx.flight = s.ctx.flight ∧ t.mem = s.mem ∧ t.gtags = s.gtags ∧ t.work = s.work)
     ∧ (s.mayIssue h [.x d] → ∃ v : Word, exec (.mstat h d) s = .next (s.writesClean h 0x06 1 (.x d) [] (.word v) 0)
         ∧ v.extractLsb' 0 40 = BitVec.ofNat 40 s.ctx.engine.remaining ∧ v.extractLsb' 40 20 = 0
         ∧ v.extractLsb' 60 2 = (match w.shadow.st with | .empty => 0 | .loaded => 1 | .armed => 2)
         ∧ (v.getLsbD 62 = true ↔ s.ctx.engine.run.isSome = true ∨ s.ctx.engine.queued ≠ [] ∨ ∃ f ∈ s.ctx.saved ++ s.ctx.flight, f.dest = .ps)
         ∧ (v.getLsbD 63 = true ↔ s.ctx.engine.remaining ≠ 0))
     ∧ (w.acc.length ≤ k.toNat → exec (.mzero h k) s = .next s.illegal ∧ exec (.scacc h (some k) ver vec rnd sat) s = .next s.illegal
         ∧ exec (.mdrain h fmt rnd sat k s1 s2 r0 nm1) s = .next s.illegal))

/-! ## Events of the blocking and collective units (13_engine_queues.md, 15_clasp.md, 17_phasers.md) -/

/-- R355, R356, R360, R437, R242: phaserRegistration, phaserDrop, phaserSignal, phaserByteAddition, phaserErrorArrival and phaserWaitArrival
complete at an active site: all words of the phaser after each, and of no other. A signal, a signal drop, an error arrival or a countdown
may complete its phase: PHASE + 1, LERR = ERR, ERR = 0, SMEM + SNEXT, SNEXT = 0, SIG = 0, and the waits whose phase has passed answered; a
drop that leaves SMEM, SNEXT, WMEM and PEND at 0 then frees it. A site that is not active, another partition's phaser, one not in use, and a
full or empty count refuse: nothing changes, the refusal is logged (reason 4 of log 9, DESIGN CHOICE) and recorded for the sender's next
covering drain (R209). A byte addition refused while its copy is there suspends that copy with detail 0x04 (reason 3 of log 9) and no error
arrival. One whose copy is gone is followed by an error arrival of its bytes (R242, R244; log 60), that of a load-block whose slot was
emptied counts down at once (R230), and that of a peer's copy stands (R241). R350, R356, R241: phaserByteAddition and phaserErrorArrival for
the phaser of a peer device complete: over a link that is up the packet leaves, and no phaser here changes; what the peer answers an
addition is a free value (Config.peerRefuses, log 8). Accepted, the copy's bytes may land; refused, or bound for a link that is not up, the
copy suspends with detail 0x04. -/
def Obligations.PhaserEvents : Prop :=
  (∀ (m : PhMsg) (mode : BitVec 2) (sc : Scope) (n id : Nat) (q : BitVec 32) (s : State),
     s.canonical = true → m.dev = Config.device →
     let p := s.phaser m.site m.idx
     let active : Prop := (s.logicalOf m.site).isSome = true
     let ok : Prop := active ∧ p.v = true ∧ p.part = m.part
     let sig := mode.getLsbD 0
     let wt := mode.getLsbD 1
     let stands (t : State) (x : Phaser) (more : List Work) : Prop := t.phaser m.site m.idx = x ∧ t.work = s.work ++ more ∧ t.mem = s.mem
       ∧ ∀ site idx, phaserKey site idx ≠ phaserKey m.site m.idx → t.phaser site idx = s.phaser site idx
     let full (x : Phaser) : Bool := x.v && decide (x.smem.toNat ≤ x.sig.toNat) && (decide (x.pend = 0) || x.err)
     let next (x : Phaser) : Phaser := { x with phase := x.phase + 1, lerr := x.err, err := false, smem := x.smem + x.snext, snext := 0, sig := 0 }
     let passed (x : Phaser) (w : PWait) : Bool := decide (1 ≤ (x.phase - w.p).toNat ∧ (x.phase - w.p).toNat ≤ 2 ^ 31)
     let after (x : Phaser) : Phaser :=
       if full x then { next x with waits := x.waits.filter fun w => !passed (next x) w } else x
     let answers (x : Phaser) : List Work :=
       if full x then (x.waits.filter (passed (next x))).map fun w => answerWork ⟨w.src, w.id, [(next x).status true], false, 0⟩ else []
     let freed (x : Phaser) : Phaser :=
       if x.smem = 0 ∧ x.snext = 0 ∧ x.wmem = 0 ∧ x.pend = 0 then { x with v := false, err := false, lerr := false, scope := 0, part := 0 } else x
     let refuses (i : Instr) : Prop := ∃ t, exec i s = .next t ∧ t.phasers = s.phasers ∧ t.mem = s.mem ∧ t.work = s.work ++ [ackWork m.src]
       ∧ (t.part m.part).errlog = (s.part m.part).errlog ++ [⟨m.ref, 4⟩]
       ∧ (m.src.site < 288 → (t.getCtx m.src).refusals = (s.getCtx m.src).refusals ++ [⟨siteScope m.src m.site, m.ref⟩])
     (ok → ∃ t, exec (.phaserSignal m) s = .next t
       ∧ let x : Phaser := { p with sig := if p.sig = 65535 then 65535 else p.sig + 1 }
         stands t (after x) (answers x ++ [ackWork m.src]))
     ∧ (¬ok → refuses (.phaserSignal m))
     ∧ ((ok ∨ (active ∧ p.v = false)) → (sig = true → p.smem.toNat + p.snext.toNat ≠ 65535) → (wt = true → p.wmem ≠ 65535) →
       ∃ t, exec (.phaserRegistration m mode sc) s = .next t ∧ stands t { p with
           v := true
           part := m.part
           scope := if p.v then p.scope else (match sc with | .tile => 1 | .die => 2 | _ => 3)
           smem := if sig ∧ p.sig = 0 then p.smem + 1 else p.smem
           snext := if sig ∧ p.sig ≠ 0 then p.snext + 1 else p.snext
           wmem := if wt then p.wmem + 1 else p.wmem } [ackWork m.src])
     ∧ (¬active ∨ (p.v = true ∧ p.part ≠ m.part) ∨ (sig = true ∧ p.smem.toNat + p.snext.toNat = 65535) ∨ (wt = true ∧ p.wmem = 65535) →
       refuses (.phaserRegistration m mode sc))
     ∧ (ok → (sig = true → p.smem ≠ 0) → (wt = true → p.wmem ≠ 0) →
       ∃ t, exec (.phaserDrop m mode) s = .next t
         ∧ let x : Phaser := { p with smem := if sig then p.smem - 1 else p.smem, wmem := if wt then p.wmem - 1 else p.wmem }
           stands t (freed (if sig then after x else x)) ((if sig then answers x else []) ++ [ackWork m.src]))
     ∧ (¬ok ∨ (sig = true ∧ p.smem = 0) ∨ (wt = true ∧ p.wmem = 0) → refuses (.phaserDrop m mode))
     ∧ (active → ∃ t, exec (.phaserErrorArrival m n) s = .next t
       ∧ let x : Phaser := { p with pend := BitVec.ofNat 32 (p.pend.toNat - n), err := true }
         stands t (after x) (answers x))
     ∧ (¬active → exec (.phaserErrorArrival m n) s = .next (s.logError m.part m.ref 4))
     ∧ (let x : Phaser := if p.pend.toNat + n < 2 ^ 32 then { p with pend := p.pend + BitVec.ofNat 32 n } else { p with pend := 0xFFFFFFFF, err := true }
       let y : Phaser := { x with pend := BitVec.ofNat 32 (x.pend.toNat - n) }
       (m.src.site < 288 → ∀ j, s.job? m.src.site id = some j →
         (ok → ∃ t, exec (.phaserByteAddition m n id) s = .next t ∧ stands t x [landWork (j.src m.src.site) id]
           ∧ t.job? m.src.site id = some { j with added := true, refused := false })
         ∧ (¬ok → j.chained = false → ∃ t, exec (.phaserByteAddition m n id) s = .next t ∧ t.phasers = s.phasers ∧ t.mem = s.mem
           ∧ t.job? m.src.site id = some { j with refused := true, suspended := true }
           ∧ (t.getCtx (j.src m.src.site)).traps = (s.getCtx (j.src m.src.site)).traps ++ [.copyFault id 0x04 m.ref]
           ∧ (t.part j.ph.part).errlog = (s.part j.ph.part).errlog ++ [⟨m.ref, 3⟩]
           ∧ ∀ w ∈ t.work, w ∈ s.work ∨ w = wakeWork (j.src m.src.site)))
       ∧ (288 ≤ m.src.site → ok → ∃ t, exec (.phaserByteAddition m n id) s = .next t ∧ stands t x [])
       ∧ (288 ≤ m.src.site ∨ s.job? m.src.site id = none →
         (ok → m.src.site < 288 → m.tile.isSome = true → ∃ t, exec (.phaserByteAddition m n id) s = .next t ∧ stands t x [s.routed (errorWork m n)])
         ∧ (ok → m.src.site < 288 → m.tile = none → ∃ t, exec (.phaserByteAddition m n id) s = .next t ∧ stands t (after y) (answers y))
         ∧ (¬ok → exec (.phaserByteAddition m n id) s = .next (s.logError m.part m.ref 4))))
     ∧ (let d := (p.phase - q).toNat
       (active → (p.v = false ∨ p.part = m.part) → 1 ≤ d → d ≤ 2 ^ 31 →
         exec (.phaserWaitArrival m q id) s = .next (s.send (answerWork ⟨m.src, id, [p.status true], false, 0⟩)))
       ∧ (ok → ¬(1 ≤ d ∧ d ≤ 2 ^ 31) → ∃ t, exec (.phaserWaitArrival m q id) s = .next t
         ∧ stands t { p with waits := p.waits ++ [⟨m.src, id, q⟩] } [])
       ∧ (¬active ∨ p.v = true ∧ p.part ≠ m.part ∨ p.v = false ∧ ¬(1 ≤ d ∧ d ≤ 2 ^ 31) →
         exec (.phaserWaitArrival m q id) s = .next ((s.logError m.part m.ref 4).send (answerWork ⟨m.src, id, [], false, 0⟩)))))
  ∧
  (∀ (m : PhMsg) (n id : Nat) (s : State), m.dev ≠ Config.device → m.src.site < 288 →
     let home : Home := .peerPool m.dev (m.tile.getD 0)
     let up : Prop := (s.peerLink m.dev).st = 3
     (up → exec (.phaserErrorArrival m n) s = .next (s.carried home))
     ∧ (¬up → exec (.phaserErrorArrival m n) s = .next (s.logError m.part m.ref 4))
     ∧ ∀ j, s.job? m.src.site id = some j →
       (up → Config.peerRefuses s.fresh = false → ∃ t, exec (.phaserByteAddition m n id) s = .next t ∧ t.phasers = s.phasers ∧ t.mem = s.mem
         ∧ t.work = s.work ++ [landWork (j.src m.src.site) id] ∧ t.job? m.src.site id = some { j with added := true, refused := false }
         ∧ t.links = (s.carried home).links)
       ∧ (¬up ∨ Config.peerRefuses s.fresh = true → j.chained = false → ∃ t, exec (.phaserByteAddition m n id) s = .next t ∧ t.phasers = s.phasers
         ∧ t.mem = s.mem ∧ t.job? m.src.site id = some { j with refused := true, suspended := true }
         ∧ (t.getCtx (j.src m.src.site)).traps = (s.getCtx (j.src m.src.site)).traps ++ [.copyFault id 0x04 m.ref]))

/-- R323 to R327, R330: claspRequestServe and claspReleaseServe complete. A request in the mode already held is counted (`clacq`) or told
so; one that no holder and no waiter ahead excludes is granted with its status; an excluded `cltry` is denied (CODE 4), and any other
excluded one waits, and wounds each younger holder that excludes it. A release without an entry, or over a lock below, changes nothing; one
that leaves a count decrements it; the last frees the entry. R328, R329, R331: woundDelivery and graceMessage complete. A wound that reaches
the context of its holder posts the trap there and starts its count, once; a grace message served while the wound whose grace has run stands
ends the holder as a failed task, frees its locks and logs the name and both ranks; one served after the wound was satisfied or lapsed, all
the requests that made it gone, changes nothing but the wounds themselves and the grace messages still under way. That the name and the two
ranks are three lines of the error log under reason 1 is log 9 (DESIGN CHOICE). R320, R323, R324: the other outcomes of a request. Busy with
the count at 65,535, a waiting `clacq` upgrade counted (0x03), with no lock entry free for a new holder (0x01) or no waiter entry free
(0x02); the order fault 0x01 where the parent is not held in a mode of its column: none of these changes a lock, queues or wounds. An
upgrade, a task that holds the name in a weaker mode, is granted its join at once where no other holder and no older waiting upgrade
excludes it, a `clacq` counted; a `cltry` is else denied; any other keeps its mode and count, waits as an upgrade, and wounds each younger
holder that excludes it. -/
def Obligations.ClaspAndWoundEvents : Prop :=
  ((∀ (q : ClReq) (s : State), q.src.site < 288 →
      let e := s.lockOf q.part q.rank q.name
      let held := s.modeOf q.part q.rank q.name
      let t := modeJoin held q.mode
      let answers (u : State) (w : Word) : Prop := answerWork ⟨q.src, q.id, [w], false, 0⟩ ∈ u.work
      let kept (u : State) : Prop := u.locks = s.locks ∧ u.waiters = s.waiters ∧ u.wounds = s.wounds ∧ u.ctx = s.ctx ∧ u.mem = s.mem
      let shows (l : Option Lock) (detail code : Nat) : Word := match l with
        | some l => claspStatus l.count l.mode 0 0 detail code
        | none => claspStatus 0 0 0 0 detail code
      (q.form ≠ .qry → ¬(q.form = .upg ∧ held = 0) → t = held → q.form ≠ .acq →
        ∃ u, exec (.claspRequestServe q) s = .next u ∧ kept u ∧ answers u (shows e 1 0))
      ∧ (q.form = .upg → held = 0 → ∃ u, exec (.claspRequestServe q) s = .next u ∧ kept u ∧ answers u (shows e 3 3))
      ∧ (∀ l, e = some l → q.form = .acq → t = held → l.count < 65534 →
        ∃ u, exec (.claspRequestServe q) s = .next u ∧ (∃ l', u.lockOf q.part q.rank q.name = some l' ∧ l' = { l with count := l.count + 1 }
            ∧ answers u (shows (some l') 1 0))
          ∧ (∀ p r n, ¬(p = q.part ∧ r = q.rank ∧ n = q.name) → u.lockOf p r n = s.lockOf p r n) ∧ u.waiters = s.waiters)
      ∧ (e = none → q.form ≠ .qry → q.form ≠ .upg → t ≠ 0 →
        (∀ pn, nameParent q.name = some pn → parentOk t (s.modeOf q.part q.rank pn) = true) → s.locksAt (claspUnit q.name) < 16384 →
        let clear : Prop := (∀ l ∈ s.holders q.part q.name, l.rank ≠ q.rank → compatible (s.matrix q.part) l.mode t = true)
          ∧ ∀ w ∈ s.queueOf q.part q.name, (w.upg = true ∨ w.rank < q.rank) → compatible (s.matrix q.part) w.target t = true
        (clear → ∃ u, exec (.claspRequestServe q) s = .next u ∧ u.locks = s.locks ++ [⟨q.part, q.rank, q.name, t, 1⟩]
            ∧ u.waiters = s.waiters ∧ answers u (claspStatus 1 t 0 0 0 0))
        ∧ (¬clear → q.form = .try → ∃ u, exec (.claspRequestServe q) s = .next u ∧ kept u ∧ answers u (shows none 0 4))
        ∧ (¬clear → q.form = .acq → s.waitersAt (claspUnit q.name) < 32768 →
          ∃ u, exec (.claspRequestServe q) s = .next u ∧ u.locks = s.locks
            ∧ u.waiters = s.waiters ++ [⟨q.part, q.rank, q.name, t, false, true, q.src, q.id⟩]
            ∧ ∀ l ∈ s.holders q.part q.name, q.rank < l.rank → compatible (s.matrix q.part) l.mode t = false →
              ∃ w ∈ u.wounds, w.part = q.part ∧ w.rank = l.rank ∧ w.name = q.name ∧ q.id ∈ w.by_))
      ∧ (e = none → ∃ u, exec (.claspReleaseServe q) s = .next u ∧ kept u ∧ answers u (shows none 3 3))
      ∧ (∀ l, e = some l →
        let below : Prop := ∃ k ∈ s.locks, k.part = q.part ∧ k.rank = q.rank ∧ nameBelow q.name k.name = true
        let last : Prop := q.all = true ∨ l.count ≤ 1
        (last → below → ∃ u, exec (.claspReleaseServe q) s = .next u ∧ kept u ∧ answers u (shows e 2 3))
        ∧ (last → ¬below → ∃ u, exec (.claspReleaseServe q) s = .next u ∧ answers u (claspStatus 0 0 0 0 0 0)
            ∧ (∀ k ∈ s.locks, ¬(k.part = q.part ∧ k.rank = q.rank ∧ k.name = q.name) →
                ∃ k' ∈ u.locks, k'.part = k.part ∧ k'.rank = k.rank ∧ k'.name = k.name)
            ∧ ((∀ w ∈ s.waiters, claspUnit w.name ≠ claspUnit q.name) →
                u.locks = s.locks.filter (fun k => !(k.part == q.part && k.rank == q.rank && k.name == q.name)) ∧ u.waiters = s.waiters))
        ∧ (¬last → ∃ u, exec (.claspReleaseServe q) s = .next u ∧ u.waiters = s.waiters
            ∧ u.locks = s.locks.map (fun k => if k = l then { l with count := l.count - 1 } else k)
            ∧ answers u (shows (some { l with count := l.count - 1 }) 0 0))))
   ∧
   (∀ (p : BitVec 4) (rank : Nat) (name : Word) (s : State),
      let mine (w : Waiter) : Prop := w.part = p ∧ w.rank = rank
      let free (u : State) : Prop := (∀ w ∈ u.waiters, ¬mine w) ∧ u.mem = s.mem
      let stands : Prop := (s.lockOf p rank name).isSome = true ∧ ∃ w ∈ s.wounds, w.part = p ∧ w.rank = rank ∧ w.name = name ∧ w.graced = true
        ∧ ∃ v ∈ s.waiters, v.part = p ∧ v.name = name ∧ v.id ∈ w.by_
      (∀ c, (∃ w ∈ s.wounds, w.part = p ∧ w.rank = rank ∧ w.name = name ∧ w.counted = none) → s.runner p rank = some c →
        ∃ u, exec (.woundDelivery p rank name) s = .next u ∧ (u.getCtx c).traps = (s.getCtx c).traps ++ [.wound name]
          ∧ (u.getCtx c).work = (s.getCtx c).work ∧ (u.getCtx c).comm = (s.getCtx c).comm ∧ u.waiters = s.waiters ∧ u.locks = s.locks
          ∧ u.mem = s.mem ∧ ∀ w ∈ u.wounds, w.part = p → w.rank = rank → w.name = name → w.counted.isSome = true)
      ∧ ((∀ w ∈ s.wounds, w.part = p → w.rank = rank → w.name = name → w.counted.isSome = true) → exec (.woundDelivery p rank name) s = .next s)
      ∧ (stands → ∃ u, exec (.graceMessage p rank name) s = .next u ∧ free u ∧ (∀ l ∈ u.locks, ¬(l.part = p ∧ l.rank = rank))
        ∧ (u.part p).errlog.length = (s.part p).errlog.length + 3
        ∧ ∀ c, s.runner p rank = some c → (u.getCtx c).ending = some .failed ∧ (u.getCtx c).pend = [] ∧ (u.getCtx c).flight = [])
      ∧ (¬stands → ∃ ws wk, exec (.graceMessage p rank name) s = .next { s with wounds := ws, work := wk }
        ∧ wk.Sublist s.work ∧ ∀ x ∈ s.work, (∀ a b n, x.ev ≠ .graceMessage a b n) → x ∈ wk)))
  ∧
  (∀ (q : ClReq) (s : State), q.src.site < 288 → q.form ≠ .qry →
     let e := s.lockOf q.part q.rank q.name
     let held := s.modeOf q.part q.rank q.name
     let t := modeJoin held q.mode
     let answers (u : State) (w : Word) : Prop := answerWork ⟨q.src, q.id, [w], false, 0⟩ ∈ u.work
     let shows (detail code : Nat) : Word := match e with
       | some l => claspStatus l.count l.mode 0 0 detail code
       | none => claspStatus 0 0 0 0 detail code
     let ends (detail code : Nat) : Prop := ∃ u, exec (.claspRequestServe q) s = .next u ∧ u.locks = s.locks ∧ u.waiters = s.waiters
       ∧ u.wounds = s.wounds ∧ u.ctx = s.ctx ∧ u.mem = s.mem ∧ answers u (shows detail code)
     let mine (w : Waiter) : Prop := w.part = q.part ∧ w.rank = q.rank ∧ w.name = q.name
     let rising : Prop := ∃ w ∈ s.waiters, mine w ∧ w.upg = true ∧ w.acq = true
     let counted : Nat := (e.map (·.count)).getD 0
     let full : Prop := (rising ∧ counted + 1 = 65535) ∨ (¬rising ∧ counted = 65535)
     let orphan : Prop := ∃ pn, nameParent q.name = some pn ∧ parentOk t (s.modeOf q.part q.rank pn) = false
     let clear : Prop := (∀ l ∈ s.holders q.part q.name, l.rank ≠ q.rank → compatible (s.matrix q.part) l.mode t = true)
       ∧ ∀ w ∈ s.queueOf q.part q.name, ((held = 0 ∧ (w.upg = true ∨ w.rank < q.rank)) ∨ (held ≠ 0 ∧ w.upg = true ∧ w.rank < q.rank)) →
         compatible (s.matrix q.part) w.target t = true
     let passes : Prop := ¬(q.form = .upg ∧ held = 0) ∧ t ≠ held ∧ ¬(q.form = .acq ∧ held ≠ 0 ∧ full)
     (q.form = .acq → (t = held ∨ held ≠ 0) → full → ends 3 1)
     ∧ (∀ l, e = some l → q.form = .acq → t = held → ¬full → ∃ u, exec (.claspRequestServe q) s = .next u
       ∧ u.lockOf q.part q.rank q.name = some { l with count := l.count + 1 } ∧ u.waiters = s.waiters)
     ∧ (passes → orphan → ends 1 3)
     ∧ (passes → ¬orphan → held = 0 → 16384 ≤ s.locksAt (claspUnit q.name) → ends 1 1)
     ∧ (passes → ¬orphan → (held = 0 → s.locksAt (claspUnit q.name) < 16384) → ¬clear → q.form ≠ .try → 32768 ≤ s.waitersAt (claspUnit q.name) → ends 2 1)
     ∧ (passes → ¬orphan → held ≠ 0 →
       (clear → ∃ u, exec (.claspRequestServe q) s = .next u
         ∧ (∀ l, e = some l → let n := if q.form = .acq then l.count + 1 else l.count
           answers u (claspStatus n t 0 0 2 0) ∧ ((∀ w ∈ s.waiters, ¬mine w) → u.lockOf q.part q.rank q.name = some { l with mode := t, count := n })))
       ∧ (¬clear → q.form = .try → ends 0 4)
       ∧ (¬clear → q.form ≠ .try → s.waitersAt (claspUnit q.name) < 32768 → ∃ u, exec (.claspRequestServe q) s = .next u ∧ u.locks = s.locks
         ∧ u.waiters = s.waiters ++ [⟨q.part, q.rank, q.name, t, true, decide (q.form = .acq), q.src, q.id⟩]
         ∧ ∀ l ∈ s.holders q.part q.name, q.rank < l.rank → compatible (s.matrix q.part) l.mode t = false →
           ∃ w ∈ u.wounds, w.part = q.part ∧ w.rank = l.rank ∧ w.name = q.name ∧ q.id ∈ w.by_)))

/-! ## Events of copies, streams and the array (11_memory_instructions.md, 13_engine_queues.md, 14_matrix_tables.md) -/

/-- R229, R239, R241, R208, R242, R244: ldblkFillComplete, copyBytesLand, copyFault and chainCompare complete. A filled block becomes ready;
a granule of a `copyr` lands with its tag word, and the last one retires the copy; a fault suspends its copy, logs it, posts the copy-fault
trap and sends an error arrival of 0 bytes; a finished chain whose word agrees closes, one that does not runs again while it has retries,
and then fails. Bits flipped on the way land so (log 81). The error log's reason 3 is log 9, the one error arrival for each phaser of a
failed chain log 60, and that the phaser's site is found again as bytes count down log 78: the model's choices. R241, R242, R243, R244: a
command of a chain lands, counts and fails with its chain. A granule for a peer device over a link that is up lands there under WRITER 0x3FF
(R173); the command's Fletcher pair takes in what has landed, the chain's pair joins those of its commands in list order, and no byte counts
down before the match, which counts every command's bytes down. Poisoned granules take the containment fault instead. A fault of one command
closes the chain as failed: its commands retire, each phaser gets the bytes added to it as one error arrival (log 60), and the copy fault
names the chain's first command (log 9 numbers the logged reason). R297, R298, R299, R192, R173, R240: the landing of the next bytes of a
`copy`, those of one granule of the dense local side. Byte p of the window belongs to the element p / b, whose coordinate in dimension d is
its origin plus its digit there, dimension 0 fastest; it stands at BASE plus b times the sum of the coordinates times their strides, modulo
2^57. Into the scratchpad each byte is that byte where the element is inside the tensor, else what FILL gives: PATTERN, the element at the
clamped coordinates, or zeros; the granule takes the record's tag and stamp. Out of it the bytes inside the tensor are written, and no
other. Either way the bytes count down. -/
def Obligations.CopyEvents : Prop :=
  ((∀ (site k id : Nat) (detail : BitVec 8) (addr : Word) (c : Src) (s : State), site < 288 → c.site < 288 → c.cid < 4 →
      (k < 64 → (s.slot site k).st = .filling → (s.slot site k).data.length = 128 * (s.slot site k).lines →
        ∃ t, exec (.ldblkFillComplete site k) s = .next t ∧ t.slot site k = { s.slot site k with st := .ready }
          ∧ (∀ j, j ≠ k → t.slot site j = s.slot site j) ∧ t.mem = s.mem ∧ t.work = s.work)
      ∧ (∀ j, s.job? site id = some j → j.cmd.form = .weave → j.chained = false → s.mayLand site j = true → s.canonical = true →
        let src := j.cmd.s2.toNat + 256 * j.pos
        let dst := (j.cmd.s1.extractLsb' 0 22).toNat + 256 * j.pos
        let from_ := (j.src site).pad
        ∀ n, s.siteOf (j.cmd.s1.extractLsb' 22 12).toNat = some n → n < 288 →
        let to_ : Home := .pool n
        dst % 256 = 0 → dst < 2 ^ 22 → tagPart (s.tagWord to_ dst) = j.ph.part →
        ∃ t, exec (.copyBytesLand site id) s = .next t
          ∧ t.bytes to_ dst 256 = (s.bytes from_ src 256).mapIdx (fun i b => b ^^^ j.flip.getD i 0) ∧ s.sameBytesBut t to_ dst 256
          ∧ t.tagWord to_ dst = s.tagWord from_ src ∧ t.phasers = (s.countDown j.ph 256).phasers
          ∧ (j.pos + 1 < j.units → t.job? site id = some { j with pos := j.pos + 1, flip := [] })
          ∧ (j.pos + 1 = j.units → t.job? site id = none))
      ∧ (∀ j, s.job? site id = some j → j.suspended = false → j.chained = false → j.cid < 4 →
        ∃ t, exec (.copyFault site id detail addr) s = .next t ∧ t.job? site id = some { j with suspended := true }
          ∧ (t.getCtx ⟨site, j.cid⟩).traps = (s.getCtx ⟨site, j.cid⟩).traps ++ [.copyFault id detail addr]
          ∧ (t.part j.ph.part).errlog = (s.part j.ph.part).errlog ++ [⟨addr, 3⟩]
          ∧ (j.refused = false → j.cmd.counts = true → errorWork (s.phNow j.ph) 0 ∈ t.work) ∧ t.mem = s.mem ∧ t.gtags = s.gtags)
      ∧ (∀ ch e, (s.getCtx c).chain = some ch → ch.last = some e →
        (∀ j ∈ (s.getTile c.site).jobs, j.id ∈ ch.jobs → j.units ≤ j.pos) →
        let agrees : Prop := ch.b * 65536 + ch.a = e.word.toNat
        (agrees → ∃ t, exec (.chainCompare c) s = .next t ∧ (t.getCtx c).chain = none ∧ (t.getCtx c).traps = (s.getCtx c).traps
          ∧ (∀ j ∈ (t.getTile c.site).jobs, j.id ∉ ch.jobs) ∧ t.mem = s.mem)
        ∧ (¬agrees → ch.tries < e.retries.toNat → ∃ t, exec (.chainCompare c) s = .next t
          ∧ (t.getCtx c).chain = some { ch with a := 0, b := 0, tries := ch.tries + 1 }
          ∧ (∀ j ∈ (t.getTile c.site).jobs, j.id ∈ ch.jobs → j.pos = 0 ∧ j.sum = (0, 0) ∧ landWork c j.id ∈ t.work)
          ∧ t.phasers = s.phasers ∧ t.mem = s.mem)
        ∧ (¬agrees → e.retries.toNat ≤ ch.tries → ∃ t a, exec (.chainCompare c) s = .next t ∧ (t.getCtx c).chain = none
          ∧ (t.getCtx c).traps = (s.getCtx c).traps ++ [.copyFault (ch.jobs.headD 0) 5 a] ∧ (∀ j ∈ (t.getTile c.site).jobs, j.id ∉ ch.jobs)
          ∧ (∀ j ∈ (s.getTile c.site).jobs, j.id ∈ ch.jobs → j.added = true →
            errorWork (s.phNow j.ph) (((s.getTile c.site).jobs.filter fun i => ch.jobs.contains i.id && i.added && i.ph == j.ph).map (·.bytes)).sum ∈ t.work)
          ∧ t.phasers = s.phasers ∧ t.mem = s.mem)))
   ∧
   (∀ (site id : Nat) (j : Job) (detail : BitVec 8) (addr : Word) (s : State), site < 288 → s.job? site id = some j → j.chained = true → j.cid < 4 →
      let c : Src := ⟨site, j.cid⟩
      let dev := (j.cmd.s1.extractLsb' 34 6).toNat
      let logical := (j.cmd.s1.extractLsb' 22 12).toNat
      let src := j.cmd.s2.toNat + 256 * j.pos
      let dst := (j.cmd.s1.extractLsb' 0 22).toNat + 256 * j.pos
      let to_ : Home := .peerPool dev logical
      let landed := (s.bytes c.pad src 256).mapIdx (fun i b => b ^^^ j.flip.getD i 0)
      let w := s.tagWord c.pad src
      let mine (x : Job) (ch : Chain) : Bool := ch.jobs.contains x.id
      (∀ last ch, j.cmd.form = .chain last → dev ≠ Config.device → (s.peerLink dev).st = 3 → w.getLsbD 50 = false → s.mayLand site j = true → s.canonical = true →
        dst + 256 ≤ 2 ^ 64 → (s.getCtx c).chain = some ch →
        ∃ t, exec (.copyBytesLand site id) s = .next t ∧ t.bytes to_ dst 256 = landed ∧ s.sameBytesBut t to_ dst 256 ∧ t.phasers = s.phasers
          ∧ (dst % 256 = 0 → t.tagWord to_ dst = (0 : BitVec 9) ++ j.ph.part ++ (0 : BitVec 1) ++ (0x3FF : BitVec 10) ++ w.extractLsb' 32 8 ++ w.extractLsb' 0 32)
          ∧ t.job? site id = some { j with pos := j.pos + 1, sum := fletcher landed j.sum, flip := [] }
          ∧ ∃ p, p = chainSum ((t.getTile site).jobs.filter fun x => mine x ch) ∧ (t.getCtx c).chain = some { ch with a := p.1, b := p.2 })
      ∧ (∀ last, j.cmd.form = .chain last → dev ≠ Config.device → w.getLsbD 50 = true → s.mayLand site j = true →
        ∃ t, exec (.copyBytesLand site id) s = .next t ∧ (t.part j.ph.part).stopped = true ∧ t.job? site id = none ∧ t.mem = s.mem)
      ∧ (∀ ch, (s.getCtx c).chain = some ch → j.suspended = false →
        ∃ t, exec (.copyFault site id detail addr) s = .next t ∧ (t.getCtx c).chain = none
          ∧ (t.getCtx c).traps = (s.getCtx c).traps ++ [.copyFault (ch.jobs.headD 0) detail addr]
          ∧ (∀ x ∈ (t.getTile site).jobs, x.id ∉ ch.jobs) ∧ (t.part j.ph.part).errlog = (s.part j.ph.part).errlog ++ [⟨addr, 3⟩]
          ∧ (∀ x ∈ (s.getTile site).jobs, mine x ch = true → x.added = true →
            errorWork (s.phNow x.ph) (((s.getTile site).jobs.filter fun i => mine i ch && i.added && i.ph == x.ph).map (·.bytes)).sum ∈ t.work)
          ∧ t.phasers = s.phasers ∧ t.mem = s.mem)
      ∧ (∀ ch e, (s.getCtx c).chain = some ch → ch.last = some e → (s.getTile site).jobs.filter (fun x => mine x ch) = [j] → j.units ≤ j.pos →
        ch.b * 65536 + ch.a = e.word.toNat →
        ∃ t, exec (.chainCompare c) s = .next t ∧ t.phasers = (s.countDown j.ph j.bytes).phasers ∧ t.job? site id = none)))
  ∧
  (∀ (site id : Nat) (j : Job) (out slice : Bool) (s : State), site < 288 → j.cid < 4 → s.job? site id = some j → j.cmd.form = .tensor out slice → j.chained = false →
     s.mayLand site j = true → s.canonical = true →
     let c := j.src site
     let l := Layout.of j.rec_
     let o (d : Nat) : Int := (l.origin (recFmt (j.rec_.getD 0 0) == some .i4x) j.cmd.origin).getD d 0
     let dim (d : Nat) : Dim := l.dims.getD d ⟨1, 0, 1⟩
     let loc := (j.cmd.s3.extractLsb' 0 22).toNat
     let g := 256 * (loc / 256 + j.pos)
     let lo := Max.max loc g
     let n := Min.min (loc + l.bytes) (g + 256) - lo
     let at_ := interleave l.imode lo
     let coord (p d : Nat) : Int := o d + (p / l.b / ((l.dims.take d).map (·.win)).prod % (dim d).win : Nat)
     let edge (p d : Nat) : Int := Max.max 0 (Min.min (coord p d) ((dim d).extent - 1))
     let inside (p : Nat) : Prop := ∀ d < l.dims.length, 0 ≤ coord p d ∧ coord p d < (dim d).extent
     let addr (x : Nat → Int) (p : Nat) : Nat :=
       ((((l.base.toNat : Int) + l.b * ((List.range l.dims.length).map fun d => x d * (dim d).stride).sum) % 2 ^ 57).toNat + p % l.b) % 2 ^ 57
     let reads (x : Nat → Int) (p : Nat) (h : Home) (a : Nat) : Prop := s.farPlace c j.ph.part slice (addr x p) .read = .ok (h, a)
     let writes (p : Nat) (h : Home) (a : Nat) : Prop := inside p ∧ s.farPlace c j.ph.part slice (addr (coord p) p) .write = .ok (h, a)
     let goesOn (t : State) : Prop := t.phasers = (s.countDown j.ph n).phasers ∧ (j.pos + 1 = j.units → t.job? site id = none)
       ∧ (j.pos + 1 < j.units → t.job? site id = some { j with pos := j.pos + 1 } ∧ landWork c id ∈ t.work)
     n ≠ 0 →
     (out = false → (∀ i < n, let p := lo - loc + i
         (inside p → ∃ h a, reads (coord p) p h a) ∧ (¬inside p → l.fill = 2 → ∃ h a, reads (edge p) p h a)) →
       ∃ t, exec (.copyBytesLand site id) s = .next t ∧ s.sameBytesBut t c.pad at_ n ∧ goesOn t
         ∧ (∃ bad, t.tagWord c.pad at_ = (0 : BitVec 9) ++ j.ph.part ++ BitVec.ofBool bad ++ BitVec.ofNat 10 site ++ l.wstamp ++ l.seed)
         ∧ ∀ i < n, let p := lo - loc + i
           (inside p → ∀ h a, reads (coord p) p h a → t.byte c.pad (at_ + i) = s.byte h a)
           ∧ (¬inside p → l.fill = 2 → ∀ h a, reads (edge p) p h a → t.byte c.pad (at_ + i) = s.byte h a)
           ∧ (¬inside p → l.fill = 1 → t.byte c.pad (at_ + i) = (l.pattern >>> (8 * (p % l.b))).setWidth 8)
           ∧ (¬inside p → l.fill = 3 → t.byte c.pad (at_ + i) = 0))
     ∧ (out = true → (∀ i < n, inside (lo - loc + i) → ∃ h a, writes (lo - loc + i) h a ∧ Home.outside h = false ∧ a < 2 ^ 64) →
       ∃ t, exec (.copyBytesLand site id) s = .next t ∧ goesOn t
         ∧ ∀ (h : Home) (a : Nat), a < 2 ^ 64 → ((∀ i < n, ¬writes (lo - loc + i) h a) → t.byte h a = s.byte h a)
           ∧ ∀ i < n, writes (lo - loc + i) h a → (∀ k < n, i < k → ¬writes (lo - loc + k) h a) → t.byte h a = s.byte c.pad (at_ + i)))

/-- R279, R280, R281, R302, R305, R388: streamChunkFetch, streamChunkDrain, blockProductIssue, partialSumDelivery and touchstoneCompare
complete. A read port fetches its next chunk ahead, and its lanes are what a read at that time gives; a committed chunk drains from its
buffer to the offsets of its elements; a product that is due issues, its sum due 70 cycles later, and the one after it 64 cycles later at
the earliest; the sum due reaches the port under the tag and poison of its delivery, but not that of a halted context (R284); a compare due
that agrees with the known answer leaves nothing, and one that does not charges LCNT of its site and counts as a touchstone fault of the
wall cycle. That a chunk drains at its result's cycle, or in a freeze at once, is log 73 (DEDUCED). R46, R56, R57, R169, R301, R302: the sum
that a block product delivers. Its operands are the committed bytes of 64 rows of A and 64 columns of B, 128 bytes each, read as it issues;
each of the 4,096 elements of an integer product is the exact sum of the products of its row and column in 40 bits, without a flag; a
floating one is the exact sum rounded once to FP32 under RNE, where a NaN among the products, or infinities of both signs, give the
canonical NaN with NV, and else an infinity that infinity. The tag takes K of the M slot with the contributions of both operands, the flags
are those of all elements, and the poison is that of the granules read. -/
def Obligations.StreamAndArrayEvents : Prop :=
  (∀ (c : Src) (k : BitVec 3) (s : State),
     (∀ b n r, s.binding k = some b → writePort b = false → s.ctx.nextFetch k b = some n → s.readChunk b n = .ok r →
       ∃ t, exec (.streamChunkFetch k) s = .next t
         ∧ t.ctx = { s.ctx with fetched := s.ctx.fetched ++ [⟨k, n, r.bytes, r.gs, r.poison⟩] } ∧ t.mem = s.mem ∧ t.gtags = s.gtags
         ∧ (streamKind b.desc = 1 → t.tile = s.tile))
     ∧ (∀ p, s.oldestChunk c = some p → s.canonical = true → (p.due ≤ (s.getCtx c).sclk ∨ (s.getCtx c).frozen.isSome = true) →
       (∀ q ∈ p.pieces, q.1 + q.2.length ≤ 2 ^ 22) →
       let pad := c.pad
       let w := mkTagWord (s.getCtx c).part p.poison (BitVec.ofNat 10 c.site) p.ws p.tag
       ∃ t, exec (.streamChunkDrain c) s = .next t ∧ (t.getTile c.site).chunks = (s.getTile c.site).chunks.erase (c.cid, p)
         ∧ (∀ q, p.pieces = [q] → t.bytes pad q.1 q.2.length = q.2 ∧ s.sameBytesBut t pad q.1 q.2.length
           ∧ ∀ g ∈ granulesOf q.1 q.2.length, t.tagWord pad g = w)
         ∧ (∀ (h : Home) (a : Nat), a < 2 ^ 64 → (∀ q ∈ p.pieces, h.number ≠ pad.number ∨ a < q.1 ∨ q.1 + q.2.length ≤ a) →
           t.byte h a = s.byte h a))
     ∧ (s.ctx.ih = false →
       let due (p : Product) (t : State) : Prop := ∃ f ps, t.ctx.flight = s.ctx.flight ++ [f] ∧ f.due = s.ctx.sclk + 70 ∧ f.dest = .ps
         ∧ f.pay = .psum ps ∧ ps.fmt = p.fmt ∧ ps.idx = p.idx ∧ t.ctx.engine.last = some s.ctx.sclk
       (∀ p rest, s.ctx.engine.queued = p :: rest → p.due ≤ s.ctx.sclk →
         ∃ t, exec .blockProductIssue s = .next t ∧ due p t ∧ t.ctx.engine.queued = rest ∧ t.ctx.engine.run = s.ctx.engine.run
           ∧ t.mem = s.mem)
       ∧ (∀ n : Nest, s.ctx.engine.queued = [] → s.ctx.engine.run = some n → n.next ≤ s.ctx.sclk →
         ∃ t, exec .blockProductIssue s = .next t ∧ due (n.product s.ctx.sclk) t ∧ t.mem = s.mem
           ∧ (n.pos + 1 < nestBlocks n.table → t.ctx.engine.run = some { n with pos := n.pos + 1, next := s.ctx.sclk + 64 })
           ∧ (nestBlocks n.table ≤ n.pos + 1 → s.ctx.engine.after = none → t.ctx.engine.run = none)
           ∧ (nestBlocks n.table ≤ n.pos + 1 → ∀ sh, s.ctx.engine.after = some sh →
             t.ctx.engine.run = some ⟨sh.table, sh.fmt, sh.op, 0, s.ctx.sclk + 64⟩ ∧ t.ctx.comm.shadow.st = .empty)))
     ∧ (s.ctx.halted = true → exec .partialSumDelivery s = .next s)
     ∧ (∀ f p, s.ctx.halted = false → s.ctx.flight.filter (fun g => decide (g.due ≤ s.ctx.sclk ∧ g.dest = .ps)) = [f] → f.pay = .psum p →
       exec .partialSumDelivery s = .next { s with ctx := { s.ctx with
         ps := { p with tag := f.tag, poison := f.poison }, flight := s.ctx.flight.filter fun g => !decide (g.due ≤ s.ctx.sclk ∧ g.dest = .ps) } })
     ∧ ((∀ f ∈ s.ctx.flight, f.due ≤ s.ctx.sclk → f.dest = .touch → ∃ seed c, f.pay = .compare seed c c) →
       exec .touchstoneCompare s = .next { s with ctx := { s.ctx with
         flight := s.ctx.flight.filter fun g => !decide (g.due ≤ s.ctx.sclk ∧ g.dest = .touch) } })
     ∧ (∀ f seed c v, s.ctx.flight = [f] → f.due ≤ s.ctx.sclk → f.dest = .touch → f.pay = .compare seed c v → v ≠ c →
       ∃ t, exec .touchstoneCompare s = .next t ∧ t.ctx.flight = [] ∧ t.mem = s.mem
         ∧ t.tile.lcnt = (if s.tile.lcnt = 255 then 255 else s.tile.lcnt + 1)
         ∧ t.tile.touches = s.tile.touches + 1))
  ∧
  ((∀ (p : Product) (rest : List Product) (s : State), s.ctx.ih = false → s.ctx.engine.queued = p :: rest → p.due ≤ s.ctx.sclk →
     let ra := s.bankRead s.who.pad (s.ctx.work.stamp p.selA) (operandPieces p.alpha p.imA)
     let rb := s.bankRead s.who.pad (s.ctx.work.stamp p.selB) (operandPieces p.beta p.imB)
     let row (i : Fin 64) : List Byte := (ra.bytes.drop (128 * i.val)).take 128
     let col (j : Fin 64) : List Byte := (rb.bytes.drop (128 * j.val)).take 128
     let real (i j : Fin 64) : BitVec 40 × Flags := floatDot (floatElems p.fmt (row i)) (floatElems p.fmt (col j))
     ∃ t f ps, exec .blockProductIssue s = .next t ∧ t.ctx.flight = s.ctx.flight ++ [f] ∧ f.due = s.ctx.sclk + 70 ∧ f.dest = .ps ∧ f.pay = .psum ps
       ∧ ps.fmt = p.fmt ∧ ps.idx = p.idx ∧ ps.poison = (ra.poison || rb.poison) ∧ f.poison = ps.poison ∧ f.tag = ps.tag
       ∧ ps.tag = (0x9E370000 : BitVec 32) ^^^ ((Slot.M.code.setWidth 32) <<< 8) ^^^ p.op.setWidth 32 ^^^ ra.con.m.rotateLeft 1 ^^^ rb.con.m.rotateLeft 2
       ∧ (p.fmt = .i8 → ps.flags = 0 ∧ ∀ i j : Fin 64, ps.vals[i][j] = BitVec.ofInt 40 (List.zipWith (fun (a b : Byte) => a.toInt * b.toInt) (row i) (col j)).sum)
       ∧ (p.fmt = .i4x → ps.flags = 0 ∧ ∀ i j : Fin 64, ps.vals[i][j]
           = BitVec.ofInt 40 (List.zipWith (fun (a b : Byte) => (i4xPair a).1 * (i4xPair b).1 + (i4xPair a).2 * (i4xPair b).2) (row i) (col j)).sum)
       ∧ (p.fmt ≠ .i8 → p.fmt ≠ .i4x → (∀ i j : Fin 64, ps.vals[i][j] = (real i j).1)
         ∧ ∀ b, ps.flags.getLsbD b = true ↔ ∃ i j, (real i j).2.getLsbD b = true))
   ∧ ∀ (xs ys : List Ex),
     let ps := List.zipWith (fun a b => (Ex.mul a b).1) xs ys
     ((.nan ∈ ps ∨ (.inf true ∈ ps ∧ .inf false ∈ ps)) → floatDot xs ys = (0x7FC00000, .NV))
     ∧ (∀ neg, .nan ∉ ps → .inf neg ∈ ps → .inf (!neg) ∉ ps → floatDot xs ys = (if neg then 0xFF800000 else 0x7F800000, 0))
     ∧ (∀ p r, ps = p :: r → (∀ x ∈ ps, ∃ neg m e, x = .fin neg m e) →
       let x := r.foldl (fun x q => (Ex.add false x q).1) p
       floatDot xs ys = (BitVec.ofNat 40 (Fmt.f32.round .rne false false 0 0 x).1, (Fmt.f32.round .rne false false 0 0 x).2)))

/-- R35, R215, R236, R364, R206: asyncResultArrival, writeAcknowledgement, monitorWakeup, phswLimitExpiry and pageWalkComplete complete. An
answer whose cycle has come is written to the working and the committed copy, and its mark clears; a monitor wait takes what its location
then reads and goes on; a phaser wait whose limit has passed expires; a finished page walk stands in the micro-TLB of its site and in the
shared TLB of its hub; an acknowledgement changes no register and no byte. That an answer awaited since issue is written to the committed
copy as it arrives is log 35, the walk as a message log 41 (both DEDUCED). A wake-up left over from an earlier arming ends nothing. -/
def Obligations.AnswerEvents : Prop :=
  ∀ (a : Answer) (c : Src) (pasid : BitVec 20) (va : Word) (s : State), a.src.site < 288 → c.site < 288 →
    let x := s.getCtx a.src
    (∀ p, x.pend.filter (·.id == a.id) = [p] → (∀ q ∈ x.pend, q.held = none) → x.takes p = true →
      (∀ q ∈ x.pend, q ≠ p → ∀ d ∈ p.dests, d ∈ q.dests → d = .x 0) →
      ∃ t, exec (.asyncResultArrival a) s = .next t ∧ (t.getCtx a.src).work = p.write a x.work
        ∧ (t.getCtx a.src).comm = p.write (if p.isReduction then { a with flags := 0 } else a) x.comm
        ∧ (t.getCtx a.src).pend = x.pend.filter (·.id != a.id) ∧ t.mem = s.mem
        ∧ (∀ ty n, p.conv = .scalar ty → p.dests = [.x n] → n ≠ 0 →
          (t.getCtx a.src).comm.getX n = ⟨ty.fit (ty.opnd (a.words.headD 0)), baseX n, a.poison || p.poison⟩))
    ∧ (exec (.writeAcknowledgement c) s = .next s)
    ∧ (∀ slot off n hit, s.who.site < 288 → s.ctx.monitor = some ⟨slot, off, n, hit⟩ →
      let wakes : Prop := hit = true ∨ s.ctx.preempt = true ∨ ∃ t ∈ s.ctx.traps, s.ctx.ih = true ∨ ∀ n, t ≠ .wound n
      (¬wakes → exec (.monitorWakeup s.who) s = .next s) ∧ (wakes →
      let g := ({ s with iss := { s.iss with nst := s.ctx.cur.stores.length } } : State).monitorRead off n
      ∃ t, exec (.monitorWakeup s.who) s = .next t ∧ t.ctx.monitor = none ∧ t.ctx.woken = s.ctx.woken ++ [⟨slot, g.1, g.2⟩]
        ∧ (s.ctx.frozen = some .monitor → t.ctx.frozen = none) ∧ t.ctx.work = s.ctx.work ∧ t.mem = s.mem))
    ∧ (∀ h ∈ (s.getCtx c).holds, h.limit = some 0 → h.answer = none →
      (∀ w ∈ s.work, (∀ b, w.ev = .asyncResultArrival b → b.src = c → b.id ≠ h.id)
        ∧ ∀ m q i, w.ev = .phaserWaitArrival m q i → m.src = c → i ≠ h.id) →
      ∃ t, exec (.phswLimitExpiry c) s = .next t ∧ { h with expired := true } ∈ (t.getCtx c).holds ∧ (t.getCtx c).work = (s.getCtx c).work
        ∧ (∀ g ∈ (s.getCtx c).holds, g.limit ≠ some 0 → g ∈ (t.getCtx c).holds))
    ∧ (let own : BitVec 4 := (BitVec.ofNat 64 (s.word .dram (s.pasidBase + 16 * pasid.toNat) 8)).extractLsb' 1 4
      ∀ leaf b, pasid ∉ s.tearing → s.leafOf c.site pasid own va = some (leaf, b) →
      let page := (va.setWidth 57).toNat / 2 ^ b * 2 ^ b
      ∃ t, exec (.pageWalkComplete c.site pasid va) s = .next t
        ∧ ⟨c.site, pasid, page, b, leaf⟩ ∈ t.tlb ∧ ⟨288 + siteDie c.site % 2, pasid, page, b, leaf⟩ ∈ t.tlb
        ∧ (∀ e ∈ t.tlb, e ∈ s.tlb ∨ (e.pasid = pasid ∧ e.base = page)) ∧ t.mem = s.mem)

/-! ## Events of the routers and of wounds (13_engine_queues.md R290 to R294, 15_clasp.md R327 to R331) -/

/-- R290, R291, R292: reductionPacketArrival, reductionRoundTimeout, reductionRootBufferEntry and treeEntryWrite complete. A packet that its
entry does not admit is discarded and logged, a late one is discarded against what its port owes, any other waits while its port is occupied
or a closed round waits for the root buffer, and else enters its port; the last one of a round, and the time-out of one, close it: the
combined packet leaves for the neighbour, or waits at the root, its lanes the sums of the contributions for IADD, marked incomplete with the
missing ports at a time-out, which then owe one packet more. The lanes of every operation are combined in port order, those of FP32 exactly
and rounded once under RNE (R60, R62); the time-outs add up and the flags are kept. A result enters the empty root buffer, or answers a
committed `rrecv`. A configuration write, behind the first step of bring-up (log 88, DESIGN CHOICE), clears the state word; that the root
buffer keeps its result and a waiting one is dropped is log 47, and that a committed `rrecv` claims a result log 46 (both DEDUCED). -/
def Obligations.ReductionEvents : Prop :=
  ∀ (site t port : Nat) (p : Packet) (w : Word) (s : State), s.canonical = true → site < 288 → t < 16 → port < 5 →
    let x := s.tree site t
    let takes : Prop := treeValid site x.cfg = true ∧ treePart x.cfg = p.part ∧ treeIn x.cfg port = true
    let others (u : State) : Prop := ∀ site' t', treeKey site' t' ≠ treeKey site t → u.tree site' t' = s.tree site' t'
    let y : Tree := { x with ports := x.ports.setIfInBounds port (some p), age := if x.arr = 0 then 0 else x.age }
    let real (f : Ex → Ex → Ex) (a b : Lane) : Lane :=
      BitVec.ofNat 32 (Fmt.f32.round .rne false false 0 0 (f (Fmt.f32.operand false a.toNat).1 (Fmt.f32.operand false b.toNat).1)).1
    let lane (op : RedOp) (a b : Lane) : Lane := match op with
      | .iadd => a + b
      | .imax => if a.toInt < b.toInt then b else a
      | .imin => if b.toInt < a.toInt then b else a
      | .fadd => real (fun x y => (Ex.add false x y).1) a b
      | .fmax => real Ex.max a b
      | .fmin => real Ex.min a b
    let closes (u : State) (z : Tree) (late : Bool) : Prop := ∃ q : Packet, others u
      ∧ (treeOp x.cfg = some .iadd → ∀ k : Fin 64, q.lanes[k] = ((z.ports.toList.filterMap id).map fun c : Packet => c.lanes[k]).sum)
      ∧ (∀ op, treeOp x.cfg = some op → ∃ c cs, z.ports.toList.filterMap id = c :: cs
        ∧ ∀ k : Fin 64, q.lanes[k] = cs.foldl (fun a (e : Packet) => lane op a e.lanes[k]) c.lanes[k])
      ∧ q.touts = BitVec.ofNat 8 (Min.min 255 (((z.ports.toList.filterMap id).map fun c : Packet => c.touts.toNat).sum + if late then 1 else 0))
      ∧ (∀ c, some c ∈ z.ports.toList → q.flags &&& c.flags = c.flags)
      ∧ (q.poison = true ↔ ∃ c, some c ∈ z.ports.toList ∧ c.poison = true)
      ∧ (q.inc = true ↔ late = true ∨ ∃ c, some c ∈ z.ports.toList ∧ c.inc = true)
      ∧ (late = true → q.site = BitVec.ofNat 10 site ∧ q.mask = x.cfg.extractLsb' 54 5 &&& ~~~z.arr)
      ∧ (∀ i : Fin 5, (u.tree site t).owed[i] = if late = true ∧ (x.cfg.extractLsb' 54 5 &&& ~~~z.arr).getLsbD i.val = true then owedInc x.owed[i]
          else x.owed[i])
      ∧ (∀ n port', treeNeighbour site (treeOut x.cfg) = some (n, port') → (u.tree site t).arr = 0
        ∧ u.work = s.work ++ [⟨⟨site, 3⟩, .router n, false, false, false, .reductionPacketArrival n t port' q⟩])
      ∧ (treeNeighbour site (treeOut x.cfg) = none → (u.tree site t).stuck = some q ∧ u.work = s.work ++ [rootEntryWork site t])
    (¬takes → ∃ u, exec (.reductionPacketArrival site t port p) s = .next u ∧ u.trees = s.trees ∧ u.work = s.work ∧ u.mem = s.mem
      ∧ (u.part p.part).errlog.length = (s.part p.part).errlog.length + 1)
    ∧ (takes → x.owe port ≠ 0 → ∃ u, exec (.reductionPacketArrival site t port p) s = .next u ∧ others u ∧ u.work = s.work
      ∧ u.tree site t = { x with owed := x.owed.setIfInBounds port (x.owe port - 1) })
    ∧ (takes → x.owe port = 0 → (x.port port).isSome = true ∨ x.stuck.isSome = true → exec (.reductionPacketArrival site t port p) s = .next s)
    ∧ (takes → x.owe port = 0 → x.port port = none → x.stuck = none →
      ∃ u, exec (.reductionPacketArrival site t port p) s = .next u
        ∧ (y.arr ≠ x.cfg.extractLsb' 54 5 → u.tree site t = y ∧ others u ∧ u.work = s.work)
        ∧ (y.arr = x.cfg.extractLsb' 54 5 → closes u y false))
    ∧ (treeValid site x.cfg = true → x.cfg.extractLsb' 32 16 ≠ 0 → x.arr ≠ 0 → x.stuck = none →
      (x.cfg.extractLsb' 32 16).toNat ≤ x.age → ∃ u, exec (.reductionRoundTimeout site t) s = .next u ∧ closes u x true)
    ∧ (∀ q, x.root = none → x.stuck = some q → ∃ u, exec (.reductionRootBufferEntry site t) s = .next u ∧ others u
      ∧ (u.tree site t).stuck = none ∧ (u.tree site t).arr = 0 ∧ (u.tree site t).claimed = false ∧ (u.tree site t).owed = x.owed
      ∧ (u.tree site t).root = (if x.claimed = true then none else some q)
      ∧ u.work = s.work ++ (s.receivers site t).map fun r => rootAnswer r.1 r.2 q)
    ∧ (s.firmwareUp = false → exec (.treeEntryWrite site t w) s = .next s)
    ∧ (s.firmwareUp = true → ∃ u, exec (.treeEntryWrite site t w) s = .next u ∧ others u ∧ (u.tree site t).cfg = w &&& 0xFFFFFFFF00000000
      ∧ (u.tree site t).stateWord = 0 ∧ (u.tree site t).stuck = none ∧ (u.tree site t).root = x.root ∧ (u.tree site t).claimed = x.claimed)

/-! ## Commit, asynchronous traps, resumption and pre-emption (02_elastic_time.md, 06_register_inventory.md, 09_lineage.md, 12_task_queues.md) -/

/-- R33, R178, R179, R119, R181, R24, R26, R265: blockCommit, asyncTrapTaken, contextResume, custodianShareTurn, transferCharge and
preemption complete. With no translation outstanding and no replay in progress the oldest closing block whose transfer is listed and whose
fold agrees commits: its registers become the committed ones under their base tags, and its stores reach the scratchpad, no other byte
changing. One that fails its assay is entered again on the committed state, and at its second failure takes the successor fault or the
lineage trap. A trap due at a boundary is taken; a frozen context resumes; a custodian whose share is due issues next; a transfer charge
counts at an active site alone; a pre-empted task is saved and its record queued at the head of its class. The model's choices: a commit
holds what has landed by its cycle (log 25), answers that have arrived are written before a save (log 34), the next turn is a list of the
model's (log 6). R33, R259: the order of a commit. Its registers are the committed ones and its stores stand before its chunks drain; then
its commands are released in list order, each on what those before it left, and the tags are rebased. A message leaves behind what is under
way, a `spawn` sends its record stamped, `mblk` and `mgo` enter the engine, and a committed `tend` discards what was issued behind it and
ends its task. R33, R171, R235, R199: the tag words of committed stores. A block that passes its assay and holds one store leaves at every
granule that the store touches the tag word of its issue: the tag of the stored data, its ws, the site as writer, ctl.part, and its poison;
every other granule keeps its tag word. R124, R387: a tainted block never commits and is not run again: its partition stops, its host queues
halt, the task ends there with nothing of the block kept, and the report is sent to the custodian of the site with the syllable that tainted
it (the order of the two log 29, DEDUCED). -/
def Obligations.ContextEvents : Prop :=
  ((∀ (c : Src) (s : State), c.site < 288 → c.cid < 4 →
      (∀ x rest, s.ctx.closings = x :: rest → s.walking = false → s.tile.replayLeft = 0 → x.blk.taint = none → x.blk.xfer ≠ .eret →
        let b := x.blk
        let old := b.undoAnswers s.ctx.comm
        let agrees : Prop := x.listed = true ∧ b.lf = x.hall.setWidth 32
        let traps (detail : BitVec 8) (code : BitVec 8) (t : State) : Prop := t.ctx.cause = (0 : BitVec 48) ++ code ++ detail ∧ t.ctx.ih = true
          ∧ t.ctx.tsyl = x.hall ∧ t.ctx.pc = old.tvec &&& 0x01FFFFFFFFFFFFF8 ∧ t.ctx.comm.epc = b.entry &&& 0x01FFFFFFFFFFFFF8
          ∧ t.ctx.comm.x = old.x ∧ t.mem = s.mem
        (agrees → b.cmds = [] → s.canonical = true → (∀ y ∈ b.stores, y.off + y.data.length ≤ 2 ^ 22) →
          ∃ t, exec .blockCommit s = .next t ∧ t.ctx.comm = ({ x.work.landAll x.inflight with tileW := [] } : Regs).rebase
            ∧ t.ctx.closings.length = rest.length ∧ t.ctx.pc = s.ctx.pc
            ∧ (∀ (h : Home) (a : Nat), a < 2 ^ 64 →
              (∀ y ∈ b.stores, h.number ≠ s.who.pad.number ∨ a < y.off ∨ y.off + y.data.length ≤ a) → t.byte h a = s.byte h a)
            ∧ (∀ y, b.stores = [y] → t.bytes s.who.pad y.off y.data.length = y.data))
        ∧ (¬agrees → b.rerun = false → ∃ t, exec .blockCommit s = .next t ∧ t.ctx.pc = b.entry ∧ t.ctx.sclk = b.clk ∧ t.ctx.cur.rerun = true
            ∧ t.ctx.cur.lf = 0 ∧ t.ctx.cur.stores = [] ∧ t.ctx.cur.cmds = [] ∧ t.ctx.comm.x = old.x ∧ t.ctx.cause = s.ctx.cause
            ∧ t.mem = s.mem ∧ t.work = s.work)
        ∧ (¬agrees → b.rerun = true → s.ctx.comm.tvec.getLsbD 0 = true → s.ctx.ih = false →
          ∃ t, exec .blockCommit s = .next t ∧ (x.listed = false → traps 0x00 0x19 t ∧ t.ctx.tval = x.next)
            ∧ (x.listed = true → ∀ off w, b.stale = some (off, w) → traps 0x01 0x18 t ∧ t.ctx.tval = w ++ BitVec.ofNat 22 off ++ b.lf)
            ∧ (x.listed = true → b.stale = none → traps 0x02 0x18 t ∧ t.ctx.tval = BitVec.ofNat 10 s.who.site ++ (0 : BitVec 22) ++ b.lf)))
      ∧ (s.ctx.closings = [] → s.ctx.ih = false → s.ctx.atBoundary = true → s.tile.replayLeft = 0 → s.ctx.halted = false → s.ctx.comm.tvec.getLsbD 0 = true →
        ∀ a, nextTrap (s.ctx.traps.filter (ATrap.admitted s.ctx.atSafe)) = some a →
        ∃ t, exec .asyncTrapTaken s = .next t ∧ t.ctx.ih = true ∧ t.ctx.pc = (s.ctx.cur.undoAnswers s.ctx.comm).tvec &&& 0x01FFFFFFFFFFFFF8
          ∧ t.ctx.traps = s.ctx.traps.erase a ∧ t.ctx.comm.epc = s.ctx.cur.entry &&& 0x01FFFFFFFFFFFFF8 ∧ t.mem = s.mem
          ∧ (∀ l, a = .cancel l → t.ctx.cause = (0 : BitVec 47) ++ (1 : BitVec 1) ++ (0x29 : BitVec 8) ++ BitVec.ofNat 8 l ∧ t.ctx.tval = 0)
          ∧ (∀ n, a = .wound n → t.ctx.cause = (0 : BitVec 47) ++ (1 : BitVec 1) ++ (0x28 : BitVec 8) ++ (0 : BitVec 8) ∧ t.ctx.tval = n)
          ∧ (∀ j d v, a = .copyFault j d v → t.ctx.cause = (0 : BitVec 47) ++ (1 : BitVec 1) ++ (0x10 : BitVec 8) ++ d ∧ t.ctx.tval = v))
      ∧ (∀ f, (s.getCtx c).frozen = some f → f ≠ .monitor → f ≠ .phaser → f ≠ .bank → (s.getCtx c).halted = false →
        ∃ t, exec (.contextResume c) s = .next t ∧ t.mem = s.mem ∧ t.work = s.work
          ∧ ∃ n l, t.getCtx c = { (s.getCtx c).releaseHeld with frozen := none, stalled := n, stalls := l })
      ∧ ((s.getTile c.site).shareEnd ≤ (s.getTile c.site).shareCnt → (s.getCtx ⟨c.site, 3⟩).runs = true → (s.getCtx ⟨c.site, 3⟩).frozen = none →
        ∃ t, exec (.custodianShareTurn c.site) s = .next t ∧ (t.getTile c.site).shareCnt = (s.getTile c.site).shareCnt
          ∧ t.turns = .context ⟨c.site, 3⟩ :: s.turns ∧ t.ctx = s.ctx ∧ t.mem = s.mem)
      ∧ (((s.logicalOf c.site).isSome = true → ∃ t, exec (.transferCharge c.site) s = .next t
          ∧ (t.getTile c.site).tcnt = (if (s.getTile c.site).tcnt = 255 then 255 else (s.getTile c.site).tcnt + 1)
          ∧ (t.getTile c.site).lcnt = (s.getTile c.site).lcnt ∧ t.mem = s.mem)
        ∧ ((s.logicalOf c.site).isSome = false → exec (.transferCharge c.site) s = .next s))
      ∧ (∀ t, (s.getCtx c).task = some t → c.cid < 3 → recGang t.words = false → (s.getCtx c).preempt = true → s.savable c = true →
        s.canonical = true → ∀ k ks, (s.part t.part).freeAreas = k :: ks →
        let a := ((s.part t.part).word 11).toNat + saveAreaSize * k
        let bs := (s.getCtx c).flushHeld.saveBytes
        a + bs.length ≤ 2 ^ 64 → s.areaOwned t.part a bs.length = true →
        ∃ u, exec (.preemption c) s = .next u ∧ (u.getCtx c).task = none
          ∧ ((∀ j, j < 4 → ((s.part t.part).queue j).length < 256) → u.bytes .dram a bs.length = bs ∧ s.sameBytesBut u .dram a bs.length)
          ∧ k ∈ (u.part t.part).saves
          ∧ (recClass t.words < 4 → ∃ r : RecWords, (u.part t.part).queue (recClass t.words) = r :: (s.part t.part).queue (recClass t.words)
            ∧ r[0] = (s.getCtx c).pc ∧ r[1] = BitVec.ofNat 64 a ∧ recSaved r = true ∧ recAge r = recAge t.words ∧ r[6] = t.words[6])))
   ∧
   ((∀ (x : Closing) (rest : List Closing) (s : State), s.ctx.closings = x :: rest → s.walking = false → s.tile.replayLeft = 0 → x.blk.taint = none →
      x.blk.xfer ≠ .eret → x.listed = true → x.blk.lf = x.hall.setWidth 32 →
      let b := x.blk
      let drain : Work := ⟨s.who, .bank s.who.site, true, false, false, .streamChunkDrain s.who⟩
      ∃ (u t : State) (wakes roots after : List Work), exec .blockCommit s = .next t
        ∧ u.ctx.comm = { x.work.landAll x.inflight with tileW := [] } ∧ (b.stores = [] → u.mem = s.mem)
        ∧ (∀ n w, (x.work.landAll x.inflight).tileW = [(n, w)] → b.stores = [] → n ≠ 0x21 → n.toNat < 0x48 → u.tile.readCtl n = (s.tile.writeCtl n w).readCtl n)
        ∧ u.tile.chunks = s.tile.chunks ++ b.pushes.map (fun p => (s.who.cid, p))
        ∧ u.work = s.work ++ wakes ++ b.pushes.map (fun _ => drain) ++ roots ∧ (b.stores = [] → wakes = []) ∧ (b.reserved = [] → roots = [])
        ∧ (let v := b.cmds.foldl (fun y cmd => y.release x.commit cmd) u
          t.mem = v.mem ∧ t.gtags = v.gtags ∧ t.tile.jobs = v.tile.jobs ∧ t.work = v.work ++ after ∧ t.ctx.comm = v.ctx.comm.rebase
            ∧ t.ctx.engine = v.ctx.engine ∧ t.ctx.ending = v.ctx.ending)
        ∧ (∀ syl, b.cmds.getLast? = some ⟨syl, .tend⟩ → t.ctx.ending = some .done ∧ t.ctx.runs = false ∧ t.ctx.cur.stores = [] ∧ t.ctx.cur.cmds = []
          ∧ t.ctx.cur.nb = 0 ∧ t.ctx.engine = Engine.reset))
    ∧ ∀ (n : Nat) (syl : Word) (y : State),
      (∀ w, w.isSignal = false → (∀ i, w.dst ≠ .bank i) → y.release n ⟨syl, .send w⟩ = { y with work := y.work ++ [y.routed w] })
      ∧ (∀ w, w.isSignal = true → y.release n ⟨syl, .send w⟩ = { y with work := y.work ++ [w] })
      ∧ (∀ off, ∃ w, y.release n ⟨syl, .spawn off⟩ = { y with work := y.work ++ [w] }
        ∧ ∃ r : RecWords, w.ev = .taskPush y.who r ∧ recAge r = y.ctx.rank % 2 ^ 48 ∧ recPart r = y.ctx.part ∧ recSaved r = false ∧ recGang r = false
          ∧ ∀ i : Fin 4, r[i] = BitVec.ofNat 64 (y.word y.who.pad (off + 8 * i.val) 8))
      ∧ (∀ p, (y.release n ⟨syl, .mblk p⟩).ctx.engine.queued = y.ctx.engine.queued ++ [{ p with due := y.ctx.engine.slotFrom n }])
      ∧ (∀ sh, y.ctx.comm.shadow = sh → (y.ctx.engine.run = none → (y.release n ⟨syl, .mgo⟩).ctx.engine.run = some ⟨sh.table, sh.fmt, sh.op, 0, y.ctx.engine.slotFrom n⟩
          ∧ (y.release n ⟨syl, .mgo⟩).ctx.comm.shadow = Shadow.reset)
        ∧ (y.ctx.engine.run.isSome = true → (y.release n ⟨syl, .mgo⟩).ctx.engine.after = some sh ∧ (y.release n ⟨syl, .mgo⟩).ctx.comm.shadow = sh))
      ∧ (let t := y.release n ⟨syl, .tend⟩
        t.mem = y.mem ∧ t.work = y.work ∧ t.tile = y.tile ∧ t.ctx.ending = some .done ∧ (∀ z ∈ t.ctx.closings, z.blk.seq < y.ctx.oldest.seq)
          ∧ t.ctx.cur.entry = y.ctx.oldest.entry ∧ t.ctx.cur.stores = [] ∧ t.ctx.cur.cmds = [] ∧ t.ctx.comm.shadow = Shadow.reset)))
  ∧
  (∀ (x : Closing) (rest : List Closing) (s : State), s.ctx.closings = x :: rest → s.walking = false → s.tile.replayLeft = 0 →
     let b := x.blk
     (b.taint = none → b.xfer ≠ .eret → x.listed = true → b.lf = x.hall.setWidth 32 → b.cmds = [] → s.canonical = true →
       ∀ y, b.stores = [y] → y.off + y.data.length ≤ 2 ^ 22 → ∃ t, exec .blockCommit s = .next t
         ∧ (∀ g ∈ granulesOf y.off y.data.length, t.tagWord s.who.pad g
             = (0 : BitVec 9) ++ s.ctx.part ++ BitVec.ofBool y.poison ++ BitVec.ofNat 10 s.who.site ++ y.ws ++ y.tag)
         ∧ ∀ a, a < 2 ^ 22 → (∀ g ∈ granulesOf y.off y.data.length, a / 256 ≠ g / 256) → t.tagWord s.who.pad a = s.tagWord s.who.pad a)
     ∧ (∀ syl, b.taint = some syl → s.tile.reports.length < 64 → ∃ t, exec .blockCommit s = .next t
         ∧ (t.part s.ctx.part).stopped = true ∧ (∀ q ∈ (t.part s.ctx.part).hq, q.2.halted = true) ∧ t.ctx.ending = some .stopped
         ∧ t.ctx.flight = [] ∧ t.ctx.pend = [] ∧ t.ctx.comm.x = (b.undoAnswers s.ctx.comm).x ∧ t.ctx.comm.v = (b.undoAnswers s.ctx.comm).v
         ∧ t.mem = s.mem ∧ t.gtags = s.gtags
         ∧ ∃ w, t.tile.reports = s.tile.reports ++ [#v[w, s.ctx.part.setWidth 64, if (s.part s.ctx.part).tokenMode then 1 else 0, syl]]))

/-! ## Tasks (12_task_queues.md, 06_register_inventory.md) -/

/-- R109, R249, R253, R254, R257, R258, R262, R263, R264: taskPop, gangPlacement, taskPush, joinDecrement, cancelCounter and ccrdServe
complete. A context that takes a record starts its task at CODE with x1 to x5 and the stamps of the record and everything else clear; a
record that fails its check never runs; a gang gets all its contexts at once. A push enters the record in its class queue under the next
rank and opens or raises its counters; a refused one enters nothing and counts as failed at its launch counter. A join falls by one at its
home, and at its last pushes its continuation; at 0 it refuses. A counter cancelled lets go the records that name it and posts the cancel
trap; a read of one is answered. Records past the head caches are read again from device memory where one is taken (log 87). The model's
choices: the place of the counters and of OUT (log 10), no check of a saved record's CODE (log 12), the base in x5 of a re-execution (log
13), the numbers of the logged reasons (log 9). -/
def Obligations.TaskEvents : Prop :=
  ∀ (c : Src) (id level i : Nat) (p : BitVec 4) (r : RecWords) (q : Req) (s : State), c.site < 288 → c.cid < 4 →
    let starts (u : State) (d : Src) (w : RecWords) (base : Nat) : Prop :=
      let x := u.getCtx d
      (∃ t, x.task = some t ∧ t.words = w) ∧ x.pc = w[0] &&& 0x01FFFFFFFFFFFFF8 ∧ x.sclk = 0 ∧ x.part = p ∧ x.flight = [] ∧ x.pend = []
        ∧ (x.comm.getX 1).val = w[1] ∧ (x.comm.getX 2).val = BitVec.ofNat 64 (recIndex w) ∧ (x.comm.getX 3).val = (w[3].extractLsb' 32 32).setWidth 64
        ∧ (x.comm.getX 4).val = w[2] ∧ (x.comm.getX 5).val = BitVec.ofNat 64 base ∧ (∀ n : BitVec 6, 6 ≤ n.toNat → (x.comm.getX n).val = 0)
        ∧ x.comm.stamp 0 = w[5].extractLsb' 0 8 ∧ x.comm.ws = w[5].extractLsb' 32 8 ∧ x.comm.tvec = 0 ∧ x.work = x.comm
    (∀ u k n, s.refillAll.popChoice c = some (u, p, k, n) → ((u.part p).queue k)[n]? = some r →
      (u.recordBad p r = none → recSaved r = false → ∃ t, exec (.taskPop c) s = .next t ∧ starts t c r (u.loneBase p r))
      ∧ (u.recordBad p r ≠ none → recSaved r = false → ∃ t, exec (.taskPop c) s = .next t ∧ (t.getCtx c).task = none
        ∧ ∃ why rest, u.recordBad p r = some why ∧ (t.part p).errlog = (s.part p).errlog ++ ⟨r[0], why⟩ :: rest))
    ∧ (∀ ms, i < 272 → (s.refill p).gangAt p i = some ms → (ms.map (·.1)).Nodup → (∀ m ∈ ms, s.recordBad p m.2 = none ∧ recSaved m.2 = false) →
      ∃ t, exec (.gangPlacement p i) s = .next t ∧ ∀ m ∈ ms, starts t m.1 m.2 i)
    ∧ (let o := recPart r
      let n := ((s.launch? (recOrd r)).map (·.n)).getD (2 ^ 24)
      let k := recClass r
      let room : Prop := (s.part o).full k = false
      (s.cancelling o r = true → exec (.taskPush c r) s = .next s)
      ∧ (s.cancelling o r = false → ¬(k < 4 ∧ n < 2 ^ 24 ∧ room) → ∃ t, exec (.taskPush c r) s = .next t ∧ t.launches = s.launches
        ∧ (∀ j, (t.part o).queue j = (s.part o).queue j) ∧ (t.part o).errlog = (s.part o).errlog ++ [⟨r[0], 9⟩]
        ∧ (s.canonical = true → ((s.part o).word 10).toNat + 2 ^ 17 ≤ 2 ^ 64 → let f := s.counter o 1 (recCounter r 1)
          t.counter o 1 (recCounter r 1) = ccWord (ccState f) (f.getLsbD 61) (ccFailed f + 1) (ccOut f)))
      ∧ (s.cancelling o r = false → k < 4 → n < 2 ^ 24 → room → s.canonical = true → ((s.part o).word 10).toNat + 2 ^ 17 ≤ 2 ^ 64 →
        ∃ t, exec (.taskPush c r) s = .next t ∧ ((t.launch? (recOrd r)).map (·.n)).getD (2 ^ 24) = n + 1
          ∧ (∃ r' : RecWords, (t.part o).queue k = (s.part o).queue k ++ [r'] ∧ recAge r' = recOrd r * 2 ^ 24 + n ∧ recClass r' = k
            ∧ r'[0] = r[0] ∧ r'[3] = r[3] ∧ r'[6] = r[6])
          ∧ (∀ j, j ≠ k → (t.part o).queue j = (s.part o).queue j)
          ∧ ((∀ j, ((s.part o).queue j).length < 256) → ∀ d ∈ recCounters r, ccState (t.counter o d.1 d.2) = 1 ∧ ccOut (t.counter o d.1 d.2)
            = if ccState (s.counter o d.1 d.2) = 1 then (ccOut (s.counter o d.1 d.2) + 1) % 2 ^ 32 else 1)))
    ∧ (let n := s.word q.home q.off 8
      let refuses : Prop := n = 0 ∨ (q.home = .dram ∧ s.frameRefuses q.off q.part q.src.cid q.expE = true) ∨ s.reaches q.part q.home = false
      let rank := match q.body with | .rmw _ _ d _ _ _ _ _ _ _ => d.toNat | _ => 0
      let more : Work := ⟨c, .seq, false, false, false, .taskPush c (stampRecord rank q.part (s.recordAt q.home (q.off + 64)))⟩
      (refuses → ∃ t, exec (.joinDecrement c q) s = .next t ∧ t.mem = s.mem ∧ t.work = s.work ++ [ackWork c]
        ∧ (t.getCtx c).refusals = (s.getCtx c).refusals ++ [⟨homeScope c q.home, q.addr⟩])
      ∧ (¬refuses → s.canonical = true → q.off + 128 ≤ 2 ^ 64 → ∃ t, exec (.joinDecrement c q) s = .next t
        ∧ t.word q.home q.off 8 = n - 1 ∧ s.sameBytesBut t q.home q.off 8 ∧ ackWork c ∈ t.work ∧ (n = 1 → more ∈ t.work)))
    ∧ (1 ≤ level → level ≤ 4 → i < 4096 →
      let w := s.counter p level i
      (∃ t, exec (.cancelCounter p level i) s = .next t
        ∧ (∀ k, ∀ r ∈ (t.part p).queue k, recCounter r level ≠ i)
        ∧ ((∀ k, ((s.part p).queue k).length ≤ 256) → ∀ k, (t.part p).queue k = ((s.part p).queue k).filter fun r => decide (recCounter r level ≠ i))
        ∧ (∀ d t', d ∈ s.contexts → (s.getCtx d).task = some t' → t'.part = p → recCounter t'.words level = i → (s.getCtx d).ending = none →
          d.cid < 3 → .cancel level ∈ (t.getCtx d).traps)
        ∧ (s.canonical = true → s.counterAddr p level i + 8 ≤ 2 ^ 64 → (∀ k, ((s.part p).queue k).length ≤ 256) → (∀ k, ∀ r ∈ (s.part p).queue k, recCounter r level ≠ i) →
          ((ccState w = 1 ∨ ccState w = 2) → ccState (t.counter p level i) = 2 ∧ ccOut (t.counter p level i) = ccOut w)
          ∧ ((ccState w = 0 ∨ ccState w = 3) → ccState (t.counter p level i) = 3 ∧ (t.counter p level i).getLsbD 61 = true
            ∧ ccOut (t.counter p level i) = 0)))
      ∧ exec (.ccrdServe c id p level i) s = .next (s.send (answerWork ⟨c, id, [w], false, 0⟩)))

/-! ## Host command queues (12_task_queues.md R267 to R270, 19_audit_counters.md R387) -/

/-- R267, R269, R204, R387: launch, graph, release, wait, waitConditionMet, indirect, ckpt, tailRegisterWrite and abortTokenReceive
complete: what each packet does when its queue starts it. A LAUNCH takes the next ordinal and pushes its G records in index order, or is
refused and logged; a GRAPH runs its launches; a RELEASE writes its signal, or adds to it; a WAIT holds its queue until its condition holds;
an INDIRECT lends its buffer; a CKPT waits for the writes under way of its partition, empties the undo log and takes its step; none starts
over a link that re-keys (R348); a malformed packet halts its queue. The tail register bounds what a queue may start, where its interface
has IDE (R21), and an abort token over a link that is up stops its partition at the smallest step known. The model's choices: translated
signals (log 11), the fields' ranges and an INDIRECT count of 0 (log 15), the window prefetched (log 69), the tail modulo the size and a
queue halted by a signal that it cannot reach (log 86), no further launch of a GRAPH of a halted queue (log 94), the reasons logged (log 9).
-/
def Obligations.QueueEvents : Prop :=
  ∀ (p q dev : Nat) (v step : Word) (w : RecWords) (s : State), p < 16 → q < 64 → dev < 64 →
    let pn := BitVec.ofNat 4 p
    let x := s.queue pn q
    let holds (u : State) (y : HostQueue) : Prop := u.queue pn q = y ∧ ∀ n, n ≠ q → u.queue pn n = s.queue pn n
    let halts (i : Instr) : Prop := ∃ u, exec i s = .next u ∧ holds u { x with halted := true } ∧ u.mem = s.mem ∧ u.launches = s.launches
      ∧ (u.part pn).errlog.length = (s.part pn).errlog.length + 1
    ((s.part pn).valid = true → x.configured = true → s.ideOn pn = true →
      ∃ u, exec (.tailRegisterWrite p q v) s = .next u ∧ holds u { x with tail := v.toNat % x.size } ∧ u.mem = s.mem)
    ∧ ((s.part pn).valid = false → ∃ u, exec (.tailRegisterWrite p q v) s = .next u ∧ holds u x ∧ u.windowLog.length = s.windowLog.length + 1)
    ∧ ((s.part pn).valid = true → x.configured = false ∨ s.ideOn pn = false → ∃ u, exec (.tailRegisterWrite p q v) s = .next u ∧ holds u x
      ∧ (u.part pn).errlog.length = (s.part pn).errlog.length + 1)
    ∧ (s.starts pn q 1 w = true → x.graphReady = [] →
      let g := (w[3].extractLsb' 0 32).toNat
      let k := (w[0].extractLsb' 20 4).toNat
      ((pktOk w && pktKind w == 1) = false → halts (.launch p q w))
      ∧ (pktOk w = true → pktKind w = 1 → s.launchRefused pn w = true → ∃ u, exec (.launch p q w) s = .next u ∧ holds u (s.advanced pn q)
        ∧ u.launches = s.launches ∧ (∀ j, (u.part pn).queue j = (s.part pn).queue j)
        ∧ (s.part pn).errlog.length < (u.part pn).errlog.length)
      ∧ (pktOk w = true → pktKind w = 1 → s.launchRefused pn w = false → s.nextOrd < 2 ^ 24 → s.canonical = true →
        ((s.part pn).word 10).toNat + 2 ^ 17 ≤ 2 ^ 64 →
        (let region := (s.part pn).word 8
          let size := 64 * (((s.part pn).word 9).extractLsb' 0 32).toNat
          size = 0 ∨ region.toNat + size ≤ ((s.part pn).word 10).toNat ∨ (((s.part pn).word 10).toNat + 2 ^ 17 ≤ region.toNat ∧ region.toNat + size ≤ 2 ^ 64)) →
        (((s.part pn).queue k).length + g ≤ 256
          ∨ ([0, 1, 2, 3].map fun j => ((s.part pn).queue j).length - 256).sum + g ≤ (((s.part pn).word 9).extractLsb' 0 32).toNat) →
        ∃ u, exec (.launch p q w) s = .next u ∧ u.nextOrd = (s.nextOrd + 1) % 2 ^ 24
          ∧ (∃ l ∈ u.launches, l.ord = s.nextOrd ∧ l.part = pn ∧ l.g = g ∧ l.pool = w[4] ∧ l.slots = w[7])
          ∧ ((u.part pn).queue k).length = ((s.part pn).queue k).length + g
          ∧ (∀ i < g, ∃ r, ((u.part pn).queue k)[((s.part pn).queue k).length + i]? = some r ∧ r[0] = w[1] ∧ recIndex r = i
            ∧ r[1] = w[2] + BitVec.ofNat 64 (i * (w[3].extractLsb' 32 32).toNat) ∧ recAge r = s.nextOrd * 2 ^ 24 + i ∧ recPart r = pn)
          ∧ (∀ j, j ≠ k → (u.part pn).queue j = (s.part pn).queue j)))
    ∧ (s.starts pn q 2 w = true → (pktOk w = false ∨ s.graphEntries pn q w = none → halts (.graph p q w))
      ∧ ∀ es, pktOk w = true → s.graphEntries pn q w = some es → ∃ u, exec (.graph p q w) s = .next u
        ∧ holds u { s.advanced pn q with running := (s.advanced pn q).running ++ [.graph es] } ∧ u.mem = s.mem)
    ∧ (s.starts pn q 3 w = true → pktOk w = true →
      let adds := w[0].getLsbD 19
      (s.queuePlace pn q w[1] (if adds = true then .both else .write) = none → halts (.release p q w))
      ∧ ∀ h off, s.queuePlace pn q w[1] (if adds = true then .both else .write) = some (h, off) → s.canonical = true → off + 8 ≤ 2 ^ 64 →
        ∃ u, exec (.release p q w) s = .next u ∧ holds u (s.advanced pn q) ∧ s.sameBytesBut u h off 8
          ∧ u.word h off 8 = (if adds = true then (s.word h off 8 + w[2].toNat) % 2 ^ 64 else w[2].toNat))
    ∧ (s.starts pn q 4 w = true → pktOk w = true →
      ((s.signal pn q w[1]).isSome = true → ∃ u, exec (.wait p q w) s = .next u ∧ holds u { x with waiting := some w } ∧ u.mem = s.mem)
      ∧ ((s.signal pn q w[1]).isSome = false → halts (.wait p q w)))
    ∧ ((x.places w).any (s.queueRekeys pn q) = true → exec (.graph p q w) s = .next s ∧ exec (.release p q w) s = .next s ∧ exec (.wait p q w) s = .next s
      ∧ exec (.indirect p q w) s = .next s ∧ exec (.ckpt p q w) s = .next s ∧ (x.graphReady = [] → exec (.launch p q w) s = .next s))
    ∧ (pktKind w = 6 → s.writesOut pn = true → exec (.ckpt p q w) s = .next s)
    ∧ (∀ y, x.waiting = some y → s.queueRekeys pn q (y[1], .read) = true → exec (.waitConditionMet p q) s = .next s)
    ∧ (∀ y z, x.waiting = some y → s.signal pn q y[1] = some z → s.queueRekeys pn q (y[1], .read) = false →
      ((if y[0].getLsbD 16 = true then y[2].toNat ≤ z.toNat else z = y[2]) →
        ∃ u, exec (.waitConditionMet p q) s = .next u ∧ holds u { s.advanced pn q with waiting := none } ∧ u.mem = s.mem)
      ∧ (¬(if y[0].getLsbD 16 = true then y[2].toNat ≤ z.toNat else z = y[2]) → exec (.waitConditionMet p q) s = .next s))
    ∧ (s.starts pn q 5 w = true →
      (pktOk w = true → x.indirect = none → ∃ u, exec (.indirect p q w) s = .next u ∧ u.mem = s.mem
        ∧ holds u { x with
          indirect := some (w[1], if w[2] = 0 then 65536 else w[2].toNat)
          window := s.prefetch pn q w[1] (if w[2] = 0 then 65536 else w[2].toNat) })
      ∧ (pktOk w = false ∨ x.indirect.isSome = true → halts (.indirect p q w)))
    ∧ (s.starts pn q 6 w = true → pktOk w = true → ∃ u, exec (.ckpt p q w) s = .next u ∧ holds u (s.advanced pn q) ∧ (u.part pn).undo = []
      ∧ (u.part pn).ckptValid = true ∧ (u.part pn).step = w[1] ∧ u.mem = s.mem)
    ∧ (s.hears dev = true → let o := s.part pn
      let own := match o.unwind with | some a => min a.toNat o.step.toNat | none => o.step.toNat
      ∃ u a, exec (.abortTokenReceive pn dev step) s = .next u ∧ (u.part pn).stopped = true
        ∧ (u.part pn).unwind = some a ∧ a.toNat = min own step.toNat ∧ (o.stopped = false → (u.part pn).rollback = false)
        ∧ (u.part pn).tokens.map (·.1) = (if o.tokens = [] then (o.group.filter fun d => decide (d ≠ Config.device)).filter fun d => s.reaches pn (.peerMem d) else o.tokens.map (·.1))
        ∧ u.mem = s.mem)
    ∧ (s.hears dev = false → exec (.abortTokenReceive pn dev step) s = .next s)

/-! ## Margin and the mesh (18_margin.md, 01_device.md, 09_lineage.md R182) -/

/-- R370 to R378, R381, R379: marginReplay, injectedDetection, replayWindowClose, meshMapMove, quarantineSite, signedTestKernelResult,
ageingSample and swallowedPulse complete. The first detection of a wall cycle is a replay, any other leaves its counts, and none strikes
behind its end; a replay is counted and logged and holds its site for three wall cycles, and crosses at the limit; an injected detection
clears IARM; a window that has counted ctl.rwin closes; a site that retires or is quarantined leaves the map for a spare, which takes its
logical number, while a signal that has left stays bound for the old site (R437); a verified test kernel returns a site as a spare, retires
it, or acts as a touchstone fault, whose crossing comes at the end of the wall cycle; an ageing sample raises AGE by at most one; a pulse is
swallowed. The model's choices: one replay for each open wall cycle, and the mark that one has struck (log 59, DEDUCED), the reference
pulses as the routers' time (log 83), no kernel before its image is measured (log 88). -/
def Obligations.MarginEvents : Prop :=
  ∀ (site cl measured back : Nat) (slot stage : BitVec 3) (cid : BitVec 2) (s : State), site < 288 → cl < 48 →
    let t := s.getTile site
    let replayed (u : State) (k st : BitVec 3) (d : BitVec 2) (n : Nat) : Prop := let y := u.getTile site
      y.rcount = (if t.rcount = 0xFFFF then 0xFFFF else t.rcount + 1) ∧ y.rtotal = t.rtotal + 1 ∧ y.replayLeft = 3 ∧ y.runLen = t.runLen + 1
      ∧ y.rlog[0] = (1 : BitVec 1) ++ k ++ st ++ d ++ (0 : BitVec 23) ++ (t.latest[d.toNat]'d.isLt - BitVec.ofNat 32 n) ∧ y.struck = true ∧ u.mem = s.mem
    let touchFault (u : State) : Prop := ((u.getTile site).lcnt = if t.lcnt = 255 then 255 else t.lcnt + 1)
      ∧ (u.getTile site).touches = t.touches + 1 ∧ (u.getTile site).level = t.level ∧ u.mem = s.mem
    (t.opened = false → exec (.marginReplay site slot stage ⟨cid, back⟩) s = .next s)
    ∧ (slot.toNat ≤ 4 → t.opened = true → t.struck = false → ∃ u, exec (.marginReplay site slot stage ⟨cid, back⟩) s = .next u ∧ replayed u slot stage cid back
      ∧ ((t.runLen + 1) % 4 ≠ 0 →
        (¬(t.rlim ≠ 0 ∧ t.rcount ≠ 0xFFFF ∧ t.rcount + 1 = t.rlim ∧ t.countCrossed = false) → t.rcount ≠ 0xFFFF →
          (u.getTile site).level = t.level ∧ (u.getTile site).offs = t.offs)
        ∧ (t.rlim ≠ 0 → t.rcount ≠ 0xFFFF → t.rcount + 1 = t.rlim → t.countCrossed = false → t.level = 0 →
          (u.getTile site).level = 1 ∧ (u.getTile site).offs = if t.offs = 31 then 31 else t.offs + 1)))
    ∧ (slot.toNat ≤ 4 → t.opened = true → t.struck = true → ∃ u, exec (.marginReplay site slot stage ⟨cid, back⟩) s = .next u ∧ u.mem = s.mem ∧ u.ctx = s.ctx
      ∧ (u.getTile site).rcount = t.rcount ∧ (u.getTile site).rtotal = t.rtotal ∧ (u.getTile site).replayLeft = t.replayLeft
      ∧ ((slot ++ stage).toNat < ((t.rlog[0]).extractLsb' 57 6).toNat → ((u.getTile site).rlog[0]).extractLsb' 57 6 = slot ++ stage)
      ∧ (((t.rlog[0]).extractLsb' 57 6).toNat ≤ (slot ++ stage).toNat → u.getTile site = t))
    ∧ (t.injDue = true → t.struck = false → ∃ u, exec (.injectedDetection site) s = .next u
      ∧ replayed u t.islot 7 (BitVec.ofNat 2 t.lastCtx) 0
      ∧ (u.getTile site).iarm = false)
    ∧ (t.rwin ≠ 0 → t.rwin.toNat ≤ t.winCnt → ∃ u, exec (.replayWindowClose site) s = .next u ∧ (u.getTile site).rcount = 0
      ∧ (u.getTile site).winCnt = 0 ∧ (u.getTile site).crossed = false ∧ (t.opened = false → u.ctx = s.ctx) ∧ u.mem = s.mem
      ∧ (t.opened = false ∨ t.touches = 0 → (u.getTile site).level = (if t.level = 1 ∧ t.crossed = false then 0 else t.level)))
    ∧ (t.rwin = 0 ∨ t.winCnt < t.rwin.toNat → exec (.replayWindowClose site) s = .next s)
    ∧ (∀ l b, s.logicalOf site = some l → s.siteIdle site = true → s.spareFor site = some b →
      let moves (u : State) (st : Nat) : Prop := meshState (u.meshAt site) = st ∧ u.logicalOf b = some l
        ∧ (∀ k, k ≠ site → k ≠ b → u.meshAt k = s.meshAt k) ∧ (s.distTables = [] → u.mem = s.mem)
        ∧ ∀ i w, s.work[i]? = some w → u.work[i]? = some (if w.isSignal = true ∧ heldByDrain (s.work.take i) w = false then { s.routed w with waits := false } else w)
      (t.retire = .retiring → ∃ u, exec (.meshMapMove site) s = .next u ∧ moves u 2 ∧ (u.getTile site).retire = .retired)
      ∧ (t.retire = .active → t.level = 3 → ∃ u, exec (.quarantineSite site) s = .next u ∧ moves u 3))
    ∧ (s.logicalOf site = none → s.isSpare site = true → s.siteIdle site = true → t.retire = .active → t.level = 3 →
      ∃ u, exec (.quarantineSite site) s = .next u ∧ meshState (u.meshAt site) = 3 ∧ (∀ k, k ≠ site → u.meshAt k = s.meshAt k) ∧ u.mem = s.mem)
    ∧ (s.booted.any (2 ≤ ·) = false → ∀ ok, exec (.signedTestKernelResult site ok) s = .next s)
    ∧ (s.booted.any (2 ≤ ·) = true → meshState (s.meshAt site) = 3 →
      (∃ u, exec (.signedTestKernelResult site true) s = .next u ∧ meshState (u.meshAt site) = 1 ∧ (u.getTile site).level = 0
        ∧ (u.getTile site).rcount = 0 ∧ (u.getTile site).mode = 0 ∧ (u.getTile site).offs = 0)
      ∧ (∃ u, exec (.signedTestKernelResult site false) s = .next u ∧ meshState (u.meshAt site) = 2 ∧ (u.getTile site).retire = .retired))
    ∧ (s.booted.any (2 ≤ ·) = true → meshState (s.meshAt site) ≠ 3 → exec (.signedTestKernelResult site true) s = .next s
      ∧ ∃ u, exec (.signedTestKernelResult site false) s = .next u ∧ touchFault u)
    ∧ (let w := s.clClock cl
      let drift := min 255 ((Config.birthFrequency cl - measured) * 1024 / Config.birthFrequency cl)
      let steps : Prop := w.limit.toNat * (w.age.toNat + 1) ≤ drift ∧ w.age.toNat < 32
      ∃ u, exec (.ageingSample cl measured) s = .next u ∧ (u.clClock cl).drift.toNat = drift
        ∧ (steps → (u.clClock cl).age.toNat = w.age.toNat + 1) ∧ (¬steps → (u.clClock cl).age = w.age)
        ∧ (u.clClock cl).pwr = w.pwr ∧ (u.clClock cl).limit = w.limit ∧ (u.clClock cl).k = w.k ∧ u.tile = s.tile ∧ u.ctx = s.ctx ∧ u.mem = s.mem)
    ∧ (let n := s.pulses.toArray.getD cl 0
      let u : State := { s with pulses := s.pulses.setIfInBounds cl (n + 1) }
      ((bitRev6 (BitVec.ofNat 6 n)).toNat < (s.clClock cl).k.toNat →
        exec (.swallowedPulse cl) s = .next (if s.time ≤ n then u.ageRounds n else u).closeDue)
      ∧ ((s.clClock cl).k.toNat ≤ (bitRev6 (BitVec.ofNat 6 n)).toNat → exec (.swallowedPulse cl) s = .next s))

/-! ## Memory tables, partitions and resets (10_memories.md, 16_system_tables.md, 01_device.md) -/

/-- R202, R206, R270, R342, R345 to R347, R19, R22: patrolScrub, tlbInvalidation, pasidTeardown, frameOwnershipChange,
partitionDescriptorWrite, partitionReset, packageReset and tdispAssignment complete. A scrub counts a corrected line and marks an
uncorrectable one; an invalidation and a teardown leave no translation that they cover; a frame changes owner once nothing of the old one is
under way; a descriptor is copied whole under a new key when V is first set, or refused; a reset partition keeps nothing and gets a new key;
a package reset leaves the state of reset but for the bytes outside the dies and AGE and DRIFT; an assigned interface sets TDISP. Frames and
descriptors change only behind the first step of bring-up (log 88). The model's choices: what waits stands in the list of work (log 56), the
bytes that a package reset keeps (log 50), counters cleared as V is first set (log 79). -/
def Obligations.SystemTableEvents : Prop :=
  ∀ (line va len frame p addr a : Nat) (pasid : BitVec 20) (owner : BitVec 8) (h : Home) (on : Bool) (s : State), p < 16 →
    let pn := BitVec.ofNat 4 p
    let x := s.part pn
    let d : Vector Word 16 := Vector.ofFn fun i : Fin 16 => BitVec.ofNat 64 (s.word .dram (addr + 8 * i.val) 8)
    (64 * line < 0xC000000000 → exec (.patrolScrub line .clean) s = .next s
      ∧ (∃ u, exec (.patrolScrub line .corrected) s = .next u
        ∧ u.stackErr.toArray.getD (line / 4 % 8) 0 = s.stackErr.toArray.getD (line / 4 % 8) 0 + 1 ∧ u.mem = s.mem ∧ u.pois = s.pois)
      ∧ (s.canonical = true → ∃ u, exec (.patrolScrub line .uncorrectable) s = .next u ∧ u.unitPoison .dram (64 * line) = true ∧ u.mem = s.mem))
    ∧ (s.pasidBusy pasid = false →
      (let at_ := va % 2 ^ 57
        ∃ u, exec (.tlbInvalidation pasid va len) s = .next u
        ∧ (∀ e ∈ u.tlb, e.pasid = pasid → e.base + 2 ^ e.size ≤ at_ ∨ at_ + len ≤ e.base) ∧ (∀ e ∈ s.tlb, e.pasid ≠ pasid → e ∈ u.tlb) ∧ u.mem = s.mem)
      ∧ (s.pasidWalks pasid = false → ∃ u, exec (.pasidTeardown pasid) s = .next u ∧ (∀ e ∈ u.tlb, e.base < 2 ^ 57 → e.pasid ≠ pasid)
        ∧ (∀ e ∈ s.tlb, e.pasid ≠ pasid → e ∈ u.tlb) ∧ pasid ∉ u.tearing ∧ u.mem = s.mem))
    ∧ (s.pasidBusy pasid = true → ∃ u, exec (.tlbInvalidation pasid va len) s = .next u ∧ (∃ w ∈ u.work, w.ev = .tlbInvalidation pasid va len)
      ∧ u.tlb = s.tlb ∧ u.mem = s.mem)
    ∧ (s.firmwareUp = false → exec (.frameOwnershipChange frame owner) s = .next s ∧ exec (.partitionDescriptorWrite p addr) s = .next s)
    ∧ (frame < 393216 → s.firmwareUp = true → s.frameBusy frame = false → s.canonical = true →
      ∃ u, exec (.frameOwnershipChange frame owner) s = .next u ∧ u.frameOwner (2 ^ 21 * frame) = owner
        ∧ (∀ f, f ≠ frame → u.frameOwner (2 ^ 21 * f) = s.frameOwner (2 ^ 21 * f)) ∧ u.mem = s.mem)
    ∧ (let admitted : Prop := s.frameOwner addr = 0x10 ∧ descriptorOk d = true ∧ s.sliceTaken p d[9] = false
        ∧ (x.valid = true → frozenChanged x.d d = false) ∧ s.poolOwned pn d = true
        ∧ (x.word 7 = d[7] ∨ ∀ l, (l ∈ s.locks → l.part ≠ pn) ∧ ∀ w ∈ s.waiters, w.part ≠ pn)
      (s.firmwareUp = true → admitted → ∃ u, exec (.partitionDescriptorWrite p addr) s = .next u ∧ u.descAddr[p]? = some addr ∧ (u.part pn).d = storedDescriptor x.d d
        ∧ (∀ q, q ≠ pn → u.part q = s.part q) ∧ (x.valid = true ∨ d[0].getLsbD 63 = false → u.mem = s.mem)
        ∧ (s.keys[p]? = some 0 → d[0].getLsbD 63 = true → u.keys[p]? = some s.nextKey ∧ u.nextKey = s.nextKey + 1)
        ∧ (s.keys[p]? ≠ some 0 ∨ d[0].getLsbD 63 = false → u.keys = s.keys))
      ∧ (s.firmwareUp = true → ¬admitted → ∃ u, exec (.partitionDescriptorWrite p addr) s = .next u ∧ (u.part pn).d = x.d ∧ u.keys = s.keys ∧ u.mem = s.mem
        ∧ (u.part pn).errlog.length = x.errlog.length + 1))
    ∧ ((s.partBusy pn = false → ∃ u, exec (.partitionReset p) s = .next u ∧ (u.part pn) = Partition.reset ∧ (∀ l ∈ u.locks, l.part ≠ pn)
        ∧ (∀ w ∈ u.waiters, w.part ≠ pn) ∧ (∀ l ∈ u.launches, l.part ≠ pn) ∧ u.keys[p]? = some s.nextKey ∧ u.nextKey = s.nextKey + 1
        ∧ u.descAddr[p]? = some 0 ∧ (∀ q, q ≠ pn → u.part q = s.part q)
        ∧ (s.canonical = true → a < 2 ^ 64 →
          (∀ k, k < 24 → x.hasSlice k = true → a < 2 ^ 23 → u.byte (.slice k) a = 0 ∧ u.unitPoison (.slice k) a = false)
          ∧ (h ≠ .dram → (∀ k, h ≠ .slice k) → u.byte h a = s.byte h a)
          ∧ ∀ k, k < 24 → x.hasSlice k = false → u.byte (.slice k) a = s.byte (.slice k) a))
      ∧ (s.partBusy pn = true → ∃ u, exec (.partitionReset p) s = .next u ∧ (u.part pn).stopped = true ∧ (u.part pn).d = x.d
        ∧ (∃ w ∈ u.work, w.ev = .partitionReset p) ∧ u.mem = s.mem))
    ∧ (∃ u, exec .packageReset s = .next u ∧ u.who = State.reset.who ∧ u.ctx = State.reset.ctx ∧ u.tile = State.reset.tile ∧ u.parkedCtx = []
      ∧ u.parkedTile = [] ∧ u.parts = State.reset.parts ∧ u.mesh = State.reset.mesh ∧ u.links = State.reset.links ∧ u.work = [] ∧ u.locks = []
      ∧ u.phasers = [] ∧ u.trees = [] ∧ u.tlb = [] ∧ u.booted = [] ∧ u.keys[16] = s.nextKey
      ∧ (∀ c : Fin 48, (u.clusters[c]).age = (s.clusters[c]).age
        ∧ (u.clusters[c]).drift = (s.clusters[c]).drift)
      ∧ (s.canonical = true → a < 2 ^ 64 → (h = .host ∨ ∃ k, h = .peerMem k) → u.byte h a = s.byte h a)
      ∧ (a < 2 ^ 64 → ∀ site, site < 288 → u.byte (.pool site) a = 0))
    ∧ (∃ u, exec (.tdispAssignment p on) s = .next u ∧ (u.part pn).tdisp = on ∧ (u.part pn).stopped = x.stopped
      ∧ (∀ q, q ≠ pn → u.part q = s.part q) ∧ u.mem = s.mem)

/-! ## Links, the debug port and the configuration window (16_system_tables.md R348, R350, 06_register_inventory.md R120, 19_audit_counters.md R393 to R395) -/

/-- R348, R350: linkTrainingComplete, linkKeyingMessage, linkRekey, linkFailure and linkReset complete. Training ends in keying, which draws
a fresh key pair and sends this side's message, behind which its signature and its confirmation follow; the peer's message, its signature
and its confirmation take the exchange to its end, where the link is up under the derived keys with its counters at 0, and one that does not
verify fails the link; a re-key holds its traffic, which the new keys' counter then counts; a failed link returns to state 0 by its reset. A
failure, that of a re-key included, stops each partition in abort-token mode whose collective group is reached over the link (which link
that is, is a free value: logs 16 and 55). 16_system_tables.md, the configuration window: configWindowWrite completes: what a write of each
of its registers does. A queue's size is a power of two from 2^6 to 2^20 and configures it; the attestation head moves forward up to its
tail; a save request reaches a context that runs a task; the firmware starts once both images are measured (log 17). Before that the
registers of bring-up do nothing (log 88). The model's choices: the sizes of a queue (log 58), the attestation head (log 49), the registers
that stand for the host's and a peer's side (logs 66, 68 and 81). -/
def Obligations.LinkAndWindowEvents : Prop :=
  (∀ (k : Nat) (s : State), k < 12 →
     let l := s.link k
     let becomes (i : Instr) (l' : Link) : Prop := ∃ u, exec i s = .next u ∧ u.link k = l' ∧ (∀ j, j ≠ k → u.link j = s.link j)
       ∧ u.ctx = s.ctx ∧ u.parts = s.parts ∧ u.mem = s.mem
     let word (i : Nat) : Word := Config.crypto (s.fresh + i)
     let priv := wordsNat [word 0, word 1, word 2, word 3, word 4, word 5]
     let opened (l' : Link) : Link := { l' with
       priv := priv
       mine := some ⟨Config.ecdhPub priv, wordsNat [word 6, word 7, word 8, word 9], Config.certificate, k⟩
       theirs := none
       derived := none
       sent := [.hello ⟨Config.ecdhPub priv, wordsNat [word 6, word 7, word 8, word 9], Config.certificate, k⟩] }
     let answers (b : Link) (a m : KeyMsg) : Link := { b with theirs := some m, sent := b.sent ++ [.signature (Config.signature (transcriptHash a m))] }
     let keying : Prop := l.st = 2 ∨ (l.st = 3 ∧ l.rekey = true)
     let fails (i : Instr) : Prop := ∃ u, exec i s = .next u ∧ u.link k = { Link.reset with st := 4 } ∧ u.mem = s.mem
       ∧ ∀ p : BitVec 4,
         let path : Prop := l.st = 3 ∧ (s.part p).valid = true ∧ (s.part p).tokenMode = true
           ∧ ∃ d ∈ (s.part p).group, d ≠ Config.device ∧ Config.linkOf d % 12 = k
         (path → (u.part p).stopped = true) ∧ (¬path → u.part p = s.part p)
     (l.st = 1 → becomes (.linkTrainingComplete k) (opened { l with st := 2 }))
     ∧ (l.st = 3 → l.mine = none → becomes (.linkRekey k) (opened { l with rekey := true }))
     ∧ (∀ a m, keying → l.mine = some a → l.theirs = none →
       (Config.chainOk m.cert = true → becomes (.linkKeyingMessage k (.hello m)) (answers l a m))
       ∧ (Config.chainOk m.cert = false → fails (.linkKeyingMessage k (.hello m))))
     ∧ (∀ a m, l.st = 3 → l.rekey = true → l.mine = none → (opened l).mine = some a → Config.chainOk m.cert = true →
       becomes (.linkKeyingMessage k (.hello m)) (answers (opened l) a m))
     ∧ (∀ m, ¬keying → exec (.linkKeyingMessage k m) s = .next s)
     ∧ (∀ a b sig, keying → l.mine = some a → l.theirs = some b → l.derived = none →
       (Config.sigOk b.cert (transcriptHash a b) sig = true →
         let d := keyMaterial l.priv a b
         becomes (.linkKeyingMessage k (.signature sig))
           { l with derived := some d, sent := l.sent ++ [.confirm (Config.hmac (keyPart d 72 32) (transcriptHash a b))] })
       ∧ (Config.sigOk b.cert (transcriptHash a b) sig = false → fails (.linkKeyingMessage k (.signature sig))))
     ∧ (∀ a b d mac, keying → l.mine = some a → l.theirs = some b → l.derived = some d →
       (mac = Config.hmac (keyPart d 72 32) (transcriptHash a b) →
         becomes (.linkKeyingMessage k (.confirm mac)) (Link.keyed d (keyFirst a b) l.held))
       ∧ (mac ≠ Config.hmac (keyPart d 72 32) (transcriptHash a b) → fails (.linkKeyingMessage k (.confirm mac))))
     ∧ (l.st = 4 → becomes (.linkReset k) Link.reset)
     ∧ (l.st ≠ 0 → fails (.linkFailure k)))
  ∧
  (∀ (p q site cid cl k image : Nat) (digest : List Byte) (v : Word) (s : State), p < 16 → q < 64 → site < 288 → cid < 3 → cl < 48 → k < 12 →
     let pn := BitVec.ofNat 4 p
     let x := s.queue pn q
     let sets (r : WindowReg) (y : HostQueue) : Prop := ∃ u, exec (.configWindowWrite r v) s = .next u ∧ u.queue pn q = y
       ∧ (∀ n, n ≠ q → u.queue pn n = s.queue pn n) ∧ u.mem = s.mem
     (s.firmwareUp = false → ∀ r, outsideWindow r = false → exec (.configWindowWrite r v) s = .next s)
     ∧ (s.firmwareUp = true → exec (.configWindowWrite .pasidTable v) s = .next { s with pasidBase := v.toNat }
     ∧ sets (.queueBase p q) { x with base := v } ∧ sets (.queuePasid p q) { x with pasid := v.setWidth 20 }
     ∧ (∀ j, 6 ≤ j → j ≤ 20 → v.toNat = 2 ^ j → sets (.queueSize p q) { x with size := 2 ^ j, configured := true })
     ∧ ((∀ j, 6 ≤ j → j ≤ 20 → v.toNat ≠ 2 ^ j) → sets (.queueSize p q) x)
     ∧ sets (.queueReset p q) { HostQueue.unset with configured := x.configured, pasid := x.pasid, base := x.base, size := x.size }
     ∧ (∃ u, exec (.configWindowWrite (.attestHead p) v) s = .next u
       ∧ (u.part pn).attHead = max (s.part pn).attHead (min v.toNat (s.part pn).attTail))
     ∧ (∃ u, exec (.configWindowWrite (.collective p) v) s = .next u ∧ ∀ d, d ∈ (u.part pn).group ↔ d < 64 ∧ v.getLsbD d = true)
     ∧ ((s.getCtx ⟨site, cid⟩).task.isSome = true → ∃ u, exec (.configWindowWrite (.saveRequest site cid) v) s = .next u
       ∧ u.getCtx ⟨site, cid⟩ = { s.getCtx ⟨site, cid⟩ with preempt := true })
     ∧ (∃ u, exec (.configWindowWrite (.power cl) v) s = .next u ∧ (u.clClock cl).word.extractLsb' 0 6 = v.extractLsb' 0 6
       ∧ (u.clClock cl).word.extractLsb' 6 58 = (s.clClock cl).word.extractLsb' 6 58)
     ∧ ((s.link k).st = 0 → ∃ u, exec (.configWindowWrite (.linkTrain k) v) s = .next u ∧ u.link k = { Link.reset with st := 1 }
       ∧ ∀ j, j ≠ k → u.link j = s.link j))
     ∧ (∃ u, exec (.configWindowWrite (.measured image digest) v) s = .next u ∧ u.booted = s.booted ++ [image] ∧ u.measures = s.measures ++ [digest]
       ∧ (¬(image = 1 ∧ 0 ∈ s.booted ∧ 1 ∉ s.booted) → u.ctx = s.ctx ∧ u.parkedCtx = s.parkedCtx)
       ∧ (image = 1 → 0 ∈ s.booted → 1 ∉ s.booted → s.firmwareEnded = false → siteIsSpare site = false → (s.getCtx ⟨site, 3⟩).task = none →
         (u.getCtx ⟨site, 3⟩).task.isSome = true ∧ (u.getCtx ⟨site, 3⟩).pc = v &&& 0x01FFFFFFFFFFFFF8))
     ∧ exec (.configWindowWrite .ide v) s = .next { s with ide := v.setWidth 16 }
     ∧ (∀ pasid page f, ∃ u, exec (.configWindowWrite (.iommu pasid page f) v) s = .next u ∧ (pasid, page, f) ∈ u.iommu
       ∧ (∀ e ∈ s.iommu, (e.1, e.2.1) ≠ (pasid, page) → e ∈ u.iommu) ∧ u.mem = s.mem)
     ∧ (∀ off bs, off + bs.length ≤ 2 ^ 52 → s.canonical = true → ∃ u, exec (.configWindowWrite (.store true off bs) v) s = .next u
       ∧ u.bytes .host off bs.length = bs ∧ s.sameBytesBut u .host off bs.length)
     ∧ (∃ u, exec (.configWindowWrite (.takeReport site) v) s = .next u ∧ (u.getTile site).reports = (s.getTile site).reports.drop 1 ∧ u.ctx = s.ctx ∧ u.mem = s.mem)
     ∧ (∀ id j mask, s.job? site id = some j → ∃ u, exec (.configWindowWrite (.flip site id mask) v) s = .next u
       ∧ u.job? site id = some { j with flip := mask } ∧ u.ctx = s.ctx ∧ u.mem = s.mem)
     ∧ (∀ dev st logical off bs stamp tag, dev < 64 → dev ≠ Config.device → s.hears dev = true → bs.length = 256 → off % 256 = 0 → off < 2 ^ 22 →
       s.canonical = true → s.siteOf logical = some st → ∃ u, exec (.configWindowWrite (.peerGranule dev pn logical off bs stamp tag) v) s = .next u
       ∧ (tagPart (s.tagWord (.pool st) off) = pn → u.bytes (.pool st) off 256 = bs ∧ s.sameBytesBut u (.pool st) off 256
         ∧ u.tagWord (.pool st) off = (0 : BitVec 9) ++ pn ++ (0 : BitVec 1) ++ (0x3FF : BitVec 10) ++ stamp ++ tag)
       ∧ (tagPart (s.tagWord (.pool st) off) ≠ pn → u.mem = s.mem ∧ u.gtags = s.gtags
         ∧ (u.part pn).errlog = (s.part pn).errlog ++ [⟨BitVec.ofNat 64 (logical * 2 ^ 22 + off), 1⟩])))

/-- R38, R120, R285, R393, R394, R395: debugStopRequest, debugResume, debugStep, debugStepEnd, debugRegisterWrite and snapshotEntryEdit
complete. The port is refused for a task of a partition under TDISP. Otherwise a stop request asks a running context to halt at its bundle
boundary and halts an idle one, and it issues again, what is due at its resume point landing (R284), after a resume or for the bundles of a
step; a write reaches both copies of a register of a halted context, with its tag and its poison only where they are given, and one of
ctl.epc sets RDR; an edit changes or removes one snapshot entry of it. The model's choices: what the port writes and reads beyond the spec's
words (logs 52 and 75: a write of a tile register drops one that waits for its commit; the entries' numbers). -/
def Obligations.DebugEvents : Prop :=
  ∀ (c : Src) (n : Nat) (k : BitVec 16) (r : BitVec 6) (e : SnapEdit) (ws : List Word) (tag : Option Tag) (poison : Option Bool) (s : State),
    c.site < 288 → c.cid < 4 →
    let x := s.getCtx c
    let sets (i : Instr) (y : Ctx) : Prop := ∃ u, exec i s = .next u ∧ u.getCtx c = y ∧ (∀ d, d ≠ c → u.getCtx d = s.getCtx d)
      ∧ u.mem = s.mem ∧ u.work = s.work
    (s.portRefused c = true → exec (.debugStopRequest c) s = .next s ∧ exec (.debugResume c) s = .next s ∧ exec (.debugStep c k) s = .next s
      ∧ exec (.debugRegisterWrite c (.x r) ws tag poison) s = .next s ∧ exec (.snapshotEntryEdit c n e) s = .next s)
    ∧ (s.portRefused c = false →
      sets (.debugStopRequest c) (if x.task.isSome = true then { x with stopReq := true } else { x with halted := true })
      ∧ sets (.debugResume c) (if x.halted = true then { x.landDue with halted := false, steps := 0 } else { x with steps := 0 })
      ∧ (k ≠ 0 → x.halted = true → sets (.debugStep c k) { x.landDue with halted := false, steps := k.toNat + 1 })
      ∧ (x.halted = true → r ≠ 0 → ∃ u, exec (.debugRegisterWrite c (.x r) ws tag poison) s = .next u ∧ u.mem = s.mem
        ∧ (u.getCtx c).comm.getX r = ⟨ws.headD 0, tag.getD (x.comm.getX r).tag, poison.getD (x.comm.getX r).poison⟩
        ∧ (u.getCtx c).work.getX r = ⟨ws.headD 0, tag.getD (x.work.getX r).tag, poison.getD (x.work.getX r).poison⟩
        ∧ (∀ j, j ≠ r → (u.getCtx c).comm.getX j = x.comm.getX j) ∧ (u.getCtx c).comm.v = x.comm.v ∧ (u.getCtx c).sclk = x.sclk)
      ∧ (x.halted = true → ∃ u, exec (.debugRegisterWrite c (.ctl 0x12) ws tag poison) s = .next u ∧ (u.getCtx c).wclk = ws.headD 0
        ∧ (u.getCtx c).comm = { x.comm with tileW := x.comm.tileW.filter (·.1 != 0x12) } ∧ (u.getCtx c).sclk = x.sclk)
      ∧ (x.halted = true → ∃ u, exec (.debugRegisterWrite c (.ctl 0x03) ws tag poison) s = .next u
        ∧ (u.getCtx c).comm = { x.comm with epc := ws.headD 0 &&& 0x01FFFFFFFFFFFFF8, rdr := true }
        ∧ (u.getCtx c).work = { x.work with epc := ws.headD 0 &&& 0x01FFFFFFFFFFFFF8, rdr := true } ∧ u.mem = s.mem)
      ∧ (x.halted = true → ∃ u, exec (.debugRegisterWrite c (.ctl 0x11) ws tag poison) s = .next u
        ∧ (u.getCtx c).comm = { x.comm with tileW := x.comm.tileW.filter (·.1 != 0x11) } ∧ (u.getCtx c).sclk = x.sclk ∧ (u.getCtx c).pc = x.pc)
      ∧ (∀ f pre post, x.halted = true → x.saved = [] → x.snapshot[n]? = some f → x.flight = pre ++ f :: post → f ∉ pre →
        let leaves (e : SnapEdit) (fs : List Flight) : Prop := ∃ u, exec (.snapshotEntryEdit c n e) s = .next u ∧ (u.getCtx c).flight = fs
          ∧ (u.getCtx c).comm = x.comm ∧ (u.getCtx c).work = x.work ∧ (u.getCtx c).sclk = x.sclk ∧ u.mem = s.mem
        leaves .delete (pre ++ post)
        ∧ (x.entry n f = f ∨ (x.entry n f ∉ pre ∧ f ∉ post) → ∀ b, leaves (.poison b) (pre ++ { x.entry n f with poison := b } :: post))
        ∧ (∀ g, leaves (.tag g) (pre ++ { f with tag := g } :: post)) ∧ (∀ b g, leaves (.ignored b g) x.flight)
        ∧ (∀ v, f.pay = .word v → leaves (.value ws) (pre ++ { f with pay := .word (ws.headD 0) } :: post))))
    ∧ (x.steps = 1 → sets (.debugStepEnd c) (if x.task.isSome = true then { x with stopReq := true } else { x with halted := true }))

/-! ## The machine as a whole (02_elastic_time.md, 04_encoding.md, 06_register_inventory.md, 09_lineage.md) -/

/-- R24, R28, R84: the context in focus asked for its next bundle, the first of those that R24 orders, in a wall cycle that its tile has,
with nothing else to do, held or closing and a bundle of one syllable at its pc, a step runs the instruction that the syllable decodes to:
as the tile's wall cycle opens, behind the end of the one before it, `exec` of it behind the issue latch, then the end of the bundle if it
issued, then one wall cycle of the tile, and the time-outs that have come with it. Where it is held instead, another context that may issue
takes the cycle. The turn list and the order at the end of a wall cycle (logs 6 and 59), the `exec` of one syllable of a bundle at a time
(log 19) and the time-outs' clock (log 83) are the model's choices. A word with its stop bit that decodes to an instruction that is no
transfer is such a bundle. -/
def Obligations.StepRunsDecoded : Prop :=
  ∀ (r : List Turn) (w : Word) (b : Bundle) (p : Placed) (i : Instr) (u s : State),
    s.turns = .context s.who :: r → s.who.site < 288 → ({ s with turns := r } : State).chore s.who = none →
    let t : State := { s with turns := r }
    let e := t.opens exec s.who.site
    e.who = s.who → (e.candidates s.who.site).head? = some s.who → e.heldByPulse s.who.site = false → e.ctx.commits = false → e.ctx.empties = 0 → e.ctx.frozen = none →
    e.ctx.releaseHeld = e.ctx →
    let pc := e.ctx.pc
    let f := e.begins pc
    let at_ : State := match f.codePeer with | some p => f.fetches p | none => f
    (f.codePeer.any fun p => f.rekeying p.home) = false → at_.fetchWord pc = .ok w → isHall w = false →
    (at_.decodeAt pc = .ok b → b.slots = [p] →
      exec p.instr ((at_.begins (pc + BitVec.ofNat 64 (8 * b.len))).latch pc p) = .next u → (u.iss.fate = .frozen → u.ctx.frozen.isSome = true) →
      let v := (if u.iss.fate = .issued then u.bundleDone else u).stepTrap e
      (v.iss.fate ≠ .frozen ∨ e.candidates s.who.site = [s.who]) → step s = .next (v.tick s.who.site).closeDue)
    ∧ (stopBit w = true → e.ctx.cur.nb ≠ 256 → transferOf [Syl.of w] = none → decodeSyllable w none = .ok i →
      at_.decodeAt pc = .ok ⟨[⟨0, w, i⟩], 1⟩)

/-- Every instruction completes, in every state and on all operands: each slot form, and each event of the table (blockCommit to
pageWalkComplete, ldblkFillComplete, copyBytesLand, copyFault, chainCompare, the stream, array, phaser, clasp, wound, reduction, task, gang,
queue, margin, mesh, memory, partition, reset, link, debug and window events) answers a next state. The spec gives no stop: its faults are
traps taken, messages or log entries (R115, R116, R250), and so no step of the machine stops. That is all this statement says: what each
leaves is stated by the statements about it. -/
def Obligations.EveryInstructionCompletes : Prop :=  (∀ (i : Instr) (s : State), ∃ t, exec i s = .next t) ∧ ∀ s : State, ∃ t, step s = .next t

/-- The words that the manual prints decode to the instructions that they stand for (R130, R132, R133, R140, R165, R186, R89, R226, R245,
R388). -/
def Obligations.PrintedWordsDecode : Prop :=
  let g (c : Slot) : Hdr := ⟨c, 0, false⟩
  decodeTableWord 64 0x8130085160110000 = some (.cmp (g .S) .lt .i32 4 10 11)
  ∧ decodeTableWord 64 0x82900A3380E60000 = some (.bfx (g .S) .n64 5 6 12 7)
  ∧ decodeTableWord 64 0x8403000000000000 = some (.br ⟨.S, 3, false⟩ false)
  ∧ decodeTableWord 64 0x9300101200080000 = some (.lea (g .A) 8 (.m0 9 128))
  ∧ decodeTableWord 64 0x98100A0600008080 = some (.st (g .A) .i32 .loc 5 (.m0 3 8) .normal)
  ∧ decodeTableWord 64 0x9820080401080600 = some (.vld (g .A) .f32 .loc 4 (.m0 2 0x1080) 1 .normal)
  ∧ decodeTableWord 64 0x9A50000000000060 = some (.drain (g .A) .device)
  ∧ decodeTableWord 64 0xB3D0003000000000 = some (.setvl (g .V) 6)
  ∧ decodeTableWord 64 0x86100E005F778000 = some (.lseed (g .S) false 7 (.short 0xBEEF))
  ∧ decodeTableWord 128 0xD8000000CAFE000141000000091A0000 = some (.touch (g .M) 0x1234 0xCAFE0001)

/-- Every well-formed instruction decodes from its own words, with every operand at every value that its encoding admits (R65 to R75). -/
def Obligations.DecodeOfEncode : Prop :=
  ∀ i : Instr, i.wf = true →
    (∃ w, encode i = [w] ∧ stopBit w = true ∧ decodeSyllable w none = .ok i)
    ∨ ∃ w x, encode i = [w, x] ∧ stopBit w = false ∧ stopBit x = true ∧ decodeSyllable w (some x) = .ok i

/-- Every step keeps the lists of memory, tag words, marks, line keys, frame owners, phasers and tree entries in canonical form: keys rising
and no entry at its default. That memory and these tables are such lists is the model's choice (log 3, DESIGN CHOICE), not a rule of the
spec: its words give only the memories and tables that the lists hold (00_scope.md, Table 0.1). -/
def Obligations.StepKeepsCanonical : Prop := ∀ s t : State, s.canonical = true → step s = .next t → t.canonical = true

/-- R22, R12, R113, R114: after package reset the control registers read as their field maps give, the mesh map holds the assignment of R12,
every tile is in guard mode, no partition is configured, no link carries traffic, and memory is canonical with no byte listed. That the
context in focus is context 0 of site 0, and that it holds no task, is the model's choice (log 1). -/
def Obligations.ResetValues : Prop :=
  let s := State.reset
  s.canonical = true
  ∧ s.readCtl 0x20 = 64 ∧ s.readCtl 0x21 = 0x03030000 ∧ s.readCtl 0x30 = 0 ∧ s.readCtl 0x31 = 0x00100000 ∧ s.readCtl 0x32 = 64
  ∧ s.readCtl 0x16 = 0x1000
  ∧ (∀ n : Fin 80, ctlAccess 0 (BitVec.ofNat 16 n.val) ≠ .none → n.val ≠ 0x20 → n.val ≠ 0x21 → n.val ≠ 0x31 → n.val ≠ 0x32 → n.val ≠ 0x16 →
    s.readCtl (BitVec.ofNat 16 n.val) = 0)
  ∧ (∀ p : BitVec 4, (s.part p).valid = false)
  ∧ (∀ k : Fin 12, (s.link k.val).st = 0)
  ∧ (∀ l : Fin 272, ∃ site, s.siteOf l.val = some site ∧ siteDie site = l.val / 68)
  ∧ ((List.range 288).filter fun site => (s.logicalOf site).isNone).length = 16
  ∧ s.ctx.task = none ∧ s.booted = [] ∧ s.work = [] ∧ s.mem = [] ∧ s.gtags = [] ∧ s.pois = [] ∧ s.who = ⟨0, 0⟩
  ∧ (∀ site, s.getTile site = Tile.reset ∧ (s.getTile site).mode = 0 ∧ (s.getTile site).offs = 0) ∧ ∀ c, (s.getCtx c).task = none

/-- R67, R125, R149, R169, R175: a syllable whose guard does not admit it (of `add`, `div`, `cmp`, `vadd`, `ld`, `st`, `br`, `trap`,
`tfence`, `eret`, `tend`, `nop`, `mzero` and `mtc`) writes no register, sets no flag, stores nothing, transfers nowhere and takes no trap:
it folds the steps of its destinations and of its data alone, with a memory contribution of 0, or nothing where it has neither. A transfer
under a poisoned guard taints its block instead (R124), stated apart. -/
def Obligations.GuardFalseFoldsOnly : Prop :=
  ∀ (h : Hdr) (ty : Fmt) (c : Cond) (sat tsel : Bool) (d s1 s2 : BitVec 6) (pd : BitVec 4) (k : BitVec 3) (m : MemOp) (sp : Space) (ssel : BitVec 2)
    (hint : Hint) (vm : VMod) (n imm : BitVec 16) (s : State), s.ctx.work.admits h = false →
    let free (rs : List Reg) : Prop := s.ctx.awaited (.p h.guard :: rs) = none
    (free [.x s1, .x s2, .x d] → exec (.add h ty sat d s1 s2) s = .next (s.foldedBy (s.tagFrom h 0x01 [.x s1, .x s2]))
      ∧ exec (.div h ty d s1 s2) s = .next (s.foldedBy (s.tagFrom h 0x05 [.x s1, .x s2])))
    ∧ (free [.x s1, .x s2, .p pd] → exec (.cmp h c ty pd s1 s2) s = .next (s.foldedBy (s.tagFrom h 0x13 [.x s1, .x s2])))
    ∧ (free [.v s1, .v s2, .v d] → s.noPorts [s1, s2, d] →
      exec (.vadd h vm d s1 s2) s = .next (s.foldedBy (s.tagFrom h 0x01 [.v s1, .v s2])))
    ∧ (free (MemOp.srcs m ++ [.x d]) →
      exec (.ld h ty sp d m ssel hint) s = .next (s.foldedAway h 0x80 (MemOp.srcs m))
      ∧ exec (.st h ty sp d m hint) s = .next (s.foldedBy (s.ctx.work.tagOf (.x d))))
    ∧ (free [] → (s.ctx.work.guardPoison h = false → exec (.br h tsel) s = .next s ∧ exec (.eret h) s = .next s)
      ∧ exec (.trap h imm) s = .next s ∧ exec (.tfence h) s = .next s
      ∧ exec (.tend h) s = .next s ∧ exec (.nop h) s = .next s
      ∧ (k.toNat < s.ctx.work.acc.length → exec (.mzero h k) s = .next (s.foldedBy (s.tagFrom h 0x04 []))))
    ∧ (free [.x s1] → exec (.mtc h n s1) s = .next s)

/-- R25, R106, R122, R111, R114, R143, R146, R312, R313, R28, R284: as the schedule clock advances, a result in flight reaches its register
in the cycle in which it is due and not before, with its tag, its poison and its flags; x0 and p0 take no value, and nothing else of the
registers changes. A control register takes its fields, clamped or refused as R114 says; a pushed level shifts the others; an `mzero` clears
its accumulator and a `scacc` adds to it as it stands then. Of two results of one cycle the later issued prevails, but a write of ctl.flags
precedes the flags of the other. A context that halts there has the result in flight again. -/
def Obligations.ResultsLand : Prop :=
  (∀ (f g : Flight) (s : State), s.ctx.flight = [f, g] → s.ctx.pend = [] → f.due ≤ s.ctx.sclk + 1 → f.due = g.due →
    let r := s.ctx.work
    let t := s.clock
    (∀ n v w, f.dest = .x n → f.pay = .word v → g.dest = .x n → g.pay = .word w → n ≠ 0 → t.ctx.work.getX n = ⟨w, g.tag, g.poison⟩)
    ∧ (∀ n v w, f.dest = .x n → f.pay = .word v → g.dest = .ctl 8 → g.pay = .word w → g.flags = 0 →
      t.ctx.work.flags = w.setWidth 7 ||| f.flags ∧ (n ≠ 0 → t.ctx.work.getX n = ⟨v, f.tag, f.poison⟩))
    ∧ (∀ k a, f.dest = .acc k → g.dest = .acc k → r.acc[k.toNat]? = some a → t.ctx.work.acc[k.toNat]? = some ((a.land f).1.land g).1))
  ∧ ∀ (f : Flight) (s : State), s.ctx.flight = [f] → s.ctx.pend = [] →
    let r := s.ctx.work
    let t := s.clock
    let same (u : Regs) : Prop := u.x = r.x ∧ u.v = r.v ∧ u.p = r.p ∧ u.loops = r.loops ∧ u.acc = r.acc ∧ u.vl = r.vl ∧ u.es = r.es ∧ u.ws = r.ws
    t.ctx.sclk = s.ctx.sclk + 1 ∧ t.ctx.comm = s.ctx.comm ∧ t.mem = s.mem
    ∧ (s.ctx.sclk + 1 < f.due → t.ctx.flight = [f] ∧ t.ctx.work = s.ctx.work)
    ∧ (f.due ≤ s.ctx.sclk + 1 → t.ctx.flight = [] ∧
      (∀ n w, f.dest = .x n → f.pay = .word w → t.ctx.work = { s.ctx.work with x := t.ctx.work.x, flags := s.ctx.work.flags ||| f.flags }
        ∧ ∀ k, t.ctx.work.getX k = if k = 0 then ⟨0, 0, false⟩ else if k = n then ⟨w, f.tag, f.poison⟩ else s.ctx.work.getX k)
      ∧ (∀ q l, f.dest = .v q → f.pay = .lanes l → t.ctx.work = { s.ctx.work with v := t.ctx.work.v, flags := s.ctx.work.flags ||| f.flags }
        ∧ ∀ k : Fin 64, t.ctx.work.v[k] = if k.val = q.toNat then ⟨l, f.tag, f.poison⟩ else s.ctx.work.v[k])
      ∧ (∀ q b, f.dest = .p q → f.pay = .bit b → t.ctx.work = { s.ctx.work with p := t.ctx.work.p, flags := s.ctx.work.flags ||| f.flags }
        ∧ ∀ k : Fin 16, t.ctx.work.p[k] = if k.val = q.toNat ∧ q ≠ 0 then ⟨b, f.tag, f.poison⟩ else s.ctx.work.p[k])
      ∧ (∀ w, f.dest = .vl → f.pay = .word w → t.ctx.work = { r with vl := w.setWidth 7, flags := r.flags ||| f.flags })
      ∧ (∀ n w, f.dest = .stamp n → f.pay = .word w → t.ctx.work = { r with es := t.ctx.work.es, ws := t.ctx.work.ws, flags := r.flags ||| f.flags }
        ∧ t.ctx.work.ws = (if n = 4 then w.setWidth 8 else r.ws) ∧ ∀ k : Fin 4, t.ctx.work.es[k] = if k.val = n.toNat then w.setWidth 8 else r.es[k])
      ∧ (∀ n, f.dest = .tagX n → t.ctx.work = { r with x := t.ctx.work.x, flags := r.flags ||| f.flags }
        ∧ ∀ k, t.ctx.work.getX k = if k = n ∧ k ≠ 0 then ⟨(r.getX k).val, f.tag, (r.getX k).poison⟩ else r.getX k)
      ∧ (∀ q, f.dest = .tagV q → t.ctx.work = { r with v := t.ctx.work.v, flags := r.flags ||| f.flags }
        ∧ ∀ k : Fin 64, t.ctx.work.v[k] = if k.val = q.toNat then ⟨r.v[k].val, f.tag, r.v[k].poison⟩ else r.v[k])
      ∧ (∀ l, f.dest = .loop → f.pay = .push l → t.ctx.work = { r with loops := #v[l, r.loops[0], r.loops[1], r.loops[2]], p := t.ctx.work.p, flags := r.flags ||| f.flags }
        ∧ ∀ n : BitVec 4, (t.ctx.work.getP n).val = if l.kind = 2 ∧ 8 ≤ n.toNat then decide (n = 8) else (r.getP n).val)
      ∧ (∀ k a, f.dest = .acc k → r.acc[k.toNat]? = some a → (∀ j, j ≠ k.toNat → t.ctx.work.acc[j]? = r.acc[j]?) ∧ t.ctx.work.x = r.x ∧ t.ctx.work.v = r.v
        ∧ (f.pay = .zero → ∃ b, t.ctx.work.acc[k.toNat]? = some b ∧ b.tag = f.tag ∧ b.poison = f.poison ∧ ∀ i j : Fin 64, b.val[i][j] = 0)
        ∧ (∀ ps ver vec rnd sat, f.pay = .scale ps ver vec rnd sat → ∃ b, t.ctx.work.acc[k.toNat]? = some b ∧ b.tag = f.tag ∧ b.poison = (a.poison || f.poison)
          ∧ ∀ i j : Fin 64,
            let e := (ver[i].extractLsb' 0 8).toInt + (vec[j].extractLsb' 0 8).toInt
            b.val[i][j] = BitVec.ofNat 32 (Fmt.f32.round rnd false sat (i.val % 8) (j.val % 8)
              (Ex.add false (Fmt.f32.exact a.val[i][j].toNat) ((psumExact ps.fmt ps.vals[i][j]).scale e)).1).1))
      ∧ (∀ n w, f.dest = .ctl n → f.pay = .word w → f.flags = 0 → ctlAccess s.who.cid n = .rw → same t.ctx.work
        ∧ (∀ k, k ≠ n → k ≠ 0x05 → k ≠ 0x11 → t.readCtl k = s.readCtl k) ∧ (n = 3 → t.ctx.work.rdr = true)
        ∧ t.readCtl n =
          if n = 0x03 then w &&& 0x01FFFFFFFFFFFFF8
          else if n = 0x04 then w &&& 0x01FFFFFFFFFFFFF9
          else if n = 0x08 ∨ n = 0x09 then w &&& 0x7F
          else if n = 0x0A then s.readCtl n &&& ~~~w
          else if n = 0x20 then (if w.toNat < 16 then 16 else if 1024 < w.toNat then 1024 else w)
          else if n = 0x30 then (if w.extractLsb' 8 2 = 3 ∨ 4 < (w.extractLsb' 28 3).toNat then s.readCtl n else w &&& 0xFFFFF33F)
          else if n = 0x32 then w &&& 0xFFFF
          else if 0x38 ≤ n.toNat ∧ n.toNat ≤ 0x3F then (if w.getLsbD 63 = true then s.readCtl n ||| 0x8000000000000000 else 0)
          else if 0x40 ≤ n.toNat ∧ n.toNat ≤ 0x47 then w &&& 0x1FFFF
          else if 0x48 ≤ n.toNat then w &&& 0xFFFFFFFFFFFF
          else w &&& 0xFFFFFFFF)
      ∧ (f.due = s.ctx.sclk + 1 → s.ctx.closings = [] → ∀ n w, f.dest = .x n → f.pay = .word w →
        t.halt.ctx.halted = true ∧ t.halt.ctx.flight = [f] ∧ t.halt.ctx.sclk = s.ctx.sclk + 1 ∧ ∀ k, t.halt.ctx.work.getX k = r.getX k))

/-! ## Rules stated whole -/

/-- R335: `clqry` is answered with CODE 0, the task's MODE and COUNT on the name and the name's HOLDERS and WAITERS as the unit serves it
(Table 15.6); it changes nothing else. -/
def Obligations.ClqryAnswers : Prop :=
  ∀ (q : ClReq) (s : State), q.form = .qry → q.src.site < 288 →
    let held := s.locks.find? fun l => decide (l.part = q.part ∧ l.rank = q.rank ∧ l.name = q.name)
    let holders := (s.locks.filter fun l => decide (l.part = q.part ∧ l.name = q.name)).length
    let waiters := (s.waiters.filter fun w => decide (w.part = q.part ∧ w.name = q.name)).length
    ∃ w : Word, exec (.claspRequestServe q) s = .next (s.send (answerWork ⟨q.src, q.id, [w], false, 0⟩))
      ∧ w.extractLsb' 0 3 = 0 ∧ (∀ l, held = some l → w.extractLsb' 41 3 = l.mode ∧ w.extractLsb' 48 16 = BitVec.ofNat 16 l.count)
      ∧ (held = none → w.extractLsb' 41 3 = 0 ∧ w.extractLsb' 48 16 = 0)
      ∧ (w.extractLsb' 32 8).toNat = min holders 255 ∧ (w.extractLsb' 16 16).toNat = min waiters 65535

/-- R180: ctl.tval for cause 0x18: SITE in bits 63:54 is the writer identity of the charged granule for detail 0x01 and this tile's site for
detail 0x02, OFFS in bits 53:32 the scratchpad offset of that granule or 0, and FOLD in bits 31:0 the lf of the failed re-run. -/
def Obligations.LineageTrapValue : Prop :=
  ∀ (x : Closing) (rest : List Closing) (s : State), s.ctx.closings = x :: rest →
    s.walking = false → s.tile.replayLeft = 0 → x.blk.taint = none → x.blk.xfer ≠ .eret → x.blk.rerun = true → x.listed = true → x.blk.lf ≠ x.hall.setWidth 32 →
    s.ctx.comm.tvec.getLsbD 0 = true → s.ctx.ih = false →
    ∃ t, exec .blockCommit s = .next t ∧ t.ctx.cause.extractLsb' 8 8 = 0x18 ∧ t.ctx.tval.extractLsb' 0 32 = x.blk.lf
    ∧ (∀ off w, x.blk.stale = some (off, w) → t.ctx.cause.extractLsb' 0 8 = 0x01 ∧ t.ctx.tval.extractLsb' 54 10 = w
      ∧ t.ctx.tval.extractLsb' 32 22 = BitVec.ofNat 22 off)
    ∧ (x.blk.stale = none → t.ctx.cause.extractLsb' 0 8 = 0x02 ∧ t.ctx.tval.extractLsb' 54 10 = BitVec.ofNat 10 s.who.site
      ∧ t.ctx.tval.extractLsb' 32 22 = 0)

/-- R315: `mstat xd` writes xd at c + 1 with RUN, BUSY, SHADOW and REM as they stand at issue; the other bits are zero, and the result
carries no poison. -/
def Obligations.EngineStatusRead : Prop :=
  ∀ (h : Hdr) (d : BitVec 6) (s : State), s.mayIssue h [.x d] → s.ctx.engine.remaining < 2 ^ 40 →
    ∃ w : Word, exec (.mstat h d) s = .next (s.writesClean h 0x06 1 (.x d) [] (.word w) 0)
      ∧ (w.getLsbD 63 = true ↔ 0 < s.ctx.engine.remaining)
      ∧ (w.getLsbD 62 = true ↔ s.ctx.engine.run ≠ none ∨ s.ctx.engine.queued ≠ [] ∨ ∃ f ∈ s.ctx.saved ++ s.ctx.flight, f.dest = .ps)
      ∧ w.extractLsb' 60 2 = (match s.ctx.work.shadow.st with | .empty => 0 | .loaded => 1 | .armed => 2)
      ∧ w.extractLsb' 40 20 = 0 ∧ (w.extractLsb' 0 40).toNat = s.ctx.engine.remaining

/-- R46: the elements of an I4X operand, which the engine holds scaled by 2^6. Element 2k comes from the low nibble of byte k and element 2k
+ 1 from the high one; a byte whose low nibble is 0b1000 is an outlier, whose even element is the F8E4 value of the byte, a signed power of
four, and whose odd element is 0; every other byte gives both nibbles by sign. Every byte decodes. -/
def Obligations.I4xElements : Prop :=
  (∀ (bs : List Byte) (k : Nat) (b : Byte), bs[k]? = some b →
    (intElems .i4x bs)[2 * k]? = some (i4xPair b).1 ∧ (intElems .i4x bs)[2 * k + 1]? = some (i4xPair b).2)
  ∧ ∀ b : Byte,
    let lo := b.extractLsb' 0 4
    let hi := b.extractLsb' 4 4
    (lo = 8 → (i4xPair b).2 = 0 ∧ b.extractLsb' 0 3 = 0 ∧ b.getLsbD 3 = true
      ∧ (∃ j : Nat, (i4xPair b).1 = 4 ^ j ∨ (i4xPair b).1 = -4 ^ j)
      ∧ ∃ (neg : Bool) (m : Nat) (e : Int), Fmt.f8e4.exact b.toNat = .fin neg m e ∧ -26 ≤ e
        ∧ (i4xPair b).1 * 2 ^ 20 = (if neg then -1 else 1) * m * 2 ^ (e + 26).toNat)
    ∧ (lo ≠ 8 → i4xPair b = (64 * lo.toInt, 64 * hi.toInt) ∧ -7 ≤ lo.toInt ∧ lo.toInt ≤ 7 ∧ -8 ≤ hi.toInt ∧ hi.toInt ≤ 7)
end

