-- ==== Sys2Proof/Laws/Issue.lean ====
section
/-! SUPPORT. What the issue of a syllable does, once for each way that it can end. -/

namespace Sys2Proof.Machine

theorem stale_kept (o : Option (Nat × BitVec 10)) : (if o.isSome = true then o else none) = o := by cases o <;> rfl

theorem folded_nil (s : State) : s.folded [] noCon = s := by
  simp only [State.folded, noCon, List.foldl_nil, stale_kept]

theorem folded_one (s : State) (t : Tag) : s.folded [t] noCon = s.foldedBy t := by
  simp only [State.folded, State.foldedBy, noCon, List.foldl_cons, List.foldl_nil, stale_kept]

/-- With an operand check broken, whatever else: the illegal-syllable fault. -/
theorem issue_illegal (s : State) (f : Form) (b : Except Halt Out) : s.issue f true b = s.illegal := rfl

/-- A pending register holds the syllable. -/
theorem issue_awaited {s : State} {f : Form} {c : Freeze} (b : Except Halt Out) (h : s.ctx.awaited f.regs = some c) :
    s.issue f false b = s.freeze c := by simp [State.issue, h]

/-- Without effect: the fold with m = 0 alone. -/
theorem issue_guarded {s : State} {f : Form} (b : Except Halt Out) (h : s.ctx.awaited f.regs = none)
    (g : s.ctx.work.admits f.h = false) : s.issue f false b = s.folded (f.steps s.ctx.work 0) noCon := by
  simp [State.issue, h, g]

/-- With effect and stopped. -/
theorem issue_error {s : State} {f : Form} (e : Halt) (h : s.ctx.awaited f.regs = none) (g : s.ctx.work.admits f.h = true) :
    s.issue f false (.error e) = s.halted e := by simp [State.issue, h, g]

/-- With effect: the fold, and the results in flight. -/
theorem issue_ok {s : State} {f : Form} (o : Out) (h : s.ctx.awaited f.regs = none) (g : s.ctx.work.admits f.h = true) :
    s.issue f false (.ok o) = (o.s.folded (f.steps s.ctx.work o.con.m) o.con).deliver f s.ctx.work o := by
  simp [State.issue, h, g]

/-- A form without destination, stored data or contribution leaves what its effect leaves. -/
theorem issue_plain {s : State} {f : Form} (t : State) (h : s.ctx.awaited f.regs = none) (g : s.ctx.work.admits f.h = true)
    (hd : f.dests = []) (hs : f.data = none) : s.issue f false (.ok { s := t }) = t := by
  rw [issue_ok _ h g]
  simp [State.deliver, hd, Form.steps, hs, folded_nil]

/-- The tag of R168 of a form whose tag sources are its registers. -/
theorem form_tag (s : State) (f : Form) (hm : f.mem = false) (hl : f.lead = none) :
    f.tag s.ctx.work 0 0 = s.tagFrom f.h f.major f.srcs := by
  simp [Form.tag, State.tagFrom, destTag, hm, hl]

/-- A form with one destination and no contribution writes one result. -/
theorem issue_writes {s : State} {f : Form} {d : Reg} (lat : Nat) (pay : Payload) (fl : Flags)
    (h : s.ctx.awaited f.regs = none) (g : s.ctx.work.admits f.h = true) (hd : f.dests = [d]) (hs : f.data = none)
    (ha : f.also = []) (hm : f.mem = false) (hl : f.lead = none) :
    s.issue f false (s.gives lat pay fl) =
      if f.clean then s.writesClean f.h f.major lat d f.srcs pay fl else s.writes f.h f.major lat d f.srcs pay fl := by
  have ht := form_tag s f hm hl
  unfold State.gives
  rw [issue_ok _ h g]
  simp only [State.deliver, hd, Form.steps, hs, ht, noCon, List.length_cons, List.length_nil, Option.toList, List.append_nil,
    List.zip_cons_cons, List.zip_nil_left, List.zipIdx_cons, List.zipIdx_nil, List.foldl_cons, List.foldl_nil, Nat.zero_add,
    List.range_one, List.map_cons, List.map_nil]
  rw [show (⟨0, none⟩ : Contribution) = noCon from rfl, folded_one]
  cases hc : f.clean <;> simp [Form.poison, hc, ha, hs, State.writes, State.writesClean, State.inFlight, State.schedule, Ctx.schedule, State.poisonFrom, State.foldedBy]

/-- A form of sources and one destination. -/
theorem issue_one {s : State} {h : Hdr} {major : BitVec 8} {rs : List Reg} {d : Reg} (hi : s.mayIssue h (rs ++ [d])) (lat : Nat)
    (pay : Payload) (fl : Flags) :
    s.issue { h := h, major := major, srcs := rs, dests := [d] } false (s.gives lat pay fl) = s.writes h major lat d rs pay fl :=
  issue_writes lat pay fl (by simpa [Form.regs] using hi.2) hi.1 rfl rfl rfl rfl rfl

/-- The same for a form whose result carries no poison. -/
theorem issue_one_clean {s : State} {h : Hdr} {major : BitVec 8} {rs : List Reg} {d : Reg} (hi : s.mayIssue h (rs ++ [d])) (lat : Nat)
    (pay : Payload) (fl : Flags) :
    s.issue { h := h, major := major, srcs := rs, dests := [d], clean := true } false (s.gives lat pay fl) =
      s.writesClean h major lat d rs pay fl :=
  issue_writes lat pay fl (by simpa [Form.regs] using hi.2) hi.1 rfl rfl rfl rfl rfl

/-- A form that reads registers and has no destination leaves what its effect leaves. -/
theorem issue_none {s : State} {h : Hdr} {major : BitVec 8} {rs : List Reg} (hi : s.mayIssue h rs) (t : State) :
    s.issue { h := h, major := major, also := rs } false (.ok { s := t }) = t :=
  issue_plain t (by simpa [Form.regs] using hi.2) hi.1 rfl rfl

/-- Such a form, stopped. -/
theorem issue_none_error {s : State} {h : Hdr} {major : BitVec 8} {rs : List Reg} (hi : s.mayIssue h rs) (e : Halt) :
    s.issue { h := h, major := major, also := rs } false (.error e) = s.halted e :=
  issue_error e (by simpa [Form.regs] using hi.2) hi.1

end Sys2Proof.Machine
end

