-- ==== Sys2Proof/Laws/Access.lean ====
section
/-! SUPPORT. What memory forms leave: their place, their room in the queues, and the fold and result of a load or a store. -/

namespace Sys2Proof.Machine

/-- The bytes of a value are as many as asked for. -/
theorem leBytes_length (n v : Nat) : (leBytes n v).length = n := by
  induction n generalizing v with
  | zero => rfl
  | succ n ih => simp [leBytes, ih]

/-- A local access that passes its checks goes to its offset. -/
theorem locate_loc {s : State} {ea : Word} {n esz : Nat} (need : Need) (h : s.localOk ea n esz) :
    s.locate .loc ea n esz need = .ok (.loc (localOff ea)) := by
  obtain ⟨h1, h2⟩ := h
  simp only [localOff] at h2 ⊢
  simp only [State.locate, h1, h2, bne_self_eq_false, Bool.false_eq_true, if_false, if_true]

/-- The lanes of an indexed form that all pass their checks. -/
theorem laneOffs_ok (s : State) (need : Need) (b : Nat) (l : List Word) (h : ∀ a ∈ l, s.localOk a b b) :
    s.laneOffs need b l = .ok (l.map localOff) := by
  induction l with
  | nil => rfl
  | cons a r ih => simp [State.laneOffs, locate_loc need (h a (by simp)), ih (fun x hx => h x (by simp [hx])), Except.map]

/-- The page walks of an access, one after another. -/
theorem walks_eq (s : State) (legs : List Leg) : s.walks legs = { s with work := s.work ++ legs.flatMap s.asksWalk } := by
  have h (l : Leg) (r : List Leg) : (s.walks (l :: r)).work = s.work ++ s.asksWalk l ++ (s.walks r).work.drop s.work.length := by
    simp only [State.walks, State.sendAll, State.asksWalk, List.filter_cons]
    cases hh : l.home <;> simp <;> split_ifs <;> simp_all
  have e : (s.walks legs).work = s.work ++ legs.flatMap s.asksWalk := by
    induction legs with
    | nil => simp [State.walks, State.sendAll]
    | cons l r ih => rw [h, ih]; simp
  rw [← e]; rfl

theorem msgFull_none {s : State} (h : s.msgs < 32) : s.msgFull = none := by simp [State.msgFull, State.queueFull, h]
theorem cmdFull_none {s : State} (h : s.ctx.cur.ncmds < 32) : s.cmdFull = none := by simp [State.cmdFull, h]
theorem bytesFull_none {s : State} {n : Nat} (h : s.ctx.cur.bytes + n ≤ 4096) : s.bytesFull n = none := by
  simp [State.bytesFull, h]

/-- The granules of the bytes read join those that the bundle reads. -/
theorem loadsGranules_all (s : State) (ps : List (Nat × Nat)) :
    ps.foldl (fun s p => s.loadsGranules p.1 p.2) s =
      { s with iss := { s.iss with banks := s.iss.banks ++ ps.flatMap fun r => (granulesOf r.1 r.2).map fun g => (s.iss.addr, g / 256) } } := by
  induction ps generalizing s with
  | nil => simp
  | cons p r ih => rw [List.foldl_cons, ih, List.flatMap_cons, ← List.append_assoc]; rfl

/-- The pieces of a global access name no tile. -/
theorem globalLegs_tile {s : State} {ea : Word} {need : Need} {ps : List (Nat × Nat)} {legs : List Leg}
    (h : s.globalLegs ea need ps = .ok legs) : ∀ l ∈ legs, l.tile = none := by
  induction ps generalizing legs with
  | nil => cases h; simp
  | cons p r ih =>
    simp only [State.globalLegs] at h
    split at h
    · cases h
    · cases h
    · split at h
      · cases h
      · rename_i hr; cases h
        intro l hl
        rcases List.mem_cons.1 hl with rfl | hl
        · rfl
        · exact ih hr l hl

/-- Where an access leaves the tile: to the tile that its number names now, or to a home without a tile number. -/
theorem away_tile {s : State} {sp : Space} {ea : Word} {n esz : Nat} {need : Need} {legs : List Leg}
    (h : s.locate sp ea n esz need = .ok (.away legs)) :
    ∀ l ∈ legs, ∀ t, l.tile = some t → ∃ site, s.siteOf t = some site ∧ l.home = .pool site := by
  unfold State.locate at h
  split_ifs at h
  cases sp <;> simp only at h
  · split_ifs at h
    cases h
  · split at h
    · rename_i hs
      split_ifs at h
      cases h
      intro l hl t ht
      simp only [List.mem_singleton] at hl
      subst hl
      cases ht
      exact ⟨_, hs, rfl⟩
    · cases h
  · split_ifs at h
    cases h
    intro l hl t ht
    simp only [List.mem_singleton] at hl
    subst hl
    cases ht
  · split at h
    · cases h
    · rename_i hr
      cases h
      intro l hl t ht
      rw [globalLegs_tile hr l hl] at ht
      cases ht

/-- The source router sends the request of such a leg where the leg goes. -/
theorem routed_req {s : State} {l : Leg} (h : ∀ t, l.tile = some t → ∃ site, s.siteOf t = some site ∧ l.home = .pool site) (id : Nat)
    (body : Access) (write entry : Bool) :
    s.routed (s.reqWork (s.reqOf l id body) write entry) = s.reqWork (s.reqOf l id body) write entry := by
  cases ht : l.tile with
  | none => simp [State.routed, State.reqWork, State.reqOf, ht]
  | some t =>
    obtain ⟨site, h1, h2⟩ := h t ht
    simp [State.routed, State.reqWork, State.reqOf, ht, h1, h2, dstOf]

/-- What a load that leaves the tile at issue sends and awaits, leg by leg, in closed form (R35, R214, R225). -/
theorem remoteLoad_all (all : List Leg) (d : Dest) (conv : Leg → Conv) (p : Bool) (start : Nat) (legs : List Leg) (s : State) (hc : s.ctx.closings = [])
    (ht : ∀ l ∈ legs, ∀ t, l.tile = some t → ∃ site, s.siteOf t = some site ∧ l.home = .pool site) :
    legs.foldl (fun s l =>
      let (id, s) := s.newId
      let t := s.request (s.reqWork (s.reqOf l id (.load l.len)) false false)
      t.awaitNow id (if some l = all.getLast? then .msg else .none) [d] (conv l) p start) s
    = { s with
        nextId := s.nextId + legs.length
        work := s.work ++ legs.mapIdx fun k l => ⟨s.who, dstOf l.home l.off, false, false, false, s.asking l (s.nextId + k) (.load l.len)⟩
        ctx := { s.ctx with pend := s.ctx.pend ++ legs.mapIdx fun k l =>
          ⟨s.nextId + k, if some l = all.getLast? then .msg else .none, [d], conv l, p, start, s.ctx.cur.seq, true, none⟩ } } := by
  induction legs generalizing s with
  | nil => simp
  | cons l r ih =>
    simp only [List.foldl_cons]
    have h0 := routed_req (s := s) (ht l (by simp)) s.nextId (.load l.len) false false
    have h1 : ({ s with nextId := s.nextId + 1 } : State).routed (s.reqWork (s.reqOf l s.nextId (.load l.len)) false false)
        = s.reqWork (s.reqOf l s.nextId (.load l.len)) false false := by
      rw [← h0]; simp [State.routed, State.reqWork, State.reqOf]
      cases l.tile <;> simp [State.siteOf, State.meshAt]
    rw [ih]
    · simp only [State.newId, State.request, hc, List.isEmpty_nil, if_true, State.depart]
      simp only [State.reqWork, State.reqOf, State.part] at h1
      simp only [State.reqWork, State.reqOf, State.part, h1]
      simp [State.awaitNow, Ctx.awaits, State.send, State.asking, State.part, hc, List.mapIdx_cons, show ∀ k, s.nextId + 1 + k = s.nextId + (k + 1) from fun k => by omega]
    · simp [State.newId, State.request, State.awaitNow, Ctx.awaits, hc, State.depart, State.send]
    · intro l' hl' t h
      obtain ⟨site, a, b⟩ := ht l' (by simp [hl']) t h
      refine ⟨site, ?_, b⟩
      simpa [State.newId, State.request, State.awaitNow, Ctx.awaits, hc, State.depart, State.send, State.siteOf, State.meshAt] using a

/-- What a load of a device page lists and awaits, leg by leg, in closed form (R210). -/
theorem deviceLoad_all (all : List Leg) (d : Dest) (conv : Leg → Conv) (p : Bool) (legs : List Leg) (s : State) (ops : List CmdOp) :
    legs.foldl (fun (a : State × List CmdOp) l =>
      let (id, s) := a.1.newId
      (s.awaitCommit id (if some l = all.getLast? then .msg else .none) [d] (conv l) p,
        a.2 ++ [.send (s.reqWork (s.reqOf l id (.load l.len)) false false)])) (s, ops)
    = ({ s with
          nextId := s.nextId + legs.length
          ctx := { s.ctx with cur := { s.ctx.cur with rets := s.ctx.cur.rets ++ legs.mapIdx fun k l =>
            ⟨s.nextId + k, if some l = all.getLast? then .msg else .none, [d], conv l, p, 0, s.ctx.cur.seq, false, none⟩ } } },
        ops ++ legs.mapIdx fun k l => .send ⟨s.who, dstOf l.home l.off, false, false, false, s.asking l (s.nextId + k) (.load l.len)⟩) := by
  induction legs generalizing s ops with
  | nil => simp
  | cons l r ih =>
    simp only [List.foldl_cons]
    rw [ih]
    simp [State.newId, State.awaitCommit, State.modCur, State.reqWork, State.reqOf, State.asking, State.part, List.mapIdx_cons, show ∀ k, s.nextId + 1 + k = s.nextId + (k + 1) from fun k => by omega]

/-- A syllable that reads local memory, issued with effect. -/
theorem loads_of {s : State} {h : Hdr} {major : BitVec 8} {rs : List Reg} {d : Reg} (hi : s.mayIssue h (rs ++ [d])) (lat : Nat)
    (ps : List (Nat × Nat)) (got : LocalRead) (pay : Payload) :
    s.issue { h := h, major := major, srcs := rs, dests := [d], mem := true } false
      (.ok { s := ps.foldl (fun s p => s.loadsGranules p.1 p.2) s, res := [⟨lat, pay, 0⟩], con := got.con, poison := got.poison }) =
        s.loads h major lat d rs ps got pay := by
  rw [loadsGranules_all]
  rw [issue_ok _ (by simpa [Form.regs] using hi.2) hi.1]
  simp [State.deliver, Form.steps, Form.tag, State.loads, State.inFlight, State.folded, destTag, State.schedule, Ctx.schedule,
    Form.poison, State.poisonFrom, foldStep]

/-- A syllable that reads memory elsewhere, issued with effect: its fold step on what its request leaves. -/
theorem away_of {s : State} {h : Hdr} {major : BitVec 8} {rs also : List Reg} {d : Reg} (hi : s.mayIssue h (rs ++ also ++ [d]))
    (t : State) (c : Bool) :
    s.issue { h := h, major := major, srcs := rs, also := also, dests := [d], mem := true, clean := c } false (.ok { s := t }) =
      t.foldedBy (destTag h major 0 ((rs.map s.ctx.work.tagOf).getD 0 0) ((rs.map s.ctx.work.tagOf).getD 1 0) 0) := by
  rw [issue_ok _ (by simpa [Form.regs] using hi.2) hi.1]
  simp only [State.deliver, Form.steps, noCon]
  rw [show (⟨0, none⟩ : Contribution) = noCon from rfl]
  simp only [Option.toList, List.map_nil, List.append_nil, List.length_cons, List.length_nil, Nat.zero_add, List.range_one, List.map_cons]
  rw [folded_one]
  simp [Form.tag, destTag]

/-- A syllable that stores a register, issued with effect: the tag of its data folded on what its store leaves. -/
theorem store_of {s : State} {h : Hdr} {major : BitVec 8} {rs : List Reg} {d : Reg} (hi : s.mayIssue h (rs ++ [d])) (t : State) :
    s.issue { h := h, major := major, also := rs, data := some d } false (.ok { s := t }) = t.foldedBy (s.ctx.work.tagOf d) := by
  rw [issue_ok _ (by simpa [Form.regs] using hi.2) hi.1]
  simp only [State.deliver, Form.steps, noCon]
  rw [show (⟨0, none⟩ : Contribution) = noCon from rfl]
  simp only [Option.toList, List.map_nil, List.nil_append, List.length_nil, List.range_zero, List.map_cons, List.zip_nil_left,
    List.zipIdx_nil, List.foldl_nil]
  rw [folded_one]

end Sys2Proof.Machine
end

