-- ==== Sys2Proof/Laws/Memory.lean ====
section
/-! SUPPORT. The laws of canonical lists and of the operations over memory: a read after a write, a read elsewhere, and that each operation
keeps the canonical form. -/

namespace Sys2Proof.Machine

/-! ## Canonical lists -/

/-- The canonical form said by recursion: every key above a bound, strictly rising, no default listed. -/
def clAbove {α : Type} [DecidableEq α] (d : α) : Option Nat → List (Nat × α) → Prop
  | _, [] => True
  | b, (k, v) :: r => (∀ x ∈ b, x < k) ∧ v ≠ d ∧ clAbove d (some k) r

theorem clWf_iff {α : Type} [DecidableEq α] (d : α) (l : List (Nat × α)) : clWf d l = true ↔ clAbove d none l := by
  suffices h : ∀ (l : List (Nat × α)) (k : Nat) (v : α), clWf d ((k, v) :: l) = true ↔ v ≠ d ∧ clAbove d (some k) l by
    cases l with
    | nil => simp [clWf, clAbove]
    | cons e r => rw [h]; simp [clAbove]
  intro l
  induction l with
  | nil => intro k v; simp [clWf, clAbove]
  | cons e r ih => intro k v; simp [clWf, clAbove, ih, and_assoc]

theorem clAbove_mono {α : Type} [DecidableEq α] {d : α} {b b' : Option Nat} {l : List (Nat × α)} (h : clAbove d b l)
    (hb : ∀ x ∈ b', ∃ y ∈ b, x ≤ y) : clAbove d b' l := by
  cases l with
  | nil => trivial
  | cons e r =>
    obtain ⟨h1, h2, h3⟩ := h
    exact ⟨fun x hx => by obtain ⟨y, hy, hl⟩ := hb x hx; exact Nat.lt_of_le_of_lt hl (h1 y hy), h2, h3⟩

/-- Below its first key a canonical list reads as the default. -/
theorem clGet_below {α : Type} [DecidableEq α] {d : α} {b n : Nat} {l : List (Nat × α)} (h : clAbove d (some b) l) (hn : n ≤ b) :
    clGet d l n = d := by
  cases l with
  | nil => rfl
  | cons e r => have := h.1 b rfl; simp [clGet, show n < e.1 by omega]

theorem clSet_above {α : Type} [DecidableEq α] {d : α} (n : Nat) (v : α) (l : List (Nat × α)) :
    ∀ b : Option Nat, clAbove d b l → (∀ x ∈ b, x < n) → clAbove d b (clSet d l n v) := by
  induction l with
  | nil => intro b _ hb; by_cases hv : v = d <;> simp [clSet, hv, clAbove]; exact fun x hx => hb x hx
  | cons e r ih =>
    intro b h hb
    obtain ⟨h1, h2, h3⟩ := h
    obtain ⟨k, w⟩ := e
    simp only [clSet]
    split
    · split
      · exact ⟨h1, h2, h3⟩
      · exact ⟨hb, ‹_›, by intro x hx; simp only [Option.mem_def, Option.some.injEq] at hx; subst hx; assumption, h2, h3⟩
    · split
      · split
        · exact clAbove_mono h3 fun x hx => ⟨k, rfl, Nat.le_of_lt (h1 x hx)⟩
        · exact ⟨h1, ‹_›, h3⟩
      · exact ⟨h1, h2, ih (some k) h3 fun x hx => by simp only [Option.mem_def, Option.some.injEq] at hx; omega⟩

/-- A write keeps the canonical form. -/
theorem clSet_wf {α : Type} [DecidableEq α] {d : α} {l : List (Nat × α)} (h : clWf d l = true) (n : Nat) (v : α) :
    clWf d (clSet d l n v) = true :=
  (clWf_iff d _).2 (clSet_above n v l none ((clWf_iff d l).1 h) fun _ hx => by simp at hx)

theorem clGet_set_above {α : Type} [DecidableEq α] {d : α} (n : Nat) (v : α) (l : List (Nat × α)) :
    ∀ b : Option Nat, clAbove d b l → ∀ m, clGet d (clSet d l n v) m = if m = n then v else clGet d l m := by
  induction l with
  | nil => intro b _ m; by_cases hv : v = d <;> simp [clSet, hv, clGet]; intro h1 h2; omega
  | cons e r ih =>
    intro b h m
    obtain ⟨h1, h2, h3⟩ := h
    obtain ⟨k, w⟩ := e
    have hr : ∀ j, j ≤ k → clGet d r j = d := fun j hj => clGet_below h3 hj
    have ihm := ih (some k) h3 m
    have hm := hr m
    by_cases c1 : n < k
    · by_cases c2 : v = d
      · simp only [clSet, c1, c2, if_true, clGet]; split_ifs <;> first | rfl | omega
      · simp only [clSet, c1, c2, if_true, if_false, clGet]; split_ifs <;> first | rfl | omega
    · by_cases c2 : n = k
      · subst c2
        by_cases c3 : v = d
        · simp only [clSet, Nat.lt_irrefl, c3, if_true, if_false, clGet]
          split_ifs <;> first | rfl | omega | exact hm (by omega)
        · simp only [clSet, Nat.lt_irrefl, c3, if_true, if_false, clGet]
          split_ifs <;> first | rfl | omega
      · simp only [clSet, c1, c2, if_false, clGet, ihm]; split_ifs <;> first | rfl | omega

/-- A read after a write, of a canonical list. -/
theorem clGet_set {α : Type} [DecidableEq α] {d : α} {l : List (Nat × α)} (h : clWf d l = true) (n : Nat) (v : α) (m : Nat) :
    clGet d (clSet d l n v) m = if m = n then v else clGet d l m :=
  clGet_set_above n v l none ((clWf_iff d l).1 h) m

/-! ## Bytes -/

/-- Bytes written at ascending keys. -/
def memPut : List Host.Cell → Nat → List Byte → List Host.Cell
  | m, _, [] => m
  | m, k, b :: bs => memPut (clSet 0 m k b) (k + 1) bs

theorem key_succ (h : Home) (off : Nat) : h.key (off + 1) = h.key off + 1 := by simp [Home.key, Nat.add_assoc]

/-- Bytes stored at a home change memory alone. -/
theorem setBytes_eq (h : Home) (bs : List Byte) : ∀ (s : State) (off : Nat),
    s.setBytes h off bs = { s with mem := memPut s.mem (h.key off) bs } := by
  induction bs with
  | nil => intro s off; rfl
  | cons b r ih => intro s off; simp only [State.setBytes, ih, State.setByte, memPut, key_succ]

theorem memPut_wf (bs : List Byte) : ∀ (m : List Host.Cell) (k : Nat), Memory.wf m = true → Memory.wf (memPut m k bs) = true := by
  induction bs with
  | nil => intro m k h; exact h
  | cons b r ih => intro m k h; exact ih _ _ (clSet_wf h k b)

/-- What a key reads after bytes were written. -/
theorem memPut_get (bs : List Byte) : ∀ (m : List Host.Cell) (k q : Nat), Memory.wf m = true →
    clGet 0 (memPut m k bs) q = if k ≤ q ∧ q < k + bs.length then bs.getD (q - k) 0 else clGet 0 m q := by
  induction bs with
  | nil => intro m k q _; simp [memPut, show ¬(k ≤ q ∧ q < k) by omega]
  | cons b r ih =>
    intro m k q h
    rw [memPut, ih _ _ _ (clSet_wf h k b), clGet_set h]
    by_cases h1 : q = k
    · subst h1; simp
    · by_cases h2 : k + 1 ≤ q ∧ q < k + 1 + r.length
      · have h3 : k ≤ q ∧ q < k + (b :: r).length := by simp; omega
        rw [if_pos h2, if_pos h3, show q - k = (q - (k + 1)) + 1 by omega]; simp
      · have h3 : ¬(k ≤ q ∧ q < k + (b :: r).length) := by simp; omega
        simp only [h2, h3, if_false, h1]

/-- Two homes of different numbers share no key. -/
theorem key_ne {h h' : Home} {a b : Nat} (hn : h.number ≠ h'.number) (ha : a < 2 ^ 64) (hb : b < 2 ^ 64) : h.key a ≠ h'.key b := by
  simp only [Home.key]; omega

/-- A line of device memory brought under the present key: its fields, and that every byte reads as before. -/
theorem rekeyLine_frame (s : State) (line : Nat) (hw : Memory.wf s.mem = true) :
    ∃ m lk, s.rekeyLine line = { s with mem := m, lineKeys := lk } ∧ Memory.wf m = true
      ∧ (clWf 0 s.lineKeys = true → clWf 0 lk = true) := by
  unfold State.rekeyLine
  simp only
  split
  · exact ⟨s.mem, s.lineKeys, rfl, hw, id⟩
  · rw [setBytes_eq]
    generalize s.bytes .dram (64 * line) 64 = bs
    exact ⟨memPut s.mem (Home.key .dram (64 * line)) bs, clSet 0 s.lineKeys line (s.frameKey (64 * line)), rfl, memPut_wf _ _ _ hw,
      fun h => clSet_wf h _ _⟩

/-- The number of bytes read. -/
theorem bytes_length (s : State) (h : Home) (n : Nat) : ∀ off, (s.bytes h off n).length = n := by
  induction n with
  | zero => intro off; rfl
  | succ n ih => intro off; simp [State.bytes, ih]

theorem bytes_getD (s : State) (h : Home) (n : Nat) : ∀ off i, i < n → (s.bytes h off n).getD i 0 = s.byte h (off + i) := by
  induction n with
  | zero => intro off i hi; omega
  | succ n ih =>
    intro off i hi
    cases i with
    | zero => simp [State.bytes]
    | succ i => simp only [State.bytes, List.getD_cons_succ]; rw [ih _ _ (by omega)]; congr 1; omega

/-- The bytes read are those that each offset holds. -/
theorem bytes_of_byte {s : State} {h : Home} {off : Nat} {bs : List Byte} (hb : ∀ i < bs.length, s.byte h (off + i) = bs.getD i 0) :
    s.bytes h off bs.length = bs := by
  induction bs generalizing off with
  | nil => rfl
  | cons b r ih =>
    simp only [List.length_cons, State.bytes]
    have h0 := hb 0 (by simp)
    rw [ih (fun i hi => by have := hb (i + 1) (by simp; omega); simpa [Nat.add_assoc, Nat.add_comm 1 i] using this)]
    simpa using h0

/-- The byte of a home, said by memory and the keys of its line. -/
theorem byte_congr {s t : State} (h : Home) (a : Nat) (hm : clGet 0 t.mem (h.key a) = clGet 0 s.mem (h.key a))
    (hk : h = .dram → t.lineKey (a / 64) = s.lineKey (a / 64)) (hf : t.frameKey a = s.frameKey a) : t.byte h a = s.byte h a := by
  cases h <;> first | exact hm | skip
  simp only [State.byte, State.dramByte, hk rfl, hf, State.rawByte]; rw [hm]

theorem frameKey_line (s : State) (pa : Nat) : s.frameKey (64 * (pa / 64)) = s.frameKey pa := by
  have h : s.frameOwner (64 * (pa / 64)) = s.frameOwner pa := by
    simp only [State.frameOwner, show 64 * (pa / 64) / 2 ^ 21 = pa / 2 ^ 21 by omega]
  unfold State.frameKey
  rw [h]

/-- A line brought under the present key reads as before, as does every other byte. -/
theorem rekeyLine_byte {s : State} {line : Nat} (hw : Memory.wf s.mem = true) (hk : clWf 0 s.lineKeys = true)
    (hl : 64 * line + 64 ≤ 2 ^ 64) (h : Home) (a : Nat) (ha : a < 2 ^ 64) : (s.rekeyLine line).byte h a = s.byte h a := by
  unfold State.rekeyLine
  simp only
  split
  · rfl
  · rename_i hne
    have hlen := bytes_length s .dram 64 (64 * line)
    have hgd := bytes_getD s .dram 64 (64 * line)
    revert hlen hgd
    rw [setBytes_eq]
    generalize s.bytes .dram (64 * line) 64 = bs
    intro hlen hgd
    have hmem (q : Nat) := memPut_get bs s.mem (Home.key .dram (64 * line)) q hw
    have hd0 (x : Nat) : Home.key .dram x = x := by simp [Home.key, Home.number]
    by_cases hh : h.number = Home.number .dram
    · have hh : h = .dram := by cases h <;> first | rfl | (simp [Home.number] at hh)
      subst hh
      by_cases hin : a / 64 = line
      · subst hin
        have hg := hgd (a % 64) (Nat.mod_lt _ (by decide))
        rw [show 64 * (a / 64) + a % 64 = a by omega] at hg
        have hm := hmem (Home.key .dram a)
        rw [hd0, hd0, if_pos (by rw [hlen]; omega), show a - 64 * (a / 64) = a % 64 by omega, hg] at hm
        have h1 : clGet 0 (clSet 0 s.lineKeys (a / 64) (s.frameKey (64 * (a / 64)))) (a / 64) = s.frameKey a := by
          rw [clGet_set hk, if_pos rfl, frameKey_line]
        simp only [State.byte, State.dramByte, State.lineKey, State.rawByte, hd0]
        rw [if_pos (by rw [h1]; rfl)]
        simpa [State.byte, State.dramByte, State.lineKey, State.rawByte, hd0] using hm
      · refine byte_congr _ _ ?_ ?_ rfl
        · have hm := hmem (Home.key .dram a)
          rw [hd0, hd0, if_neg (by rw [hlen]; omega)] at hm
          rw [hd0, hd0]; exact hm
        · intro _; simp only [State.lineKey]; rw [clGet_set hk, if_neg hin]
    · refine byte_congr _ _ ?_ (fun e => absurd (by rw [e]) hh) rfl
      have hm := hmem (h.key a)
      rw [if_neg ?_] at hm
      · exact hm
      · rw [hd0, hlen]
        have : h.number ≠ 0 := hh
        simp only [Home.key]; omega

/-- What lines brought under the present key leave. -/
structure Rekeyed (s t : State) : Prop where
  same : ∃ m lk, t = { s with mem := m, lineKeys := lk }
  wf : Memory.wf t.mem = true
  keys : clWf 0 t.lineKeys = true
  byte : ∀ (h : Home) (a : Nat), a < 2 ^ 64 → t.byte h a = s.byte h a
  kept : ∀ l, s.lineKey l = s.frameKey (64 * l) → t.lineKey l = t.frameKey (64 * l)

theorem rekeyLine_key {s : State} {line : Nat} (hk : clWf 0 s.lineKeys = true) (l : Nat) :
    (s.rekeyLine line).lineKey l = if l = line then s.frameKey (64 * line) else s.lineKey l := by
  unfold State.rekeyLine
  simp only
  split
  · split
    · rename_i h1 h2; rw [h2, h1]
    · rfl
  · rw [setBytes_eq]; simp only [State.lineKey]; rw [clGet_set hk]

theorem rekeyLines (ls : List Nat) : ∀ (s : State), Memory.wf s.mem = true → clWf 0 s.lineKeys = true → (∀ l ∈ ls, 64 * l + 64 ≤ 2 ^ 64) →
    Rekeyed s (ls.foldl State.rekeyLine s) ∧ ∀ l ∈ ls, (ls.foldl State.rekeyLine s).lineKey l = s.frameKey (64 * l) := by
  induction ls with
  | nil => intro s hw hk _; exact ⟨⟨⟨s.mem, s.lineKeys, rfl⟩, hw, hk, fun _ _ _ => rfl, fun _ h => h⟩, by simp⟩
  | cons l r ih =>
    intro s hw hk hl
    obtain ⟨m, lk, e, hw', hk'⟩ := rekeyLine_frame s l hw
    have hkey := rekeyLine_key (line := l) hk
    have hby := rekeyLine_byte (line := l) hw hk (hl l (by simp))
    have hf (x : Nat) : (s.rekeyLine l).frameKey x = s.frameKey x := by rw [e]; rfl
    obtain ⟨⟨⟨m2, lk2, e2⟩, w2, k2, b2, kp⟩, h2⟩ := ih (s.rekeyLine l) (by rw [e]; exact hw') (by rw [e]; exact hk' hk) (fun x hx => hl x (by simp [hx]))
    simp only [List.foldl_cons]
    refine ⟨⟨⟨m2, lk2, ?_⟩, w2, k2, fun h a ha => (b2 h a ha).trans (hby h a ha), ?_⟩, ?_⟩
    · rw [e2, e]
    · intro x hx
      refine kp x ?_
      rw [hkey, hf]; split
      · rename_i hxl; rw [hxl]
      · exact hx
    · intro x hx
      simp only [List.mem_cons] at hx
      rcases hx with rfl | hx
      · have := kp x (by rw [hkey, hf]; simp)
        rw [this, e2, e]; rfl
      · rw [h2 x hx, hf]

theorem mem_linesOf {off n l : Nat} : l ∈ linesOf off n ↔ 0 < n ∧ off / 64 ≤ l ∧ l ≤ (off + n - 1) / 64 := by
  unfold linesOf
  split
  · simp; omega
  · simp only [List.mem_map, List.mem_range]
    constructor
    · rintro ⟨i, hi, rfl⟩; omega
    · rintro ⟨_, h1, h2⟩; exact ⟨l - off / 64, by omega, by omega⟩

/-- Bytes written at a home: they read as written, every other byte as before, and nothing but memory and the keys of lines changes. -/
theorem putBytes_spec {s : State} (h : Home) (off : Nat) (bs : List Byte) (hw : Memory.wf s.mem = true) (hk : clWf 0 s.lineKeys = true)
    (ho : off + bs.length ≤ 2 ^ 64) :
    (∃ m lk, s.putBytes h off bs = { s with mem := m, lineKeys := lk } ∧ Memory.wf m = true ∧ clWf 0 lk = true)
    ∧ (∀ i < bs.length, (s.putBytes h off bs).byte h (off + i) = bs.getD i 0)
    ∧ s.sameBytesBut (s.putBytes h off bs) h off bs.length := by
  have plain : ∀ u : State, Memory.wf u.mem = true → (h = .dram → ∀ i < bs.length, u.lineKey ((off + i) / 64) = u.frameKey (off + i)) →
      (∀ i < bs.length, (u.setBytes h off bs).byte h (off + i) = bs.getD i 0) ∧ u.sameBytesBut (u.setBytes h off bs) h off bs.length := by
    intro u hu hd
    rw [setBytes_eq]
    have hmem (q : Nat) := memPut_get bs u.mem (h.key off) q hu
    refine ⟨?_, ?_⟩
    · intro i hi
      have hm := hmem (h.key (off + i))
      rw [show h.key (off + i) = h.key off + i by simp [Home.key, Nat.add_assoc], if_pos (by omega), Nat.add_sub_cancel_left] at hm
      have hr : State.rawByte { u with mem := memPut u.mem (h.key off) bs } h (off + i) = bs.getD i 0 := by
        simp only [State.rawByte]; rw [show h.key (off + i) = h.key off + i by simp [Home.key, Nat.add_assoc]]; exact hm
      cases h <;> first | exact hr | skip
      simp only [State.byte, State.dramByte]
      exact (if_pos (hd rfl i hi)).trans hr
    · intro h' a ha hne
      refine byte_congr _ _ ?_ (fun _ => rfl) rfl
      have hm := hmem (h'.key a)
      rw [if_neg ?_] at hm
      · exact hm
      · rcases hne with hne | hne
        · simp only [Home.key]; omega
        · simp only [Home.key]; intro hh
          by_cases hn : h'.number = h.number
          · rw [hn] at hh; omega
          · omega
  by_cases hd : h = .dram
  · subst hd
    obtain ⟨⟨⟨m, lk, e⟩, w, k, b, kp⟩, h2⟩ := rekeyLines (linesOf off bs.length) s hw hk
      (fun l hl => by have := mem_linesOf.1 hl; omega)
    have hp := plain ((linesOf off bs.length).foldl State.rekeyLine s) w (fun _ i hi => by
      rw [h2 _ (mem_linesOf.2 (by omega)), frameKey_line, e]; rfl)
    simp only [State.putBytes]
    refine ⟨⟨_, lk, by rw [setBytes_eq, e], memPut_wf _ _ _ (by rw [e] at w; exact w), by rw [e] at k; exact k⟩, hp.1, ?_⟩
    intro h' a ha hne
    exact (hp.2 h' a ha hne).trans (b h' a ha)
  · have e : s.putBytes h off bs = s.setBytes h off bs := by cases h <;> first | rfl | exact absurd rfl hd
    rw [e]
    exact ⟨⟨_, s.lineKeys, setBytes_eq _ _ _ _, memPut_wf _ _ _ hw, hk⟩, plain s hw (fun e => absurd e hd)⟩

/-! ## Writes at a home -/

/-- Two states that hold the same bytes: memory, the keys of lines, the owners of frames and the keys. -/
def State.sameStore (s t : State) : Prop :=
  t.mem = s.mem ∧ t.lineKeys = s.lineKeys ∧ t.frames = s.frames ∧ t.keys = s.keys

theorem sameStore_byte {s t : State} (h : s.sameStore t) (x : Home) (a : Nat) : t.byte x a = s.byte x a := by
  obtain ⟨h1, h2, h3, h4⟩ := h
  exact byte_congr x a (by rw [h1]) (fun _ => by rw [State.lineKey, h2]; rfl) (by
    have : t.frameOwner a = s.frameOwner a := by simp only [State.frameOwner, h3]
    unfold State.frameKey; rw [this, h4])

theorem sameStore_bytes {s t : State} (h : s.sameStore t) (x : Home) (n : Nat) : ∀ off, t.bytes x off n = s.bytes x off n := by
  induction n with
  | zero => intro off; rfl
  | succ n ih => intro off; simp only [State.bytes, sameStore_byte h, ih]

theorem sameStore_trans {s t u : State} (h : s.sameStore t) (g : t.sameStore u) : s.sameStore u :=
  ⟨g.1.trans h.1, g.2.1.trans h.2.1, g.2.2.1.trans h.2.2.1, g.2.2.2.trans h.2.2.2⟩

/-- What a write at a home leaves of everything but bytes, tag words, marks, logs, what is under way and the monitors that it meets. -/
structure Written (s t : State) : Prop where
  ctx : ∃ m, t.ctx = { s.ctx with monitor := m }
  tile : ∃ r l, t.tile = { s.tile with reports := r, lost := l }
  who : t.who = s.who
  canonical : s.canonical = true → t.canonical = true
  work : ∀ w ∈ s.work, w ∈ t.work

theorem Written.of {s t : State} (hc : t.ctx = s.ctx) (ht : t.tile = s.tile) (hw : t.who = s.who)
    (ha : s.canonical = true → t.canonical = true) (hk : ∀ w ∈ s.work, w ∈ t.work) : Written s t :=
  ⟨⟨s.ctx.monitor, hc⟩, ⟨s.tile.reports, s.tile.lost, ht⟩, hw, ha, hk⟩

theorem Written.refl (s : State) : Written s s := .of rfl rfl rfl id fun _ h => h

theorem Written.trans {s t u : State} (h : Written s t) (g : Written t u) : Written s u :=
  ⟨by obtain ⟨_, e⟩ := h.ctx; obtain ⟨m, f⟩ := g.ctx; exact ⟨m, by rw [f, e]⟩, by obtain ⟨_, _, e⟩ := h.tile; obtain ⟨r, l, f⟩ := g.tile; exact ⟨r, l, by rw [f, e]⟩, g.who.trans h.who, fun c => g.canonical (h.canonical c), fun w m => g.work w (h.work w m)⟩

theorem canonical_iff (s : State) : s.canonical = true ↔ Memory.wf s.mem = true ∧ clWf 0 s.gtags = true ∧ clWf false s.pois = true
    ∧ clWf 0 s.lineKeys = true ∧ clWf 0xFF s.frames = true ∧ clWf Phaser.reset s.phasers = true ∧ clWf Tree.reset s.trees = true := by
  simp only [State.canonical, Bool.and_eq_true, and_assoc]

theorem fold_keeps {α : Type} (f : State → α → State) (hs : ∀ (s : State) x, s.sameStore (f s x)) (hw : ∀ (s : State) x, Written s (f s x))
    (l : List α) :
    ∀ s : State, s.sameStore (l.foldl f s) ∧ Written s (l.foldl f s) := by
  induction l with
  | nil => intro s; exact ⟨⟨rfl, rfl, rfl, rfl⟩, .refl s⟩
  | cons x r ih => intro s; exact ⟨sameStore_trans (hs s x) (ih _).1, (hw s x).trans (ih _).2⟩

theorem setTagWord_keeps (h : Home) (g : Nat) (w : Word) (s : State) :
    s.sameStore (s.setTagWord h g w) ∧ Written s (s.setTagWord h g w) := by
  refine ⟨⟨rfl, rfl, rfl, rfl⟩, .of rfl rfl rfl ?_ fun _ h => h⟩
  simp only [canonical_iff]
  exact fun ⟨h1, h2, h3⟩ => ⟨h1, clSet_wf h2 _ _, h3⟩

theorem setUnit_keeps (h : Home) (off : Nat) (b : Bool) (s : State) : s.sameStore (s.setUnit h off b) ∧ Written s (s.setUnit h off b) := by
  refine ⟨⟨rfl, rfl, rfl, rfl⟩, .of rfl rfl rfl ?_ fun _ h => h⟩
  simp only [canonical_iff]
  exact fun ⟨h1, h2, h3, h4⟩ => ⟨h1, h2, clSet_wf h3 _ _, h4⟩

theorem report_keeps (s : State) (c : Src) (kind : Nat) (w1 w2 w3 : Word) :
    s.sameStore (s.report c kind w1 w2 w3) ∧ Written s (s.report c kind w1 w2 w3) := by
  unfold State.report State.modTile State.setTile
  split_ifs with h
  · refine ⟨⟨rfl, rfl, rfl, rfl⟩, ⟨s.ctx.monitor, rfl⟩, ?_, rfl, fun h => h, fun _ h => h⟩
    simp only [State.getTile, h, if_true, Tile.report]
    split_ifs
    · exact ⟨_, _, rfl⟩
    · exact ⟨s.tile.reports, s.tile.lost, rfl⟩
    · exact ⟨s.tile.reports, s.tile.lost + 1, rfl⟩
  · exact ⟨⟨rfl, rfl, rfl, rfl⟩, .of rfl rfl rfl (fun h => h) fun _ h => h⟩

theorem logUndo_keeps (s : State) (line : Nat) : s.sameStore (s.logUndo line) ∧ Written s (s.logUndo line) := by
  have same (ps) : s.sameStore { s with parts := ps } ∧ Written s { s with parts := ps } :=
    ⟨⟨rfl, rfl, rfl, rfl⟩, .of rfl rfl rfl id fun _ h => h⟩
  unfold State.logUndo State.setPart
  simp only
  split_ifs
  · exact ⟨⟨rfl, rfl, rfl, rfl⟩, .refl s⟩
  · exact same _
  · exact ⟨sameStore_trans (same _).1 (report_keeps _ _ _ _ _ _).1, (same _).2.trans (report_keeps _ _ _ _ _ _).2⟩
  · exact ⟨⟨rfl, rfl, rfl, rfl⟩, .refl s⟩

theorem markUnits_keeps (s : State) (h : Home) (off n : Nat) (p : Bool) :
    s.sameStore (s.markUnits h off n p) ∧ Written s (s.markUnits h off n p) := by
  have f (s : State) (u : Nat) :
      s.sameStore (if p then s.setUnit h (64 * u) true else if off ≤ 64 * u && 64 * u + 64 ≤ off + n then s.setUnit h (64 * u) false else s)
      ∧ Written s (if p then s.setUnit h (64 * u) true else if off ≤ 64 * u && 64 * u + 64 ≤ off + n then s.setUnit h (64 * u) false else s) := by
    split_ifs
    · exact setUnit_keeps ..
    · exact setUnit_keeps ..
    · exact ⟨⟨rfl, rfl, rfl, rfl⟩, .refl s⟩
  exact fold_keeps _ (fun s u => (f s u).1) (fun s u => (f s u).2) _ s

theorem wake_keeps (s : State) (c : Src) :
    s.sameStore ((s.modCtx c Ctx.monitorHit).send (wakeWork c)) ∧ Written s ((s.modCtx c Ctx.monitorHit).send (wakeWork c)) := by
  have k : ∀ w ∈ s.work, w ∈ s.work ++ [wakeWork c] := fun w h => List.mem_append_left _ h
  simp only [State.modCtx, State.setCtx, State.getCtx, State.send]
  split_ifs
  · exact ⟨⟨rfl, rfl, rfl, rfl⟩, ⟨_, rfl⟩, ⟨_, _, rfl⟩, rfl, fun h => h, k⟩
  · exact ⟨⟨rfl, rfl, rfl, rfl⟩, .of rfl rfl rfl (fun h => h) k⟩

theorem putBytes_written {s : State} (h : Home) (off : Nat) (bs : List Byte) (hc : s.canonical = true) (ho : off + bs.length ≤ 2 ^ 64) :
    Written s (s.putBytes h off bs) := by
  have c := (canonical_iff s).1 hc
  obtain ⟨⟨m, lk, e, w, k⟩, -⟩ := putBytes_spec (s := s) h off bs c.1 c.2.2.2.1 ho
  rw [e]
  exact .of rfl rfl rfl (fun _ => (canonical_iff _).2 ⟨w, c.2.1, c.2.2.1, k, c.2.2.2.2⟩) fun _ h => h

/-- A write at a home: its bytes read as written, every other byte as before. -/
theorem homeWrite_spec {s : State} (h : Home) (off : Nat) (bs : List Byte) (w : Word) (p : Bool) (hc : s.canonical = true)
    (ho : off + bs.length ≤ 2 ^ 64) :
    (s.homeWrite h off bs w p).bytes h off bs.length = bs ∧ s.sameBytesBut (s.homeWrite h off bs w p) h off bs.length
      ∧ Written s (s.homeWrite h off bs w p) := by
  suffices hs : ∃ t, s.sameStore t ∧ Written s t ∧ (t.putBytes h off bs).sameStore (s.homeWrite h off bs w p)
      ∧ Written (t.putBytes h off bs) (s.homeWrite h off bs w p) by
    obtain ⟨t, a1, a2, a3, a4⟩ := hs
    have c' := a2.canonical hc
    have c := (canonical_iff t).1 c'
    obtain ⟨-, b1, b2⟩ := putBytes_spec (s := t) h off bs c.1 c.2.2.2.1 ho
    refine ⟨bytes_of_byte fun i hi => ?_, fun h' a ha hne => ?_, a2.trans ((putBytes_written h off bs c' ho).trans a4)⟩
    · rw [sameStore_byte a3]; exact b1 i hi
    · rw [sameStore_byte a3, b2 h' a ha hne, sameStore_byte a1]
  have idle : s.sameStore s ∧ Written s s := ⟨⟨rfl, rfl, rfl, rfl⟩, .refl s⟩
  have gran : (s.putBytes h off bs).sameStore (s.putGranules h off bs w) ∧ Written (s.putBytes h off bs) (s.putGranules h off bs w) :=
    fold_keeps _ (fun s g => (setTagWord_keeps h g w s).1) (fun s g => (setTagWord_keeps h g w s).2) _ _
  have bank : (s.putBytes h off bs).sameStore (s.bankWrite h off bs w) ∧ Written (s.putBytes h off bs) (s.bankWrite h off bs w) := by
    have w := fold_keeps _ (fun s c => (wake_keeps s c).1) (fun s c => (wake_keeps s c).2) (s.watchers h off bs.length) (s.putGranules h off bs w)
    exact ⟨sameStore_trans gran.1 w.1, gran.2.trans w.2⟩
  have undo := fold_keeps _ (fun s l => (logUndo_keeps s l).1) (fun s l => (logUndo_keeps s l).2) (linesOf off bs.length) s
  cases h with
  | pool site => exact ⟨s, idle.1, idle.2, bank⟩
  | custodian site => exact ⟨s, idle.1, idle.2, bank⟩
  | peerPool d l => exact ⟨s, idle.1, idle.2, gran⟩
  | dram => exact ⟨_, undo.1, undo.2, markUnits_keeps ..⟩
  | host => exact ⟨s, idle.1, idle.2, markUnits_keeps ..⟩
  | slice k => exact ⟨s, idle.1, idle.2, markUnits_keeps ..⟩
  | peerMem d => exact ⟨s, idle.1, idle.2, markUnits_keeps ..⟩

end Sys2Proof.Machine
end

