-- ==== Sys2Proof/Laws/PerInstr.lean ====
section
/-! SUPPORT. A law for every constructor of Instr: a well-formed instruction has an encoding of one or two words. -/

namespace Sys2Proof.Laws.Encoded

/-- A well-formed instruction is encoded in one word, or in two with its extension (Tables 4.1 and 4.15); an event has no encoding and is not well formed. -/
def Statement (i : Instr) : Prop := i.wf = true → (encode i).length = 1 ∨ (encode i).length = 2

/-- An instruction with parts is encoded in one word or two. -/
theorem length_of_parts {i : Instr} (h : i.parts.isSome = true) : (encode i).length = 1 ∨ (encode i).length = 2 := by
  unfold encode
  match hp : i.parts with
  | none => simp [hp] at h
  | some p => match he : p.ext with | none => simp [he] | some x => simp [he]

/-- The immediate of format I has parts. -/
theorem encI_isSome (h : Hdr) (m : BitVec 8) (d s : BitVec 6) (ty : BitVec 4) (i : Imm) (fn : BitVec 4) :
    (encI h m d s ty i fn).isSome = true := by cases i <;> rfl

/-- A memory operand has parts. -/
theorem encM_isSome (h : Hdr) (m : BitVec 8) (rd : BitVec 6) (sp : BitVec 2) (o : MemOp) (ssel : BitVec 2) (ty : BitVec 4) (hint : BitVec 2) :
    (encM h m rd sp o ssel ty hint).isSome = true := by cases o <;> rfl

/-- A phaser reference has parts. -/
theorem encPh_isSome (h : Hdr) (m : BitVec 8) (d : BitVec 6) (r : PhRef) (s2 s3 : BitVec 6) (u sc : BitVec 3) (mode : BitVec 4) :
    (encPh h m d r s2 s3 u sc mode).isSome = true := by cases r <;> rfl

theorem nop (h : Hdr) : Statement (.nop h) := fun _ => length_of_parts rfl
theorem add (h : Hdr) (ty : Fmt) (sat : Bool) (d : BitVec 6) (s1 : BitVec 6) (s2 : BitVec 6) : Statement (.add h ty sat d s1 s2) := fun _ => length_of_parts rfl
theorem sub (h : Hdr) (ty : Fmt) (sat : Bool) (d : BitVec 6) (s1 : BitVec 6) (s2 : BitVec 6) : Statement (.sub h ty sat d s1 s2) := fun _ => length_of_parts rfl
theorem mul (h : Hdr) (ty : Fmt) (d : BitVec 6) (s1 : BitVec 6) (s2 : BitVec 6) : Statement (.mul h ty d s1 s2) := fun _ => length_of_parts rfl
theorem mulh (h : Hdr) (ty : Fmt) (d : BitVec 6) (s1 : BitVec 6) (s2 : BitVec 6) : Statement (.mulh h ty d s1 s2) := fun _ => length_of_parts rfl
theorem div (h : Hdr) (ty : Fmt) (d : BitVec 6) (s1 : BitVec 6) (s2 : BitVec 6) : Statement (.div h ty d s1 s2) := fun _ => length_of_parts rfl
theorem rem (h : Hdr) (ty : Fmt) (d : BitVec 6) (s1 : BitVec 6) (s2 : BitVec 6) : Statement (.rem h ty d s1 s2) := fun _ => length_of_parts rfl
theorem min (h : Hdr) (ty : Fmt) (d : BitVec 6) (s1 : BitVec 6) (s2 : BitVec 6) : Statement (.min h ty d s1 s2) := fun _ => length_of_parts rfl
theorem max (h : Hdr) (ty : Fmt) (d : BitVec 6) (s1 : BitVec 6) (s2 : BitVec 6) : Statement (.max h ty d s1 s2) := fun _ => length_of_parts rfl
theorem and (h : Hdr) (d : BitVec 6) (s1 : BitVec 6) (s2 : BitVec 6) : Statement (.and h d s1 s2) := fun _ => length_of_parts rfl
theorem or (h : Hdr) (d : BitVec 6) (s1 : BitVec 6) (s2 : BitVec 6) : Statement (.or h d s1 s2) := fun _ => length_of_parts rfl
theorem xor (h : Hdr) (d : BitVec 6) (s1 : BitVec 6) (s2 : BitVec 6) : Statement (.xor h d s1 s2) := fun _ => length_of_parts rfl
theorem shl (h : Hdr) (ty : Fmt) (d : BitVec 6) (s1 : BitVec 6) (s2 : BitVec 6) : Statement (.shl h ty d s1 s2) := fun _ => length_of_parts rfl
theorem shr (h : Hdr) (ty : Fmt) (d : BitVec 6) (s1 : BitVec 6) (s2 : BitVec 6) : Statement (.shr h ty d s1 s2) := fun _ => length_of_parts rfl
theorem sra (h : Hdr) (ty : Fmt) (d : BitVec 6) (s1 : BitVec 6) (s2 : BitVec 6) : Statement (.sra h ty d s1 s2) := fun _ => length_of_parts rfl
theorem sel (h : Hdr) (d : BitVec 6) (s1 : BitVec 6) (s2 : BitVec 6) (pn : BitVec 4) : Statement (.sel h d s1 s2 pn) := fun _ => length_of_parts rfl
theorem clz (h : Hdr) (ty : Fmt) (d : BitVec 6) (s1 : BitVec 6) : Statement (.clz h ty d s1) := fun _ => length_of_parts rfl
theorem ctz (h : Hdr) (ty : Fmt) (d : BitVec 6) (s1 : BitVec 6) : Statement (.ctz h ty d s1) := fun _ => length_of_parts rfl
theorem popc (h : Hdr) (ty : Fmt) (d : BitVec 6) (s1 : BitVec 6) : Statement (.popc h ty d s1) := fun _ => length_of_parts rfl
theorem cmp (h : Hdr) (c : Cond) (ty : Fmt) (pd : BitVec 4) (s1 : BitVec 6) (s2 : BitVec 6) : Statement (.cmp h c ty pd s1 s2) := fun _ => length_of_parts rfl
theorem pand (h : Hdr) (pd : BitVec 4) (p1 : BitVec 4) (p2 : BitVec 4) : Statement (.pand h pd p1 p2) := fun _ => length_of_parts rfl
theorem por (h : Hdr) (pd : BitVec 4) (p1 : BitVec 4) (p2 : BitVec 4) : Statement (.por h pd p1 p2) := fun _ => length_of_parts rfl
theorem pxor (h : Hdr) (pd : BitVec 4) (p1 : BitVec 4) (p2 : BitVec 4) : Statement (.pxor h pd p1 p2) := fun _ => length_of_parts rfl
theorem pandn (h : Hdr) (pd : BitVec 4) (p1 : BitVec 4) (p2 : BitVec 4) : Statement (.pandn h pd p1 p2) := fun _ => length_of_parts rfl
theorem tfence (h : Hdr) : Statement (.tfence h) := fun _ => length_of_parts rfl
theorem addi (h : Hdr) (ty : Fmt) (d : BitVec 6) (s1 : BitVec 6) (imm : Imm) : Statement (.addi h ty d s1 imm) := fun _ => length_of_parts (encI_isSome ..)
theorem andi (h : Hdr) (d : BitVec 6) (s1 : BitVec 6) (imm : Imm) : Statement (.andi h d s1 imm) := fun _ => length_of_parts (encI_isSome ..)
theorem ori (h : Hdr) (d : BitVec 6) (s1 : BitVec 6) (imm : Imm) : Statement (.ori h d s1 imm) := fun _ => length_of_parts (encI_isSome ..)
theorem xori (h : Hdr) (d : BitVec 6) (s1 : BitVec 6) (imm : Imm) : Statement (.xori h d s1 imm) := fun _ => length_of_parts (encI_isSome ..)
theorem shli (h : Hdr) (ty : Fmt) (d : BitVec 6) (s1 : BitVec 6) (k : BitVec 16) : Statement (.shli h ty d s1 k) := fun _ => length_of_parts rfl
theorem shri (h : Hdr) (ty : Fmt) (d : BitVec 6) (s1 : BitVec 6) (k : BitVec 16) : Statement (.shri h ty d s1 k) := fun _ => length_of_parts rfl
theorem srai (h : Hdr) (ty : Fmt) (d : BitVec 6) (s1 : BitVec 6) (k : BitVec 16) : Statement (.srai h ty d s1 k) := fun _ => length_of_parts rfl
theorem cmpi (h : Hdr) (c : Cond) (ty : Fmt) (pd : BitVec 4) (s1 : BitVec 6) (imm : Imm) : Statement (.cmpi h c ty pd s1 imm) := fun _ => length_of_parts (encI_isSome ..)
theorem movi (h : Hdr) (d : BitVec 6) (imm : Imm) : Statement (.movi h d imm) := fun _ => length_of_parts (encI_isSome ..)
theorem bfx (h : Hdr) (ty : Fmt) (d : BitVec 6) (s1 : BitVec 6) (pos : BitVec 6) (wm1 : BitVec 6) : Statement (.bfx h ty d s1 pos wm1) := fun _ => length_of_parts rfl
theorem bfi (h : Hdr) (d : BitVec 6) (s1 : BitVec 6) (pos : BitVec 6) (wm1 : BitVec 6) : Statement (.bfi h d s1 pos wm1) := fun _ => length_of_parts rfl
theorem mfc (h : Hdr) (d : BitVec 6) (n : BitVec 16) : Statement (.mfc h d n) := fun _ => length_of_parts rfl
theorem mtc (h : Hdr) (n : BitVec 16) (s1 : BitVec 6) : Statement (.mtc h n s1) := fun _ => length_of_parts rfl
theorem trap (h : Hdr) (imm : BitVec 16) : Statement (.trap h imm) := fun _ => length_of_parts rfl
theorem br (h : Hdr) (tsel : Bool) : Statement (.br h tsel) := fun _ => length_of_parts rfl
theorem jr (h : Hdr) (xr : BitVec 6) : Statement (.jr h xr) := fun _ => length_of_parts rfl
theorem call (h : Hdr) (xr : BitVec 6) (tsel : Bool) : Statement (.call h xr tsel) := fun _ => length_of_parts rfl
theorem ret (h : Hdr) (xr : BitVec 6) : Statement (.ret h xr) := fun _ => length_of_parts rfl
theorem loop (h : Hdr) (xr : BitVec 6) (tsel : Bool) : Statement (.loop h xr tsel) := fun _ => length_of_parts rfl
theorem loopi (h : Hdr) (n : BitVec 16) (tsel : Bool) : Statement (.loopi h n tsel) := fun _ => length_of_parts rfl
theorem swp (h : Hdr) (xr : BitVec 6) (tsel : Bool) (stg : BitVec 3) : Statement (.swp h xr tsel stg) := fun _ => length_of_parts rfl
theorem eret (h : Hdr) : Statement (.eret h) := fun _ => length_of_parts rfl
theorem lstamp (h : Hdr) (d : BitVec 3) (s1 : BitVec 6) (imm : BitVec 8) : Statement (.lstamp h d s1 imm) := fun _ => length_of_parts rfl
theorem lseed (h : Hdr) (vec : Bool) (d : BitVec 6) (imm : Imm) : Statement (.lseed h vec d imm) := fun _ => length_of_parts (encI_isSome ..)
theorem ltag (h : Hdr) (file : TagFile) (d : BitVec 6) (s1 : BitVec 6) : Statement (.ltag h file d s1) := fun _ => length_of_parts rfl
theorem ltagG (h : Hdr) (d : BitVec 6) (s1 : BitVec 6) (imm : BitVec 16) : Statement (.ltagG h d s1 imm) := fun _ => length_of_parts rfl
theorem lfold (h : Hdr) (d : BitVec 6) : Statement (.lfold h d) := fun _ => length_of_parts rfl
theorem mark (h : Hdr) (imm : Imm) : Statement (.mark h imm) := fun _ => length_of_parts (encI_isSome ..)
theorem dgrd (h : Hdr) (g : BitVec 8) : Statement (.dgrd h g) := fun _ => length_of_parts rfl
theorem lea (h : Hdr) (d : BitVec 6) (m : MemOp) : Statement (.lea h d m) := fun _ => length_of_parts (encM_isSome ..)
theorem ld (h : Hdr) (ty : Fmt) (sp : Space) (d : BitVec 6) (m : MemOp) (ssel : BitVec 2) (hint : Hint) : Statement (.ld h ty sp d m ssel hint) := fun _ => length_of_parts (encM_isSome ..)
theorem st (h : Hdr) (ty : Fmt) (sp : Space) (xs : BitVec 6) (m : MemOp) (hint : Hint) : Statement (.st h ty sp xs m hint) := fun _ => length_of_parts (encM_isSome ..)
theorem vld (h : Hdr) (ty : Fmt) (sp : Space) (vd : BitVec 6) (m : MemOp) (ssel : BitVec 2) (hint : Hint) : Statement (.vld h ty sp vd m ssel hint) := fun _ => length_of_parts (encM_isSome ..)
theorem vst (h : Hdr) (ty : Fmt) (sp : Space) (vs : BitVec 6) (m : MemOp) (hint : Hint) : Statement (.vst h ty sp vs m hint) := fun _ => length_of_parts (encM_isSome ..)
theorem vgath (h : Hdr) (ty : Fmt) (vd : BitVec 6) (xb : BitVec 6) (vi : BitVec 6) (off : BitVec 14) (ssel : BitVec 2) (hint : Hint) : Statement (.vgath h ty vd xb vi off ssel hint) := fun _ => length_of_parts rfl
theorem vscat (h : Hdr) (ty : Fmt) (vs : BitVec 6) (xb : BitVec 6) (vi : BitVec 6) (off : BitVec 14) (hint : Hint) : Statement (.vscat h ty vs xb vi off hint) := fun _ => length_of_parts rfl
theorem ldblk (h : Hdr) (s1 : BitVec 6) (s2 : BitVec 6) (k : BitVec 4) (ph : Option (BitVec 12)) (hint : Hint) : Statement (.ldblk h s1 s2 k ph hint) := fun _ => length_of_parts (by cases ph <;> rfl)
theorem ldl (h : Hdr) (ty : Fmt) (d : BitVec 6) (m : MemOp) (hint : Hint) : Statement (.ldl h ty d m hint) := fun _ => length_of_parts (encM_isSome ..)
theorem evblk (h : Hdr) (k : BitVec 4) : Statement (.evblk h k) := fun _ => length_of_parts rfl
theorem bfins (h : Hdr) (o : Rmw) : Statement (.bfins h o) := fun _ => length_of_parts rfl
theorem ffcs (h : Hdr) (o : Rmw) : Statement (.ffcs h o) := fun _ => length_of_parts rfl
theorem plset (h : Hdr) (o : Rmw) : Statement (.plset h o) := fun _ => length_of_parts rfl
theorem mwait (h : Hdr) (ty : Fmt) (xd : BitVec 6) (m : MemOp) (ssel : BitVec 2) (hint : Hint) : Statement (.mwait h ty xd m ssel hint) := fun _ => length_of_parts (encM_isSome ..)
theorem atomAdd (h : Hdr) (o : Rmw) : Statement (.atomAdd h o) := fun _ => length_of_parts rfl
theorem atomFadd (h : Hdr) (o : Rmw) : Statement (.atomFadd h o) := fun _ => length_of_parts rfl
theorem atomMin (h : Hdr) (o : Rmw) : Statement (.atomMin h o) := fun _ => length_of_parts rfl
theorem atomMax (h : Hdr) (o : Rmw) : Statement (.atomMax h o) := fun _ => length_of_parts rfl
theorem atomAnd (h : Hdr) (o : Rmw) : Statement (.atomAnd h o) := fun _ => length_of_parts rfl
theorem atomOr (h : Hdr) (o : Rmw) : Statement (.atomOr h o) := fun _ => length_of_parts rfl
theorem atomXor (h : Hdr) (o : Rmw) : Statement (.atomXor h o) := fun _ => length_of_parts rfl
theorem atomSwp (h : Hdr) (o : Rmw) : Statement (.atomSwp h o) := fun _ => length_of_parts rfl
theorem atomCas (h : Hdr) (o : Rmw) : Statement (.atomCas h o) := fun _ => length_of_parts rfl
theorem copy (h : Hdr) (out : Bool) (slice : Bool) (s1 : BitVec 6) (v2 : BitVec 6) (s3 : BitVec 6) (ph : BitVec 12) : Statement (.copy h out slice s1 v2 s3 ph) := fun _ => length_of_parts rfl
theorem copyr (h : Hdr) (s1 : BitVec 6) (s2 : BitVec 6) (s3 : BitVec 6) (ph : BitVec 12) : Statement (.copyr h s1 s2 s3 ph) := fun _ => length_of_parts rfl
theorem copyx (h : Hdr) (s1 : BitVec 6) (s2 : BitVec 6) (s3 : BitVec 6) (ph : BitVec 12) : Statement (.copyx h s1 s2 s3 ph) := fun _ => length_of_parts rfl
theorem copyc (h : Hdr) (s1 : BitVec 6) (s2 : BitVec 6) (s3 : BitVec 6) (ph : BitVec 12) (last : Option ChainEnd) : Statement (.copyc h s1 s2 s3 ph last) := fun _ => length_of_parts (by cases last <;> rfl)
theorem fence (h : Hdr) (sc : Scope) : Statement (.fence h sc) := fun _ => length_of_parts rfl
theorem drain (h : Hdr) (sc : Scope) : Statement (.drain h sc) := fun _ => length_of_parts rfl
theorem spawn (h : Hdr) (s1 : BitVec 6) : Statement (.spawn h s1) := fun _ => length_of_parts rfl
theorem join (h : Hdr) (s1 : BitVec 6) : Statement (.join h s1) := fun _ => length_of_parts rfl
theorem tend (h : Hdr) : Statement (.tend h) := fun _ => length_of_parts rfl
theorem cancel (h : Hdr) (s1 : BitVec 6) (level : BitVec 4) : Statement (.cancel h s1 level) := fun _ => length_of_parts rfl
theorem ccrd (h : Hdr) (d : BitVec 6) (s1 : BitVec 6) (level : BitVec 4) : Statement (.ccrd h d s1 level) := fun _ => length_of_parts rfl
theorem yield (h : Hdr) : Statement (.yield h) := fun _ => length_of_parts rfl
theorem sbind (h : Hdr) (k : BitVec 3) (s1 : BitVec 6) : Statement (.sbind h k s1) := fun _ => length_of_parts rfl
theorem sunbind (h : Hdr) (k : BitVec 3) : Statement (.sunbind h k) := fun _ => length_of_parts rfl
theorem sadv (h : Hdr) (k : BitVec 3) (n : BitVec 12) : Statement (.sadv h k n) := fun _ => length_of_parts rfl
theorem rsend (h : Hdr) (vs : BitVec 6) (t : BitVec 4) (op : RedOp) : Statement (.rsend h vs t op) := fun _ => length_of_parts rfl
theorem rrecv (h : Hdr) (vd : BitVec 6) (xs : BitVec 6) (t : BitVec 4) : Statement (.rrecv h vd xs t) := fun _ => length_of_parts rfl
theorem clacq (h : Hdr) (d : BitVec 6) (s1 : BitVec 6) (mode : BitVec 4) : Statement (.clacq h d s1 mode) := fun _ => length_of_parts rfl
theorem clupg (h : Hdr) (d : BitVec 6) (s1 : BitVec 6) (mode : BitVec 4) : Statement (.clupg h d s1 mode) := fun _ => length_of_parts rfl
theorem clrel (h : Hdr) (d : BitVec 6) (s1 : BitVec 6) (all : Bool) : Statement (.clrel h d s1 all) := fun _ => length_of_parts rfl
theorem cltry (h : Hdr) (d : BitVec 6) (s1 : BitVec 6) (mode : BitVec 4) : Statement (.cltry h d s1 mode) := fun _ => length_of_parts rfl
theorem clqry (h : Hdr) (d : BitVec 6) (s1 : BitVec 6) : Statement (.clqry h d s1) := fun _ => length_of_parts rfl
theorem phreg (h : Hdr) (ref : PhRef) (sc : Scope) (mode : BitVec 2) : Statement (.phreg h ref sc mode) := fun _ => length_of_parts (encPh_isSome ..)
theorem phdrop (h : Hdr) (ref : PhRef) (mode : BitVec 2) : Statement (.phdrop h ref mode) := fun _ => length_of_parts (encPh_isSome ..)
theorem phsig (h : Hdr) (ref : PhRef) : Statement (.phsig h ref) := fun _ => length_of_parts (encPh_isSome ..)
theorem phwait (h : Hdr) (d : BitVec 6) (ref : PhRef) (s2 : BitVec 6) : Statement (.phwait h d ref s2) := fun _ => length_of_parts (encPh_isSome ..)
theorem phsw (h : Hdr) (d : BitVec 6) (ref : PhRef) (s2 : BitVec 6) (s3 : BitVec 6) : Statement (.phsw h d ref s2 s3) := fun _ => length_of_parts (encPh_isSome ..)
theorem phexp (h : Hdr) (d : BitVec 6) (ref : PhRef) (s2 : BitVec 6) : Statement (.phexp h d ref s2) := fun _ => length_of_parts (encPh_isSome ..)
theorem phrd (h : Hdr) (d : BitVec 6) (ref : PhRef) (w : BitVec 2) : Statement (.phrd h d ref w) := fun _ => length_of_parts (encPh_isSome ..)
theorem vadd (h : Hdr) (m : VMod) (vd : BitVec 6) (vs1 : BitVec 6) (vs2 : BitVec 6) : Statement (.vadd h m vd vs1 vs2) := fun _ => length_of_parts rfl
theorem vsub (h : Hdr) (m : VMod) (vd : BitVec 6) (vs1 : BitVec 6) (vs2 : BitVec 6) : Statement (.vsub h m vd vs1 vs2) := fun _ => length_of_parts rfl
theorem vmul (h : Hdr) (m : VMod) (vd : BitVec 6) (vs1 : BitVec 6) (vs2 : BitVec 6) : Statement (.vmul h m vd vs1 vs2) := fun _ => length_of_parts rfl
theorem vfma (h : Hdr) (m : VMod) (vd : BitVec 6) (vs1 : BitVec 6) (vs2 : BitVec 6) (vs3 : BitVec 6) : Statement (.vfma h m vd vs1 vs2 vs3) := fun _ => length_of_parts rfl
theorem vfms (h : Hdr) (m : VMod) (vd : BitVec 6) (vs1 : BitVec 6) (vs2 : BitVec 6) (vs3 : BitVec 6) : Statement (.vfms h m vd vs1 vs2 vs3) := fun _ => length_of_parts rfl
theorem vmin (h : Hdr) (m : VMod) (vd : BitVec 6) (vs1 : BitVec 6) (vs2 : BitVec 6) : Statement (.vmin h m vd vs1 vs2) := fun _ => length_of_parts rfl
theorem vmax (h : Hdr) (m : VMod) (vd : BitVec 6) (vs1 : BitVec 6) (vs2 : BitVec 6) : Statement (.vmax h m vd vs1 vs2) := fun _ => length_of_parts rfl
theorem vabs (h : Hdr) (m : VMod) (vd : BitVec 6) (vs1 : BitVec 6) : Statement (.vabs h m vd vs1) := fun _ => length_of_parts rfl
theorem vneg (h : Hdr) (m : VMod) (vd : BitVec 6) (vs1 : BitVec 6) : Statement (.vneg h m vd vs1) := fun _ => length_of_parts rfl
theorem vcmp (h : Hdr) (c : Cond) (m : VMod) (vd : BitVec 6) (vs1 : BitVec 6) (vs2 : BitVec 6) : Statement (.vcmp h c m vd vs1 vs2) := fun _ => length_of_parts rfl
theorem vsel (h : Hdr) (vd : BitVec 6) (vs1 : BitVec 6) (vs2 : BitVec 6) (vs3 : BitVec 6) : Statement (.vsel h vd vs1 vs2 vs3) := fun _ => length_of_parts rfl
theorem vand (h : Hdr) (vd : BitVec 6) (vs1 : BitVec 6) (vs2 : BitVec 6) : Statement (.vand h vd vs1 vs2) := fun _ => length_of_parts rfl
theorem vor (h : Hdr) (vd : BitVec 6) (vs1 : BitVec 6) (vs2 : BitVec 6) : Statement (.vor h vd vs1 vs2) := fun _ => length_of_parts rfl
theorem vxor (h : Hdr) (vd : BitVec 6) (vs1 : BitVec 6) (vs2 : BitVec 6) : Statement (.vxor h vd vs1 vs2) := fun _ => length_of_parts rfl
theorem vnot (h : Hdr) (vd : BitVec 6) (vs1 : BitVec 6) : Statement (.vnot h vd vs1) := fun _ => length_of_parts rfl
theorem vshl (h : Hdr) (fmt : Fmt) (vd : BitVec 6) (vs1 : BitVec 6) (vs2 : BitVec 6) : Statement (.vshl h fmt vd vs1 vs2) := fun _ => length_of_parts rfl
theorem vshr (h : Hdr) (fmt : Fmt) (vd : BitVec 6) (vs1 : BitVec 6) (vs2 : BitVec 6) : Statement (.vshr h fmt vd vs1 vs2) := fun _ => length_of_parts rfl
theorem vsra (h : Hdr) (fmt : Fmt) (vd : BitVec 6) (vs1 : BitVec 6) (vs2 : BitVec 6) : Statement (.vsra h fmt vd vs1 vs2) := fun _ => length_of_parts rfl
theorem vcvt (h : Hdr) (m : VMod) (sfmt : Fmt) (vd : BitVec 6) (vs1 : BitVec 6) : Statement (.vcvt h m sfmt vd vs1) := fun _ => length_of_parts rfl
theorem vnarrow (h : Hdr) (m : VMod) (sfmt : Fmt) (vd : BitVec 6) (vs1 : BitVec 6) (scale : Option (BitVec 6)) : Statement (.vnarrow h m sfmt vd vs1 scale) := fun _ => length_of_parts (by cases scale <;> rfl)
theorem vexp2 (h : Hdr) (m : VMod) (vd : BitVec 6) (vs1 : BitVec 6) : Statement (.vexp2 h m vd vs1) := fun _ => length_of_parts rfl
theorem vrcp (h : Hdr) (m : VMod) (vd : BitVec 6) (vs1 : BitVec 6) : Statement (.vrcp h m vd vs1) := fun _ => length_of_parts rfl
theorem vredsum (h : Hdr) (m : VMod) (vd : BitVec 6) (vs1 : BitVec 6) : Statement (.vredsum h m vd vs1) := fun _ => length_of_parts rfl
theorem vredmax (h : Hdr) (m : VMod) (vd : BitVec 6) (vs1 : BitVec 6) : Statement (.vredmax h m vd vs1) := fun _ => length_of_parts rfl
theorem vperm (h : Hdr) (vd : BitVec 6) (vs1 : BitVec 6) (vs2 : BitVec 6) : Statement (.vperm h vd vs1 vs2) := fun _ => length_of_parts rfl
theorem vbcast (h : Hdr) (vd : BitVec 6) (xs1 : BitVec 6) : Statement (.vbcast h vd xs1) := fun _ => length_of_parts rfl
theorem vext (h : Hdr) (fmt : Fmt) (xd : BitVec 6) (vs1 : BitVec 6) (k : BitVec 6) : Statement (.vext h fmt xd vs1 k) := fun _ => length_of_parts rfl
theorem vins (h : Hdr) (vd : BitVec 6) (xs1 : BitVec 6) (k : BitVec 6) : Statement (.vins h vd xs1 k) := fun _ => length_of_parts rfl
theorem vlane (h : Hdr) (vd : BitVec 6) : Statement (.vlane h vd) := fun _ => length_of_parts rfl
theorem setvl (h : Hdr) (xs1 : BitVec 6) : Statement (.setvl h xs1) := fun _ => length_of_parts rfl
theorem vmov (h : Hdr) (vd : BitVec 6) (vs1 : BitVec 6) : Statement (.vmov h vd vs1) := fun _ => length_of_parts rfl
theorem scacc (h : Hdr) (acc : Option (BitVec 3)) (ver : BitVec 6) (vec : BitVec 6) (rnd : Rnd) (sat : Bool) : Statement (.scacc h acc ver vec rnd sat) := fun _ => length_of_parts (by cases acc <;> rfl)
theorem vdefer (h : Hdr) (vm : BitVec 6) (vs1 : BitVec 6) (nm1 : BitVec 2) (id : BitVec 8) : Statement (.vdefer h vm vs1 nm1 id) := fun _ => length_of_parts rfl
theorem vdrain (h : Hdr) (vd : BitVec 6) (vmap : BitVec 6) (nm1 : BitVec 2) (id : BitVec 8) : Statement (.vdrain h vd vmap nm1 id) := fun _ => length_of_parts rfl
theorem mnest (h : Hdr) (s1 : BitVec 6) : Statement (.mnest h s1) := fun _ => length_of_parts rfl
theorem mgoBf16 (h : Hdr) : Statement (.mgoBf16 h) := fun _ => length_of_parts rfl
theorem mgoF8e4 (h : Hdr) : Statement (.mgoF8e4 h) := fun _ => length_of_parts rfl
theorem mgoF8e5 (h : Hdr) : Statement (.mgoF8e5 h) := fun _ => length_of_parts rfl
theorem mgoI8 (h : Hdr) : Statement (.mgoI8 h) := fun _ => length_of_parts rfl
theorem mgoI4x (h : Hdr) : Statement (.mgoI4x h) := fun _ => length_of_parts rfl
theorem mblkBf16 (h : Hdr) (o : MblkOp) : Statement (.mblkBf16 h o) := fun _ => length_of_parts rfl
theorem mblkF8e4 (h : Hdr) (o : MblkOp) : Statement (.mblkF8e4 h o) := fun _ => length_of_parts rfl
theorem mblkF8e5 (h : Hdr) (o : MblkOp) : Statement (.mblkF8e5 h o) := fun _ => length_of_parts rfl
theorem mblkI8 (h : Hdr) (o : MblkOp) : Statement (.mblkI8 h o) := fun _ => length_of_parts rfl
theorem mblkI4x (h : Hdr) (o : MblkOp) : Statement (.mblkI4x h o) := fun _ => length_of_parts rfl
theorem mzero (h : Hdr) (acc : BitVec 3) : Statement (.mzero h acc) := fun _ => length_of_parts rfl
theorem mdrain (h : Hdr) (fmt : Fmt) (rnd : Rnd) (sat : Bool) (acc : BitVec 3) (s1 : BitVec 6) (s2 : BitVec 6) (r0 : BitVec 6) (nm1 : BitVec 6) : Statement (.mdrain h fmt rnd sat acc s1 s2 r0 nm1) := fun _ => length_of_parts rfl
theorem mstat (h : Hdr) (d : BitVec 6) : Statement (.mstat h d) := fun _ => length_of_parts rfl
theorem touch (h : Hdr) (seed : BitVec 16) (const : BitVec 32) : Statement (.touch h seed const) := fun _ => length_of_parts rfl
theorem blockCommit : Statement (.blockCommit ) := fun h => nomatch h
theorem transferCharge (site : Nat) : Statement (.transferCharge site) := fun h => nomatch h
theorem asyncResultArrival (a : Answer) : Statement (.asyncResultArrival a) := fun h => nomatch h
theorem contextResume (c : Src) : Statement (.contextResume c) := fun h => nomatch h
theorem custodianShareTurn (site : Nat) : Statement (.custodianShareTurn site) := fun h => nomatch h
theorem asyncTrapTaken : Statement (.asyncTrapTaken ) := fun h => nomatch h
theorem pageWalkComplete (site : Nat) (pasid : BitVec 20) (va : Word) : Statement (.pageWalkComplete site pasid va) := fun h => nomatch h
theorem remoteAccessArrival (r : Req) : Statement (.remoteAccessArrival r) := fun h => nomatch h
theorem monitorWakeup (c : Src) : Statement (.monitorWakeup c) := fun h => nomatch h
theorem ldblkFillComplete (site : Nat) (slot : Nat) : Statement (.ldblkFillComplete site slot) := fun h => nomatch h
theorem copyBytesLand (site : Nat) (job : Nat) : Statement (.copyBytesLand site job) := fun h => nomatch h
theorem copyFault (site : Nat) (job : Nat) (detail : BitVec 8) (addr : Word) : Statement (.copyFault site job detail addr) := fun h => nomatch h
theorem chainCompare (c : Src) : Statement (.chainCompare c) := fun h => nomatch h
theorem streamChunkFetch (k : BitVec 3) : Statement (.streamChunkFetch k) := fun h => nomatch h
theorem streamChunkDrain (c : Src) : Statement (.streamChunkDrain c) := fun h => nomatch h
theorem blockProductIssue : Statement (.blockProductIssue ) := fun h => nomatch h
theorem partialSumDelivery : Statement (.partialSumDelivery ) := fun h => nomatch h
theorem touchstoneCompare : Statement (.touchstoneCompare ) := fun h => nomatch h
theorem phaserRegistration (m : PhMsg) (mode : BitVec 2) (sc : Scope) : Statement (.phaserRegistration m mode sc) := fun h => nomatch h
theorem phaserDrop (m : PhMsg) (mode : BitVec 2) : Statement (.phaserDrop m mode) := fun h => nomatch h
theorem phaserSignal (m : PhMsg) : Statement (.phaserSignal m) := fun h => nomatch h
theorem phaserByteAddition (m : PhMsg) (bytes : Nat) (job : Nat) : Statement (.phaserByteAddition m bytes job) := fun h => nomatch h
theorem phaserErrorArrival (m : PhMsg) (bytes : Nat) : Statement (.phaserErrorArrival m bytes) := fun h => nomatch h
theorem phaserWaitArrival (m : PhMsg) (p : BitVec 32) (id : Nat) : Statement (.phaserWaitArrival m p id) := fun h => nomatch h
theorem phswLimitExpiry (c : Src) : Statement (.phswLimitExpiry c) := fun h => nomatch h
theorem claspRequestServe (q : ClReq) : Statement (.claspRequestServe q) := fun h => nomatch h
theorem claspReleaseServe (q : ClReq) : Statement (.claspReleaseServe q) := fun h => nomatch h
theorem woundDelivery (part : BitVec 4) (rank : Nat) (name : Word) : Statement (.woundDelivery part rank name) := fun h => nomatch h
theorem graceMessage (part : BitVec 4) (rank : Nat) (name : Word) : Statement (.graceMessage part rank name) := fun h => nomatch h
theorem reductionPacketArrival (site : Nat) (t : Nat) (port : Nat) (p : Packet) : Statement (.reductionPacketArrival site t port p) := fun h => nomatch h
theorem reductionRoundTimeout (site : Nat) (t : Nat) : Statement (.reductionRoundTimeout site t) := fun h => nomatch h
theorem reductionRootBufferEntry (site : Nat) (t : Nat) : Statement (.reductionRootBufferEntry site t) := fun h => nomatch h
theorem treeEntryWrite (site : Nat) (t : Nat) (w : Word) : Statement (.treeEntryWrite site t w) := fun h => nomatch h
theorem taskPop (c : Src) : Statement (.taskPop c) := fun h => nomatch h
theorem taskPush (c : Src) (r : RecWords) : Statement (.taskPush c r) := fun h => nomatch h
theorem joinDecrement (c : Src) (r : Req) : Statement (.joinDecrement c r) := fun h => nomatch h
theorem cancelCounter (part : BitVec 4) (level : Nat) (idx : Nat) : Statement (.cancelCounter part level idx) := fun h => nomatch h
theorem ccrdServe (c : Src) (id : Nat) (part : BitVec 4) (level : Nat) (idx : Nat) : Statement (.ccrdServe c id part level idx) := fun h => nomatch h
theorem preemption (c : Src) : Statement (.preemption c) := fun h => nomatch h
theorem gangPlacement (part : BitVec 4) (base : Nat) : Statement (.gangPlacement part base) := fun h => nomatch h
theorem tailRegisterWrite (part : Nat) (q : Nat) (v : Word) : Statement (.tailRegisterWrite part q v) := fun h => nomatch h
theorem launch (part : Nat) (q : Nat) (w : RecWords) : Statement (.launch part q w) := fun h => nomatch h
theorem graph (part : Nat) (q : Nat) (w : RecWords) : Statement (.graph part q w) := fun h => nomatch h
theorem release (part : Nat) (q : Nat) (w : RecWords) : Statement (.release part q w) := fun h => nomatch h
theorem wait (part : Nat) (q : Nat) (w : RecWords) : Statement (.wait part q w) := fun h => nomatch h
theorem waitConditionMet (part : Nat) (q : Nat) : Statement (.waitConditionMet part q) := fun h => nomatch h
theorem indirect (part : Nat) (q : Nat) (w : RecWords) : Statement (.indirect part q w) := fun h => nomatch h
theorem ckpt (part : Nat) (q : Nat) (w : RecWords) : Statement (.ckpt part q w) := fun h => nomatch h
theorem abortTokenReceive (part : BitVec 4) (dev : Nat) (step : Word) : Statement (.abortTokenReceive part dev step) := fun h => nomatch h
theorem marginReplay (site : Nat) (slot : BitVec 3) (stage : BitVec 3) (owner : BundleRef) : Statement (.marginReplay site slot stage owner) := fun h => nomatch h
theorem injectedDetection (site : Nat) : Statement (.injectedDetection site) := fun h => nomatch h
theorem replayWindowClose (site : Nat) : Statement (.replayWindowClose site) := fun h => nomatch h
theorem quarantineSite (site : Nat) : Statement (.quarantineSite site) := fun h => nomatch h
theorem signedTestKernelResult (site : Nat) (pass : Bool) : Statement (.signedTestKernelResult site pass) := fun h => nomatch h
theorem meshMapMove (site : Nat) : Statement (.meshMapMove site) := fun h => nomatch h
theorem ageingSample (cluster : Nat) (measured : Nat) : Statement (.ageingSample cluster measured) := fun h => nomatch h
theorem patrolScrub (line : Nat) (e : Ecc) : Statement (.patrolScrub line e) := fun h => nomatch h
theorem tlbInvalidation (pasid : BitVec 20) (va : Nat) (len : Nat) : Statement (.tlbInvalidation pasid va len) := fun h => nomatch h
theorem pasidTeardown (pasid : BitVec 20) : Statement (.pasidTeardown pasid) := fun h => nomatch h
theorem partitionDescriptorWrite (part : Nat) (addr : Nat) : Statement (.partitionDescriptorWrite part addr) := fun h => nomatch h
theorem partitionReset (part : Nat) : Statement (.partitionReset part) := fun h => nomatch h
theorem packageReset : Statement (.packageReset ) := fun h => nomatch h
theorem linkKeyingMessage (link : Nat) (k : KeyStep) : Statement (.linkKeyingMessage link k) := fun h => nomatch h
theorem linkRekey (link : Nat) : Statement (.linkRekey link) := fun h => nomatch h
theorem linkFailure (link : Nat) : Statement (.linkFailure link) := fun h => nomatch h
theorem linkReset (link : Nat) : Statement (.linkReset link) := fun h => nomatch h
theorem debugStopRequest (c : Src) : Statement (.debugStopRequest c) := fun h => nomatch h
theorem debugResume (c : Src) : Statement (.debugResume c) := fun h => nomatch h
theorem debugStep (c : Src) (k : BitVec 16) : Statement (.debugStep c k) := fun h => nomatch h
theorem debugStepEnd (c : Src) : Statement (.debugStepEnd c) := fun h => nomatch h
theorem debugRegisterWrite (c : Src) (r : DebugReg) (w : List Word) (tag : Option Tag) (poison : Option Bool) : Statement (.debugRegisterWrite c r w tag poison) := fun h => nomatch h
theorem snapshotEntryEdit (c : Src) (n : Nat) (e : SnapEdit) : Statement (.snapshotEntryEdit c n e) := fun h => nomatch h
theorem configWindowWrite (r : WindowReg) (v : Word) : Statement (.configWindowWrite r v) := fun h => nomatch h
theorem writeAcknowledgement (c : Src) : Statement (.writeAcknowledgement c) := fun h => nomatch h
theorem swallowedPulse (cluster : Nat) : Statement (.swallowedPulse cluster) := fun h => nomatch h
theorem linkTrainingComplete (link : Nat) : Statement (.linkTrainingComplete link) := fun h => nomatch h
theorem tdispAssignment (part : Nat) (on : Bool) : Statement (.tdispAssignment part on) := fun h => nomatch h
theorem frameOwnershipChange (frame : Nat) (owner : BitVec 8) : Statement (.frameOwnershipChange frame owner) := fun h => nomatch h

end Sys2Proof.Laws.Encoded
end

