-- ==== Sys2Proof/Laws/Queues.lean ====
section
/-! SUPPORT. What counting a packet on a link can change: the links' counters, keys asked for, and nothing that decides where an access goes. -/

namespace Sys2Proof.Machine

theorem carry_st (l : Link) : l.carry.st = l.st := by
  unfold Link.carry; split <;> rfl

theorem receive_st (l : Link) : l.receive.st = l.st := rfl

/-- A change of a link that keeps its state keeps which homes are reached. -/
theorem modPeerLink_reaches (s : State) (d : Nat) {f : Link → Link} (hf : ∀ l, (f l).st = l.st) (p : BitVec 4) (h : Home) :
    (s.modPeerLink d f).reaches p h = s.reaches p h := by
  have key (e : Nat) : ((s.modPeerLink d f).peerLink e).st = (s.peerLink e).st := by
    unfold State.peerLink State.modPeerLink
    by_cases hd : Config.linkOf e % 12 = Config.linkOf d % 12
    · simp [hd, State.peerLink]
      rw [if_pos (Nat.mod_lt _ (by decide))]
      exact hf _
    · have hd' : Config.linkOf d % 12 ≠ Config.linkOf e % 12 := fun x => hd x.symm
      simp [Array.getD_eq_getD_getElem?, hd']
  cases h <;> simp [State.reaches, key] <;> rfl

/-- An access sent and answered changes the links alone. -/
theorem asked_eq (s : State) (h : Home) : s.asked h = { s with links := (s.asked h).links } := by
  cases h <;> rfl

theorem asked_reaches (s : State) (x : Home) (p : BitVec 4) (h : Home) : (s.asked x).reaches p h = s.reaches p h := by
  cases x <;> first
    | rfl
    | (simp only [State.asked, State.carried, State.received]
       rw [modPeerLink_reaches _ _ receive_st, modPeerLink_reaches _ _ carry_st])

theorem queueAsked_spec (s : State) (p : BitVec 4) (q : Nat) (e : Word × Need) :
    s.queueAsked p q e = { s with links := (s.queueAsked p q e).links } ∧ ∀ r h, (s.queueAsked p q e).reaches r h = s.reaches r h := by
  unfold State.queueAsked
  split
  · exact ⟨asked_eq _ _, fun r h => asked_reaches _ _ r h⟩
  · exact ⟨rfl, fun _ _ => rfl⟩

/-- What a queue accesses as it executes a packet changes the links alone, and none of the homes that are reached. -/
theorem fetched_spec (s : State) (p : BitVec 4) (q : Nat) (w : RecWords) :
    s.fetched p q w = { s with links := (s.fetched p q w).links } ∧ ∀ r h, (s.fetched p q w).reaches r h = s.reaches r h := by
  unfold State.fetched
  generalize (s.queue p q).places w = es
  suffices ∀ (es : List (Word × Need)) (t : State), t = { s with links := t.links } → (∀ r h, t.reaches r h = s.reaches r h) →
      es.foldl (fun s e => s.queueAsked p q e) t = { s with links := (es.foldl (fun s e => s.queueAsked p q e) t).links }
        ∧ ∀ r h, (es.foldl (fun s e => s.queueAsked p q e) t).reaches r h = s.reaches r h from this es s rfl fun _ _ => rfl
  intro es
  induction es with
  | nil => exact fun t ht hr => ⟨ht, hr⟩
  | cons e es ih =>
    intro t ht hr
    obtain ⟨a, b⟩ := queueAsked_spec t p q e
    exact ih _ (a.trans (congrArg (fun u : State => { u with links := (t.queueAsked p q e).links }) ht)) fun r h => (b r h).trans (hr r h)

end Sys2Proof.Machine
end

