-- ==== Sys2Proof/Laws/Scalar.lean ====
section
/-! SUPPORT. The shapes of the scalar forms as they issue with effect. -/

namespace Sys2Proof.Machine

/-- A form of two x sources writes its result. -/
theorem issueXXX_writes {s : State} {h : Hdr} {d s1 s2 : BitVec 6} (hi : s.mayIssue h [.x s1, .x s2, .x d]) (major : BitVec 8)
    (lat : Nat) (f : Word → Word → Word × Flags) :
    s.issueXXX h major lat d s1 s2 f = s.writes h major lat (.x d) [.x s1, .x s2] (.word (f (s.xval s1) (s.xval s2)).1)
      (f (s.xval s1) (s.xval s2)).2 :=
  issue_one hi _ _ _

/-- A form of one x source writes its result one cycle later. -/
theorem issueXX_writes {s : State} {h : Hdr} {d s1 : BitVec 6} (hi : s.mayIssue h [.x s1, .x d]) (major : BitVec 8) (f : Word → Word) :
    s.issueXX h major d s1 f = s.writes h major 1 (.x d) [.x s1] (.word (f (s.xval s1))) 0 :=
  issue_one hi _ _ _

/-- A predicate form writes its result one cycle later. -/
theorem issuePPP_writes {s : State} {h : Hdr} {pd p1 p2 : BitVec 4} (hi : s.mayIssue h [.p p1, .p p2, .p pd]) (major : BitVec 8)
    (f : Bool → Bool → Bool) :
    s.issuePPP h major pd p1 p2 f =
      s.writes h major 1 (.p pd) [.p p1, .p p2] (.bit (f (s.ctx.work.getP p1).val (s.ctx.work.getP p2).val)) 0 :=
  issue_one hi _ _ _

end Sys2Proof.Machine
end

