-- ==== Sys2Proof/Laws/State.lean ====
section
/-! SUPPORT. The small laws of State: what each named update leaves of each other field, and reads after writes of contexts, tiles and
partitions. -/

namespace Sys2Proof.Machine

@[simp] theorem State.send_who (s : State) (w : Work) : (s.send w).who = s.who := rfl
@[simp] theorem State.send_ctx (s : State) (w : Work) : (s.send w).ctx = s.ctx := rfl
@[simp] theorem State.send_tile (s : State) (w : Work) : (s.send w).tile = s.tile := rfl
@[simp] theorem State.send_parkedCtx (s : State) (w : Work) : (s.send w).parkedCtx = s.parkedCtx := rfl
@[simp] theorem State.send_parkedTile (s : State) (w : Work) : (s.send w).parkedTile = s.parkedTile := rfl
@[simp] theorem State.send_mem (s : State) (w : Work) : (s.send w).mem = s.mem := rfl
@[simp] theorem State.send_gtags (s : State) (w : Work) : (s.send w).gtags = s.gtags := rfl
@[simp] theorem State.send_pois (s : State) (w : Work) : (s.send w).pois = s.pois := rfl
@[simp] theorem State.send_lineKeys (s : State) (w : Work) : (s.send w).lineKeys = s.lineKeys := rfl
@[simp] theorem State.send_keys (s : State) (w : Work) : (s.send w).keys = s.keys := rfl
@[simp] theorem State.send_nextKey (s : State) (w : Work) : (s.send w).nextKey = s.nextKey := rfl
@[simp] theorem State.send_mesh (s : State) (w : Work) : (s.send w).mesh = s.mesh := rfl
@[simp] theorem State.send_parts (s : State) (w : Work) : (s.send w).parts = s.parts := rfl
@[simp] theorem State.send_launches (s : State) (w : Work) : (s.send w).launches = s.launches := rfl
@[simp] theorem State.send_nextOrd (s : State) (w : Work) : (s.send w).nextOrd = s.nextOrd := rfl
@[simp] theorem State.send_images (s : State) (w : Work) : (s.send w).images = s.images := rfl
@[simp] theorem State.send_locks (s : State) (w : Work) : (s.send w).locks = s.locks := rfl
@[simp] theorem State.send_waiters (s : State) (w : Work) : (s.send w).waiters = s.waiters := rfl
@[simp] theorem State.send_wounds (s : State) (w : Work) : (s.send w).wounds = s.wounds := rfl
@[simp] theorem State.send_phasers (s : State) (w : Work) : (s.send w).phasers = s.phasers := rfl
@[simp] theorem State.send_trees (s : State) (w : Work) : (s.send w).trees = s.trees := rfl
@[simp] theorem State.send_tlb (s : State) (w : Work) : (s.send w).tlb = s.tlb := rfl
@[simp] theorem State.send_iommu (s : State) (w : Work) : (s.send w).iommu = s.iommu := rfl
@[simp] theorem State.send_pasidBase (s : State) (w : Work) : (s.send w).pasidBase = s.pasidBase := rfl
@[simp] theorem State.send_frames (s : State) (w : Work) : (s.send w).frames = s.frames := rfl
@[simp] theorem State.send_distTables (s : State) (w : Work) : (s.send w).distTables = s.distTables := rfl
@[simp] theorem State.send_links (s : State) (w : Work) : (s.send w).links = s.links := rfl
@[simp] theorem State.send_clusters (s : State) (w : Work) : (s.send w).clusters = s.clusters := rfl
@[simp] theorem State.send_pulses (s : State) (w : Work) : (s.send w).pulses = s.pulses := rfl
@[simp] theorem State.send_cycles (s : State) (w : Work) : (s.send w).cycles = s.cycles := rfl
@[simp] theorem State.send_booted (s : State) (w : Work) : (s.send w).booted = s.booted := rfl
@[simp] theorem State.send_measures (s : State) (w : Work) : (s.send w).measures = s.measures := rfl
@[simp] theorem State.send_firmwareEnded (s : State) (w : Work) : (s.send w).firmwareEnded = s.firmwareEnded := rfl
@[simp] theorem State.send_ide (s : State) (w : Work) : (s.send w).ide = s.ide := rfl
@[simp] theorem State.send_descAddr (s : State) (w : Work) : (s.send w).descAddr = s.descAddr := rfl
@[simp] theorem State.send_tearing (s : State) (w : Work) : (s.send w).tearing = s.tearing := rfl
@[simp] theorem State.send_stackErr (s : State) (w : Work) : (s.send w).stackErr = s.stackErr := rfl
@[simp] theorem State.send_windowLog (s : State) (w : Work) : (s.send w).windowLog = s.windowLog := rfl
@[simp] theorem State.send_turns (s : State) (w : Work) : (s.send w).turns = s.turns := rfl
@[simp] theorem State.send_iss (s : State) (w : Work) : (s.send w).iss = s.iss := rfl
@[simp] theorem State.send_nextId (s : State) (w : Work) : (s.send w).nextId = s.nextId := rfl
@[simp] theorem State.send_fresh (s : State) (w : Work) : (s.send w).fresh = s.fresh := rfl

@[simp] theorem State.sendAll_who (s : State) (ws : List Work) : (s.sendAll ws).who = s.who := rfl
@[simp] theorem State.sendAll_ctx (s : State) (ws : List Work) : (s.sendAll ws).ctx = s.ctx := rfl
@[simp] theorem State.sendAll_tile (s : State) (ws : List Work) : (s.sendAll ws).tile = s.tile := rfl
@[simp] theorem State.sendAll_parkedCtx (s : State) (ws : List Work) : (s.sendAll ws).parkedCtx = s.parkedCtx := rfl
@[simp] theorem State.sendAll_parkedTile (s : State) (ws : List Work) : (s.sendAll ws).parkedTile = s.parkedTile := rfl
@[simp] theorem State.sendAll_mem (s : State) (ws : List Work) : (s.sendAll ws).mem = s.mem := rfl
@[simp] theorem State.sendAll_gtags (s : State) (ws : List Work) : (s.sendAll ws).gtags = s.gtags := rfl
@[simp] theorem State.sendAll_pois (s : State) (ws : List Work) : (s.sendAll ws).pois = s.pois := rfl
@[simp] theorem State.sendAll_lineKeys (s : State) (ws : List Work) : (s.sendAll ws).lineKeys = s.lineKeys := rfl
@[simp] theorem State.sendAll_keys (s : State) (ws : List Work) : (s.sendAll ws).keys = s.keys := rfl
@[simp] theorem State.sendAll_nextKey (s : State) (ws : List Work) : (s.sendAll ws).nextKey = s.nextKey := rfl
@[simp] theorem State.sendAll_mesh (s : State) (ws : List Work) : (s.sendAll ws).mesh = s.mesh := rfl
@[simp] theorem State.sendAll_parts (s : State) (ws : List Work) : (s.sendAll ws).parts = s.parts := rfl
@[simp] theorem State.sendAll_launches (s : State) (ws : List Work) : (s.sendAll ws).launches = s.launches := rfl
@[simp] theorem State.sendAll_nextOrd (s : State) (ws : List Work) : (s.sendAll ws).nextOrd = s.nextOrd := rfl
@[simp] theorem State.sendAll_images (s : State) (ws : List Work) : (s.sendAll ws).images = s.images := rfl
@[simp] theorem State.sendAll_locks (s : State) (ws : List Work) : (s.sendAll ws).locks = s.locks := rfl
@[simp] theorem State.sendAll_waiters (s : State) (ws : List Work) : (s.sendAll ws).waiters = s.waiters := rfl
@[simp] theorem State.sendAll_wounds (s : State) (ws : List Work) : (s.sendAll ws).wounds = s.wounds := rfl
@[simp] theorem State.sendAll_phasers (s : State) (ws : List Work) : (s.sendAll ws).phasers = s.phasers := rfl
@[simp] theorem State.sendAll_trees (s : State) (ws : List Work) : (s.sendAll ws).trees = s.trees := rfl
@[simp] theorem State.sendAll_tlb (s : State) (ws : List Work) : (s.sendAll ws).tlb = s.tlb := rfl
@[simp] theorem State.sendAll_iommu (s : State) (ws : List Work) : (s.sendAll ws).iommu = s.iommu := rfl
@[simp] theorem State.sendAll_pasidBase (s : State) (ws : List Work) : (s.sendAll ws).pasidBase = s.pasidBase := rfl
@[simp] theorem State.sendAll_frames (s : State) (ws : List Work) : (s.sendAll ws).frames = s.frames := rfl
@[simp] theorem State.sendAll_distTables (s : State) (ws : List Work) : (s.sendAll ws).distTables = s.distTables := rfl
@[simp] theorem State.sendAll_links (s : State) (ws : List Work) : (s.sendAll ws).links = s.links := rfl
@[simp] theorem State.sendAll_clusters (s : State) (ws : List Work) : (s.sendAll ws).clusters = s.clusters := rfl
@[simp] theorem State.sendAll_pulses (s : State) (ws : List Work) : (s.sendAll ws).pulses = s.pulses := rfl
@[simp] theorem State.sendAll_cycles (s : State) (ws : List Work) : (s.sendAll ws).cycles = s.cycles := rfl
@[simp] theorem State.sendAll_booted (s : State) (ws : List Work) : (s.sendAll ws).booted = s.booted := rfl
@[simp] theorem State.sendAll_measures (s : State) (ws : List Work) : (s.sendAll ws).measures = s.measures := rfl
@[simp] theorem State.sendAll_firmwareEnded (s : State) (ws : List Work) : (s.sendAll ws).firmwareEnded = s.firmwareEnded := rfl
@[simp] theorem State.sendAll_ide (s : State) (ws : List Work) : (s.sendAll ws).ide = s.ide := rfl
@[simp] theorem State.sendAll_descAddr (s : State) (ws : List Work) : (s.sendAll ws).descAddr = s.descAddr := rfl
@[simp] theorem State.sendAll_tearing (s : State) (ws : List Work) : (s.sendAll ws).tearing = s.tearing := rfl
@[simp] theorem State.sendAll_stackErr (s : State) (ws : List Work) : (s.sendAll ws).stackErr = s.stackErr := rfl
@[simp] theorem State.sendAll_windowLog (s : State) (ws : List Work) : (s.sendAll ws).windowLog = s.windowLog := rfl
@[simp] theorem State.sendAll_turns (s : State) (ws : List Work) : (s.sendAll ws).turns = s.turns := rfl
@[simp] theorem State.sendAll_iss (s : State) (ws : List Work) : (s.sendAll ws).iss = s.iss := rfl
@[simp] theorem State.sendAll_nextId (s : State) (ws : List Work) : (s.sendAll ws).nextId = s.nextId := rfl
@[simp] theorem State.sendAll_fresh (s : State) (ws : List Work) : (s.sendAll ws).fresh = s.fresh := rfl

@[simp] theorem State.setPart_who (s : State) (p : BitVec 4) (x : Partition) : (s.setPart p x).who = s.who := rfl
@[simp] theorem State.setPart_ctx (s : State) (p : BitVec 4) (x : Partition) : (s.setPart p x).ctx = s.ctx := rfl
@[simp] theorem State.setPart_tile (s : State) (p : BitVec 4) (x : Partition) : (s.setPart p x).tile = s.tile := rfl
@[simp] theorem State.setPart_parkedCtx (s : State) (p : BitVec 4) (x : Partition) : (s.setPart p x).parkedCtx = s.parkedCtx := rfl
@[simp] theorem State.setPart_parkedTile (s : State) (p : BitVec 4) (x : Partition) : (s.setPart p x).parkedTile = s.parkedTile := rfl
@[simp] theorem State.setPart_mem (s : State) (p : BitVec 4) (x : Partition) : (s.setPart p x).mem = s.mem := rfl
@[simp] theorem State.setPart_gtags (s : State) (p : BitVec 4) (x : Partition) : (s.setPart p x).gtags = s.gtags := rfl
@[simp] theorem State.setPart_pois (s : State) (p : BitVec 4) (x : Partition) : (s.setPart p x).pois = s.pois := rfl
@[simp] theorem State.setPart_lineKeys (s : State) (p : BitVec 4) (x : Partition) : (s.setPart p x).lineKeys = s.lineKeys := rfl
@[simp] theorem State.setPart_keys (s : State) (p : BitVec 4) (x : Partition) : (s.setPart p x).keys = s.keys := rfl
@[simp] theorem State.setPart_nextKey (s : State) (p : BitVec 4) (x : Partition) : (s.setPart p x).nextKey = s.nextKey := rfl
@[simp] theorem State.setPart_mesh (s : State) (p : BitVec 4) (x : Partition) : (s.setPart p x).mesh = s.mesh := rfl
@[simp] theorem State.setPart_launches (s : State) (p : BitVec 4) (x : Partition) : (s.setPart p x).launches = s.launches := rfl
@[simp] theorem State.setPart_nextOrd (s : State) (p : BitVec 4) (x : Partition) : (s.setPart p x).nextOrd = s.nextOrd := rfl
@[simp] theorem State.setPart_images (s : State) (p : BitVec 4) (x : Partition) : (s.setPart p x).images = s.images := rfl
@[simp] theorem State.setPart_locks (s : State) (p : BitVec 4) (x : Partition) : (s.setPart p x).locks = s.locks := rfl
@[simp] theorem State.setPart_waiters (s : State) (p : BitVec 4) (x : Partition) : (s.setPart p x).waiters = s.waiters := rfl
@[simp] theorem State.setPart_wounds (s : State) (p : BitVec 4) (x : Partition) : (s.setPart p x).wounds = s.wounds := rfl
@[simp] theorem State.setPart_phasers (s : State) (p : BitVec 4) (x : Partition) : (s.setPart p x).phasers = s.phasers := rfl
@[simp] theorem State.setPart_trees (s : State) (p : BitVec 4) (x : Partition) : (s.setPart p x).trees = s.trees := rfl
@[simp] theorem State.setPart_tlb (s : State) (p : BitVec 4) (x : Partition) : (s.setPart p x).tlb = s.tlb := rfl
@[simp] theorem State.setPart_iommu (s : State) (p : BitVec 4) (x : Partition) : (s.setPart p x).iommu = s.iommu := rfl
@[simp] theorem State.setPart_pasidBase (s : State) (p : BitVec 4) (x : Partition) : (s.setPart p x).pasidBase = s.pasidBase := rfl
@[simp] theorem State.setPart_frames (s : State) (p : BitVec 4) (x : Partition) : (s.setPart p x).frames = s.frames := rfl
@[simp] theorem State.setPart_distTables (s : State) (p : BitVec 4) (x : Partition) : (s.setPart p x).distTables = s.distTables := rfl
@[simp] theorem State.setPart_links (s : State) (p : BitVec 4) (x : Partition) : (s.setPart p x).links = s.links := rfl
@[simp] theorem State.setPart_clusters (s : State) (p : BitVec 4) (x : Partition) : (s.setPart p x).clusters = s.clusters := rfl
@[simp] theorem State.setPart_pulses (s : State) (p : BitVec 4) (x : Partition) : (s.setPart p x).pulses = s.pulses := rfl
@[simp] theorem State.setPart_cycles (s : State) (p : BitVec 4) (x : Partition) : (s.setPart p x).cycles = s.cycles := rfl
@[simp] theorem State.setPart_booted (s : State) (p : BitVec 4) (x : Partition) : (s.setPart p x).booted = s.booted := rfl
@[simp] theorem State.setPart_measures (s : State) (p : BitVec 4) (x : Partition) : (s.setPart p x).measures = s.measures := rfl
@[simp] theorem State.setPart_firmwareEnded (s : State) (p : BitVec 4) (x : Partition) : (s.setPart p x).firmwareEnded = s.firmwareEnded := rfl
@[simp] theorem State.setPart_ide (s : State) (p : BitVec 4) (x : Partition) : (s.setPart p x).ide = s.ide := rfl
@[simp] theorem State.setPart_descAddr (s : State) (p : BitVec 4) (x : Partition) : (s.setPart p x).descAddr = s.descAddr := rfl
@[simp] theorem State.setPart_tearing (s : State) (p : BitVec 4) (x : Partition) : (s.setPart p x).tearing = s.tearing := rfl
@[simp] theorem State.setPart_stackErr (s : State) (p : BitVec 4) (x : Partition) : (s.setPart p x).stackErr = s.stackErr := rfl
@[simp] theorem State.setPart_windowLog (s : State) (p : BitVec 4) (x : Partition) : (s.setPart p x).windowLog = s.windowLog := rfl
@[simp] theorem State.setPart_work (s : State) (p : BitVec 4) (x : Partition) : (s.setPart p x).work = s.work := rfl
@[simp] theorem State.setPart_turns (s : State) (p : BitVec 4) (x : Partition) : (s.setPart p x).turns = s.turns := rfl
@[simp] theorem State.setPart_iss (s : State) (p : BitVec 4) (x : Partition) : (s.setPart p x).iss = s.iss := rfl
@[simp] theorem State.setPart_nextId (s : State) (p : BitVec 4) (x : Partition) : (s.setPart p x).nextId = s.nextId := rfl
@[simp] theorem State.setPart_fresh (s : State) (p : BitVec 4) (x : Partition) : (s.setPart p x).fresh = s.fresh := rfl

@[simp] theorem State.schedule_who (s : State) (n : Nat) (d : Dest) (y : Payload) (g : Tag) (b : Bool) (f : Flags) : (s.schedule n d y g b f).who = s.who := rfl
@[simp] theorem State.schedule_tile (s : State) (n : Nat) (d : Dest) (y : Payload) (g : Tag) (b : Bool) (f : Flags) : (s.schedule n d y g b f).tile = s.tile := rfl
@[simp] theorem State.schedule_parkedCtx (s : State) (n : Nat) (d : Dest) (y : Payload) (g : Tag) (b : Bool) (f : Flags) : (s.schedule n d y g b f).parkedCtx = s.parkedCtx := rfl
@[simp] theorem State.schedule_parkedTile (s : State) (n : Nat) (d : Dest) (y : Payload) (g : Tag) (b : Bool) (f : Flags) : (s.schedule n d y g b f).parkedTile = s.parkedTile := rfl
@[simp] theorem State.schedule_mem (s : State) (n : Nat) (d : Dest) (y : Payload) (g : Tag) (b : Bool) (f : Flags) : (s.schedule n d y g b f).mem = s.mem := rfl
@[simp] theorem State.schedule_gtags (s : State) (n : Nat) (d : Dest) (y : Payload) (g : Tag) (b : Bool) (f : Flags) : (s.schedule n d y g b f).gtags = s.gtags := rfl
@[simp] theorem State.schedule_pois (s : State) (n : Nat) (d : Dest) (y : Payload) (g : Tag) (b : Bool) (f : Flags) : (s.schedule n d y g b f).pois = s.pois := rfl
@[simp] theorem State.schedule_lineKeys (s : State) (n : Nat) (d : Dest) (y : Payload) (g : Tag) (b : Bool) (f : Flags) : (s.schedule n d y g b f).lineKeys = s.lineKeys := rfl
@[simp] theorem State.schedule_keys (s : State) (n : Nat) (d : Dest) (y : Payload) (g : Tag) (b : Bool) (f : Flags) : (s.schedule n d y g b f).keys = s.keys := rfl
@[simp] theorem State.schedule_nextKey (s : State) (n : Nat) (d : Dest) (y : Payload) (g : Tag) (b : Bool) (f : Flags) : (s.schedule n d y g b f).nextKey = s.nextKey := rfl
@[simp] theorem State.schedule_mesh (s : State) (n : Nat) (d : Dest) (y : Payload) (g : Tag) (b : Bool) (f : Flags) : (s.schedule n d y g b f).mesh = s.mesh := rfl
@[simp] theorem State.schedule_parts (s : State) (n : Nat) (d : Dest) (y : Payload) (g : Tag) (b : Bool) (f : Flags) : (s.schedule n d y g b f).parts = s.parts := rfl
@[simp] theorem State.schedule_launches (s : State) (n : Nat) (d : Dest) (y : Payload) (g : Tag) (b : Bool) (f : Flags) : (s.schedule n d y g b f).launches = s.launches := rfl
@[simp] theorem State.schedule_nextOrd (s : State) (n : Nat) (d : Dest) (y : Payload) (g : Tag) (b : Bool) (f : Flags) : (s.schedule n d y g b f).nextOrd = s.nextOrd := rfl
@[simp] theorem State.schedule_images (s : State) (n : Nat) (d : Dest) (y : Payload) (g : Tag) (b : Bool) (f : Flags) : (s.schedule n d y g b f).images = s.images := rfl
@[simp] theorem State.schedule_locks (s : State) (n : Nat) (d : Dest) (y : Payload) (g : Tag) (b : Bool) (f : Flags) : (s.schedule n d y g b f).locks = s.locks := rfl
@[simp] theorem State.schedule_waiters (s : State) (n : Nat) (d : Dest) (y : Payload) (g : Tag) (b : Bool) (f : Flags) : (s.schedule n d y g b f).waiters = s.waiters := rfl
@[simp] theorem State.schedule_wounds (s : State) (n : Nat) (d : Dest) (y : Payload) (g : Tag) (b : Bool) (f : Flags) : (s.schedule n d y g b f).wounds = s.wounds := rfl
@[simp] theorem State.schedule_phasers (s : State) (n : Nat) (d : Dest) (y : Payload) (g : Tag) (b : Bool) (f : Flags) : (s.schedule n d y g b f).phasers = s.phasers := rfl
@[simp] theorem State.schedule_trees (s : State) (n : Nat) (d : Dest) (y : Payload) (g : Tag) (b : Bool) (f : Flags) : (s.schedule n d y g b f).trees = s.trees := rfl
@[simp] theorem State.schedule_tlb (s : State) (n : Nat) (d : Dest) (y : Payload) (g : Tag) (b : Bool) (f : Flags) : (s.schedule n d y g b f).tlb = s.tlb := rfl
@[simp] theorem State.schedule_iommu (s : State) (n : Nat) (d : Dest) (y : Payload) (g : Tag) (b : Bool) (f : Flags) : (s.schedule n d y g b f).iommu = s.iommu := rfl
@[simp] theorem State.schedule_pasidBase (s : State) (n : Nat) (d : Dest) (y : Payload) (g : Tag) (b : Bool) (f : Flags) : (s.schedule n d y g b f).pasidBase = s.pasidBase := rfl
@[simp] theorem State.schedule_frames (s : State) (n : Nat) (d : Dest) (y : Payload) (g : Tag) (b : Bool) (f : Flags) : (s.schedule n d y g b f).frames = s.frames := rfl
@[simp] theorem State.schedule_distTables (s : State) (n : Nat) (d : Dest) (y : Payload) (g : Tag) (b : Bool) (f : Flags) : (s.schedule n d y g b f).distTables = s.distTables := rfl
@[simp] theorem State.schedule_links (s : State) (n : Nat) (d : Dest) (y : Payload) (g : Tag) (b : Bool) (f : Flags) : (s.schedule n d y g b f).links = s.links := rfl
@[simp] theorem State.schedule_clusters (s : State) (n : Nat) (d : Dest) (y : Payload) (g : Tag) (b : Bool) (f : Flags) : (s.schedule n d y g b f).clusters = s.clusters := rfl
@[simp] theorem State.schedule_pulses (s : State) (n : Nat) (d : Dest) (y : Payload) (g : Tag) (b : Bool) (f : Flags) : (s.schedule n d y g b f).pulses = s.pulses := rfl
@[simp] theorem State.schedule_cycles (s : State) (n : Nat) (d : Dest) (y : Payload) (g : Tag) (b : Bool) (f : Flags) : (s.schedule n d y g b f).cycles = s.cycles := rfl
@[simp] theorem State.schedule_booted (s : State) (n : Nat) (d : Dest) (y : Payload) (g : Tag) (b : Bool) (f : Flags) : (s.schedule n d y g b f).booted = s.booted := rfl
@[simp] theorem State.schedule_measures (s : State) (n : Nat) (d : Dest) (y : Payload) (g : Tag) (b : Bool) (f : Flags) : (s.schedule n d y g b f).measures = s.measures := rfl
@[simp] theorem State.schedule_firmwareEnded (s : State) (n : Nat) (d : Dest) (y : Payload) (g : Tag) (b : Bool) (f : Flags) : (s.schedule n d y g b f).firmwareEnded = s.firmwareEnded := rfl
@[simp] theorem State.schedule_ide (s : State) (n : Nat) (d : Dest) (y : Payload) (g : Tag) (b : Bool) (f : Flags) : (s.schedule n d y g b f).ide = s.ide := rfl
@[simp] theorem State.schedule_descAddr (s : State) (n : Nat) (d : Dest) (y : Payload) (g : Tag) (b : Bool) (f : Flags) : (s.schedule n d y g b f).descAddr = s.descAddr := rfl
@[simp] theorem State.schedule_tearing (s : State) (n : Nat) (d : Dest) (y : Payload) (g : Tag) (b : Bool) (f : Flags) : (s.schedule n d y g b f).tearing = s.tearing := rfl
@[simp] theorem State.schedule_stackErr (s : State) (n : Nat) (d : Dest) (y : Payload) (g : Tag) (b : Bool) (f : Flags) : (s.schedule n d y g b f).stackErr = s.stackErr := rfl
@[simp] theorem State.schedule_windowLog (s : State) (n : Nat) (d : Dest) (y : Payload) (g : Tag) (b : Bool) (f : Flags) : (s.schedule n d y g b f).windowLog = s.windowLog := rfl
@[simp] theorem State.schedule_work (s : State) (n : Nat) (d : Dest) (y : Payload) (g : Tag) (b : Bool) (f : Flags) : (s.schedule n d y g b f).work = s.work := rfl
@[simp] theorem State.schedule_turns (s : State) (n : Nat) (d : Dest) (y : Payload) (g : Tag) (b : Bool) (f : Flags) : (s.schedule n d y g b f).turns = s.turns := rfl
@[simp] theorem State.schedule_iss (s : State) (n : Nat) (d : Dest) (y : Payload) (g : Tag) (b : Bool) (f : Flags) : (s.schedule n d y g b f).iss = s.iss := rfl
@[simp] theorem State.schedule_nextId (s : State) (n : Nat) (d : Dest) (y : Payload) (g : Tag) (b : Bool) (f : Flags) : (s.schedule n d y g b f).nextId = s.nextId := rfl
@[simp] theorem State.schedule_fresh (s : State) (n : Nat) (d : Dest) (y : Payload) (g : Tag) (b : Bool) (f : Flags) : (s.schedule n d y g b f).fresh = s.fresh := rfl

@[simp] theorem State.foldedBy_who (s : State) (g : Tag) : (s.foldedBy g).who = s.who := rfl
@[simp] theorem State.foldedBy_tile (s : State) (g : Tag) : (s.foldedBy g).tile = s.tile := rfl
@[simp] theorem State.foldedBy_parkedCtx (s : State) (g : Tag) : (s.foldedBy g).parkedCtx = s.parkedCtx := rfl
@[simp] theorem State.foldedBy_parkedTile (s : State) (g : Tag) : (s.foldedBy g).parkedTile = s.parkedTile := rfl
@[simp] theorem State.foldedBy_mem (s : State) (g : Tag) : (s.foldedBy g).mem = s.mem := rfl
@[simp] theorem State.foldedBy_gtags (s : State) (g : Tag) : (s.foldedBy g).gtags = s.gtags := rfl
@[simp] theorem State.foldedBy_pois (s : State) (g : Tag) : (s.foldedBy g).pois = s.pois := rfl
@[simp] theorem State.foldedBy_lineKeys (s : State) (g : Tag) : (s.foldedBy g).lineKeys = s.lineKeys := rfl
@[simp] theorem State.foldedBy_keys (s : State) (g : Tag) : (s.foldedBy g).keys = s.keys := rfl
@[simp] theorem State.foldedBy_nextKey (s : State) (g : Tag) : (s.foldedBy g).nextKey = s.nextKey := rfl
@[simp] theorem State.foldedBy_mesh (s : State) (g : Tag) : (s.foldedBy g).mesh = s.mesh := rfl
@[simp] theorem State.foldedBy_parts (s : State) (g : Tag) : (s.foldedBy g).parts = s.parts := rfl
@[simp] theorem State.foldedBy_launches (s : State) (g : Tag) : (s.foldedBy g).launches = s.launches := rfl
@[simp] theorem State.foldedBy_nextOrd (s : State) (g : Tag) : (s.foldedBy g).nextOrd = s.nextOrd := rfl
@[simp] theorem State.foldedBy_images (s : State) (g : Tag) : (s.foldedBy g).images = s.images := rfl
@[simp] theorem State.foldedBy_locks (s : State) (g : Tag) : (s.foldedBy g).locks = s.locks := rfl
@[simp] theorem State.foldedBy_waiters (s : State) (g : Tag) : (s.foldedBy g).waiters = s.waiters := rfl
@[simp] theorem State.foldedBy_wounds (s : State) (g : Tag) : (s.foldedBy g).wounds = s.wounds := rfl
@[simp] theorem State.foldedBy_phasers (s : State) (g : Tag) : (s.foldedBy g).phasers = s.phasers := rfl
@[simp] theorem State.foldedBy_trees (s : State) (g : Tag) : (s.foldedBy g).trees = s.trees := rfl
@[simp] theorem State.foldedBy_tlb (s : State) (g : Tag) : (s.foldedBy g).tlb = s.tlb := rfl
@[simp] theorem State.foldedBy_iommu (s : State) (g : Tag) : (s.foldedBy g).iommu = s.iommu := rfl
@[simp] theorem State.foldedBy_pasidBase (s : State) (g : Tag) : (s.foldedBy g).pasidBase = s.pasidBase := rfl
@[simp] theorem State.foldedBy_frames (s : State) (g : Tag) : (s.foldedBy g).frames = s.frames := rfl
@[simp] theorem State.foldedBy_distTables (s : State) (g : Tag) : (s.foldedBy g).distTables = s.distTables := rfl
@[simp] theorem State.foldedBy_links (s : State) (g : Tag) : (s.foldedBy g).links = s.links := rfl
@[simp] theorem State.foldedBy_clusters (s : State) (g : Tag) : (s.foldedBy g).clusters = s.clusters := rfl
@[simp] theorem State.foldedBy_pulses (s : State) (g : Tag) : (s.foldedBy g).pulses = s.pulses := rfl
@[simp] theorem State.foldedBy_cycles (s : State) (g : Tag) : (s.foldedBy g).cycles = s.cycles := rfl
@[simp] theorem State.foldedBy_booted (s : State) (g : Tag) : (s.foldedBy g).booted = s.booted := rfl
@[simp] theorem State.foldedBy_measures (s : State) (g : Tag) : (s.foldedBy g).measures = s.measures := rfl
@[simp] theorem State.foldedBy_firmwareEnded (s : State) (g : Tag) : (s.foldedBy g).firmwareEnded = s.firmwareEnded := rfl
@[simp] theorem State.foldedBy_ide (s : State) (g : Tag) : (s.foldedBy g).ide = s.ide := rfl
@[simp] theorem State.foldedBy_descAddr (s : State) (g : Tag) : (s.foldedBy g).descAddr = s.descAddr := rfl
@[simp] theorem State.foldedBy_tearing (s : State) (g : Tag) : (s.foldedBy g).tearing = s.tearing := rfl
@[simp] theorem State.foldedBy_stackErr (s : State) (g : Tag) : (s.foldedBy g).stackErr = s.stackErr := rfl
@[simp] theorem State.foldedBy_windowLog (s : State) (g : Tag) : (s.foldedBy g).windowLog = s.windowLog := rfl
@[simp] theorem State.foldedBy_work (s : State) (g : Tag) : (s.foldedBy g).work = s.work := rfl
@[simp] theorem State.foldedBy_turns (s : State) (g : Tag) : (s.foldedBy g).turns = s.turns := rfl
@[simp] theorem State.foldedBy_iss (s : State) (g : Tag) : (s.foldedBy g).iss = s.iss := rfl
@[simp] theorem State.foldedBy_nextId (s : State) (g : Tag) : (s.foldedBy g).nextId = s.nextId := rfl
@[simp] theorem State.foldedBy_fresh (s : State) (g : Tag) : (s.foldedBy g).fresh = s.fresh := rfl

@[simp] theorem State.inFlight_who (s : State) (n : Nat) (d : Dest) (y : Payload) (g : Tag) (b : Bool) (f : Flags) : (s.inFlight n d y g b f).who = s.who := rfl
@[simp] theorem State.inFlight_tile (s : State) (n : Nat) (d : Dest) (y : Payload) (g : Tag) (b : Bool) (f : Flags) : (s.inFlight n d y g b f).tile = s.tile := rfl
@[simp] theorem State.inFlight_parkedCtx (s : State) (n : Nat) (d : Dest) (y : Payload) (g : Tag) (b : Bool) (f : Flags) : (s.inFlight n d y g b f).parkedCtx = s.parkedCtx := rfl
@[simp] theorem State.inFlight_parkedTile (s : State) (n : Nat) (d : Dest) (y : Payload) (g : Tag) (b : Bool) (f : Flags) : (s.inFlight n d y g b f).parkedTile = s.parkedTile := rfl
@[simp] theorem State.inFlight_mem (s : State) (n : Nat) (d : Dest) (y : Payload) (g : Tag) (b : Bool) (f : Flags) : (s.inFlight n d y g b f).mem = s.mem := rfl
@[simp] theorem State.inFlight_gtags (s : State) (n : Nat) (d : Dest) (y : Payload) (g : Tag) (b : Bool) (f : Flags) : (s.inFlight n d y g b f).gtags = s.gtags := rfl
@[simp] theorem State.inFlight_pois (s : State) (n : Nat) (d : Dest) (y : Payload) (g : Tag) (b : Bool) (f : Flags) : (s.inFlight n d y g b f).pois = s.pois := rfl
@[simp] theorem State.inFlight_lineKeys (s : State) (n : Nat) (d : Dest) (y : Payload) (g : Tag) (b : Bool) (f : Flags) : (s.inFlight n d y g b f).lineKeys = s.lineKeys := rfl
@[simp] theorem State.inFlight_keys (s : State) (n : Nat) (d : Dest) (y : Payload) (g : Tag) (b : Bool) (f : Flags) : (s.inFlight n d y g b f).keys = s.keys := rfl
@[simp] theorem State.inFlight_nextKey (s : State) (n : Nat) (d : Dest) (y : Payload) (g : Tag) (b : Bool) (f : Flags) : (s.inFlight n d y g b f).nextKey = s.nextKey := rfl
@[simp] theorem State.inFlight_mesh (s : State) (n : Nat) (d : Dest) (y : Payload) (g : Tag) (b : Bool) (f : Flags) : (s.inFlight n d y g b f).mesh = s.mesh := rfl
@[simp] theorem State.inFlight_parts (s : State) (n : Nat) (d : Dest) (y : Payload) (g : Tag) (b : Bool) (f : Flags) : (s.inFlight n d y g b f).parts = s.parts := rfl
@[simp] theorem State.inFlight_launches (s : State) (n : Nat) (d : Dest) (y : Payload) (g : Tag) (b : Bool) (f : Flags) : (s.inFlight n d y g b f).launches = s.launches := rfl
@[simp] theorem State.inFlight_nextOrd (s : State) (n : Nat) (d : Dest) (y : Payload) (g : Tag) (b : Bool) (f : Flags) : (s.inFlight n d y g b f).nextOrd = s.nextOrd := rfl
@[simp] theorem State.inFlight_images (s : State) (n : Nat) (d : Dest) (y : Payload) (g : Tag) (b : Bool) (f : Flags) : (s.inFlight n d y g b f).images = s.images := rfl
@[simp] theorem State.inFlight_locks (s : State) (n : Nat) (d : Dest) (y : Payload) (g : Tag) (b : Bool) (f : Flags) : (s.inFlight n d y g b f).locks = s.locks := rfl
@[simp] theorem State.inFlight_waiters (s : State) (n : Nat) (d : Dest) (y : Payload) (g : Tag) (b : Bool) (f : Flags) : (s.inFlight n d y g b f).waiters = s.waiters := rfl
@[simp] theorem State.inFlight_wounds (s : State) (n : Nat) (d : Dest) (y : Payload) (g : Tag) (b : Bool) (f : Flags) : (s.inFlight n d y g b f).wounds = s.wounds := rfl
@[simp] theorem State.inFlight_phasers (s : State) (n : Nat) (d : Dest) (y : Payload) (g : Tag) (b : Bool) (f : Flags) : (s.inFlight n d y g b f).phasers = s.phasers := rfl
@[simp] theorem State.inFlight_trees (s : State) (n : Nat) (d : Dest) (y : Payload) (g : Tag) (b : Bool) (f : Flags) : (s.inFlight n d y g b f).trees = s.trees := rfl
@[simp] theorem State.inFlight_tlb (s : State) (n : Nat) (d : Dest) (y : Payload) (g : Tag) (b : Bool) (f : Flags) : (s.inFlight n d y g b f).tlb = s.tlb := rfl
@[simp] theorem State.inFlight_iommu (s : State) (n : Nat) (d : Dest) (y : Payload) (g : Tag) (b : Bool) (f : Flags) : (s.inFlight n d y g b f).iommu = s.iommu := rfl
@[simp] theorem State.inFlight_pasidBase (s : State) (n : Nat) (d : Dest) (y : Payload) (g : Tag) (b : Bool) (f : Flags) : (s.inFlight n d y g b f).pasidBase = s.pasidBase := rfl
@[simp] theorem State.inFlight_frames (s : State) (n : Nat) (d : Dest) (y : Payload) (g : Tag) (b : Bool) (f : Flags) : (s.inFlight n d y g b f).frames = s.frames := rfl
@[simp] theorem State.inFlight_distTables (s : State) (n : Nat) (d : Dest) (y : Payload) (g : Tag) (b : Bool) (f : Flags) : (s.inFlight n d y g b f).distTables = s.distTables := rfl
@[simp] theorem State.inFlight_links (s : State) (n : Nat) (d : Dest) (y : Payload) (g : Tag) (b : Bool) (f : Flags) : (s.inFlight n d y g b f).links = s.links := rfl
@[simp] theorem State.inFlight_clusters (s : State) (n : Nat) (d : Dest) (y : Payload) (g : Tag) (b : Bool) (f : Flags) : (s.inFlight n d y g b f).clusters = s.clusters := rfl
@[simp] theorem State.inFlight_pulses (s : State) (n : Nat) (d : Dest) (y : Payload) (g : Tag) (b : Bool) (f : Flags) : (s.inFlight n d y g b f).pulses = s.pulses := rfl
@[simp] theorem State.inFlight_cycles (s : State) (n : Nat) (d : Dest) (y : Payload) (g : Tag) (b : Bool) (f : Flags) : (s.inFlight n d y g b f).cycles = s.cycles := rfl
@[simp] theorem State.inFlight_booted (s : State) (n : Nat) (d : Dest) (y : Payload) (g : Tag) (b : Bool) (f : Flags) : (s.inFlight n d y g b f).booted = s.booted := rfl
@[simp] theorem State.inFlight_measures (s : State) (n : Nat) (d : Dest) (y : Payload) (g : Tag) (b : Bool) (f : Flags) : (s.inFlight n d y g b f).measures = s.measures := rfl
@[simp] theorem State.inFlight_firmwareEnded (s : State) (n : Nat) (d : Dest) (y : Payload) (g : Tag) (b : Bool) (f : Flags) : (s.inFlight n d y g b f).firmwareEnded = s.firmwareEnded := rfl
@[simp] theorem State.inFlight_ide (s : State) (n : Nat) (d : Dest) (y : Payload) (g : Tag) (b : Bool) (f : Flags) : (s.inFlight n d y g b f).ide = s.ide := rfl
@[simp] theorem State.inFlight_descAddr (s : State) (n : Nat) (d : Dest) (y : Payload) (g : Tag) (b : Bool) (f : Flags) : (s.inFlight n d y g b f).descAddr = s.descAddr := rfl
@[simp] theorem State.inFlight_tearing (s : State) (n : Nat) (d : Dest) (y : Payload) (g : Tag) (b : Bool) (f : Flags) : (s.inFlight n d y g b f).tearing = s.tearing := rfl
@[simp] theorem State.inFlight_stackErr (s : State) (n : Nat) (d : Dest) (y : Payload) (g : Tag) (b : Bool) (f : Flags) : (s.inFlight n d y g b f).stackErr = s.stackErr := rfl
@[simp] theorem State.inFlight_windowLog (s : State) (n : Nat) (d : Dest) (y : Payload) (g : Tag) (b : Bool) (f : Flags) : (s.inFlight n d y g b f).windowLog = s.windowLog := rfl
@[simp] theorem State.inFlight_work (s : State) (n : Nat) (d : Dest) (y : Payload) (g : Tag) (b : Bool) (f : Flags) : (s.inFlight n d y g b f).work = s.work := rfl
@[simp] theorem State.inFlight_turns (s : State) (n : Nat) (d : Dest) (y : Payload) (g : Tag) (b : Bool) (f : Flags) : (s.inFlight n d y g b f).turns = s.turns := rfl
@[simp] theorem State.inFlight_iss (s : State) (n : Nat) (d : Dest) (y : Payload) (g : Tag) (b : Bool) (f : Flags) : (s.inFlight n d y g b f).iss = s.iss := rfl
@[simp] theorem State.inFlight_nextId (s : State) (n : Nat) (d : Dest) (y : Payload) (g : Tag) (b : Bool) (f : Flags) : (s.inFlight n d y g b f).nextId = s.nextId := rfl
@[simp] theorem State.inFlight_fresh (s : State) (n : Nat) (d : Dest) (y : Payload) (g : Tag) (b : Bool) (f : Flags) : (s.inFlight n d y g b f).fresh = s.fresh := rfl

@[simp] theorem State.setCtx_who (s : State) (c : Src) (x : Ctx) : (s.setCtx c x).who = s.who := by unfold State.setCtx; split <;> rfl
@[simp] theorem State.setCtx_tile (s : State) (c : Src) (x : Ctx) : (s.setCtx c x).tile = s.tile := by unfold State.setCtx; split <;> rfl
@[simp] theorem State.setCtx_parkedTile (s : State) (c : Src) (x : Ctx) : (s.setCtx c x).parkedTile = s.parkedTile := by unfold State.setCtx; split <;> rfl
@[simp] theorem State.setCtx_mem (s : State) (c : Src) (x : Ctx) : (s.setCtx c x).mem = s.mem := by unfold State.setCtx; split <;> rfl
@[simp] theorem State.setCtx_gtags (s : State) (c : Src) (x : Ctx) : (s.setCtx c x).gtags = s.gtags := by unfold State.setCtx; split <;> rfl
@[simp] theorem State.setCtx_pois (s : State) (c : Src) (x : Ctx) : (s.setCtx c x).pois = s.pois := by unfold State.setCtx; split <;> rfl
@[simp] theorem State.setCtx_lineKeys (s : State) (c : Src) (x : Ctx) : (s.setCtx c x).lineKeys = s.lineKeys := by unfold State.setCtx; split <;> rfl
@[simp] theorem State.setCtx_keys (s : State) (c : Src) (x : Ctx) : (s.setCtx c x).keys = s.keys := by unfold State.setCtx; split <;> rfl
@[simp] theorem State.setCtx_nextKey (s : State) (c : Src) (x : Ctx) : (s.setCtx c x).nextKey = s.nextKey := by unfold State.setCtx; split <;> rfl
@[simp] theorem State.setCtx_mesh (s : State) (c : Src) (x : Ctx) : (s.setCtx c x).mesh = s.mesh := by unfold State.setCtx; split <;> rfl
@[simp] theorem State.setCtx_parts (s : State) (c : Src) (x : Ctx) : (s.setCtx c x).parts = s.parts := by unfold State.setCtx; split <;> rfl
@[simp] theorem State.setCtx_launches (s : State) (c : Src) (x : Ctx) : (s.setCtx c x).launches = s.launches := by unfold State.setCtx; split <;> rfl
@[simp] theorem State.setCtx_nextOrd (s : State) (c : Src) (x : Ctx) : (s.setCtx c x).nextOrd = s.nextOrd := by unfold State.setCtx; split <;> rfl
@[simp] theorem State.setCtx_images (s : State) (c : Src) (x : Ctx) : (s.setCtx c x).images = s.images := by unfold State.setCtx; split <;> rfl
@[simp] theorem State.setCtx_locks (s : State) (c : Src) (x : Ctx) : (s.setCtx c x).locks = s.locks := by unfold State.setCtx; split <;> rfl
@[simp] theorem State.setCtx_waiters (s : State) (c : Src) (x : Ctx) : (s.setCtx c x).waiters = s.waiters := by unfold State.setCtx; split <;> rfl
@[simp] theorem State.setCtx_wounds (s : State) (c : Src) (x : Ctx) : (s.setCtx c x).wounds = s.wounds := by unfold State.setCtx; split <;> rfl
@[simp] theorem State.setCtx_phasers (s : State) (c : Src) (x : Ctx) : (s.setCtx c x).phasers = s.phasers := by unfold State.setCtx; split <;> rfl
@[simp] theorem State.setCtx_trees (s : State) (c : Src) (x : Ctx) : (s.setCtx c x).trees = s.trees := by unfold State.setCtx; split <;> rfl
@[simp] theorem State.setCtx_tlb (s : State) (c : Src) (x : Ctx) : (s.setCtx c x).tlb = s.tlb := by unfold State.setCtx; split <;> rfl
@[simp] theorem State.setCtx_iommu (s : State) (c : Src) (x : Ctx) : (s.setCtx c x).iommu = s.iommu := by unfold State.setCtx; split <;> rfl
@[simp] theorem State.setCtx_pasidBase (s : State) (c : Src) (x : Ctx) : (s.setCtx c x).pasidBase = s.pasidBase := by unfold State.setCtx; split <;> rfl
@[simp] theorem State.setCtx_frames (s : State) (c : Src) (x : Ctx) : (s.setCtx c x).frames = s.frames := by unfold State.setCtx; split <;> rfl
@[simp] theorem State.setCtx_distTables (s : State) (c : Src) (x : Ctx) : (s.setCtx c x).distTables = s.distTables := by unfold State.setCtx; split <;> rfl
@[simp] theorem State.setCtx_links (s : State) (c : Src) (x : Ctx) : (s.setCtx c x).links = s.links := by unfold State.setCtx; split <;> rfl
@[simp] theorem State.setCtx_clusters (s : State) (c : Src) (x : Ctx) : (s.setCtx c x).clusters = s.clusters := by unfold State.setCtx; split <;> rfl
@[simp] theorem State.setCtx_pulses (s : State) (c : Src) (x : Ctx) : (s.setCtx c x).pulses = s.pulses := by unfold State.setCtx; split <;> rfl
@[simp] theorem State.setCtx_cycles (s : State) (c : Src) (x : Ctx) : (s.setCtx c x).cycles = s.cycles := by unfold State.setCtx; split <;> rfl
@[simp] theorem State.setCtx_booted (s : State) (c : Src) (x : Ctx) : (s.setCtx c x).booted = s.booted := by unfold State.setCtx; split <;> rfl
@[simp] theorem State.setCtx_measures (s : State) (c : Src) (x : Ctx) : (s.setCtx c x).measures = s.measures := by unfold State.setCtx; split <;> rfl
@[simp] theorem State.setCtx_firmwareEnded (s : State) (c : Src) (x : Ctx) : (s.setCtx c x).firmwareEnded = s.firmwareEnded := by unfold State.setCtx; split <;> rfl
@[simp] theorem State.setCtx_ide (s : State) (c : Src) (x : Ctx) : (s.setCtx c x).ide = s.ide := by unfold State.setCtx; split <;> rfl
@[simp] theorem State.setCtx_descAddr (s : State) (c : Src) (x : Ctx) : (s.setCtx c x).descAddr = s.descAddr := by unfold State.setCtx; split <;> rfl
@[simp] theorem State.setCtx_tearing (s : State) (c : Src) (x : Ctx) : (s.setCtx c x).tearing = s.tearing := by unfold State.setCtx; split <;> rfl
@[simp] theorem State.setCtx_stackErr (s : State) (c : Src) (x : Ctx) : (s.setCtx c x).stackErr = s.stackErr := by unfold State.setCtx; split <;> rfl
@[simp] theorem State.setCtx_windowLog (s : State) (c : Src) (x : Ctx) : (s.setCtx c x).windowLog = s.windowLog := by unfold State.setCtx; split <;> rfl
@[simp] theorem State.setCtx_work (s : State) (c : Src) (x : Ctx) : (s.setCtx c x).work = s.work := by unfold State.setCtx; split <;> rfl
@[simp] theorem State.setCtx_turns (s : State) (c : Src) (x : Ctx) : (s.setCtx c x).turns = s.turns := by unfold State.setCtx; split <;> rfl
@[simp] theorem State.setCtx_iss (s : State) (c : Src) (x : Ctx) : (s.setCtx c x).iss = s.iss := by unfold State.setCtx; split <;> rfl
@[simp] theorem State.setCtx_nextId (s : State) (c : Src) (x : Ctx) : (s.setCtx c x).nextId = s.nextId := by unfold State.setCtx; split <;> rfl
@[simp] theorem State.setCtx_fresh (s : State) (c : Src) (x : Ctx) : (s.setCtx c x).fresh = s.fresh := by unfold State.setCtx; split <;> rfl

@[simp] theorem State.setTile_who (s : State) (n : Nat) (x : Tile) : (s.setTile n x).who = s.who := by unfold State.setTile; split <;> rfl
@[simp] theorem State.setTile_ctx (s : State) (n : Nat) (x : Tile) : (s.setTile n x).ctx = s.ctx := by unfold State.setTile; split <;> rfl
@[simp] theorem State.setTile_parkedCtx (s : State) (n : Nat) (x : Tile) : (s.setTile n x).parkedCtx = s.parkedCtx := by unfold State.setTile; split <;> rfl
@[simp] theorem State.setTile_mem (s : State) (n : Nat) (x : Tile) : (s.setTile n x).mem = s.mem := by unfold State.setTile; split <;> rfl
@[simp] theorem State.setTile_gtags (s : State) (n : Nat) (x : Tile) : (s.setTile n x).gtags = s.gtags := by unfold State.setTile; split <;> rfl
@[simp] theorem State.setTile_pois (s : State) (n : Nat) (x : Tile) : (s.setTile n x).pois = s.pois := by unfold State.setTile; split <;> rfl
@[simp] theorem State.setTile_lineKeys (s : State) (n : Nat) (x : Tile) : (s.setTile n x).lineKeys = s.lineKeys := by unfold State.setTile; split <;> rfl
@[simp] theorem State.setTile_keys (s : State) (n : Nat) (x : Tile) : (s.setTile n x).keys = s.keys := by unfold State.setTile; split <;> rfl
@[simp] theorem State.setTile_nextKey (s : State) (n : Nat) (x : Tile) : (s.setTile n x).nextKey = s.nextKey := by unfold State.setTile; split <;> rfl
@[simp] theorem State.setTile_mesh (s : State) (n : Nat) (x : Tile) : (s.setTile n x).mesh = s.mesh := by unfold State.setTile; split <;> rfl
@[simp] theorem State.setTile_parts (s : State) (n : Nat) (x : Tile) : (s.setTile n x).parts = s.parts := by unfold State.setTile; split <;> rfl
@[simp] theorem State.setTile_launches (s : State) (n : Nat) (x : Tile) : (s.setTile n x).launches = s.launches := by unfold State.setTile; split <;> rfl
@[simp] theorem State.setTile_nextOrd (s : State) (n : Nat) (x : Tile) : (s.setTile n x).nextOrd = s.nextOrd := by unfold State.setTile; split <;> rfl
@[simp] theorem State.setTile_images (s : State) (n : Nat) (x : Tile) : (s.setTile n x).images = s.images := by unfold State.setTile; split <;> rfl
@[simp] theorem State.setTile_locks (s : State) (n : Nat) (x : Tile) : (s.setTile n x).locks = s.locks := by unfold State.setTile; split <;> rfl
@[simp] theorem State.setTile_waiters (s : State) (n : Nat) (x : Tile) : (s.setTile n x).waiters = s.waiters := by unfold State.setTile; split <;> rfl
@[simp] theorem State.setTile_wounds (s : State) (n : Nat) (x : Tile) : (s.setTile n x).wounds = s.wounds := by unfold State.setTile; split <;> rfl
@[simp] theorem State.setTile_phasers (s : State) (n : Nat) (x : Tile) : (s.setTile n x).phasers = s.phasers := by unfold State.setTile; split <;> rfl
@[simp] theorem State.setTile_trees (s : State) (n : Nat) (x : Tile) : (s.setTile n x).trees = s.trees := by unfold State.setTile; split <;> rfl
@[simp] theorem State.setTile_tlb (s : State) (n : Nat) (x : Tile) : (s.setTile n x).tlb = s.tlb := by unfold State.setTile; split <;> rfl
@[simp] theorem State.setTile_iommu (s : State) (n : Nat) (x : Tile) : (s.setTile n x).iommu = s.iommu := by unfold State.setTile; split <;> rfl
@[simp] theorem State.setTile_pasidBase (s : State) (n : Nat) (x : Tile) : (s.setTile n x).pasidBase = s.pasidBase := by unfold State.setTile; split <;> rfl
@[simp] theorem State.setTile_frames (s : State) (n : Nat) (x : Tile) : (s.setTile n x).frames = s.frames := by unfold State.setTile; split <;> rfl
@[simp] theorem State.setTile_distTables (s : State) (n : Nat) (x : Tile) : (s.setTile n x).distTables = s.distTables := by unfold State.setTile; split <;> rfl
@[simp] theorem State.setTile_links (s : State) (n : Nat) (x : Tile) : (s.setTile n x).links = s.links := by unfold State.setTile; split <;> rfl
@[simp] theorem State.setTile_clusters (s : State) (n : Nat) (x : Tile) : (s.setTile n x).clusters = s.clusters := by unfold State.setTile; split <;> rfl
@[simp] theorem State.setTile_pulses (s : State) (n : Nat) (x : Tile) : (s.setTile n x).pulses = s.pulses := by unfold State.setTile; split <;> rfl
@[simp] theorem State.setTile_cycles (s : State) (n : Nat) (x : Tile) : (s.setTile n x).cycles = s.cycles := by unfold State.setTile; split <;> rfl
@[simp] theorem State.setTile_booted (s : State) (n : Nat) (x : Tile) : (s.setTile n x).booted = s.booted := by unfold State.setTile; split <;> rfl
@[simp] theorem State.setTile_measures (s : State) (n : Nat) (x : Tile) : (s.setTile n x).measures = s.measures := by unfold State.setTile; split <;> rfl
@[simp] theorem State.setTile_firmwareEnded (s : State) (n : Nat) (x : Tile) : (s.setTile n x).firmwareEnded = s.firmwareEnded := by unfold State.setTile; split <;> rfl
@[simp] theorem State.setTile_ide (s : State) (n : Nat) (x : Tile) : (s.setTile n x).ide = s.ide := by unfold State.setTile; split <;> rfl
@[simp] theorem State.setTile_descAddr (s : State) (n : Nat) (x : Tile) : (s.setTile n x).descAddr = s.descAddr := by unfold State.setTile; split <;> rfl
@[simp] theorem State.setTile_tearing (s : State) (n : Nat) (x : Tile) : (s.setTile n x).tearing = s.tearing := by unfold State.setTile; split <;> rfl
@[simp] theorem State.setTile_stackErr (s : State) (n : Nat) (x : Tile) : (s.setTile n x).stackErr = s.stackErr := by unfold State.setTile; split <;> rfl
@[simp] theorem State.setTile_windowLog (s : State) (n : Nat) (x : Tile) : (s.setTile n x).windowLog = s.windowLog := by unfold State.setTile; split <;> rfl
@[simp] theorem State.setTile_work (s : State) (n : Nat) (x : Tile) : (s.setTile n x).work = s.work := by unfold State.setTile; split <;> rfl
@[simp] theorem State.setTile_turns (s : State) (n : Nat) (x : Tile) : (s.setTile n x).turns = s.turns := by unfold State.setTile; split <;> rfl
@[simp] theorem State.setTile_iss (s : State) (n : Nat) (x : Tile) : (s.setTile n x).iss = s.iss := by unfold State.setTile; split <;> rfl
@[simp] theorem State.setTile_nextId (s : State) (n : Nat) (x : Tile) : (s.setTile n x).nextId = s.nextId := by unfold State.setTile; split <;> rfl
@[simp] theorem State.setTile_fresh (s : State) (n : Nat) (x : Tile) : (s.setTile n x).fresh = s.fresh := by unfold State.setTile; split <;> rfl

@[simp] theorem State.send_work (s : State) (w : Work) : (s.send w).work = s.work ++ [w] := rfl
@[simp] theorem State.sendAll_work (s : State) (ws : List Work) : (s.sendAll ws).work = s.work ++ ws := rfl

/-! ## Reads after writes -/

@[simp] theorem getCtx_setCtx (s : State) (c : Src) (x : Ctx) : (s.setCtx c x).getCtx c = x := by
  unfold State.setCtx State.getCtx; split <;> simp_all

/-- Another context is left as it was. -/
theorem getCtx_setCtx_ne (s : State) {c d : Src} (x : Ctx) (h : d ≠ c) : (s.setCtx c x).getCtx d = s.getCtx d := by
  unfold State.setCtx State.getCtx
  by_cases h1 : c = s.who
  · subst h1; simp [h]
  · by_cases h2 : d = s.who
    · simp [h1, h2]
    · have e : (s.parkedCtx.filter (·.1 != c)).find? (·.1 = d) = s.parkedCtx.find? (·.1 = d) := by
        rw [List.find?_filter]; congr 1; funext y; by_cases h3 : y.1 = d <;> simp [h3, h]
      simp [h1, h2, Ne.symm h, e]

@[simp] theorem getTile_setTile (s : State) (n : Nat) (x : Tile) : (s.setTile n x).getTile n = x := by
  unfold State.setTile State.getTile; split <;> simp_all

/-- Another tile is left as it was. -/
theorem getTile_setTile_ne (s : State) {n m : Nat} (x : Tile) (h : m ≠ n) : (s.setTile n x).getTile m = s.getTile m := by
  unfold State.setTile State.getTile
  by_cases h1 : n = s.who.site
  · subst h1; simp [h]
  · by_cases h2 : m = s.who.site
    · simp [h1, h2]
    · have e : (s.parkedTile.filter (·.1 != n)).find? (·.1 = m) = s.parkedTile.find? (·.1 = m) := by
        rw [List.find?_filter]; congr 1; funext y; by_cases h3 : y.1 = m <;> simp [h3, h]
      simp [h1, h2, Ne.symm h, e]

@[simp] theorem part_setPart (s : State) (p : BitVec 4) (x : Partition) : (s.setPart p x).part p = x := by
  simp [State.part, State.setPart]

/-- Another partition is left as it was. -/
theorem part_setPart_ne (s : State) {p q : BitVec 4} (x : Partition) (h : q ≠ p) : (s.setPart p x).part q = s.part q := by
  have : p.toNat ≠ q.toNat := fun e => h (BitVec.eq_of_toNat_eq e.symm)
  simp [State.part, State.setPart, this]

@[simp] theorem getCtx_send (s : State) (w : Work) (c : Src) : (s.send w).getCtx c = s.getCtx c := rfl
@[simp] theorem getTile_send (s : State) (w : Work) (n : Nat) : (s.send w).getTile n = s.getTile n := rfl
@[simp] theorem getCtx_sendAll (s : State) (ws : List Work) (c : Src) : (s.sendAll ws).getCtx c = s.getCtx c := rfl
@[simp] theorem getTile_sendAll (s : State) (ws : List Work) (n : Nat) : (s.sendAll ws).getTile n = s.getTile n := rfl
@[simp] theorem getCtx_setPart (s : State) (p : BitVec 4) (y : Partition) (c : Src) : (s.setPart p y).getCtx c = s.getCtx c := rfl
@[simp] theorem getTile_setPart (s : State) (p : BitVec 4) (y : Partition) (n : Nat) : (s.setPart p y).getTile n = s.getTile n := rfl
@[simp] theorem getCtx_setTile (s : State) (m : Nat) (y : Tile) (c : Src) : (s.setTile m y).getCtx c = s.getCtx c := by unfold State.setTile; split <;> rfl
@[simp] theorem getTile_setCtx (s : State) (c : Src) (x : Ctx) (n : Nat) : (s.setCtx c x).getTile n = s.getTile n := by unfold State.setCtx; split <;> rfl
@[simp] theorem part_send (s : State) (w : Work) (p : BitVec 4) : (s.send w).part p = s.part p := rfl
@[simp] theorem part_sendAll (s : State) (ws : List Work) (p : BitVec 4) : (s.sendAll ws).part p = s.part p := rfl
@[simp] theorem part_setCtx (s : State) (c : Src) (x : Ctx) (p : BitVec 4) : (s.setCtx c x).part p = s.part p := by unfold State.setCtx; split <;> rfl
@[simp] theorem part_setTile (s : State) (n : Nat) (x : Tile) (p : BitVec 4) : (s.setTile n x).part p = s.part p := by unfold State.setTile; split <;> rfl

/-! ## Jobs (R216) -/

/-- A job found after an update of it. -/
theorem job?_modJob {s : State} {site id : Nat} {j : Job} (h : s.job? site id = some j) (f : Job → Job) (hf : ∀ i, (f i).id = i.id) :
    (s.modJob site id f).job? site id = some (f j) := by
  simp only [State.job?, State.modJob, State.modTile, getTile_setTile] at h ⊢
  generalize (s.getTile site).jobs = l at h ⊢
  induction l with
  | nil => simp at h
  | cons i r ih =>
    by_cases hi : i.id = id
    · simp only [List.find?_cons, hi, decide_true, Option.some.injEq] at h
      subst h; simp [hi, hf]
    · simp only [List.map_cons, List.find?_cons, hi, if_false, decide_false] at h ⊢; exact ih h

/-- A retired job is found no more. -/
theorem job?_retireJob (s : State) (site id : Nat) : (s.retireJob site id).job? site id = none := by
  simp [State.job?, State.retireJob, State.modTile, List.find?_eq_none]

/-- The block slots of the line cache. -/
theorem slot_setSlot (s : State) (site k : Nat) (x : LineSlot) (hk : k < 64) (j : Nat) :
    (s.setSlot site k x).slot site j = if j = k then x else s.slot site j := by
  simp only [State.slot, State.setSlot, State.modTile, getTile_setTile]
  by_cases h : j = k
  · subst h; simp [hk]
  · simp [h, Ne.symm h]

end Sys2Proof.Machine
end

