-- ==== Sys2Proof/Laws/Trap.lean ====
section
/-! SUPPORT. What a stop leaves: the settlement of blocks that close, a freeze, and the taking of a precise trap. -/

namespace Sys2Proof.Machine

/-- With no older block waiting for its commit there is nothing to settle. -/
theorem settle_nil {s : State} (h : s.ctx.closings = []) : s.settle = s := by simp [State.settle, h]

theorem intact_self (s : State) : s.intact s = true := by simp [State.intact]

theorem walking_nil {s : State} (h : s.ctx.closings = []) : s.walking = false := by simp [State.walking, h]

/-- A form that acts behind its predecessor's commit acts at once when there is none. -/
theorem behindCommit_nil {s : State} (h : s.ctx.closings = []) (k : State → State) : s.behindCommit k = k s := by
  simp [State.behindCommit, walking_nil h, settle_nil h, intact_self]

/-- A freeze with no older block: the cause recorded, nothing else of the context. -/
theorem freeze_nil {s : State} (h : s.ctx.closings = []) (c : Freeze) :
    s.freeze c = { s with ctx := { s.ctx with frozen := some c }, iss := { s.iss with fate := .frozen } } := by
  simp only [State.freeze, walking_nil h, settle_nil h, intact_self, if_true, Bool.false_eq_true, if_false]

/-- A freeze that ends changes nothing of its context but the freeze, its length and the stall trace (R391). -/
theorem resume_spec (c : Ctx) : ∃ n l, c.resume = { c with frozen := none, stalled := n, stalls := l } := by
  unfold Ctx.resume
  split
  · rename_i h; exact ⟨c.stalled, c.stalls, by rw [← h]⟩
  · exact ⟨_, _, rfl⟩

/-- A precise trap of the syllable being issued, with a handler installed, enters it. -/
theorem raise_enters {s : State} (h : s.trapsEnter) (code detail : BitVec 8) (v : Word) :
    s.entersHandler (s.raise code detail v false) code detail v := by
  obtain ⟨h1, h2, h3⟩ := h
  have hf (t : Trap) : s.ctx.isFatal t = false := by simp [Ctx.isFatal, Ctx.hasHandler, h2, h3]
  simp only [State.raise, walking_nil h1, settle_nil h1, intact_self, if_true, Bool.false_eq_true, if_false, State.takeTrap, hf, h3]
  obtain ⟨n, l, e⟩ := resume_spec s.ctx
  simp only [Ctx.enterHandler, Ctx.discard, e]
  refine ⟨?_, ?_, rfl, rfl, rfl, rfl, rfl, ?_, ?_, rfl, rfl, rfl, rfl, rfl, rfl, ?_⟩
  · rfl
  · simp [Trap.word]
  · rfl
  · cases s.ctx.cur.engine.after <;> rfl
  · intro f hf hd
    simp only [List.mem_filter]
    refine ⟨hf, ?_⟩
    cases hd' : f.dest <;> simp_all [Flight.isTouch]

end Sys2Proof.Machine
end

