-- ==== Sys2Proof/Tests/Slice0.lean ====
section
/-! SUPPORT. The model's own tests: words written out from the encoding tables, ill-formed terms, single steps with results that the manual
prints or that follow from it by hand, and for every statement with hypotheses a state that meets them. -/

namespace Sys2Proof.Tests

open Sys2Proof.Machine

/-! ## Decoding -/

/-- Each word, of so many bits, decodes to the well-formed instruction beside it. -/
def reads (l : List (Nat × Nat × Instr)) : Bool :=
  l.all fun e => decide (decodeTableWord e.1 e.2.1 = some e.2.2) && e.2.2.wf

/-- Words of the scalar forms, composed from Tables 4.1 to 4.9 and their chapter. -/
theorem test_decode_scalar_1 : reads [
    (64, 0x8000000000000000, .nop ⟨.S, 0, false⟩),
    (64, 0x8015821060008000, .add ⟨.S, 5, true⟩ .i8 true 1 2 3),
    (64, 0xA0290828C0280000, .sub ⟨.B, 9, false⟩ .n16 false 4 5 6),
    (64, 0x80300E4120100000, .mul ⟨.S, 0, false⟩ .i32 7 8 9),
    (64, 0x8040145980380000, .mulh ⟨.S, 0, false⟩ .n64 10 11 12),
    (64, 0x80501A71E0180000, .div ⟨.S, 0, false⟩ .i64 13 14 15),
    (64, 0x8060208A40200000, .rem ⟨.S, 0, false⟩ .n8 16 17 18),
    (64, 0x807026A2A0080000, .min ⟨.S, 0, false⟩ .i16 19 20 21),
    (64, 0x80802CBB00300000, .max ⟨.S, 0, false⟩ .n32 22 23 24),
    (64, 0x809032D360180000, .and ⟨.S, 0, false⟩ 25 26 27),
    (64, 0x80A038EBC0180000, .or ⟨.S, 0, false⟩ 28 29 30),
    (64, 0x80B03F0420180000, .xor ⟨.S, 0, false⟩ 31 32 33),
    (64, 0x80C0451C80000000, .shl ⟨.S, 0, false⟩ .i8 34 35 36),
    (64, 0x80D04B34E0080000, .shr ⟨.S, 0, false⟩ .i16 37 38 39),
    (64, 0x80E0514D40100000, .sra ⟨.S, 0, false⟩ .i32 40 41 42),
    (64, 0x80F05765A6980000, .sel ⟨.S, 0, false⟩ 43 44 45 13)] = true := by decide

/-- Words of the scalar forms, composed from Tables 4.1 to 4.9 and their chapter. -/
theorem test_decode_scalar_2 : reads [
    (64, 0x81005D7800300000, .clz ⟨.S, 0, false⟩ .n32 46 47),
    (64, 0x8110618800280000, .ctz ⟨.S, 0, false⟩ .n16 48 49),
    (64, 0x8120659800380000, .popc ⟨.S, 0, false⟩ .n64 50 51),
    (64, 0x81301FA6A0228000, .cmp ⟨.S, 0, false⟩ .ge .n8 15 52 53),
    (64, 0x8140021060000000, .pand ⟨.S, 0, false⟩ 1 2 3),
    (64, 0x81500828C0000000, .por ⟨.S, 0, false⟩ 4 5 6),
    (64, 0x81600E4120000000, .pxor ⟨.S, 0, false⟩ 7 8 9),
    (64, 0x8170145800000000, .pandn ⟨.S, 0, false⟩ 10 11 0),
    (64, 0x8183000000000000, .tfence ⟨.S, 3, false⟩)] = true := by decide

/-- Words of the immediate forms, composed from Tables 4.1 to 4.9 and their chapter. -/
theorem test_decode_immediate : reads [
    (64, 0x920002117FFF0000, .addi ⟨.A, 0, false⟩ .i32 1 2 (.short 0xFFFE)),
    (128, 0xD00056789ABCDEF002000211891A0000, .addi ⟨.S, 0, false⟩ .i64 1 2 (.long 0x1234 0x56789ABCDEF0)),
    (64, 0x82100621807F8000, .andi ⟨.S, 0, false⟩ 3 4 (.short 0x00FF)),
    (64, 0x82200A31C0000000, .ori ⟨.S, 0, false⟩ 5 6 (.short 0x8000)),
    (64, 0x82300E4180008000, .xori ⟨.S, 0, false⟩ 7 8 (.short 1)),
    (64, 0xA240125000038000, .shli ⟨.B, 0, false⟩ .i8 9 10 7),
    (64, 0x8250166280078000, .shri ⟨.S, 0, false⟩ .n16 11 12 15),
    (64, 0x82601A71801F8000, .srai ⟨.S, 0, false⟩ .i64 13 14 63),
    (64, 0x82701278BFFF8800, .cmpi ⟨.S, 0, false⟩ .ne .i16 9 15 (.short 0x7FFF)),
    (128, 0xD00000000000000102807E0180000000, .movi ⟨.S, 0, false⟩ 63 (.long 0 1)),
    (64, 0x8290208982F40000, .bfx ⟨.S, 0, false⟩ .i64 16 17 40 23),
    (64, 0x82A0249987E00000, .bfi ⟨.S, 0, false⟩ 18 19 0 63),
    (64, 0x82B0280000278000, .mfc ⟨.S, 0, false⟩ 20 0x4F),
    (64, 0x82C000A800048000, .mtc ⟨.S, 0, false⟩ 9 21),
    (64, 0x82D000005F778000, .trap ⟨.S, 0, false⟩ 0xBEEF)] = true := by decide

/-- Words of the control forms, composed from Tables 4.1 to 4.9 and their chapter. -/
theorem test_decode_control : reads [
    (64, 0x8400010000000000, .br ⟨.S, 0, false⟩ true),
    (64, 0x84100A0000000000, .jr ⟨.S, 0, false⟩ 5),
    (64, 0x84207F0000000000, .call ⟨.S, 0, false⟩ 63 true),
    (64, 0x84307C0000000000, .ret ⟨.S, 0, false⟩ 62),
    (64, 0x8440120000000000, .loop ⟨.S, 0, false⟩ 9 false),
    (64, 0x845001FFFF000000, .loopi ⟨.S, 0, false⟩ 65535 true),
    (64, 0x8460100000E00000, .swp ⟨.S, 0, false⟩ 8 false 7),
    (64, 0x8472800000000000, .eret ⟨.S, 2, true⟩)] = true := by decide

/-- Words of the lineage forms, composed from Tables 4.1 to 4.9 and their chapter. -/
theorem test_decode_lineage : reads [
    (64, 0x86000908003F8000, .lstamp ⟨.S, 0, false⟩ 4 33 0x7F),
    (128, 0xD00000000000DEAD061012005F778800, .lseed ⟨.S, 0, false⟩ true 9 (.long 0xBEEF 0xDEAD)),
    (64, 0x86200E7800001000, .ltag ⟨.S, 0, false⟩ .p 7 15),
    (64, 0x8620101800001800, .ltag ⟨.S, 0, false⟩ .a 8 3),
    (64, 0x8620125008002000, .ltagG ⟨.S, 0, false⟩ 9 10 0x1000),
    (64, 0x8630160000000000, .lfold ⟨.S, 0, false⟩ 11),
    (64, 0x8700000000268000, .mark ⟨.S, 0, false⟩ (.short 77)),
    (64, 0x87100000007F8000, .dgrd ⟨.S, 0, false⟩ 255)] = true := by decide

/-- Words of the memory forms, composed from Tables 4.1 to 4.9 and their chapter. -/
theorem test_decode_memory_1 : reads [
    (64, 0xA30002050F000000, .lea ⟨.B, 0, false⟩ 1 (.m1 2 3 3)),
    (64, 0x9800098AFFFF0160, .ld ⟨.A, 0, false⟩ .n16 .glob 4 (.m0 5 0xFFFF0) 0 .evictFirst),
    (128, 0xD4000ABCDEF012342800080A12345800, .ld ⟨.B, 0, false⟩ .i8 .loc 4 (.m0x 5 0x12345 0xABCDEF01234) 2 .normal),
    (64, 0xA8100C8F220000D0, .st ⟨.B, 0, false⟩ .i64 .tile 6 (.m1 7 8 2) .noAlloc),
    (64, 0x982013147FFFF240, .vld ⟨.A, 0, false⟩ .bf16 .slice 9 (.m0 10 0x7FFFF) 0 .normal),
    (64, 0x98301618000042C0, .vst ⟨.A, 0, false⟩ .f8e5 .loc 11 (.m0 12 4) .normal),
    (64, 0x98401A1C3FFFCE00, .vgath ⟨.A, 0, false⟩ .f32 13 14 15 0x3FFC 3 .normal),
    (64, 0xA850202248005020, .vscat ⟨.B, 0, false⟩ .i8 16 17 18 5 .evictFirst),
    (64, 0x9860009A878ABC11, .ldblk ⟨.A, 0, false⟩ 19 20 15 (some 0xABC) .noAlloc),
    (64, 0x98702BAD5D000180, .ldl ⟨.A, 0, false⟩ .n32 21 (.m1 22 23 1) .normal),
    (64, 0xA880000004800000, .evblk ⟨.B, 0, false⟩ 9),
    (64, 0x98C0303200008480, .mwait ⟨.A, 0, false⟩ .i32 24 (.m0 25 8) 1 .normal),
    (64, 0x99003CD0030001C0, .atomAdd ⟨.A, 0, false⟩ ⟨30, .tile, 40, false, 0, 12288, .n64, .normal⟩),
    (64, 0x99203ED3030081C0, .atomMin ⟨.A, 0, false⟩ ⟨31, .tile, 41, true, 0, 12296, .n64, .normal⟩),
    (64, 0x993040D4030101C0, .atomMax ⟨.A, 0, false⟩ ⟨32, .tile, 42, false, 0, 12304, .n64, .normal⟩),
    (64, 0x994042D7030181C0, .atomAnd ⟨.A, 0, false⟩ ⟨33, .tile, 43, true, 0, 12312, .n64, .normal⟩)] = true := by decide

/-- Words of the memory forms, composed from Tables 4.1 to 4.9 and their chapter. -/
theorem test_decode_memory_2 : reads [
    (64, 0x995044D8030201C0, .atomOr ⟨.A, 0, false⟩ ⟨34, .tile, 44, false, 0, 12320, .n64, .normal⟩),
    (64, 0x996046DB030281C0, .atomXor ⟨.A, 0, false⟩ ⟨35, .tile, 45, true, 0, 12328, .n64, .normal⟩),
    (64, 0x997048DC030301C0, .atomSwp ⟨.A, 0, false⟩ ⟨36, .tile, 46, false, 0, 12336, .n64, .normal⟩),
    (64, 0xA91002050C010240, .atomFadd ⟨.B, 0, false⟩ ⟨1, .loc, 2, true, 3, 16, .bf16, .normal⟩),
    (64, 0x9980098B1BFF80E0, .atomCas ⟨.A, 0, false⟩ ⟨4, .glob, 5, true, 6, 0x3FF8, .i64, .evictFirst⟩),
    (64, 0x98900F1024004180, .bfins ⟨.A, 0, false⟩ ⟨7, .slice, 8, false, 9, 4, .n32, .normal⟩),
    (64, 0xA8A01417000001C0, .ffcs ⟨.B, 0, false⟩ ⟨10, .loc, 11, true, 0, 0, .n64, .normal⟩),
    (64, 0x98B0189B380181D0, .plset ⟨.A, 0, false⟩ ⟨12, .tile, 13, true, 14, 24, .n64, .noAlloc⟩)] = true := by decide

/-- Words of the copy forms, composed from Tables 4.1 to 4.9 and their chapter. -/
theorem test_decode_copy : reads [
    (64, 0x9A00000841BFFF00, .copy ⟨.A, 0, false⟩ true true 1 2 3 0xFFF),
    (64, 0xAA100020A3000700, .copyr ⟨.B, 0, false⟩ 4 5 6 7),
    (64, 0x9A20004125000B00, .copyx ⟨.A, 0, false⟩ 8 9 10 11),
    (64, 0x9A300061A7000F00, .copyc ⟨.A, 0, false⟩ 12 13 14 15 none),
    (128, 0xD200000089ABCDEF1A300061A7000F17, .copyc ⟨.A, 0, false⟩ 12 13 14 15 (some ⟨7, 0x89ABCDEF⟩)),
    (64, 0x9A40000000000020, .fence ⟨.A, 0, false⟩ .tile),
    (64, 0xAA500000000000A0, .drain ⟨.B, 0, false⟩ .system)] = true := by decide

/-- Words of the task forms, composed from Tables 4.1 to 4.9 and their chapter. -/
theorem test_decode_task_1 : reads [
    (64, 0x9B00000800000000, .spawn ⟨.A, 0, false⟩ 1),
    (64, 0x9B10001000000000, .join ⟨.A, 0, false⟩ 2),
    (64, 0x9B20000000000000, .tend ⟨.A, 0, false⟩),
    (64, 0xAB30001800000004, .cancel ⟨.B, 0, false⟩ 3 4),
    (64, 0x9B400A3000000001, .ccrd ⟨.A, 0, false⟩ 5 6 1),
    (64, 0x9B50000000000000, .yield ⟨.A, 0, false⟩),
    (64, 0x9C00000800700000, .sbind ⟨.A, 0, false⟩ 7 1),
    (64, 0xAC10000000600000, .sunbind ⟨.B, 0, false⟩ 6),
    (64, 0x9C200000005FFF00, .sadv ⟨.A, 0, false⟩ 5 4095),
    (64, 0x9C30004800000F05, .rsend ⟨.A, 0, false⟩ 9 15 .imin),
    (64, 0x9C40183000000300, .rrecv ⟨.A, 0, false⟩ 12 6 3),
    (64, 0x9D00021000000006, .clacq ⟨.A, 0, false⟩ 1 2 6),
    (64, 0xAD10062000000005, .clupg ⟨.B, 0, false⟩ 3 4 5),
    (64, 0x9D200A3000000010, .clrel ⟨.A, 0, false⟩ 5 6 true),
    (64, 0x9D300E4000000001, .cltry ⟨.A, 0, false⟩ 7 8 1),
    (64, 0x9D40125000000000, .clqry ⟨.A, 0, false⟩ 9 10)] = true := by decide

/-- Words of the task forms, composed from Tables 4.1 to 4.9 and their chapter. -/
theorem test_decode_task_2 : reads [
    (64, 0x9E000000000ABC53, .phreg ⟨.A, 0, false⟩ (.here 0xABC) .die 3),
    (64, 0xAE10002800000001, .phdrop ⟨.B, 0, false⟩ (.remote 5) 1),
    (64, 0x9E20000000000110, .phsig ⟨.A, 0, false⟩ (.here 1)),
    (64, 0x9E30021060000000, .phwait ⟨.A, 0, false⟩ 1 (.remote 2) 3),
    (64, 0x9E40021062000000, .phsw ⟨.A, 0, false⟩ 1 (.remote 2) 3 4),
    (64, 0x9E500A00C00FFF10, .phexp ⟨.A, 0, false⟩ 5 (.here 4095) 6),
    (64, 0x9E600E4000200000, .phrd ⟨.A, 0, false⟩ 7 (.remote 8) 2)] = true := by decide

/-- Words of the vector forms, composed from Tables 4.1 to 4.9 and their chapter. -/
theorem test_decode_vector_1 : reads [
    (64, 0xB01002106042A000, .vadd ⟨.V, 0, false⟩ ⟨.f32, .rup, true, false, true⟩ 1 2 3),
    (64, 0xB0200828C0002000, .vsub ⟨.V, 0, false⟩ ⟨.i8, .rne, false, false, true⟩ 4 5 6),
    (64, 0xB0300E412044C000, .vmul ⟨.V, 0, false⟩ ⟨.f32, .dither, true, true, false⟩ 7 8 9),
    (64, 0xB04002106244C000, .vfma ⟨.V, 0, false⟩ ⟨.f32, .dither, true, true, false⟩ 1 2 3 4),
    (64, 0xB0500A30E4280000, .vfms ⟨.V, 0, false⟩ ⟨.n16, .rne, false, false, false⟩ 5 6 7 8),
    (64, 0xB060021060408000, .vmin ⟨.V, 0, false⟩ ⟨.f32, .rne, true, false, false⟩ 1 2 3),
    (64, 0xB0700828C0300000, .vmax ⟨.V, 0, false⟩ ⟨.n32, .rne, false, false, false⟩ 4 5 6),
    (64, 0xB0800E4000404000, .vabs ⟨.V, 0, false⟩ ⟨.f32, .rne, false, true, false⟩ 7 8),
    (64, 0xB090125000082000, .vneg ⟨.V, 0, false⟩ ⟨.i16, .rne, false, false, true⟩ 9 10),
    (64, 0xB0A00210604000C0, .vcmp ⟨.V, 0, false⟩ .un ⟨.f32, .rne, false, false, false⟩ 1 2 3),
    (64, 0xB0B0021062000000, .vsel ⟨.V, 0, false⟩ 1 2 3 4),
    (64, 0xB0C00A30E0000000, .vand ⟨.V, 0, false⟩ 5 6 7),
    (64, 0xB0D0104940000000, .vor ⟨.V, 0, false⟩ 8 9 10),
    (64, 0xB0E01661A0000000, .vxor ⟨.V, 0, false⟩ 11 12 13),
    (64, 0xB0F01C7800000000, .vnot ⟨.V, 0, false⟩ 14 15),
    (64, 0xB100208A40100000, .vshl ⟨.V, 0, false⟩ .i32 16 17 18)] = true := by decide

/-- Words of the vector forms, composed from Tables 4.1 to 4.9 and their chapter. -/
theorem test_decode_vector_2 : reads [
    (64, 0xB11026A2A0200000, .vshr ⟨.V, 0, false⟩ .n8 19 20 21),
    (64, 0xB1202CBB00080000, .vsra ⟨.V, 0, false⟩ .i16 22 23 24),
    (64, 0xB200021000496400, .vcvt ⟨.V, 0, false⟩ ⟨.bf16, .rtz, false, true, true⟩ .i32 1 2),
    (64, 0xB210062002803020, .vnarrow ⟨.V, 0, false⟩ ⟨.i8, .rne, false, false, true⟩ .f32 3 4 (some 5)),
    (64, 0xB2100C380054D000, .vnarrow ⟨.V, 0, false⟩ ⟨.f8e4, .dither, true, true, false⟩ .f32 6 7 none),
    (64, 0xB280021000408000, .vexp2 ⟨.V, 0, false⟩ ⟨.f32, .rne, true, false, false⟩ 1 2),
    (64, 0xB290062000404000, .vrcp ⟨.V, 0, false⟩ ⟨.f32, .rne, false, true, false⟩ 3 4),
    (64, 0xB3000A3000430000, .vredsum ⟨.V, 0, false⟩ ⟨.f32, .rdn, false, false, false⟩ 5 6),
    (64, 0xB3100E4000100000, .vredmax ⟨.V, 0, false⟩ ⟨.i32, .rne, false, false, false⟩ 7 8),
    (64, 0xB380021060000000, .vperm ⟨.V, 0, false⟩ 1 2 3),
    (64, 0xB390082800000000, .vbcast ⟨.V, 0, false⟩ 4 5),
    (64, 0xB3A00C3FE0200000, .vext ⟨.V, 0, false⟩ .n8 6 7 63),
    (64, 0xB3B0104940000000, .vins ⟨.V, 0, false⟩ 8 9 10),
    (64, 0xB3C0160000000000, .vlane ⟨.V, 0, false⟩ 11),
    (64, 0xB3D0006000000000, .setvl ⟨.V, 0, false⟩ 12),
    (64, 0xB3E01A7000000000, .vmov ⟨.V, 0, false⟩ 13 14)] = true := by decide

/-- Words of the vector forms, composed from Tables 4.1 to 4.9 and their chapter. -/
theorem test_decode_vector_3 : reads [
    (64, 0xB600005160042020, .scacc ⟨.V, 0, false⟩ none 10 11 .dither true),
    (64, 0xB6000A61A0000000, .scacc ⟨.V, 0, false⟩ (some 5) 12 13 .rne false),
    (64, 0xB7000210001814A0, .vdefer ⟨.V, 0, false⟩ 1 2 3 0xA5),
    (64, 0xB710062000001FE0, .vdrain ⟨.V, 0, false⟩ 3 4 0 0xFF)] = true := by decide

/-- Words of the matrix forms, composed from Tables 4.1 to 4.9 and their chapter. -/
theorem test_decode_matrix : reads [
    (64, 0xC010005000000000, .mnest ⟨.M, 0, false⟩ 10),
    (64, 0xC200000000000000, .mgoBf16 ⟨.M, 0, false⟩),
    (64, 0xC28000528000010B, .mblkBf16 ⟨.M, 0, false⟩ ⟨0, 10, 20, 3, 2, 1, 0⟩),
    (64, 0xC210000000000000, .mgoF8e4 ⟨.M, 0, false⟩),
    (64, 0xC290005AA010050B, .mblkF8e4 ⟨.M, 0, false⟩ ⟨1, 11, 21, 3, 2, 1, 1⟩),
    (64, 0xC220000000000000, .mgoF8e5 ⟨.M, 0, false⟩),
    (64, 0xC2A00062C020090B, .mblkF8e5 ⟨.M, 0, false⟩ ⟨2, 12, 22, 3, 2, 1, 2⟩),
    (64, 0xC230000000000000, .mgoI8 ⟨.M, 0, false⟩),
    (64, 0xC2B0006AE0300D0B, .mblkI8 ⟨.M, 0, false⟩ ⟨3, 13, 23, 3, 2, 1, 3⟩),
    (64, 0xC240000000000000, .mgoI4x ⟨.M, 0, false⟩),
    (64, 0xC2C000730040010B, .mblkI4x ⟨.M, 0, false⟩ ⟨4, 14, 24, 3, 2, 1, 0⟩),
    (64, 0xC040000000600000, .mzero ⟨.M, 0, false⟩ 6),
    (64, 0xC0500071E03BD039, .mdrain ⟨.M, 0, false⟩ .bf16 .rtz true 3 14 15 16 47),
    (64, 0xC060220000000000, .mstat ⟨.M, 0, false⟩ 17),
    (128, 0xD8000000CAFE000141000000091A0000, .touch ⟨.M, 0, false⟩ 0x1234 0xCAFE0001)] = true := by decide

/-- The words that the manual prints (R119 to R146, R186, R188, R216 to R243, R291, R293, R388, R395). -/
theorem test_decode_printed : reads [
    (64, 0x8450000003000000, .loopi ⟨.S, 0, false⟩ 3 false),
    (64, 0x84600E0000400000, .swp ⟨.S, 0, false⟩ 7 false 2),
    (64, 0xB040080841C00000, .vfma ⟨.V, 0, false⟩ ⟨.f32, .rne, false, false, false⟩ 4 1 2 3),
    (64, 0x8620122000000800, .ltag ⟨.S, 0, false⟩ .v 9 4),
    (64, 0x99000E89000400C0, .atomAdd ⟨.A, 0, false⟩ ⟨7, .tile, 4, true, 0, 0x40, .i64, .normal⟩),
    (64, 0x9A10005946000700, .copyr ⟨.A, 0, false⟩ 11 10 12 7),
    (64, 0x9C30004800000200, .rsend ⟨.A, 0, false⟩ 9 2 .fadd),
    (64, 0x9C40183000000200, .rrecv ⟨.A, 0, false⟩ 12 6 2),
    (64, 0x8700000002580000, .mark ⟨.S, 0, false⟩ (.short 1200)),
    (64, 0x8710000000028000, .dgrd ⟨.S, 0, false⟩ 5)] = true := by decide

/-- Reserved bits, unassigned majors, class 110, codes outside a form's limits and a missing extension decode to nothing (R69, R80, R84). -/
theorem test_decode_refused : ([(64, 0x8000000000000001), (64, 0x8190000000000000), (64, 0xE000000000000000), (64, 0x8015821060010000),
    (64, 0xB0100210604A0000), (64, 0x9800000000000000 + 0x240), (64, 0x8130000160110000), (64, 0xC100000000000000),
    (64, 0xB400000000000000)] : List (Nat × Nat)).all (fun e => (decodeTableWord e.1 e.2).isNone) = true := by decide

/-- The bytes of a fetched word are little-endian, and a bundle ends at its stop bit (R65, R72): two syllables. -/
theorem test_decode_bundle :
    (decodeBundle [0x0000000000000000, 0xA0290828C0280000] false false 0).toOption.map (fun b => b.slots.map (·.instr))
      = some [.nop ⟨.S, 0, false⟩, .sub ⟨.B, 9, false⟩ .n16 false 4 5 6] := by decide

/-- Every check of well-formedness refuses some term: slots. -/
theorem test_ill_formed_slots : ([
    .nop ⟨.A, 0, false⟩, .add ⟨.V, 0, false⟩ .i8 false 1 1 1, .mul ⟨.A, 0, false⟩ .i8 1 1 1, .and ⟨.B, 0, false⟩ 1 1 1,
    .shl ⟨.A, 0, false⟩ .i8 1 1 1, .sel ⟨.M, 0, false⟩ 1 1 1 1, .clz ⟨.A, 0, false⟩ .i8 1 1, .cmp ⟨.A, 0, false⟩ .eq .i8 1 1 1,
    .pand ⟨.A, 0, false⟩ 1 1 1, .tfence ⟨.A, 0, false⟩, .addi ⟨.M, 0, false⟩ .i8 1 1 (.short 0), .andi ⟨.A, 0, false⟩ 1 1 (.short 0),
    .shli ⟨.V, 0, false⟩ .i8 1 1 0, .shri ⟨.A, 0, false⟩ .i8 1 1 0, .cmpi ⟨.A, 0, false⟩ .eq .i8 1 1 (.short 0),
    .movi ⟨.A, 0, false⟩ 1 (.short 0), .bfx ⟨.A, 0, false⟩ .i64 1 1 0 0, .bfi ⟨.A, 0, false⟩ 1 1 0 0, .mfc ⟨.A, 0, false⟩ 1 0,
    .mtc ⟨.A, 0, false⟩ 3 1, .trap ⟨.A, 0, false⟩ 0, .br ⟨.A, 0, false⟩ false, .lstamp ⟨.A, 0, false⟩ 0 0 0,
    .lseed ⟨.A, 0, false⟩ false 0 (.short 0), .ltag ⟨.A, 0, false⟩ .x 0 0, .ltagG ⟨.A, 0, false⟩ 0 0 0, .mark ⟨.A, 0, false⟩ (.short 0),
    .lea ⟨.S, 0, false⟩ 1 (.m0 0 0), .ld ⟨.S, 0, false⟩ .i8 .loc 0 (.m0 0 0) 0 .normal, .st ⟨.S, 0, false⟩ .i8 .loc 0 (.m0 0 0) .normal,
    .vld ⟨.V, 0, false⟩ .i8 .loc 0 (.m0 0 0) 0 .normal, .vst ⟨.V, 0, false⟩ .i8 .loc 0 (.m0 0 0) .normal,
    .vgath ⟨.V, 0, false⟩ .i8 0 0 0 0 0 .normal, .vscat ⟨.V, 0, false⟩ .i8 0 0 0 0 .normal, .ldblk ⟨.S, 0, false⟩ 0 0 0 none .normal,
    .ldl ⟨.S, 0, false⟩ .i8 0 (.m0 0 0) .normal, .evblk ⟨.S, 0, false⟩ 0, .bfins ⟨.S, 0, false⟩ ⟨0, .loc, 0, false, 0, 0, .n32, .normal⟩,
    .ffcs ⟨.S, 0, false⟩ ⟨0, .loc, 0, true, 0, 0, .n64, .normal⟩, .plset ⟨.S, 0, false⟩ ⟨0, .loc, 0, false, 0, 0, .n64, .normal⟩,
    .mwait ⟨.S, 0, false⟩ .i32 0 (.m0 0 0) 0 .normal, .atomAdd ⟨.S, 0, false⟩ ⟨0, .loc, 0, false, 0, 0, .i32, .normal⟩,
    .atomCas ⟨.S, 0, false⟩ ⟨0, .loc, 0, false, 0, 0, .i32, .normal⟩, .atomFadd ⟨.S, 0, false⟩ ⟨0, .loc, 0, false, 0, 0, .f32, .normal⟩,
    .copy ⟨.S, 0, false⟩ false false 0 0 0 0, .fence ⟨.S, 0, false⟩ .tile, .spawn ⟨.S, 0, false⟩ 0, .cancel ⟨.S, 0, false⟩ 0 1,
    .sbind ⟨.S, 0, false⟩ 0 0, .sadv ⟨.S, 0, false⟩ 0 1, .rsend ⟨.V, 0, false⟩ 0 0 .fadd, .clacq ⟨.S, 0, false⟩ 0 0 1,
    .clrel ⟨.S, 0, false⟩ 0 0 false, .phreg ⟨.S, 0, false⟩ (.here 0) .tile 1, .phdrop ⟨.S, 0, false⟩ (.here 0) 1,
    .phsig ⟨.S, 0, false⟩ (.here 0), .phrd ⟨.S, 0, false⟩ 0 (.here 0) 0, .vadd ⟨.S, 0, false⟩ ⟨.i8, .rne, false, false, false⟩ 0 0 0,
    .vfma ⟨.S, 0, false⟩ ⟨.i8, .rne, false, false, false⟩ 0 0 0 0, .vmin ⟨.S, 0, false⟩ ⟨.i8, .rne, false, false, false⟩ 0 0 0,
    .vabs ⟨.S, 0, false⟩ ⟨.i8, .rne, false, false, false⟩ 0 0, .vcmp ⟨.S, 0, false⟩ .eq ⟨.i8, .rne, false, false, false⟩ 0 0 0,
    .vsel ⟨.S, 0, false⟩ 0 0 0 0, .vshl ⟨.S, 0, false⟩ .i8 0 0 0, .vcvt ⟨.S, 0, false⟩ ⟨.i8, .rne, false, false, false⟩ .i16 0 0,
    .vnarrow ⟨.S, 0, false⟩ ⟨.i8, .rne, false, false, false⟩ .i32 0 0 none, .vexp2 ⟨.S, 0, false⟩ ⟨.f32, .rne, false, false, false⟩ 0 0,
    .vredsum ⟨.S, 0, false⟩ ⟨.i32, .rne, false, false, false⟩ 0 0, .vredmax ⟨.S, 0, false⟩ ⟨.i32, .rne, false, false, false⟩ 0 0,
    .vperm ⟨.S, 0, false⟩ 0 0 0, .vext ⟨.S, 0, false⟩ .i8 0 0 0, .scacc ⟨.M, 0, false⟩ none 0 0 .rne false, .vdefer ⟨.S, 0, false⟩ 0 0 0 0,
    .vdrain ⟨.S, 0, false⟩ 0 0 0 0, .mnest ⟨.S, 0, false⟩ 0, .mblkBf16 ⟨.V, 0, false⟩ ⟨0, 0, 0, 0, 0, 0, 0⟩,
    .mdrain ⟨.S, 0, false⟩ .f32 .rne false 0 0 0 0 0, .touch ⟨.S, 0, false⟩ 0 0, .blockCommit] : List Instr).all (fun i => !i.wf) = true := by decide

/-- Every check of well-formedness refuses some term: types, codes, modifier bits and limits. -/
theorem test_ill_formed_operands : ([
    .add ⟨.S, 0, false⟩ .f32 false 1 1 1, .mul ⟨.S, 0, false⟩ .bf16 1 1 1, .shl ⟨.S, 0, false⟩ .i4x 1 1 1, .clz ⟨.S, 0, false⟩ .f32 1 1,
    .cmp ⟨.S, 0, false⟩ .un .i8 1 1 1, .cmp ⟨.S, 0, false⟩ .eq .i8 0 1 1, .cmp ⟨.S, 0, false⟩ .eq .f32 1 1 1, .pand ⟨.S, 0, false⟩ 0 1 1,
    .addi ⟨.S, 0, false⟩ .f32 1 1 (.short 0), .shli ⟨.S, 0, false⟩ .i8 1 1 8, .shri ⟨.S, 0, false⟩ .i64 1 1 64, .shri ⟨.S, 0, false⟩ .f32 1 1 0,
    .cmpi ⟨.S, 0, false⟩ .un .i8 1 1 (.short 0), .cmpi ⟨.S, 0, false⟩ .eq .i8 0 1 (.short 0), .bfx ⟨.S, 0, false⟩ .i32 1 1 0 0,
    .bfx ⟨.S, 0, false⟩ .i64 1 1 1 63, .bfi ⟨.S, 0, false⟩ 1 1 63 1, .mfc ⟨.S, 0, false⟩ 1 7, .mtc ⟨.S, 0, false⟩ 0x50 1,
    .lstamp ⟨.S, 0, false⟩ 5 0 0, .lseed ⟨.S, 0, false⟩ false 0 (.long 0 0x10000), .ltag ⟨.S, 0, false⟩ .p 0 16,
    .ld ⟨.A, 0, false⟩ .f32 .loc 0 (.m0 0 0) 0 .normal, .ld ⟨.A, 0, false⟩ .i8 .glob 0 (.m0 0 0) 1 .normal,
    .st ⟨.A, 0, false⟩ .f32 .loc 0 (.m0 0 0) .normal, .vld ⟨.A, 0, false⟩ .i64 .loc 0 (.m0 0 0) 0 .normal,
    .vld ⟨.A, 0, false⟩ .i8 .tile 0 (.m0 0 0) 3 .normal, .vst ⟨.A, 0, false⟩ .n64 .loc 0 (.m0 0 0) .normal,
    .vgath ⟨.A, 0, false⟩ .i4x 0 0 0 0 0 .normal, .vscat ⟨.A, 0, false⟩ .i64 0 0 0 0 .normal, .ldl ⟨.A, 0, false⟩ .f8e4 0 (.m0 0 0) .normal,
    .bfins ⟨.A, 0, false⟩ ⟨0, .loc, 0, false, 0, 0, .i32, .normal⟩, .ffcs ⟨.A, 0, false⟩ ⟨0, .loc, 0, false, 0, 0, .n64, .normal⟩,
    .ffcs ⟨.A, 0, false⟩ ⟨0, .loc, 0, true, 1, 0, .n64, .normal⟩, .plset ⟨.A, 0, false⟩ ⟨0, .loc, 0, false, 0, 0, .n32, .normal⟩,
    .mwait ⟨.A, 0, false⟩ .i8 0 (.m0 0 0) 0 .normal, .mwait ⟨.A, 0, false⟩ .i32 0 (.m1 0 0 0) 0 .normal,
    .atomAdd ⟨.A, 0, false⟩ ⟨0, .loc, 0, false, 0, 0, .i16, .normal⟩, .atomAdd ⟨.A, 0, false⟩ ⟨0, .loc, 0, false, 1, 0, .i32, .normal⟩,
    .atomCas ⟨.A, 0, false⟩ ⟨0, .loc, 0, false, 0, 0, .n8, .normal⟩, .atomFadd ⟨.A, 0, false⟩ ⟨0, .loc, 0, false, 4, 0, .f32, .normal⟩,
    .atomFadd ⟨.A, 0, false⟩ ⟨0, .slice, 0, false, 0, 0, .f32, .normal⟩, .atomFadd ⟨.A, 0, false⟩ ⟨0, .loc, 0, false, 0, 0, .i32, .normal⟩,
    .fence ⟨.A, 0, false⟩ .context, .drain ⟨.A, 0, false⟩ .context, .cancel ⟨.A, 0, false⟩ 0 0, .ccrd ⟨.A, 0, false⟩ 0 0 5,
    .sadv ⟨.A, 0, false⟩ 0 0, .clacq ⟨.A, 0, false⟩ 0 0 0, .clupg ⟨.A, 0, false⟩ 0 0 7, .phreg ⟨.A, 0, false⟩ (.here 0) .domain 1,
    .phreg ⟨.A, 0, false⟩ (.here 0) .tile 0, .phdrop ⟨.A, 0, false⟩ (.here 0) 0, .phrd ⟨.A, 0, false⟩ 0 (.here 0) 3,
    .vadd ⟨.V, 0, false⟩ ⟨.bf16, .rne, false, false, false⟩ 0 0 0, .vadd ⟨.V, 0, false⟩ ⟨.i8, .rtz, false, false, false⟩ 0 0 0,
    .vfma ⟨.V, 0, false⟩ ⟨.i8, .rne, true, false, false⟩ 0 0 0 0, .vmin ⟨.V, 0, false⟩ ⟨.f32, .rtz, false, false, false⟩ 0 0 0,
    .vmin ⟨.V, 0, false⟩ ⟨.i8, .rne, true, false, false⟩ 0 0 0, .vabs ⟨.V, 0, false⟩ ⟨.n8, .rne, false, false, false⟩ 0 0,
    .vabs ⟨.V, 0, false⟩ ⟨.f32, .rne, false, false, true⟩ 0 0, .vcmp ⟨.V, 0, false⟩ .un ⟨.i8, .rne, false, false, false⟩ 0 0 0,
    .vshl ⟨.V, 0, false⟩ .f32 0 0 0, .vcvt ⟨.V, 0, false⟩ ⟨.i8, .rne, false, false, false⟩ .i8 0 0,
    .vcvt ⟨.V, 0, false⟩ ⟨.i64, .rne, false, false, false⟩ .i8 0 0, .vcvt ⟨.V, 0, false⟩ ⟨.i8, .rne, false, false, false⟩ .i4x 0 0,
    .vnarrow ⟨.V, 0, false⟩ ⟨.i32, .rne, false, false, false⟩ .i32 0 0 none, .vnarrow ⟨.V, 0, false⟩ ⟨.i8, .rne, false, false, false⟩ .bf16 0 0 none,
    .vexp2 ⟨.V, 0, false⟩ ⟨.f32, .rtz, false, false, false⟩ 0 0, .vrcp ⟨.V, 0, false⟩ ⟨.i32, .rne, false, false, false⟩ 0 0,
    .vredsum ⟨.V, 0, false⟩ ⟨.f32, .dither, false, false, false⟩ 0 0, .vredsum ⟨.V, 0, false⟩ ⟨.i8, .rne, false, false, false⟩ 0 0,
    .vredmax ⟨.V, 0, false⟩ ⟨.i32, .rne, true, false, false⟩ 0 0, .vext ⟨.V, 0, false⟩ .f32 0 0 0,
    .scacc ⟨.V, 0, false⟩ none 0 0 .rtz false, .vdefer ⟨.V, 0, false⟩ 0 63 1 0, .vdrain ⟨.V, 0, false⟩ 61 0 3 0,
    .mdrain ⟨.M, 0, false⟩ .i8 .rne false 0 0 0 0 0, .mdrain ⟨.M, 0, false⟩ .f32 .rne false 0 0 0 1 63] : List Instr).all
      (fun i => !i.wf) = true := by decide

/-! ## Single steps, with results that the manual prints -/

/-- A context of site 0 whose registers x1, x2, x3 hold the given words, with two accumulators and a handler at 0x1000. -/
def regs (a b c : Word) : Regs :=
  { Regs.reset with
    x := ((Regs.reset.x.set 1 ⟨a, 0, false⟩).set 2 ⟨b, 0, false⟩).set 3 ⟨c, 0, false⟩
    acc := [Acc.reset, Acc.reset]
    tvec := 0x1001 }

/-- A context on those registers, at rest at its first bundle. -/
def ctx (r : Regs) : Ctx := { Ctx.reset with work := r, comm := r, cur := Block.fresh 0 0 0 r PSum.reset [] 0 Engine.reset false }

/-- A machine whose context in focus has registers x1, x2 and x3 at the given words. -/
def with3 (a b c : Word) : State := { State.reset with ctx := ctx (regs a b c) }

/-- The latest result in flight after an instruction: when it is due, where it lands, its value and its flags. -/
def gives (s : State) (i : Instr) : Option (Nat × Dest × Payload × Flags) :=
  match exec i s with
  | .next t => t.ctx.flight.getLast?.map fun f => (f.due, f.dest, f.pay, f.flags)
  | _ => none

def hs : Hdr := ⟨.S, 0, false⟩
def ha : Hdr := ⟨.A, 0, false⟩
def hv : Hdr := ⟨.V, 0, false⟩
def hm : Hdr := ⟨.M, 0, false⟩

/-- R126, worked example: x6 = 0x7FFF_FFF0 and x7 = 0x20. -/
theorem test_add : gives (with3 0x7FFFFFF0 0x20 0) (.add hs .i32 false 5 1 2) = some (1, .x 5, .word 0xFFFFFFFF80000010, 0) := by decide
theorem test_add_sat : gives (with3 0x7FFFFFF0 0x20 0) (.add hs .i32 true 5 1 2) = some (1, .x 5, .word 0x7FFFFFFF, Flags.SAT) := by decide
/-- R126: `max.n8` and `max.i8` of 0x80 and 0x7F. -/
theorem test_max_n8 : gives (with3 0x80 0x7F 0) (.max hs .n8 5 1 2) = some (1, .x 5, .word 0x80, 0) := by decide
theorem test_max_i8 : gives (with3 0x80 0x7F 0) (.max hs .i8 5 1 2) = some (1, .x 5, .word 0x7F, 0) := by decide
/-- R127, worked example: −7 by 2, and a division by zero. -/
theorem test_div : gives (with3 0xFFFFFFFFFFFFFFF9 2 0) (.div hs .i32 5 1 2) = some (20, .x 5, .word 0xFFFFFFFFFFFFFFFD, 0) := by decide
theorem test_div_zero : gives (with3 0xFFFFFFFFFFFFFFF9 0 0) (.div hs .n32 5 1 2) = some (20, .x 5, .word 0xFFFFFFFF, Flags.DZ) := by decide
theorem test_rem : gives (with3 0xFFFFFFFFFFFFFFF9 2 0) (.rem hs .i32 5 1 2) = some (20, .x 5, .word 0xFFFFFFFFFFFFFFFF, 0) := by decide
theorem test_rem_zero : gives (with3 0xFFFFFFFFFFFFFFF9 0 0) (.rem hs .n32 5 1 2) = some (20, .x 5, .word 0xFFFFFFF9, Flags.DZ) := by decide
/-- R128: 0x80 shifted right by 1. -/
theorem test_shr : gives (with3 0x80 1 0) (.shr hs .i8 5 1 2) = some (1, .x 5, .word 0x40, 0) := by decide
theorem test_sra : gives (with3 0x80 1 0) (.sra hs .i8 5 1 2) = some (1, .x 5, .word 0xFFFFFFFFFFFFFFC0, 0) := by decide
/-- R129: `movi x9, -2`, and `andi` with its immediate extended by zeros. -/
theorem test_movi : gives (with3 0 0 0) (.movi hs 9 (.short 0xFFFE)) = some (1, .x 9, .word 0xFFFFFFFFFFFFFFFE, 0) := by decide
theorem test_andi : gives (with3 0xFFFFFFFFFFFFFFFE 0 0) (.andi hs 9 1 (.short 0xFFFE)) = some (1, .x 9, .word 0xFFFE, 0) := by decide
/-- R130: only the low 32 bits are compared. -/
theorem test_cmp : gives (with3 0x100000005 6 0) (.cmp hs .lt .i32 4 1 2) = some (2, .p 4, .bit true, 0) := by decide
/-- R132, worked example. -/
theorem test_bfx_n64 : gives (with3 0xABC123 0 0) (.bfx hs .n64 5 1 12 7) = some (1, .x 5, .word 0xBC, 0) := by decide
theorem test_bfx_i64 : gives (with3 0xABC123 0 0) (.bfx hs .i64 5 1 12 7) = some (1, .x 5, .word 0xFFFFFFFFFFFFFFBC, 0) := by decide
/-- R142: `loopi 3` pushes its level one cycle later. -/
theorem test_loopi : gives (with3 0 0 0) (.loopi hs 3 false) = some (1, .loop, .push ⟨3, 0, 1, 16⟩, 0) := by decide
/-- Table 6.5: the reset value of ctl.rwin, which the custodian context may read. -/
theorem test_mfc : gives { with3 0 0 0 with who := ⟨0, 3⟩ } (.mfc hs 5 0x31) = some (1, .x 5, .word 0x100000, 0) := by decide
/-- R312, R313: the constants of `scacc` and `mzero`. -/
theorem test_opConst : opConst .V 0x60 = 0x9E370360 ∧ opConst .M 0x04 = 0x9E370404 := by decide
/-- R61, R163: the reduction of no lane but one, of −0.0, keeps its sign. -/
theorem test_identity : redIdentity .fadd = 0x80000000 ∧ redIdentity .imin = 0x7FFFFFFF := by decide
/-- R62: max(+0.0, −0.0) = +0.0. -/
theorem test_fmax_zero : Ex.max (.fin false 0 0) (.fin true 0 0) = .fin false 0 0 := by decide
/-- R47, worked example: bytes 0x5B, 0xD8 and 0x8F, scaled by 2^6. -/
theorem test_i4x : i4xPair 0x5B = (64 * -5, 64 * 5) ∧ i4xPair 0xD8 = (64 * -16, 0) ∧ i4xPair 0x8F = (64 * -1, 64 * -8) := by decide
/-- The state after an instruction, where it answers one. -/
def after (s : State) (i : Instr) : Option State :=
  match exec i s with
  | .next t => some t
  | _ => none

/-- R136: `trap 0x1234` in a context with a handler leaves its cause and value and goes there. -/
theorem test_trap : (after (with3 0 0 0) (.trap hs 0x1234)).map (fun t => (t.ctx.cause, t.ctx.tval, t.ctx.pc, t.ctx.ih))
    = some (0x2134, 0x1234, 0x1000, true) := by decide
/-- R118: `eret` outside a handler raises the privilege fault. -/
theorem test_eret : (after (with3 0 0 0) (.eret hs)).map (·.ctx.cause) = some 0x0402 := by decide
/-- R222: a misaligned load takes the alignment fault with its address. -/
theorem test_ld_misaligned : (after (with3 2 0 0) (.ld ha .i32 .loc 5 (.m0 1 0) 0 .normal)).map (fun t => (t.ctx.cause, t.ctx.tval))
    = some (0x0B01, 2) := by decide
/-- R224: a store is held in the buffer with its bytes, little-endian; R223: a load of memory that nothing has written. -/
theorem test_st : (after (with3 8 0x11223344 0) (.st ha .i32 .loc 2 (.m0 1 4) .normal)).map
    (fun t => t.ctx.cur.stores.map fun x => (x.off, x.data)) = some [(12, [0x44, 0x33, 0x22, 0x11])] := by decide
/-- R143: count 0 transfers to the exit. -/
theorem test_loop_zero : (after (with3 0 0 0) (.loop hs 1 false)).map (·.ctx.cur.xfer) = some (.label false) := by decide
/-- R141: the link of `call` is the address after the hallmark. -/
theorem test_call : gives ({ with3 0 0 0 with iss := ⟨0x6008, 0, 0x6010, 0, 1, [], [], .issued⟩ } : State) (.call hs 63 false)
    = some (1, .x 63, .word 0x6020, 0) := by decide
/-- A context whose v1 and v2 hold the two lanes given in lane 0, with vl = 1. -/
def withV (a b : Lane) : State :=
  let r := { regs 0 0 0 with
    v := (Regs.reset.v.set 1 ⟨(Vector.replicate 64 0).set 0 a, 0, false⟩).set 2 ⟨(Vector.replicate 64 0).set 0 b, 0, false⟩
    vl := 1 }
  { State.reset with ctx := ctx r }

/-- Lane 0 of the latest result, when it is due and its flags. -/
def lane0 (s : State) (i : Instr) : Option (Nat × Lane × Flags) :=
  match gives s i with
  | some (c, _, .lanes l, f) => some (c, l[0], f)
  | _ => none

/-- R52, worked example: 1 + 0.75 × 2^−7 and the tie 1 + 0.5 × 2^−7 to BF16 under RNE. -/
theorem test_vcvt : lane0 (withV 0x3F80C000 0) (.vcvt hv ⟨.bf16, .rne, false, false, false⟩ .f32 3 1)
    = some (4, 0x3F81, Flags.NX) := by decide +kernel
theorem test_vcvt_tie : lane0 (withV 0x3F808000 0) (.vcvt hv ⟨.bf16, .rne, false, false, false⟩ .f32 3 1)
    = some (4, 0x3F80, Flags.NX) := by decide +kernel
/-- R60: x − x is +0.0 under RNE and −0.0 under RDN. -/
theorem test_vsub : lane0 (withV 0x3F800000 0x3F800000) (.vsub hv ⟨.f32, .rdn, false, false, false⟩ 3 1 2) = some (3, 0x80000000, 0) := by decide +kernel
theorem test_vadd : lane0 (withV 0x3F800000 0x40000000) (.vadd hv ⟨.f32, .rne, false, false, false⟩ 3 1 2) = some (3, 0x40400000, 0) := by decide +kernel
/-- R45: the product of 0 and ∞ is the canonical NaN with NV. -/
theorem test_vmul : lane0 (withV 0 0x7F800000) (.vmul hv ⟨.f32, .rne, false, false, false⟩ 3 1 2) = some (3, 0x7FC00000, Flags.NV) := by decide +kernel

/-! ## Witnesses: for each statement, states and operands that meet the hypotheses of its clauses

A witness whose hypotheses are only that the form may issue stands once, for the registers named. -/

/-- The hypotheses of the arithmetic, logic, compare, predicate and vector results: nothing is pending, x0 and x63 included. -/
theorem witness_results :
    State.reset.mayIssue hs [.x 63, .x 1, .x 0] ∧ State.reset.mayIssue hs [.x 1, .x 2, .p 15, .x 5] ∧ State.reset.mayIssue hs [.x 1, .x 63]
    ∧ State.reset.mayIssue hs [.x 1, .x 2, .p 1] ∧ State.reset.mayIssue hs [.x 1, .p 15] ∧ State.reset.mayIssue hs [.p 0, .p 15, .p 1]
    ∧ State.reset.mayIssue hs [.x 0] ∧ State.reset.mayIssue hs [.x 1, .x 5, .x 5] ∧ State.reset.mayIssue ha [.x 1, .x 2, .x 3]
    ∧ State.reset.mayIssue hs [] := by
  refine ⟨?_, ?_, ?_, ?_, ?_, ?_, ?_, ?_, ?_, ?_⟩ <;> exact ⟨by decide, by decide⟩

/-- DivRemResults: a zero divisor, the least dividend by −1, and a plain pair. -/
theorem witness_div :
    Fmt.i8.opnd ((with3 5 0x100 0).xval 2) = 0
    ∧ (Fmt.i8.opnd ((with3 0x80 0xFF 0).xval 1) = -(2 ^ (Fmt.i8.width - 1)) ∧ Fmt.i8.opnd ((with3 0x80 0xFF 0).xval 2) = -1)
    ∧ (Fmt.n64.opnd ((with3 7 2 0).xval 2) ≠ 0 ∧ ¬(Fmt.n64.isSignedInt = true ∧ Fmt.n64.opnd ((with3 7 2 0).xval 1) = -(2 ^ 63)
      ∧ Fmt.n64.opnd ((with3 7 2 0).xval 2) = -1)) := by decide

/-- SelectCountResults: the counts of no bit, of the highest and of the lowest. -/
theorem witness_counts : ((with3 0x100 0x80 1).xval 1).toNat % 2 ^ Fmt.i8.width = 0 ∧ ((with3 0x100 0x80 1).xval 2).toNat % 2 ^ Fmt.i8.width ≠ 0
    ∧ ((with3 0x100 0x80 1).xval 3).toNat % 2 ^ Fmt.i8.width ≠ 0 := by decide

/-- BitFieldResults: the widest field, and the topmost bit. -/
theorem witness_fields : (0 : BitVec 6).toNat + (63 : BitVec 6).toNat < 64 ∧ (63 : BitVec 6).toNat + (0 : BitVec 6).toNat < 64 := by decide

/-- ControlRegisterResults: a register that may be written, one that may be read, and one that a program context may not reach. -/
theorem witness_ctl : ctlAccess State.reset.who.cid 0x03 = .rw ∧ ctlAccess State.reset.who.cid 0x20 = .ro
    ∧ ctlAccess State.reset.who.cid 0x31 = .none := by decide

/-- A machine with one flag delivered and masked in. -/
def flagged : State := { with3 0 0 0 with ctx := { ctx (regs 0 0 0) with work := { regs 0 0 0 with flags := 1, fmask := 1 } } }

/-- NopFencesAndDrains: no flag masked in; nothing undrained; a write under way; a load pending; a covered refusal recorded. -/
theorem witness_fences :
    State.reset.ctx.work.flags &&& State.reset.ctx.work.fmask = 0
    ∧ (State.reset.ctx.closings = [] ∧ (∀ w ∈ State.reset.work, w.src = State.reset.who → w.write = false) ∧ State.reset.ctx.refusals = [])
    ∧ (∃ w ∈ ({ State.reset with work := [⟨⟨0, 0⟩, .host, true, false, true, .blockCommit⟩] } : State).work, w.src = ⟨0, 0⟩ ∧ w.write = true)
    ∧ (Pend.isLoad ⟨0, .msg, [.x 1], .scalar .i8, false, 1, 0, true, none⟩ = true ∧ ¬(State.reset.iss.ids ≤ 0))
    ∧ scopeRank (⟨.tile, 8⟩ : Refusal_).scope ≤ scopeRank .device ∧ (with3 0 0 0).trapsEnter := by
  refine ⟨by decide, ⟨rfl, by decide, rfl⟩, by decide, by decide, by decide, by decide, by decide, by decide⟩

/-- SystemFormTraps and FatalTrapEndsTask: a handler installed and a flag masked in; no handler; a task already in its handler. -/
theorem witness_traps :
    (flagged.trapsEnter ∧ flagged.mayIssue hs [] ∧ flagged.ctx.work.flags &&& flagged.ctx.work.fmask ≠ 0 ∧ flagged.ctx.work.guardPoison hs = false)
    ∧ (State.reset.mayIssue hs [] ∧ State.reset.ctx.closings = [] ∧ State.reset.ctx.comm.tvec.getLsbD 0 = false) := by
  refine ⟨⟨⟨rfl, by decide, rfl⟩, ⟨by decide, by decide⟩, by decide, by decide⟩, ⟨by decide, by decide⟩, rfl, by decide⟩

/-- TransfersTaken, LoopForms, ReturnFromTrap and PoisonedTransferContained: a clean guard and register, counts 0, 1 and 2^32 − 1, free and full
loop stacks; a poisoned guard, and a poisoned register. -/
theorem witness_transfers :
    (State.reset.ctx.work.guardPoison hs = false ∧ State.reset.mayIssue hs [.x 1] ∧ (State.reset.ctx.work.getX 1).poison = false)
    ∧ (State.reset.ctx.work.levels < 4 ∧ ({ Regs.reset with loops := Vector.replicate 4 ⟨1, 0, 1, 0⟩ } : Regs).levels = 4)
    ∧ (((with3 0xFFFFFFFF 0 0).xval 1).setWidth 32).toNat + (1 : BitVec 3).toNat = 2 ^ 32
    ∧ (((with3 0x500000001 0 0).xval 1).setWidth 32 ≠ (0 : BitVec 32) ∧ ((with3 0x500000000 0 0).xval 1).setWidth 32 = (0 : BitVec 32))
    ∧ ({ Regs.reset with p := Regs.reset.p.set 3 ⟨true, 0, true⟩ } : Regs).guardPoison ⟨.S, 3, false⟩ = true
    ∧ (({ Regs.reset with x := Regs.reset.x.set 9 ⟨8, 0, true⟩ } : Regs).getX 9).poison = true
    ∧ (State.reset.ctx.awaited [.p 3] = none ∧ State.reset.ctx.awaited [.p 3, .x 9] = none) := by
  refine ⟨⟨by decide, ⟨by decide, by decide⟩, by decide⟩, by decide, by decide, by decide, by decide, by decide, by decide, by decide⟩

/-- LineageForms and AuditForms: an accumulator of the allotment, a granule read inside the pool, a drift beyond its threshold and one
within it, a guard bit set and one clear. -/
theorem witness_lineage :
    (1 : BitVec 6).toNat < (with3 0 0 0).ctx.work.acc.length ∧ (with3 0 0 0).inPad 0x1000 1 = true ∧ (with3 0 0 0).readHeld [(0x1000, 1)] = false
    ∧ ((State.reset.ctx.comm.dthr.toNat : Int) < |((0 : Int) - 0x1001)| ∧ |((0 : Int) - 0x1000)| ≤ (State.reset.ctx.comm.dthr.toNat : Int))
    ∧ (1 : BitVec 256).getLsbD 0 = true ∧ State.reset.ctx.guardMask.getLsbD 255 = false := by decide

/-- A translation held by the first-level TLB of site 0 for the addresses below 2^21: device memory, or a device page of the host. -/
def paged (leaf : Word) : State := { with3 0x40 0x80 0xFFFFF with tlb := [⟨0, 0, 0, 21, leaf⟩] }

/-- LocalLoads, LocalStores and ScatterStores: the last bytes of the pool, a whole vector, and every lane of a gather. -/
theorem witness_local :
    (with3 0x40 0 0).mayIssue ha (MemOp.srcs (.m0 1 0) ++ [.x 5]) ∧ (with3 0x40 0 0).localOk (MemOp.addr (.m0 1 0) (with3 0x40 0 0).xval) 8 8
    ∧ (with3 0x40 0 0).readHeld [(localOff 0x40, 8)] = false ∧ (with3 0x40 0 0).writeHeld [(localOff 0x40, 8)] = false
    ∧ (with3 0x40 0 0).ctx.cur.bytes + 8 ≤ 4096
    ∧ (with3 0x40 0 0).mayIssue ha (MemOp.srcs (.m0 1 0) ++ [.v 5]) ∧ (with3 0x40 0 0).localOk 0x40 ((with3 0x40 0 0).vl * 4) 4
    ∧ (with3 0x40 0 0).readHeld [(localOff 0x40, (with3 0x40 0 0).vl * 4)] = false
    ∧ (withV 4 8).mayIssue ha [.x 1, .v 1, .v 3] ∧ ((withV 4 8).laneAddrs 1 1 0 4).all (fun a => a.toNat % 4 == 0 && (withV 4 8).inPad (localOff a) 4) = true
    ∧ (withV 4 8).readHeld (((withV 4 8).laneAddrs 1 1 0 4).map fun a => (localOff a, 4)) = false
    ∧ (withV 4 8).writeHeld (((withV 4 8).laneAddrs 1 1 0 4).map fun a => (localOff a, 4)) = false := by
  refine ⟨⟨by decide, by decide⟩, ⟨by decide +kernel, by decide +kernel⟩, by decide +kernel, by decide +kernel, by decide, ⟨by decide, by decide⟩,
    ⟨by decide +kernel, by decide +kernel⟩, by decide +kernel, ⟨by decide, by decide⟩, by decide +kernel, by decide +kernel, by decide +kernel⟩

/-- RemoteScalarLoads: another tile's scratchpad; a device page; a block ready; and a miss that goes to memory. -/
theorem witness_remote_scalar :
    (with3 0x400040 0 0).locate .tile 0x400040 4 4 .read = .ok (.away [⟨0, 4, .pool 1, 0x40, false, false, 0x400040, some 1⟩])
    ∧ (paged 0x10000000000097).locate .glob 0x40 4 4 .read = .ok (.away [⟨0, 4, .host, 0x40, false, true, 0x40, none⟩])
    ∧ (paged 0x17).lineHit 0x40 4 = none
    ∧ (paged 0x17).globalLegs 0x40 .read (unitPieces 0x40 4) = .ok [⟨0, 4, .dram, 0x40, false, false, 0x40, none⟩]
    ∧ ({ paged 0x17 with tile := { Tile.reset with
          slots := Tile.reset.slots.set 3 ⟨.ready, 0, 0, 0, 1, false, 0, 0, List.replicate 128 7, [false]⟩ } } : State).lineHit 0x7C 4
        = some ([7, 7, 7, 7], false)
    ∧ (paged 0x17).msgs < 32 ∧ (paged 0x17).ctx.closings = [] ∧ (paged 0x17).ctx.cur.ncmds < 32 := by
  refine ⟨by decide +kernel, by decide +kernel, by decide +kernel, by decide +kernel, by decide +kernel, by decide +kernel, rfl, by decide⟩

/-- The legs of an access that leaves the tile. -/
def legsOf (s : State) (ea : Word) (n : Nat) (need : Need) : List Leg :=
  match s.locate .glob ea n 4 need with
  | .ok (.away ls) => ls
  | _ => []

/-- RemoteVectorAndDeviceLoads and RemoteStores: a vector over two units of memory, one of a device page, a store of one leg, and one that
crosses a boundary. -/
theorem witness_remote_vector :
    ((legsOf (paged 0x17) 0x40 256 .read).map (·.dev) = [false, false])
    ∧ ((legsOf (paged 0x10000000000097) 0x40 256 .read).map (·.dev) = [true, true])
    ∧ legsOf (paged 0x17) 0x40 4 .write = [⟨0, 4, .dram, 0x40, false, false, 0x40, none⟩]
    ∧ (legsOf (paged 0x10000000000017) 0x40 4 .write).map (·.crosses) = [true]
    ∧ (match (with3 0 0 0).locate .slice 0x800000 256 4 .write with
        | .ok (.away l) => l | _ => []) = [⟨0, 256, .slice 1, 0, false, false, 0x800000, none⟩] := by decide +kernel

/-- AccessChecks, at the boundaries: the last bytes of the pool and one past them, tiles 271 and 272, offset 2^22, slices 23 and 24. -/
theorem witness_access :
    let s := with3 2 0 0
    (localOff (BitVec.ofNat 64 (s.padSize s.who.pad - 8)) + 8 ≤ s.padSize s.who.pad)
    ∧ s.padSize s.who.pad < localOff (BitVec.ofNat 64 (s.padSize s.who.pad - 4)) + 8
    ∧ (s.siteOf 271).isSome = true ∧ s.siteOf 272 = none
    ∧ 2 ^ 22 < localOff 0x3FFFFC + 8 ∧ ((0xBFFFFF8 : Word).extractLsb' 23 5).toNat < 24 ∧ 24 ≤ ((0xC000000 : Word).extractLsb' 23 5).toNat
    ∧ (s.trapsEnter ∧ s.mayIssue ha (MemOp.srcs (.m0 1 0) ++ [.x 5]) ∧ (MemOp.addr (.m0 1 0) s.xval).toNat % (Fmt.i32.width / 8) ≠ 0) := by
  refine ⟨by decide +kernel, by decide +kernel, by decide +kernel, by decide +kernel, by decide, by decide, by decide, ⟨⟨rfl, by decide, rfl⟩, ⟨by decide, by decide⟩, by decide⟩⟩

/-- A machine with words placed in the scratchpad of site 0 from offset 0 on. -/
def filled (s : State) (ws : List Word) : State := s.setBytes (.pool 0) 0 (ws.flatMap fun w => leBytes 8 w.toNat)

/-- ReadModifyWriteForms, ReadModifyWriteValues and AccessesPerformed: each form; a local and a remote element; an element of the width; a
request of each kind that its home admits, up to the end of the home's bytes. -/
theorem witness_rmw :
    rmwForms.length = 12 ∧ (with3 0x40 0 0).mayIssue ha [.x 2, .x 1, .x 3] ∧ (with3 0x40 0 0).mayIssue ha [.x 2, .x 3, .x 1, .x 2]
    ∧ ((with3 0x40 0 0).localOk 0x40 4 4 ∧ (with3 0x40 0 0).writeHeld [(localOff 0x40, 4)] = false)
    ∧ (with3 0x400040 0 0).locate .tile 0x400040 4 4 .both = .ok (.away [⟨0, 4, .pool 1, 0x40, false, false, 0x400040, some 1⟩])
    ∧ (0xFFFFFFFF < 2 ^ Fmt.i32.width) ∧ (RmwOp.takesXs .cas ∧ ¬RmwOp.takesXs .add)
    ∧ (homeMissing .host = false ∧ State.reset.canonical = true)
    ∧ ({ State.reset with ide := 0xFFFF } : State).refuses ⟨⟨0, 0⟩, 1, .host, 2 ^ 64 - 8, none, 0, 0, false, 0, .load 8⟩ = false
    ∧ ({ State.reset with ide := 0xFFFF } : State).refuses ⟨⟨0, 0⟩, 1, .host, 2 ^ 64 - 1, none, 0, 0, false, 0, .store [0xFF] 0 0 false⟩ = false
    ∧ State.reset.refuses ⟨⟨0, 0⟩, 0, .custodian 0, 8, none, 0, 0, false, 0, .rmw .add .i32 1 0 false false true 0 0 false⟩ = false := by
  refine ⟨rfl, ⟨by decide, by decide⟩, ⟨by decide, by decide⟩, ⟨⟨by decide +kernel, by decide +kernel⟩, by decide +kernel⟩, by decide +kernel, by decide,
    ⟨.inl rfl, by unfold RmwOp.takesXs; decide⟩, ⟨by decide, by decide +kernel⟩, by decide +kernel, by decide +kernel, by decide +kernel⟩

/-- MonitorWait: an element that differs, one that is equal with nothing due, a wait that a wake-up has ended, and a pre-emption due. -/
theorem witness_mwait :
    ((with3 0x40 1 0).mayIssue ha (.x 2 :: MemOp.srcs (.m0 1 0) ++ [.x 2]) ∧ (with3 0x40 1 0).localOk 0x40 4 4
      ∧ (with3 0x40 1 0).readHeld [(localOff 0x40, 4)] = false ∧ (with3 0x40 1 0).ctx.monitor = none ∧ (with3 0x40 1 0).ctx.woken = []
      ∧ ∀ w ∈ (with3 0x40 1 0).work, w.write = false)
    ∧ leNat ((with3 0x40 1 0).localBytes 0x40 4) ≠ ((with3 0x40 1 0).xval 2).toNat % 2 ^ 32
    ∧ leNat ((with3 0x40 0 0).localBytes 0x40 4) = ((with3 0x40 0 0).xval 2).toNat % 2 ^ 32
    ∧ ¬((with3 0x40 0 0).ctx.preempt = true ∨ ∃ t ∈ (with3 0x40 0 0).ctx.traps, (with3 0x40 0 0).ctx.ih = true ∨ ∀ n, t ≠ .wound n)
    ∧ (∃ w, ([⟨.A, [0, 0, 0, 0], [(0, 0)]⟩] : List Woken).find? (fun w => decide (w.slot = Slot.A)) = some w)
    ∧ (some (⟨.B, 0x40, 4, false⟩ : Monitor)).isSome = true := by
  refine ⟨⟨⟨by decide, by decide⟩, ⟨by decide +kernel, by decide +kernel⟩, by decide +kernel, rfl, rfl, by decide⟩, by decide +kernel, by decide +kernel, ?_, ⟨_, rfl⟩, rfl⟩
  rintro (h | ⟨t, h, -⟩)
  · exact absurd h (by decide)
  · exact absurd h (List.not_mem_nil)

/-- CopyCommandsListed and TaskForms: room in the lists; a record and a join block in their spaces; counter indices 4,095 and 4,096. -/
theorem witness_commands :
    State.reset.ctx.cur.ncmds < 32 ∧ State.reset.copyFull = none ∧ State.reset.mayIssue ha [.x 1, .v 2, .x 3] ∧ State.reset.msgs < 32
    ∧ State.reset.localOk 0x40 64 64 ∧ State.reset.readHeld [(0x40, 64)] = false
    ∧ ((paged 0x17).locate .glob 0x80 128 128 .both = .ok (.away [⟨0, 128, .dram, 0x80, false, false, 0x80, none⟩]))
    ∧ ((with3 4095 0 0).xval 1).toNat < 4096 ∧ 4096 ≤ ((with3 4096 0 0).xval 1).toNat := by
  refine ⟨by decide, by decide +kernel, ⟨by decide, by decide⟩, by decide +kernel, ⟨by decide +kernel, by decide +kernel⟩, by decide +kernel, by decide +kernel, by decide, by decide⟩

/-- A descriptor of Table 13.3 for 64 FP32 elements a chunk, two chunks, read at offset 0x100. -/
def descriptor : List Word := [0x23F0000000000100, 0x0008000000004000, 0x0000100000000000, 0x0000100000000000, 0x0000100000000000]
/-- A machine with port q1 bound to a stream of that shape. -/
def bound : State :=
  { with3 0 0 0 with ctx := ctx { regs 0 0 0 with ports := Regs.reset.ports.set 1 (some ⟨#v[0x23F0000000000100, 0x0008000000004000,
      0x0000100000000000, 0x0000100000000000, 0x0000100000000000], 0, 0⟩) } }

/-- StreamForms: a good descriptor; a port bound and one not; one touched in the block; an advance to the end of the walk. -/
theorem witness_streams :
    (let s := filled (with3 0 0 0) descriptor;
      s.mayIssue ha [.x 1] ∧ s.localOk (s.xval 1) 40 8 ∧ s.readHeld [(0, 40)] = false
      ∧ streamBad (Vector.ofFn fun i : Fin 5 => s.localWord (0 + 8 * i.val)) = none ∧ (3 : BitVec 3) ∉ s.ctx.cur.touched)
    ∧ (∃ b, bound.ctx.work.ports[1] = some b ∧ streamWrap b.desc = false ∧ b.pos + 2 = streamChunks b.desc)
    ∧ bound.ctx.work.ports[2] = none ∧ (1 : BitVec 3) ∈ [(1 : BitVec 3)] := by
  refine ⟨⟨⟨by decide +kernel, by decide +kernel⟩, ⟨by decide +kernel, by decide +kernel⟩, by decide +kernel, by decide +kernel, by decide⟩, ⟨_, rfl, by decide +kernel, by decide +kernel⟩, by decide +kernel, by decide⟩

/-- A machine whose tree entry 2 of site 0 adds integers from port 0 and leaves here. -/
def treed : State := { State.reset with trees := [(treeKey 0 2, { Tree.reset with cfg := 0x8041000000000000 })] }

/-- ReductionAndDeferralForms: a lane selected; an entry that admits `rsend` and `rrecv`; one that does not; the result taken. -/
theorem witness_reduction :
    (State.reset.mayIssue ha [.v 9] ∧ State.reset.mayIssue ha [.v 12, .x 6] ∧ State.reset.mayIssue hv (.v 1 :: [2, 3].map .v))
    ∧ (treeValid 0 (treed.tree 0 2).cfg = true ∧ treePart (treed.tree 0 2).cfg = treed.ctx.part ∧ treeIn (treed.tree 0 2).cfg 0 = true
      ∧ treeOp (treed.tree 0 2).cfg = some .iadd ∧ treeOut (treed.tree 0 2).cfg = 0 ∧ treed.rsendFull = none ∧ treed.rootTaken 2 = false)
    ∧ treeValid 0 (State.reset.tree 0 2).cfg = false
    ∧ ({ treed with trees := [(treeKey 0 2, { Tree.reset with cfg := 0x8041000000000000, claimed := true })] } : State).rootTaken 2 = true := by
  refine ⟨⟨⟨by decide, by decide⟩, ⟨by decide, by decide⟩, ⟨by decide, by decide⟩⟩, ⟨by decide +kernel, by decide +kernel, by decide +kernel, by decide +kernel, by decide +kernel, by decide +kernel, by decide +kernel⟩, by decide +kernel, by decide +kernel⟩

/-- ClaspForms, PhaserForms and PhaserWaits: a well-formed name and an ill-formed one; context 3; a phaser here and one of tile 1; a hold of
each kind. -/
theorem witness_units :
    (nameOk 0 = true ∧ nameOk 1 = false ∧ State.reset.claspFull = none ∧ State.reset.ctx.work.poisonOf (.x 1) = false)
    ∧ ({ State.reset with who := ⟨0, 3⟩ } : State).who.cid = 3
    ∧ State.reset.phTarget (.here 4095) 0x01 = .ok ⟨⟨0, 0⟩, Config.device, none, 0, 4095, 0, 4095⟩
    ∧ (with3 0x1FFF 0 0).phTarget (.remote 1) 0x01 = .ok ⟨⟨0, 0⟩, Config.device, some 1, 1, 4095, 0, 0x1FFF⟩
    ∧ ((with3 0x1FFF 0 0).xval 1).toNat < 2 ^ 24 ∧ (with3 0x1FFF 0 0).siteOf (0x1FFF / 4096) = some 1
    ∧ (∃ x, ([⟨.A, 1, false, none, some 5, false, false⟩] : List Hold).find? (fun x => x.slot == .A) = some x ∧ x.answer = some 5)
    ∧ (∃ x, ([⟨.A, 1, false, none, none, false, true⟩] : List Hold).find? (fun x => x.slot == .A) = some x ∧ x.answer = none ∧ x.refused = false
      ∧ x.expired = true)
    ∧ (∃ x, ([⟨.B, 1, true, some 9, none, true, false⟩] : List Hold).find? (fun x => x.slot == .B) = some x ∧ x.answer = none ∧ x.refused = true)
    ∧ State.reset.ctx.holds.find? (fun x => x.slot == .A) = none := by
  refine ⟨⟨by decide, by decide, by decide +kernel, by decide⟩, rfl, by decide +kernel, by decide +kernel, by decide, by decide +kernel, ⟨_, rfl, rfl⟩,
    ⟨_, rfl, rfl, rfl, rfl⟩, ⟨_, rfl, rfl, rfl⟩, rfl⟩

/-- A nest table of one block (Table 14.3). -/
def table : List Word := [0, 0x0001000000000000, 0x0001000000000000, 0x0001000000000000, 0x0001000000000000, 0x0001000000000000, 0x0001000000000000, 0]

/-- The vector and matrix statements: no port bound; a valid table; the shadow empty, loaded and armed; a handler; an accumulator inside and
one outside the allotment; rows inside the pool. -/
theorem witness_engine :
    (State.reset.noPorts [0, 31, 32, 63] ∧ State.reset.mayIssue hv [.v 1, .v 2, .v 3, .v 4] ∧ State.reset.mayIssue hv [.x 1, .v 2])
    ∧ (let s := filled (with3 0 0 0) table;
      s.nestBad (Vector.ofFn fun i : Fin 8 => s.localWord (0 + 8 * i.val)) = none ∧ s.readHeld [(0, 64)] = false ∧ 0 + 64 ≤ s.padSize s.who.pad)
    ∧ ((with3 0 0 0).ctx.work.shadow.st = .empty ∧ (with3 0 0 0).ctx.ih = false ∧ (with3 0 0 0).ctx.engine.run = none)
    ∧ ({ Shadow.reset with st := .loaded } : Shadow).st = .loaded ∧ ({ Shadow.reset with st := .armed } : Shadow).st ≠ .loaded
    ∧ (1 < (with3 0 0 0).ctx.work.acc.length ∧ (with3 0 0 0).ctx.work.acc.length ≤ 2) ∧ (with3 0 0 0).mayIssue hv [.v 1, .v 2, .a 1]
    ∧ (0 + 0 * 256 + 64 * 4 ≤ (with3 0 0 0).padSize (with3 0 0 0).who.pad ∧ (with3 0 0 0).writeHeld [(0, 256)] = false)
    ∧ (0 < Fmt.bf16.width / 8 ∧ State.reset.vl * (Fmt.bf16.width / 8) ≤ 256) ∧ State.reset.ctx.engine.remaining < 2 ^ 40 := by
  refine ⟨⟨by unfold State.noPorts; decide, ⟨by decide, by decide⟩, ⟨by decide, by decide⟩⟩, ⟨by decide +kernel, by decide +kernel, by decide +kernel⟩, ⟨rfl, rfl, rfl⟩, rfl, by decide,
    by decide, ⟨by decide, by decide⟩, ⟨by decide +kernel, by decide +kernel⟩, by decide +kernel, by decide +kernel⟩

/-- A machine whose phaser 5 of site 0 is in use by partition 0 with those words. -/
def phased (p : Phaser) : State := { State.reset with phasers := [(phaserKey 0 5, { p with v := true })] }
/-- A copy at work of context 0: one granule to land, counted at phaser 5 of site 0. -/
def copying : Job :=
  ⟨7, 0, ⟨.weave, 0x100, 0x200, 0x100, Vector.replicate 64 0, 5, 0⟩, ⟨⟨0, 0⟩, Config.device, none, 0, 5, 0, 5⟩, 256, true, false, [(0x100, 256)], [(0x200, 256)], 0, 1,
    false, false, [], (0, 0), []⟩

/-- PhaserEvents: a phaser in use, one not in use, another partition's; counts empty and full; a wait whose phase has passed, at the edges of
its window, and one to come; a counted copy. -/
theorem witness_phasers :
    let p := phased { Phaser.reset with phase := 0x80000000, smem := 1, wmem := 65535 }
    (p.canonical = true ∧ (p.logicalOf 0).isSome = true ∧ (p.phaser 0 5).v = true ∧ (p.phaser 0 5).part = 0)
    ∧ (p.phaser 0 6).v = false ∧ (p.phaser 0 5).part ≠ 1
    ∧ ((p.phaser 0 5).smem.toNat + (p.phaser 0 5).snext.toNat ≠ 65535 ∧ (p.phaser 0 5).smem ≠ 0 ∧ (p.phaser 0 5).wmem = 65535)
    ∧ ((phased { Phaser.reset with smem := 65534, snext := 1 }).phaser 0 5).smem.toNat
        + ((phased { Phaser.reset with smem := 65534, snext := 1 }).phaser 0 5).snext.toNat = 65535
    ∧ (((p.phaser 0 5).phase - 0).toNat ≤ 2 ^ 31 ∧ 1 ≤ ((p.phaser 0 5).phase - 0x7FFFFFFF).toNat ∧ ¬(1 ≤ ((p.phaser 0 5).phase - 0x80000000).toNat))
    ∧ ({ p with tile := { Tile.reset with jobs := [copying] } } : State).job? 0 7 = some copying := by
  refine ⟨⟨by decide +kernel, by decide +kernel, by decide +kernel, by decide +kernel⟩, by decide +kernel, by decide +kernel, ⟨by decide +kernel, by decide +kernel, by decide +kernel⟩,
    by decide +kernel, by decide +kernel, by decide +kernel⟩

/-- A machine with a lock of rank 3 on the name 0 of partition 0 in mode X (6), count 2, and a wound from rank 1, which waits. -/
def locked : State :=
  { State.reset with
    locks := [⟨0, 3, 0, 6, 2⟩]
    waiters := [⟨0, 1, 0, 6, false, true, ⟨0, 1⟩, 4⟩]
    wounds := [⟨0, 3, 0, [4], some 0, true⟩] }
/-- A clasp request of a rank for the name 0. -/
def request (rank : Nat) (f : ClForm) (mode : BitVec 3) : ClReq := ⟨⟨0, 0⟩, 9, 0, rank, 0, f, mode, false⟩

/-- ClaspAndWoundEvents and ClqryAnswers: a request in the mode held, one without an entry that is free, excluded, or wounds; releases that
leave a count, that free the entry, that stand over a lock below; a wound that stands and one that does not. -/
theorem witness_clasp :
    (locked.lockOf 0 3 0 = some ⟨0, 3, 0, 6, 2⟩ ∧ modeJoin (locked.modeOf 0 3 0) 6 = locked.modeOf 0 3 0 ∧ (2 < 65534))
    ∧ (locked.lockOf 0 1 0 = none ∧ locked.modeOf 0 1 0 = 0 ∧ modeJoin (locked.modeOf 0 1 0) 6 ≠ 0 ∧ nameParent 0 = none
      ∧ locked.locksAt (claspUnit 0) < 16384 ∧ locked.waitersAt (claspUnit 0) < 32768)
    ∧ (∃ l ∈ locked.holders 0 0, l.rank ≠ 1 ∧ 1 < l.rank ∧ compatible (locked.matrix 0) l.mode 6 = false)
    ∧ (State.reset.holders 0 0 = [] ∧ State.reset.queueOf 0 0 = [])
    ∧ ¬((false : Bool) = true ∨ 2 ≤ 1) ∧ nameBelow 0 0x4000000000000000 = true
    ∧ (∃ w ∈ locked.wounds, w.part = 0 ∧ w.rank = 3 ∧ w.name = 0 ∧ w.graced = true ∧ ∃ v ∈ locked.waiters, v.part = 0 ∧ v.name = 0 ∧ v.id ∈ w.by_)
    ∧ (locked.lockOf 0 3 0).isSome = true ∧ (State.reset.lockOf 0 3 0).isSome = false := by
  refine ⟨⟨by decide +kernel, by decide +kernel, by decide⟩, ⟨by decide +kernel, by decide +kernel, by decide +kernel, by decide +kernel, by decide +kernel, by decide +kernel⟩,
    ⟨⟨0, 3, 0, 6, 2⟩, by decide +kernel, by decide, by decide, by decide +kernel⟩, ⟨by decide +kernel, by decide +kernel⟩, by decide, by decide +kernel,
    ⟨⟨0, 3, 0, [4], some 0, true⟩, by decide, rfl, rfl, rfl, rfl, ⟨0, 1, 0, 6, false, true, ⟨0, 1⟩, 4⟩, by decide, rfl, rfl, by decide⟩, by decide +kernel, by decide +kernel⟩

/-- A record of partition 0 that starts at 0x1000 with rank 0 of ordinal 0. -/
def record (gang : Bool) (i : Nat) : RecWords :=
  #v[0x1000, 0x11, 0x22, BitVec.ofNat 64 i, 0xFFF0000000000000 ||| BitVec.ofNat 64 i, if gang then 0x20000000000 else 0, 0, 0]
/-- A task of that record. -/
def task : Task := ⟨record false 0, record false 0, 0, 0, false, none⟩
/-- A partition 0 of every tile, with records queued in class 0, a save pool of one area and an image that lists 0x1000. -/
def parted (q : List RecWords) : State :=
  { State.reset with
    parts := State.reset.parts.set 0 { Partition.reset with
      d := #v[0x8000000000000000, 0x0000000000000001, 0xFFFFFFFFFFFFFFFF, 0, 0, 0, 0, 0, 0, 0, 0, 0x1000, 1, 0, 0, 0]
      queues := (Vector.replicate 4 []).set 0 q }
    launches := [⟨0, 0, 0, 2, 2, 2, 0, false, 0, #v[0, 0, 0, 0], false⟩]
    images := [⟨0, 0x1000, 0x1000, [0x1000], []⟩]
    frames := [(0, 0)] }
/-- A machine that runs a task of rank 0 in the context in focus. -/
def running : State := { parted [] with ctx := { ctx (regs 0 0 0) with task := some task, safe := true, preempt := true } }

/-- CopyEvents: a block filling with all its bytes there; a granule that may land in the pool of an active tile; a copy that may fault; a
finished chain whose word agrees, and one whose word does not, with and without retries. -/
theorem witness_copies :
    (let s : State := { State.reset with tile := { Tile.reset with slots := Tile.reset.slots.set 0 ⟨.filling, 0, 0, 0, 0, false, 0, 0, [], []⟩ } };
      (s.slot 0 0).st = .filling ∧ (s.slot 0 0).data.length = 128 * (s.slot 0 0).lines)
    ∧ (let s : State := { State.reset with tile := { Tile.reset with jobs := [copying] } };
      s.job? 0 7 = some copying ∧ s.mayLand 0 copying = true ∧ s.canonical = true ∧ (copying.cmd.s1.extractLsb' 0 22).toNat % 256 = 0
      ∧ (s.logicalOf copying.ph.site).isSome = true ∧ tagPart (s.tagWord (.pool 0) 0x100) = copying.ph.part ∧ copying.pos + 1 = copying.units)
    ∧ (let s : State := { State.reset with ctx := { Ctx.reset with chain := some ⟨[], 1, 1, 2, some ⟨3, 0x00010001⟩⟩ } };
      ∃ ch e, (s.getCtx ⟨0, 0⟩).chain = some ch ∧ ch.last = some e ∧ ch.b * 65536 + ch.a = e.word.toNat ∧ ch.tries < e.retries.toNat)
    ∧ ¬((1 : Nat) * 65536 + 2 = (0x00010001 : BitVec 32).toNat) := by
  refine ⟨by decide +kernel, by decide +kernel, ⟨⟨[], 1, 1, 2, some ⟨3, 0x00010001⟩⟩, ⟨3, 0x00010001⟩, by decide +kernel, rfl, by decide, by decide⟩, by decide⟩

/-- A product that is due at once. -/
def product : Product := ⟨0, .i8, 0x2B, 0, 0x2000, 0, 0, 0, 0, 0⟩
/-- A result that lands in cycle `due`. -/
def flight (due : Nat) (d : Dest) (p : Payload) : Flight := ⟨due, d, p, 5, true, 1, 0⟩

/-- StreamAndArrayEvents: a chunk to fetch; a chunk to drain; a product queued, one of a nest that ends and one of a nest that goes on; a sum
due; a compare due that agrees and one that does not. -/
theorem witness_array :
    (∃ b n, bound.binding 1 = some b ∧ writePort b = false ∧ bound.ctx.nextFetch 1 b = some n ∧ (bound.readChunk b n).toOption.isSome = true)
    ∧ (let s : State := { State.reset with tile := { Tile.reset with chunks := [(0, ⟨0, 2, [(0x100, [1, 2, 3, 4])], 7, 0, false⟩)] } };
      ∃ p, s.oldestChunk ⟨0, 0⟩ = some p ∧ p.due ≤ (s.getCtx ⟨0, 0⟩).sclk ∧ ∀ q ∈ p.pieces, q.1 + q.2.length ≤ 2 ^ 22)
    ∧ (product.due ≤ State.reset.ctx.sclk ∧ State.reset.ctx.ih = false)
    ∧ (let n : Nest := ⟨#v[0, 1 <<< 48, 1 <<< 48, 1 <<< 48, 1 <<< 48, 1 <<< 48, 1 <<< 48, 0], .i8, 0x23, 0, 0⟩;
      n.next ≤ State.reset.ctx.sclk ∧ nestBlocks n.table ≤ n.pos + 1)
    ∧ (let n : Nest := ⟨#v[0, 2 <<< 48, 1 <<< 48, 1 <<< 48, 1 <<< 48, 1 <<< 48, 1 <<< 48, 0], .i8, 0x23, 0, 0⟩; n.pos + 1 < nestBlocks n.table)
    ∧ ([flight 0 .ps (.psum PSum.reset)].filter (fun g => decide (g.due ≤ 0 ∧ g.dest = .ps)) = [flight 0 .ps (.psum PSum.reset)])
    ∧ (∃ seed c v, (flight 0 .touch (.compare 1 2 3)).pay = .compare seed c v ∧ v ≠ c)
    ∧ (∀ f ∈ [flight 0 .touch (.compare 1 2 2)], f.due ≤ 0 → f.dest = .touch → ∃ seed c, f.pay = .compare seed c c) := by
  refine ⟨⟨_, 0, rfl, by decide +kernel, by decide +kernel, by decide +kernel⟩, ⟨_, rfl, by decide, by decide⟩, by decide, by decide +kernel, by decide +kernel, by decide +kernel,
    ⟨1, 2, 3, rfl, by decide⟩, ?_⟩
  intro f hf _ _
  rw [List.mem_singleton.mp hf]
  exact ⟨1, 2, rfl⟩

/-- AnswerEvents: a result awaited whose cycle has come; a monitor armed; a wait whose limit has passed; a page that a walk finds. -/
theorem witness_answers :
    (let p : Pend := ⟨3, .msg, [.x 5], .scalar .i32, false, 0, 0, true, none⟩;
      let x : Ctx := { Ctx.reset with pend := [p] };
      x.pend.filter (·.id == 3) = [p] ∧ (∀ q ∈ x.pend, q.held = none) ∧ x.takes p = true)
    ∧ (∃ slot off n, (some (⟨.A, 0x40, 4, true⟩ : Monitor) : Option Monitor) = some ⟨slot, off, n, true⟩)
    ∧ (∃ h ∈ ([⟨.A, 1, false, some 0, none, false, false⟩] : List Hold), h.limit = some 0 ∧ h.answer = none)
    ∧ ((0 : BitVec 20) ∉ (paged 0x17).tearing ∧ ((paged 0x17).leafOf 0 0 0 0x40).isSome = true) := by
  refine ⟨by decide +kernel, ⟨.A, 0x40, 4, rfl⟩, ⟨⟨.A, 1, false, some 0, none, false, false⟩, List.mem_singleton.mpr rfl, rfl, rfl⟩, by decide +kernel⟩

/-- A packet of partition 0 that carries ones. -/
def packet : Packet := ⟨Vector.replicate 64 1, .iadd, 0, false, 0, 0, 0, 0, false⟩

/-- ReductionEvents: an entry that takes the packet and is complete with it; one that owes the port; one not configured; a round to close, a
result to enter the buffer. -/
theorem witness_trees :
    (let x := treed.tree 0 2; treeValid 0 x.cfg = true ∧ treePart x.cfg = packet.part ∧ treeIn x.cfg 0 = true ∧ x.owe 0 = 0 ∧ x.port 0 = none
      ∧ ({ x with ports := x.ports.setIfInBounds 0 (some packet) } : Tree).arr = x.cfg.extractLsb' 54 5)
    ∧ ¬(treeValid 0 (State.reset.tree 0 2).cfg = true)
    ∧ ({ Tree.reset with owed := Tree.reset.owed.set 4 1 } : Tree).owe 4 ≠ 0
    ∧ (let y : Tree := { Tree.reset with cfg := 0x80C1000100000000, ports := Tree.reset.ports.set 0 (some packet) };
      treeValid 0 y.cfg = true ∧ y.cfg.extractLsb' 32 16 ≠ 0 ∧ y.arr ≠ 0 ∧ y.stuck = none)
    ∧ (∃ q, ({ Tree.reset with stuck := some packet } : Tree).root = none ∧ ({ Tree.reset with stuck := some packet } : Tree).stuck = some q)
    ∧ State.reset.canonical = true := by
  refine ⟨by decide +kernel, by decide +kernel, by decide +kernel, by decide +kernel, ⟨packet, rfl, rfl⟩, by decide +kernel⟩

/-- A block that closes: hallmark fold `f`, its own fold 0, listed or not, re-run or not. -/
def closing (f : Word) (listed rerun : Bool) (stale : Option (Nat × BitVec 10)) : Closing :=
  ⟨{ Block.fresh 0 0x2000 0 (regs 0 0 0) PSum.reset [] 0 Engine.reset rerun with stale := stale, stores := [⟨2 ^ 22 - 1, [7], 0, 0, false⟩] }, regs 0 0 0, [], 0, 0x2008,
    f, 0x2018, listed, false⟩

/-- ContextEvents and LineageTrapValue: a block that commits; one that fails at first and at its second run, with a stale granule, without and
unlisted; a trap due; a context frozen; a share ended for the custodian; a site active and one not; a task to save. -/
theorem witness_contexts :
    (let x := closing 0 true false none; x.blk.taint = none ∧ x.blk.xfer ≠ .eret ∧ x.listed = true ∧ x.blk.lf = x.hall.setWidth 32 ∧ x.blk.cmds = []
      ∧ ∀ y ∈ x.blk.stores, y.off + y.data.length ≤ 2 ^ 22)
    ∧ (let x := closing 1 true true (some (0x100, 3)); x.blk.rerun = true ∧ x.listed = true ∧ x.blk.lf ≠ x.hall.setWidth 32 ∧ x.blk.stale = some (0x100, 3))
    ∧ ((closing 1 true true none).blk.stale = none ∧ (closing 0 false true none).listed = false ∧ (closing 1 true false none).blk.rerun = false)
    ∧ ((with3 0 0 0).ctx.comm.tvec.getLsbD 0 = true ∧ (with3 0 0 0).ctx.ih = false ∧ (with3 0 0 0).ctx.atBoundary = true
      ∧ (with3 0 0 0).ctx.closings = [] ∧ (with3 0 0 0).tile.replayLeft = 0 ∧ (with3 0 0 0).ctx.halted = false)
    ∧ nextTrap ([.wound 5].filter (ATrap.admitted false)) = some (.wound 5) ∧ nextTrap ([.cancel 1].filter (ATrap.admitted true)) = some (.cancel 1)
    ∧ (∃ f, ({ Ctx.reset with frozen := some .queue } : Ctx).frozen = some f ∧ f ≠ .monitor ∧ f ≠ .phaser ∧ f ≠ .bank)
    ∧ ({ with3 0 0 0 with ctx := { ctx (regs 0 0 0) with closings := [closing 0 true false none] } } : State).walking = false
    ∧ ((State.reset.logicalOf 0).isSome = true ∧ (State.reset.logicalOf 132).isSome = false)
    ∧ (recGang task.words = false ∧ (running.getCtx ⟨0, 0⟩).preempt = true ∧ running.savable ⟨0, 0⟩ = true ∧ running.canonical = true
      ∧ (running.part 0).freeAreas = [0] ∧ recClass task.words < 4 ∧ (∀ j < 4, ((running.part 0).queue j).length < 256)
      ∧ running.areaOwned 0 (((running.part 0).word 11).toNat) (Ctx.saveBytes (Ctx.flushHeld (running.getCtx ⟨0, 0⟩))).length = true) := by
  refine ⟨by decide +kernel, by decide +kernel, by decide +kernel, by decide +kernel, by decide +kernel, by decide +kernel, ⟨.queue, rfl, by decide, by decide, by decide⟩, by decide +kernel,
    by decide +kernel, ⟨by decide, by decide +kernel, by decide +kernel, by decide +kernel, by decide +kernel, by decide, by decide +kernel, by decide +kernel⟩⟩

/-- A LAUNCH of one task at 0x1000, its refused and its malformed kin, a GRAPH of one launch, a RELEASE, a WAIT, an INDIRECT and a CKPT (Table 12.5). -/
def launchPacket : RecWords := #v[0x1, 0x1000, 0, 1, 0, 0, 0, 0]
def refusedPacket : RecWords := #v[0x1, 0x2000, 0, 1, 0, 0, 0, 0]
def badPacket : RecWords := #v[0x201, 0x1000, 0, 1, 0, 0, 0, 0]
def graphPacket : RecWords := #v[0x2, 0x40, 0x80, 1, 0, 0, 0, 0]
def releasePacket : RecWords := #v[0x50003, 0x100, 9, 0, 0, 0, 0, 0]
def waitPacket : RecWords := #v[0x10004, 0x100, 9, 0, 0, 0, 0, 0]
def indirectPacket : RecWords := #v[0x5, 0x40, 1, 0, 0, 0, 0, 0]
def ckptPacket : RecWords := #v[0x6, 12, 0, 0, 0, 0, 0, 0]

/-- A partition whose queue 0 of 64 packets has that packet at its head, in host memory under PASID 0, with a launch packet behind it. -/
def queued (w : RecWords) : State :=
  let s := parted []
  let s : State := { s with
    parts := s.parts.set 0 { s.part 0 with hq := [(0, ⟨true, 0, 0, 64, 0, 1, false, [], none, [], none⟩)] }
    tlb := [⟨288, 0, 0, 21, 0x10000000000017⟩]
    ide := 0xFFFF }
  (s.setBytes .host 0 (w.toList.flatMap fun x => leBytes 8 x.toNat)).setBytes .host 0x40 (launchPacket.toList.flatMap fun x => leBytes 8 x.toNat)

/-- QueueEvents: for each kind a packet at the head that its queue may start; a packet refused, and one malformed; a signal that can be read,
and one that can not; a WAIT that holds its queue, before and after its condition. -/
theorem witness_queues :
    ((queued launchPacket).starts 0 0 1 launchPacket = true ∧ ((queued launchPacket).queue 0 0).graphReady = [] ∧ pktOk launchPacket = true
      ∧ { queued launchPacket with launches := [] }.launchRefused 0 launchPacket = false ∧ (queued launchPacket).launchRefused 0 refusedPacket = true
      ∧ (queued launchPacket).canonical = true ∧ (queued badPacket).starts 0 0 1 badPacket = true ∧ pktOk badPacket = false)
    ∧ ((queued graphPacket).starts 0 0 2 graphPacket = true ∧ ((queued graphPacket).graphEntries 0 0 graphPacket).isSome = true)
    ∧ ((queued releasePacket).starts 0 0 3 releasePacket = true ∧ pktOk releasePacket = true
      ∧ (queued releasePacket).queuePlace 0 0 0x100 .write = some (.host, 0x100) ∧ (queued releasePacket).queuePlace 0 0 0x200000 .write = none)
    ∧ ((queued waitPacket).starts 0 0 4 waitPacket = true ∧ ((queued waitPacket).signal 0 0 waitPacket[1]).isSome = true
      ∧ ((queued waitPacket).signal 0 0 0x200000).isSome = false ∧ waitPacket[0].getLsbD 16 = true)
    ∧ ((queued indirectPacket).starts 0 0 5 indirectPacket = true ∧ pktOk indirectPacket = true ∧ ((queued indirectPacket).queue 0 0).indirect = none)
    ∧ ((queued ckptPacket).starts 0 0 6 ckptPacket = true ∧ pktOk ckptPacket = true)
    ∧ (((queued launchPacket).part 0).valid = true ∧ ((queued launchPacket).queue 0 0).configured = true ∧ ((queued launchPacket).queue 0 63).configured = false
      ∧ (queued launchPacket).ideOn 0 = true ∧ State.reset.ideOn 0 = false ∧ ((parted []).part 1).valid = false) := by
  decide +kernel

/-- TaskEvents: a record that its context takes, one that fails its check, and a gang of two; pushes with room, to a class that is none and
under a counter that is cancelling; joins above, at 1 and at 0; counters open and idle. -/
theorem witness_tasks :
    ((parted [record false 0]).refillAll.popChoice ⟨0, 0⟩).map (fun e => (e.2, ((e.1.part e.2.1).queue e.2.2.1)[e.2.2.2]?)) = some ((0, 0, 0), some (record false 0))
    ∧ ((parted [record false 0]).recordBad 0 (record false 0) = none ∧ recSaved (record false 0) = false
      ∧ (parted [record false 0]).recordBad 0 (#v[0x2000, 0, 0, 0, 0, 0, 0, 0]) ≠ none)
    ∧ ((((parted [record true 0, record true 1]).refill 0).gangAt 0 0).map fun ms => ms.map (·.1)) = some [⟨0, 0⟩, ⟨1, 0⟩]
    ∧ ((parted []).cancelling 0 (record false 0) = false ∧ recClass (record false 0) < 4 ∧ (parted []).canonical = true
      ∧ recClass (#v[0, 0, 0, 0, 0xF000000000000, 0, 0, 0]) = 15)
    ∧ ((parted []).setBytes .dram 7 [0x80]).cancelling 0 (record false 0) = true
    ∧ ((State.reset.setBytes .host 0 [1]).word .host 0 8 = 1 ∧ State.reset.word .host 0 8 = 0)
    ∧ (ccState 0 = 0 ∧ ccState (0x4000000000000003 : Word) = 1 ∧ ccState (0x8000000000000001 : Word) = 2 ∧ ccState (0xC000000000000000 : Word) = 3) := by
  decide +kernel

/-- MarginEvents: a slot; an injection due; a window that has counted; a site that retires and one to quarantine, idle, with a spare;
states of the mesh map; a cluster whose power register swallows the pulse. -/
theorem witness_margin :
    ((4 : BitVec 3).toNat ≤ 4 ∧ ({ Tile.reset with iarm := true, injCnt := 1 } : Tile).injects = true)
    ∧ (Tile.reset.rwin ≠ 0 ∧ ({ Tile.reset with winCnt := 0x100000 } : Tile).rwin.toNat ≤ 0x100000 ∧ Tile.reset.rlim ≠ 0
      ∧ ({ Tile.reset with rcount := 63 } : Tile).rcount + 1 = Tile.reset.rlim)
    ∧ (Tile.reset.opened = false ∧ ({ Tile.reset with opened := true } : Tile).opened = true ∧ State.reset.distTables = [])
    ∧ (Tile.reset.struck = false ∧ ({ Tile.reset with struck := true, rlog := Tile.reset.rlog.set 0 0x9E00000000000000 } : Tile).struck = true
      ∧ ((({ Tile.reset with rlog := Tile.reset.rlog.set 0 0x9E00000000000000 } : Tile).rlog[0]).extractLsb' 57 6).toNat = 15
      ∧ ((1 : BitVec 3) ++ (6 : BitVec 3)).toNat = 14 ∧ ({ Tile.reset with injDue := true } : Tile).injDue = true)
    ∧ ((State.reset.logicalOf 0).isSome = true ∧ State.reset.siteIdle 0 = true ∧ (State.reset.spareFor 0).isSome = true)
    ∧ (State.reset.logicalOf 132 = none ∧ State.reset.isSpare 132 = true ∧ State.reset.siteIdle 132 = true)
    ∧ (meshState 0x6000 = 3 ∧ meshState (State.reset.meshAt 0) ≠ 3)
    ∧ (bitRev6 (BitVec.ofNat 6 0)).toNat < (⟨0, 0, 0x20, 0, 0⟩ : ClClock).k.toNat
    ∧ (⟨0, 0, 0x20, 0, 0⟩ : ClClock).k.toNat ≤ (bitRev6 (BitVec.ofNat 6 63)).toNat
    ∧ ({ State.reset with booted := [0, 1, 2] } : State).booted.any (2 ≤ ·) = true ∧ State.reset.booted.any (2 ≤ ·) = false := by decide +kernel

/-- SystemTableEvents: a line of device memory, the last one; nothing under way; the last frame; a descriptor that is admitted, at an address
that the system owns, and one that is not; a partition idle, and one that runs a task. -/
theorem witness_tables :
    (64 * (0xC000000000 / 64 - 1) < 0xC000000000 ∧ State.reset.pasidBusy 0 = false ∧ 393215 < 393216
      ∧ State.reset.frameBusy 393215 = false)
    ∧ (let s : State := { State.reset with frames := [(0, 0x10)] };
      let d : Vector Word 16 := Vector.ofFn fun i : Fin 16 => BitVec.ofNat 64 (s.word .dram (0 + 8 * i.val) 8);
      s.frameOwner 0 = 0x10 ∧ descriptorOk d = true ∧ s.sliceTaken 0 d[9] = false ∧ s.poolOwned 0 d = true ∧ s.locks = [] ∧ s.waiters = [])
    ∧ ({ State.reset with work := [⟨⟨0, 0⟩, .host, true, false, false, .remoteAccessArrival
        ⟨⟨0, 0⟩, 1, .host, 0, none, 0, 0, false, 0, .load 8⟩⟩] } : State).pasidBusy 0 = true
    ∧ State.reset.pasidWalks 0 = false ∧ State.reset.keys[0]? = some 0
    ∧ ({ State.reset with booted := [0, 1] } : State).firmwareUp = true ∧ State.reset.firmwareUp = false
    ∧ State.reset.frameOwner 0 ≠ 0x10 ∧ State.reset.partBusy 0 = false ∧ running.partBusy 0 = true := by decide +kernel

/-- A machine whose links stand so. -/
def linked (l : Link) : State := { State.reset with links := Vector.replicate 12 l }

/-- LinkAndWindowEvents and DebugEvents: a link in each state and at each point of a keying; a link that a device is reached over; sizes of a
queue at both ends and beyond; a context with a task; a context halted, with a snapshot entry, stepping, and one under TDISP. -/
theorem witness_ports :
    ((State.reset.link 0).st = 0 ∧ ((linked { Link.reset with st := 1 }).link 0).st = 1 ∧ ((linked { Link.reset with st := 4 }).link 11).st = 4
      ∧ (let l := (linked { Link.reset with st := 3 }).link 5; l.st = 3 ∧ l.mine = none)
      ∧ (let l := (linked { Link.reset with st := 2, mine := some ⟨1, 2, 3, 4⟩ }).link 11;
        l.st = 2 ∧ l.mine = some ⟨1, 2, 3, 4⟩ ∧ l.theirs = none ∧ l.derived = none)
      ∧ (let l := (linked { Link.reset with st := 3, rekey := true, mine := some ⟨1, 2, 3, 4⟩, theirs := some ⟨5, 6, 7, 8⟩, derived := some 9 }).link 11;
        l.st = 3 ∧ l.rekey = true ∧ l.theirs = some ⟨5, 6, 7, 8⟩ ∧ l.derived = some 9)
      ∧ (let l := (linked { Link.reset with st := 3, rekey := true }).link 0; l.st = 3 ∧ l.rekey = true ∧ l.mine = none))
    ∧ ((parted []).part 0).valid = true
    ∧ ((64 : Word).toNat = 2 ^ 6 ∧ (0x100000 : Word).toNat = 2 ^ 20 ∧ ∀ j < 21, 6 ≤ j → (96 : Word).toNat ≠ 2 ^ j)
    ∧ ((running.getCtx ⟨0, 0⟩).task.isSome = true ∧ running.portRefused ⟨0, 0⟩ = false)
    ∧ ({ running with parts := running.parts.set 0 { running.part 0 with d := (running.part 0).d.set 0 0xA000000000000000 } } : State).portRefused ⟨0, 0⟩ = true
    ∧ (let x : Ctx := { Ctx.reset with halted := true, flight := [flight 3 (.x 5) (.word 1)], steps := 1 };
      x.halted = true ∧ x.saved = [] ∧ x.snapshot[0]? = some (flight 3 (.x 5) (.word 1))
      ∧ x.flight = [] ++ flight 3 (.x 5) (.word 1) :: [] ∧ x.steps = 1 ∧ x.entry 0 (flight 3 (.x 5) (.word 1)) = flight 3 (.x 5) (.word 1))
    ∧ (let x : Ctx := { ctx (regs 0 0 0) with halted := true, flight := [flight 3 (.acc 0) .zero] };
      x.snapshot[0]? = some (flight 3 (.acc 0) .zero) ∧ x.entry 0 (flight 3 (.acc 0) .zero) ≠ flight 3 (.acc 0) .zero) := by decide +kernel

/-- The link to a peer of a machine whose links all stand so. -/
theorem linked_peer (l : Link) (d : Nat) : (linked l).peerLink d = l := by
  simp [linked, State.peerLink, Nat.mod_lt]

/-- QueueEvents, PeerPhaserEvents, ChainEvents and LinkAndWindowEvents: a peer is heard over a link that is up, and over one that is down it is not. -/
theorem witness_hears : (linked { Link.reset with st := 3 }).hears 1 = true ∧ (linked Link.reset).hears 1 = false ∧ (1 : Nat) ≠ Config.device := by
  refine ⟨?_, ?_, by decide⟩ <;> simp [State.hears, State.reaches, State.rekeying, linked_peer, Link.reset]

/-- LinkAndWindowEvents: the link that reaches a device is one of the twelve; a confirmation that agrees and one that does not. -/
theorem witness_links : (∃ k < 12, Config.linkOf 1 % 12 = k) ∧ ∃ mac, mac ≠ Config.hmac 0 0 :=
  ⟨⟨_, Nat.mod_lt _ (by decide), rfl⟩, ⟨_, Nat.succ_ne_self _⟩⟩

/-- The machine that is about to run one word. -/
def ready (w : Nat) : State := State.reset.withFetchWord 64 w

/-- StepRunsDecoded: after reset, with `nop` placed, the context is chosen and its bundle is that syllable. -/
theorem witness_step :
    let s := ready 0x8000000000000000
    let t : State := { s with turns := s.turns.tail }
    let e := t.opens exec s.who.site
    (s.turns = .context s.who :: s.turns.tail ∧ s.who.site < 288 ∧ t.chore s.who = none)
    ∧ (e.who = s.who ∧ (e.candidates s.who.site).head? = some s.who ∧ e.heldByPulse s.who.site = false ∧ e.ctx.commits = false ∧ e.ctx.empties = 0 ∧ e.ctx.frozen = none
      ∧ e.ctx.pend = [])
    ∧ ((e.begins e.ctx.pc).codePeer = none ∧ (e.begins e.ctx.pc).fetchWord e.ctx.pc = .ok 0x8000000000000000
      ∧ (e.begins e.ctx.pc).decodeAt e.ctx.pc = .ok ⟨[⟨0, 0x8000000000000000, .nop hs⟩], 1⟩)
    ∧ (e.ctx.cur.nb ≠ 256 ∧ isHall 0x8000000000000000 = false ∧ stopBit 0x8000000000000000 = true
      ∧ transferOf [Syl.of 0x8000000000000000] = none) := by
  refine ⟨⟨by decide +kernel, by decide +kernel, by rfl⟩, ⟨by decide +kernel, by decide +kernel, by decide +kernel, by decide +kernel, by decide +kernel, by decide +kernel, by decide +kernel⟩,
    ⟨by decide +kernel, by decide +kernel, by decide +kernel⟩, ⟨by decide +kernel, by decide, by decide, by decide⟩⟩

/-- StepRunsDecoded: a context with nothing pending holds no answer back. -/
theorem witness_step_release (c : Ctx) (h : c.pend = []) : c.releaseHeld = c := by
  simp [Ctx.releaseHeld, h]

/-- DecodeOfEncode, StepKeepsCanonical, GuardFalseFoldsOnly and ResultsLand: a well-formed instruction; a canonical state; a guard that does not
admit; a result that lands now and one that lands later, in x0, x63, v63, p0 and p15. -/
theorem witness_machine :
    (Instr.add hs .i8 true 1 2 3).wf = true ∧ State.reset.canonical = true ∧ (queued launchPacket).canonical = true
    ∧ (State.reset.ctx.work.admits ⟨.S, 0, true⟩ = false ∧ State.reset.ctx.awaited [.p 0, .x 1, .x 2, .x 3] = none)
    ∧ (flight 1 (.x 63) (.word 1)).due ≤ State.reset.ctx.sclk + 1 ∧ State.reset.ctx.sclk + 1 < (flight 2 (.x 0) (.word 1)).due
    ∧ (∃ q l, (flight 1 (.v 63) (.lanes (Vector.replicate 64 1))).dest = .v q ∧ (flight 1 (.v 63) (.lanes (Vector.replicate 64 1))).pay = .lanes l)
    ∧ (∃ q b, (flight 1 (.p 15) (.bit true)).dest = .p q ∧ (flight 1 (.p 15) (.bit true)).pay = .bit b) := by
  refine ⟨by decide, by decide +kernel, by decide +kernel, by decide, by decide, by decide, ⟨_, _, rfl, rfl⟩, ⟨_, _, rfl, rfl⟩⟩

/-- A step from reset with a word placed runs it: `movi x9, -2` leaves its result in flight, and lands with the next bundle. -/
theorem test_step : (match step (ready 0x82801201FFFF0000) with
    | .next t => t.ctx.sclk = 1 && (t.ctx.work.getX 9).val == 0xFFFFFFFFFFFFFFFE
    | _ => false) = true := by decide +kernel

/-- PreciseTrapsFatal: no handler, with a flag masked in, a forbidden register and a misaligned address. -/
theorem witness_fatal :
    let s : State := { State.reset with ctx := { Ctx.reset with work := { Regs.reset with flags := 1, fmask := 1 } } }
    (s.ctx.closings = [] ∧ s.ctx.comm.tvec.getLsbD 0 = false ∧ s.ctx.ih = false ∧ s.ctx.work.guardPoison hs = false)
    ∧ s.ctx.work.flags &&& s.ctx.work.fmask ≠ 0 ∧ ctlAccess s.who.cid 0x31 = .none ∧ (MemOp.addr (.m0 1 2) s.xval).toNat % (Fmt.i32.width / 8) ≠ 0
    ∧ s.mayIssue hs [] ∧ s.mayIssue hs [.x 5] ∧ s.mayIssue ha (MemOp.srcs (.m0 1 2) ++ [.x 5]) := by
  refine ⟨⟨rfl, by decide, rfl, by decide⟩, by decide, by decide, by decide, ⟨by decide, by decide⟩, ⟨by decide, by decide⟩, ⟨by decide, by decide⟩⟩

/-- A machine at the end of a block entered at 0, with a level 0 of that count, kind and body, and so that the block leaves. -/
def looped (n : BitVec 32) (kind : BitVec 2) (body : Word) (x : Xfer) : State :=
  let r := { regs 0 0 0 with loops := Regs.reset.loops.set 0 ⟨n, 1, kind, body⟩ }
  { with3 0 0 0 with ctx := { ctx r with cur := { (ctx r).cur with nb := 1, xfer := x } } }

/-- LoopSteps: a body of each kind at its last instance and before it, and a block that is none. -/
theorem witness_loops :
    [looped 1 1 0 .fall, looped 2 2 0 .fall, looped 1 2 0 .fall, looped 2 1 0 .fall, looped 2 1 0x100 .fall].all (fun s =>
      let w := s.ctx.work
      let v := if w.loops[0].kind ≠ 0 ∧ w.loops[0].body = s.ctx.cur.entry ∧ w.loops[0].kind = 2 then { w with vb := w.vb - 1, pb := w.pb - 1 } else w
      let u := ({ s with ctx := { s.ctx with work := v.rebase } } : State).endBundle
      s.ctx.cur.xfer == .fall && u.intact s && u.ctx.work.loops == w.loops) = true := by decide +kernel

/-- The first syllable of a hallmark of one bundle with fold 0. -/
def hallOne : Word := 0xFA01000000000000

/-- ReturnCommits: a block that holds an `eret` and agrees with its hallmark, and one that does not. -/
theorem witness_returns :
    let s := looped 0 0 0 .eret
    let v := s.lateEffects
    let x : Closing := ⟨s.ctx.cur, v.ctx.work, [], 2, 0x100, hallOne, 0, false, false⟩
    let w : State := { v with ctx := { v.ctx with closings := [x], flight := [] } }
    let u := w.commitBlock x [] (x.work.landAll [])
    (s.ctx.cur.xfer = .eret ∧ s.ctx.closings = [] ∧ s.ctx.cur.taint = none ∧ s.ctx.cur.nb ≠ 0 ∧ (Hallmark.of hallOne 0xF000000000000000).isSome = true)
    ∧ ((x.work.landAll []).rdr = false ∧ s.ctx.cur.lf = hallOne.setWidth 32 ∧ s.ctx.cur.lf ≠ (hallOne + 1).setWidth 32 ∧ s.ctx.cur.rerun = false)
    ∧ u.intact w = true ∧ u.ctx.closings = [] ∧ u.ctx.cur.nb ≠ 0 := by decide +kernel

/-- StoresOfSeveralUnits: a whole vector that crosses a unit. -/
theorem witness_several :
    (legsOf (paged 0x17) 0x40 ((paged 0x17).vl * 4) .write).length = 2 ∧ (paged 0x17).mayIssue ha (MemOp.srcs (.m0 1 0) ++ [.v 5])
    ∧ (paged 0x17).xval 1 = 0x40 ∧ (paged 0x17).ctx.cur.ncmds < 32 ∧ (paged 0x17).msgs < 32 := by
  refine ⟨by decide +kernel, ⟨by decide, by decide⟩, by decide +kernel, by decide, by decide +kernel⟩

/-- TranslationFaults: an address not in canonical form, an L5 entry that is not valid, a leaf without each permission, and a handler. -/
theorem witness_translation :
    (0x8000000000000000 : Word) ≠ ((0x8000000000000000 : Word).extractLsb' 0 57).signExtend 64
    ∧ (let s := (with3 0x40 0 0).setBytes .dram 0 [0x01, 0x10];
      s.tlbHit 0 0 0x40 = none ∧ s.pasidRoot 0 0 = some 0x1000 ∧ s.word .dram (0x1000 + 8 * 0) 8 % 2 = 0)
    ∧ (unitPieces 0x40 4)[0]? = some (0, 4)
    ∧ (paged 0x15).leafOf 0 0 0 0x40 = some (0x15, 21) ∧ (0x15 : Word).getLsbD 1 = false ∧ (0x13 : Word).getLsbD 2 = false ∧ (0x17 : Word).getLsbD 3 = false
    ∧ ((paged 0x15).trapsEnter ∧ (paged 0x15).mayIssue ha (MemOp.srcs (.m0 1 0) ++ [.x 5]) ∧ (MemOp.addr (.m0 1 0) (paged 0x15).xval).toNat % 4 = 0) := by
  refine ⟨by decide, by decide +kernel, by decide +kernel, by decide +kernel, by decide, by decide, by decide, ⟨⟨rfl, by decide, rfl⟩, ⟨by decide, by decide⟩, by decide +kernel⟩⟩

/-- FaddValues: finite operands, infinities and a NaN; WritesMark: granules that a monitor watches, and one that it does not. -/
theorem witness_writes :
    (∃ s m e, (Fmt.f32.operand false 0x3F800000).1 = .fin s m e) ∧ (Fmt.f32.operand false 0x7F800000).1 = .inf false
    ∧ (Fmt.f32.operand false 0xFF800000).1 = .inf true ∧ (Fmt.f32.operand false 0x7FC00000).1 = .nan
    ∧ (let s : State := { State.reset with ctx := { Ctx.reset with monitor := some ⟨.A, 0x140, 4, false⟩ } };
      (s.getCtx ⟨0, 0⟩).monitor = some ⟨.A, 0x140, 4, false⟩ ∧ (⟨0, 0⟩ : Src).pad = .pool 0
      ∧ s.refuses ⟨⟨0, 0⟩, 0, .pool 0, 0x100, none, 0, 0, false, 0, .store [1, 2] 0 0 false⟩ = false)
    ∧ (∃ g ∈ granulesOf 0x100 4, g / 256 = 0x140 / 256) ∧ ∀ g ∈ granulesOf 0x300 4, g / 256 ≠ 0x140 / 256 := by
  refine ⟨⟨_, _, _, rfl⟩, by decide +kernel, by decide +kernel, by decide +kernel, by decide +kernel, by decide +kernel, by decide +kernel⟩

/-- ClaspLimits: the count at its end; an upgrade that is clear, and one that another holder excludes; a parent that is not held; tables full. -/
theorem witness_limits :
    (let s : State := { State.reset with locks := [⟨0, 3, 0, 6, 65535⟩] };
      s.lockOf 0 3 0 = some ⟨0, 3, 0, 6, 65535⟩ ∧ modeJoin (s.modeOf 0 3 0) 6 = s.modeOf 0 3 0)
    ∧ (let s : State := { State.reset with locks := [⟨0, 3, 0, 3, 1⟩] };
      modeJoin (s.modeOf 0 3 0) 6 ≠ s.modeOf 0 3 0 ∧ s.modeOf 0 3 0 ≠ 0 ∧ (∀ l ∈ s.holders 0 0, l.rank ≠ 3 → False) ∧ s.queueOf 0 0 = [])
    ∧ (let s : State := { State.reset with locks := [⟨0, 3, 0, 3, 1⟩, ⟨0, 5, 0, 3, 1⟩] };
      ∃ l ∈ s.holders 0 0, l.rank ≠ 3 ∧ compatible (s.matrix 0) l.mode (modeJoin 3 6) = false)
    ∧ (nameParent 0x4000000000000000 = some 0 ∧ parentOk 6 (State.reset.modeOf 0 3 0) = false ∧ (request 3 .try 6).form ≠ .qry) := by decide +kernel

/-- A table of so many entries of one unit holds that many. -/
theorem full_tables (n k : Nat) :
    ({ State.reset with locks := List.replicate n ⟨0, 3, 0, 1, 1⟩ } : State).locksAt (claspUnit 0) = n
    ∧ ({ State.reset with waiters := List.replicate k ⟨0, 3, 0, 1, false, true, ⟨0, 0⟩, 0⟩ } : State).waitersAt (claspUnit 0) = k := by
  constructor <;> simp [State.locksAt, State.waitersAt]

theorem witness_tables_full :
    16384 ≤ ({ State.reset with locks := List.replicate 16384 ⟨0, 3, 0, 1, 1⟩ } : State).locksAt (claspUnit 0)
    ∧ 32768 ≤ ({ State.reset with waiters := List.replicate 32768 ⟨0, 3, 0, 1, false, true, ⟨0, 0⟩, 0⟩ } : State).waitersAt (claspUnit 0) :=
  ⟨(full_tables 16384 0).1.ge, (full_tables 0 32768).2.ge⟩

/-- A command of a chain for the scratchpad of tile 2 of device 1: one granule, at work for context 0. -/
def chained : Job :=
  { copying with cmd := ⟨.chain (some ⟨3, 0x00010001⟩), 0x400800100, 0x200, 0x100, Vector.replicate 64 0, 5, 0⟩, chained := true }

/-- A machine whose links are up, with that command at work. -/
def chaining : State :=
  { linked { Link.reset with st := 3 } with
    tile := { Tile.reset with jobs := [chained] }, ctx := { Ctx.reset with chain := some ⟨[7], 1, 1, 2, some ⟨3, 0x00010001⟩⟩ } }

/-- ChainEvents: a command for a peer that may land over a link that is up, one that has landed, and the word that agrees. -/
theorem witness_chains :
    (chaining.job? 0 7 = some chained ∧ chained.chained = true ∧ (chained.cmd.s1.extractLsb' 34 6).toNat ≠ Config.device ∧ chained.suspended = false)
    ∧ chaining.mayLand 0 chained = true ∧ (chaining.tagWord (.pool 0) 0x200).getLsbD 50 = false ∧ chaining.canonical = true
    ∧ ((chaining.getCtx ⟨0, 0⟩).chain.isSome = true ∧ (chained.cmd.s1.extractLsb' 0 22).toNat % 256 = 0)
    ∧ ({ chained with pos := 1 } : Job).units ≤ ({ chained with pos := 1 } : Job).pos ∧ 1 * 65536 + 1 = (0x00010001 : BitVec 32).toNat := by
  refine ⟨by decide +kernel, ?_, by decide +kernel, by decide +kernel, by decide +kernel, by decide, by decide⟩
  have h : chaining.jobRekeys 0 chained = false := by
    have p (d : Nat) : chaining.peerLink d = { Link.reset with st := 3 } := linked_peer _ d
    simp [State.jobRekeys, chained, copying, State.rekeying, p, Link.reset]
  unfold State.mayLand
  rw [h]
  decide +kernel

/-- ProductSums and CommitMarks: a product due; a block of one store that agrees; a tainted one. -/
theorem witness_sums :
    (let s : State := { with3 0 0 0 with ctx := { ctx (regs 0 0 0) with engine := { Engine.reset with queued := [product] } } };
      s.ctx.ih = false ∧ s.ctx.engine.queued = [product] ∧ product.due ≤ s.ctx.sclk)
    ∧ (let s : State := { with3 0 0 0 with ctx := { ctx (regs 0 0 0) with closings := [closing 0 true false none] } };
      s.walking = false ∧ s.tile.replayLeft = 0 ∧ s.tile.reports.length < 64 ∧ s.canonical = true)
    ∧ (∃ y, (closing 0 true false none).blk.stores = [y] ∧ y.off + y.data.length ≤ 2 ^ 22)
    ∧ ({ (closing 0 true false none).blk with taint := some 5 } : Block).taint = some 5 := by
  refine ⟨by decide +kernel, by decide +kernel, ⟨_, rfl, by decide⟩, rfl⟩

/-- A read port and a write port of one word each, and a read port past its walk. -/
def portDesc (kind : BitVec 2) (count : BitVec 20) : Vector Word 5 :=
  #v[kind ++ (0xA3F0000000000100 : Word).extractLsb' 0 62, count ++ (0x4000 : BitVec 44), 0x0000100000000000, 0x0000100000000000, 0x0000100000000000]

/-- A machine whose port q1 is bound to that stream at that position. -/
def ported (d : Vector Word 5) (pos : Nat) : State :=
  { with3 0 0 0 with ctx := ctx { regs 0 0 0 with ports := Regs.reset.ports.set 1 (some ⟨d, 0, pos⟩) } }

/-- PortOperands: a read port with a chunk at its head, one past its walk, one whose chunk waits for a drain, and a write port with room and without. -/
theorem witness_port_operands :
    (let s := ported (portDesc 0 64) 0; let b : Binding := ⟨portDesc 0 64, 0, 0⟩;
      s.noPorts [3, 4] ∧ s.ctx.work.ports[1] = some b ∧ writePort b = false ∧ streamKind b.desc = 0 ∧ (streamFmt b.desc).any (·.isElement) = true
      ∧ (∀ o ∈ chunkOffsets b.desc 0, 0 ≤ o ∧ o + streamElem b.desc ≤ s.padSize s.who.pad)
      ∧ s.readHeld ((chunkOffsets b.desc 0).map fun o => (o.toNat, streamElem b.desc)) = false
      ∧ s.ctx.awaited [.p 0, .v 4, .v 3] = none ∧ b.head = some 0 ∧ (s.takeChunk 1 b 0).toOption.isSome = true ∧ s.mayIssue hv [.v 3, .v 4])
    ∧ ((⟨portDesc 0 64, 0, 1⟩ : Binding).head = none ∧ (with3 0 0 0).trapsEnter)
    ∧ (let s : State := { ported (portDesc 0 64) 0 with tile := { Tile.reset with chunks := [(0, ⟨9, 2, [(0x100, [1, 2, 3, 4])], 7, 0, false⟩)] } };
      (match s.takeChunk 1 ⟨portDesc 0 64, 0, 0⟩ 0 with | .error .absent => true | _ => false) = true ∧ s.ctx.closings = [])
    ∧ (let s := ported (portDesc 2 64) 0; let b : Binding := ⟨portDesc 2 64, 0, 0⟩;
      writePort b = true ∧ b.head = some 0 ∧ s.ctx.cur.bytes + streamLanes b.desc * streamElem b.desc ≤ 4096
      ∧ s.drainBytes 1 + (chunkOffsets b.desc 0).length * streamElem b.desc ≤ 4096
      ∧ 4096 < ({ s with tile := { Tile.reset with chunks := [(0, ⟨9, 1, [(0, List.replicate 4096 0)], 7, 0, false⟩)] } } : State).drainBytes 1
        + (chunkOffsets b.desc 0).length * streamElem b.desc) := by
  refine ⟨⟨by unfold State.noPorts; decide, by decide +kernel, by decide, by decide, by decide +kernel, by decide +kernel, by decide +kernel, by decide, by decide +kernel, by decide +kernel, ⟨by decide, by decide⟩⟩,
    ⟨by decide +kernel, ⟨rfl, by decide, rfl⟩⟩, ⟨by decide +kernel, rfl⟩, by decide, by decide +kernel, by decide +kernel, by decide +kernel, by decide +kernel⟩

/-- A copy of a window of eight bytes, the first four of them inside their tensor, into the scratchpad at 0x100, and its way out. -/
def window (out : Bool) : Job :=
  ⟨7, 0, ⟨.tensor out false, 0, 0, 0x100, Vector.replicate 64 0, 5, 0⟩, ⟨⟨0, 0⟩, Config.device, none, 0, 5, 0, 5⟩, 8, true, false, [(0x100, 256)], [], 0, 1,
    false, false, [0xA500900000000009, 0x40, 0x0000007700000000, 0x0000400000001008, 0, 0, 0, 0, 0, 0, 0, 0], (0, 0), []⟩

/-- TensorLanding: bytes inside and outside the tensor, in a page that may be read and written. -/
theorem witness_tensor :
    (Layout.of (window false).rec_).b = 1 ∧ (Layout.of (window false).rec_).fill = 1 ∧ (Layout.of (window false).rec_).bytes = 8
    ∧ [false, true].all (fun out =>
      let s : State := { paged 0x117 with tile := { Tile.reset with jobs := [window out] }, frames := [(0, 0)] }
      s.job? 0 7 == some (window out) && s.mayLand 0 (window out) && s.canonical
        && (match s.farPlace ⟨0, 0⟩ 0 false 0x43 (if out then .write else .read) with | .ok (.dram, 0x43) => true | _ => false)) = true := by
  refine ⟨by decide +kernel, by decide +kernel, by decide +kernel, by decide +kernel⟩

/-- ReturnCommits and ContextEvents: a walk under way; a committed list of commands that ends in `tend`, a tile register written, a chunk pushed. -/
theorem witness_releases :
    ({ State.reset with work := [⟨⟨0, 0⟩, .host, false, false, false, .pageWalkComplete 0 0 0⟩] } : State).walkingOf ⟨0, 0⟩ = true
    ∧ State.reset.walkingOf ⟨0, 0⟩ = false
    ∧ (let b : Block := { (closing 0 true false none).blk with stores := [], cmds := [⟨8, .spawn 0x40⟩, ⟨16, .tend⟩], pushes := [⟨9, 1, [(0, [1])], 7, 0, false⟩] };
      b.cmds.getLast? = some ⟨16, .tend⟩ ∧ b.stores = [] ∧ b.reserved = [] ∧ b.taint = none ∧ b.xfer ≠ .eret ∧ b.lf = (0 : Word).setWidth 32)
    ∧ ({ Regs.reset with tileW := [(0x20, 5)] } : Regs).tileW = [(0x20, 5)] ∧ (0x20 : BitVec 16) ≠ 0x21 ∧ (0x20 : BitVec 16).toNat < 0x48
    ∧ (⟨⟨0, 0⟩, .host, false, false, false, .pageWalkComplete 0 0 0⟩ : Work).isSignal = false
    ∧ (⟨⟨0, 0⟩, .tile 3, false, true, true, .phaserSignal ⟨⟨0, 0⟩, Config.device, some 3, 3, 5, 0, 5⟩⟩ : Work).isSignal = true := by
  refine ⟨by decide +kernel, by decide +kernel, by decide +kernel, rfl, by decide, by decide, rfl, rfl⟩

/-- ResultsLand: two results of one cycle; a result for each kind of destination; a tile register that the custodian may write. -/
theorem witness_landings :
    ([flight 1 (.x 5) (.word 1), flight 1 (.x 5) (.word 2)].all fun f => decide (f.due ≤ State.reset.ctx.sclk + 1)) = true
    ∧ ((regs 0 0 0).acc.length ≠ 0 ∧ ({ flight 1 (.ctl 0x30) (.word 1) with flags := 0 } : Flight).flags = 0)
    ∧ (ctlAccess 3 0x30 = .rw ∧ ctlAccess 0 0x03 = .rw ∧ ctlAccess 3 0x4F = .rw ∧ (8 : BitVec 3).toNat ≤ 4)
    ∧ (flight 1 (.acc 0) .zero).due = State.reset.ctx.sclk + 1 ∧ State.reset.ctx.closings = [] := by decide +kernel

/-- QueueEvents and PhaserEvents: a write under way that a CKPT waits for; an addition whose copy is gone. -/
theorem witness_waits :
    ({ State.reset with work := [⟨⟨0, 0⟩, .host, true, false, false, .remoteAccessArrival ⟨⟨0, 0⟩, 1, .dram, 0, none, 0, 0, false, 0, .store [1] 0 0 false⟩⟩] } : State).writesOut 0 = true
    ∧ pktKind ckptPacket = 6 ∧ (phased Phaser.reset).job? 0 9 = none ∧ Ctx.reset.halted = false := by decide +kernel

/-- QueueEvents and StepRunsDecoded: a queue in the memory of a peer whose link is being re-keyed waits. -/
theorem witness_rekeys (l : Link) (p : BitVec 4) (q d : Nat) (e : Word × Need) (off : Nat) (hl : l.rekey = true)
    (h : (linked l).queuePlace p q e.1 e.2 = some (.peerMem d, off)) : (linked l).queueRekeys p q e = true := by
  unfold State.queueRekeys
  rw [h]
  simp [State.rekeying, linked_peer, hl]

end Sys2Proof.Tests
end

section
/-! What a host queue does behind its accesses, which the links alone notice; the packets that change one queue; abort tokens. -/

namespace Sys2Proof.Machine

/-- `t` is `s` but for what its links have counted, which leaves every home reached as before (R348). -/
def State.relinked (s t : State) : Prop := t = { s with links := t.links } ∧ ∀ p h, t.reaches p h = s.reaches p h

theorem fetched_relinked (s : State) (p : BitVec 4) (q : Nat) (w : RecWords) : s.relinked (s.fetched p q w) := fetched_spec s p q w

theorem queueAsked_relinked (s : State) (p : BitVec 4) (q : Nat) (e : Word × Need) : s.relinked (s.queueAsked p q e) := queueAsked_spec s p q e

section relinked
variable {s t : State} (h : s.relinked t)
include h

theorem relinked_part (p : BitVec 4) : t.part p = s.part p := by rw [h.1]; rfl
theorem relinked_queue (p : BitVec 4) (q : Nat) : t.queue p q = s.queue p q := by rw [h.1]; rfl
theorem relinked_mem : t.mem = s.mem := by rw [h.1]
theorem relinked_launches : t.launches = s.launches := by rw [h.1]
theorem relinked_nextOrd : t.nextOrd = s.nextOrd := by rw [h.1]
theorem relinked_canonical : t.canonical = s.canonical := by rw [h.1]; rfl
theorem relinked_sameStore : s.sameStore t := by rw [h.1]; exact ⟨rfl, rfl, rfl, rfl⟩
theorem relinked_word (x : Home) (off n : Nat) : t.word x off n = s.word x off n := by
  rw [State.word, sameStore_bytes (relinked_sameStore h), State.word]
theorem relinked_recordAt (x : Home) (off : Nat) : t.recordAt x off = s.recordAt x off := by
  simp only [State.recordAt, relinked_word h]

theorem relinked_walk (va : Nat) (shs : List Nat) : ∀ table, t.walk va shs table = s.walk va shs table := by
  induction shs with
  | nil => intro table; rfl
  | cons sh rest ih => intro table; simp only [State.walk, State.groupSame, relinked_word h, ih]; rfl

theorem relinked_leafOf (site : Nat) (pasid : BitVec 20) (p : BitVec 4) (va : Word) : t.leafOf site pasid p va = s.leafOf site pasid p va := by
  have hb : t.pasidBase = s.pasidBase := by rw [h.1]
  have ht : t.tlb = s.tlb := by rw [h.1]
  simp only [State.leafOf, State.tlbHit, State.pasidRoot, relinked_word h, relinked_walk h, hb, ht]

theorem relinked_translateUnder (site : Nat) (pasid : BitVec 20) (p : BitVec 4) (va : Word) (n : Need) :
    t.translateUnder site pasid p va n = s.translateUnder site pasid p va n := by
  have hi : t.iommu = s.iommu := by rw [h.1]
  simp only [State.translateUnder, State.ats, relinked_leafOf h, hi]

theorem relinked_queuePlace (p : BitVec 4) (q : Nat) (va : Word) (n : Need) : t.queuePlace p q va n = s.queuePlace p q va n := by
  have hf : t.frames = s.frames := by rw [h.1]
  simp only [State.queuePlace, State.placeRefuses, State.frameRefuses, State.frameOwner, relinked_translateUnder h, relinked_queue h, hf, h.2]
  rfl

theorem relinked_packetAt (p : BitVec 4) (q : Nat) (va : Word) : t.packetAt p q va = s.packetAt p q va := by
  simp only [State.packetAt, relinked_queuePlace h, relinked_recordAt h]

theorem relinked_prefetch (p : BitVec 4) (q : Nat) (a : Word) (n : Nat) : t.prefetch p q a n = s.prefetch p q a n := by
  simp only [State.prefetch, relinked_packetAt h]

theorem relinked_advanced (p : BitVec 4) (q : Nat) : t.advanced p q = s.advanced p q := by
  simp only [State.advanced, relinked_queue h, relinked_prefetch h]

theorem relinked_signal (p : BitVec 4) (q : Nat) (va : Word) : t.signal p q va = s.signal p q va := by
  simp only [State.signal, relinked_queuePlace h, relinked_word h]

theorem relinked_graphEntries (p : BitVec 4) (q : Nat) (w : RecWords) : t.graphEntries p q w = s.graphEntries p q w := by
  simp only [State.graphEntries, relinked_queuePlace h, relinked_packetAt h, relinked_word h]

end relinked

/-! ## One queue of a partition -/

/-- Queue q of partition p is `y`, and every other queue of p is as before. -/
def State.queueIs (s u : State) (p : BitVec 4) (q : Nat) (y : HostQueue) : Prop :=
  u.queue p q = y ∧ ∀ n, n ≠ q → u.queue p n = s.queue p n

theorem queue_congr {s t : State} {p : BitVec 4} (h : (t.part p).hq = (s.part p).hq) (q : Nat) : t.queue p q = s.queue p q := by
  rw [State.queue, h, State.queue]

theorem queueIs_self {s u : State} {p : BitVec 4} (h : (u.part p).hq = (s.part p).hq) (q : Nat) : s.queueIs u p q (s.queue p q) :=
  ⟨queue_congr h q, fun n _ => queue_congr h n⟩

@[simp] theorem part_setHostQueue (s : State) (p : BitVec 4) (q : Nat) (y : HostQueue) :
    ((s.setHostQueue p q y).part p) = { s.part p with hq := (q, y) :: (s.part p).hq.filter (·.1 != q) } := by
  simp [State.setHostQueue]

theorem queueIs_setHostQueue {s t : State} {p : BitVec 4} (h : (t.part p).hq = (s.part p).hq) (q : Nat) (y : HostQueue) :
    s.queueIs (t.setHostQueue p q y) p q y := by
  refine ⟨by simp [State.queue], fun n hn => ?_⟩
  have e : ((s.part p).hq.filter (·.1 != q)).find? (·.1 = n) = (s.part p).hq.find? (·.1 = n) := by
    rw [List.find?_filter]; congr 1; funext z; by_cases hz : z.1 = n <;> simp [hz, hn]
  simp [State.queue, h, Ne.symm hn, e]

theorem queueIs_congr {s t u : State} {p : BitVec 4} {q : Nat} {y : HostQueue} (h : s.queueIs t p q y) (hu : (u.part p).hq = (t.part p).hq) :
    s.queueIs u p q y :=
  ⟨(queue_congr hu q).trans h.1, fun n hn => (queue_congr hu n).trans (h.2 n hn)⟩

@[simp] theorem part_logError (s : State) (p : BitVec 4) (a : Word) (r : ErrReason) :
    (s.logError p a r).part p = { s.part p with errlog := (s.part p).errlog ++ [⟨a, r⟩] } := by
  simp [State.logError]

/-- `u` is `s` with queue q of partition p halted at its head packet, and one line more in the log (R268). -/
def State.haltsAt (s u : State) (p : BitVec 4) (q : Nat) : Prop :=
  s.queueIs u p q { s.queue p q with halted := true } ∧ u.mem = s.mem ∧ u.launches = s.launches
    ∧ (u.part p).errlog.length = (s.part p).errlog.length + 1

theorem relinked_haltQueue {s t : State} (h : s.relinked t) (p : BitVec 4) (q : Nat) : s.haltsAt (t.haltQueue p q) p q := by
  have hh := queueIs_setHostQueue (congrArg Partition.hq (relinked_part h p)) q { t.queue p q with halted := true }
  rw [relinked_queue h] at hh
  refine ⟨queueIs_congr hh (by simp [State.haltQueue, relinked_queue h]), (relinked_mem h :), (relinked_launches h :), ?_⟩
  simp [State.haltQueue, relinked_part h]

/-- A queue that a packet has set to `y` behind its accesses, which change no byte. -/
theorem relinked_setHostQueue {s t : State} (h : s.relinked t) (p : BitVec 4) (q : Nat) (y : HostQueue) :
    s.queueIs (t.setHostQueue p q y) p q y ∧ (t.setHostQueue p q y).mem = s.mem :=
  ⟨queueIs_setHostQueue (congrArg Partition.hq (relinked_part h p)) q y, (relinked_mem h :)⟩

/-! ## When a queue starts nothing -/

/-- None starts over a link that is being re-keyed (R348). -/
theorem starts_of_queueRekeys {s : State} {p : BitVec 4} {q : Nat} {w : RecWords}
    (h : ((s.queue p q).places w).any (s.queueRekeys p q) = true) (kind : Nat) : s.starts p q kind w = false := by
  have : s.mayStart p q w = false := by simp only [State.mayStart, h, Bool.not_true, Bool.and_false]
  simp only [State.starts, this, Bool.and_false, Bool.false_and]

/-- A CKPT waits for the writes under way of its partition (R204). -/
theorem starts_of_writesOut {s : State} {p : BitVec 4} {w : RecWords} (hk : pktKind w = 6) (h : s.writesOut p = true) (q kind : Nat) :
    s.starts p q kind w = false := by
  have : s.mayStart p q w = false := by simp [State.mayStart, h, hk]
  simp only [State.starts, this, Bool.and_false, Bool.false_and]

section packet
variable {p : BitVec 4} {q : Nat} (hq : q < 64) {s : State} {w : RecWords}
include hq

/-- A queue and a partition of the package. -/
theorem queue_exists (p : BitVec 4) : (decide (16 ≤ p.toNat) || decide (64 ≤ q)) = false := by
  have := p.isLt; simp; omega

/-! ## The tail register (R21, R22, R267) -/

theorem tailRegisterWrite_moves (v : Word) (hv : (s.part p).valid = true) (hc : (s.queue p q).configured = true)
    (hi : s.ideOn p = true) : ∃ u, execTailRegisterWrite p.toNat q v s = .next u
      ∧ s.queueIs u p q { s.queue p q with tail := v.toNat % (s.queue p q).size } ∧ u.mem = s.mem := by
  refine ⟨_, ?_, queueIs_setHostQueue rfl q _, rfl⟩
  simp [execTailRegisterWrite, queue_exists hq p, hv, hc, hi]

theorem tailRegisterWrite_unconfigured (v : Word) (hv : (s.part p).valid = false) :
    ∃ u, execTailRegisterWrite p.toNat q v s = .next u ∧ s.queueIs u p q (s.queue p q)
      ∧ u.windowLog.length = s.windowLog.length + 1 := by
  refine ⟨{ s with windowLog := s.windowLog ++ [BitVec.ofNat 64 (64 * p.toNat + q)] }, ?_, queueIs_self rfl q, by simp⟩
  simp [execTailRegisterWrite, queue_exists hq p, hv]

theorem tailRegisterWrite_logged (v : Word) (hv : (s.part p).valid = true)
    (hc : (s.queue p q).configured = false ∨ s.ideOn p = false) :
    ∃ u, execTailRegisterWrite p.toNat q v s = .next u ∧ s.queueIs u p q (s.queue p q)
      ∧ (u.part p).errlog.length = (s.part p).errlog.length + 1 := by
  refine ⟨s.logError p (BitVec.ofNat 64 (64 * p.toNat + q)) 9, ?_, queueIs_self (by simp) q, by simp⟩
  rcases hc with h | h <;> simp [execTailRegisterWrite, queue_exists hq p, hv, h]

/-! ## GRAPH (R269) -/

theorem graph_idle (hs : s.starts p q 2 w = false) : execGraph p.toNat q w s = .next s := by
  simp [execGraph, queue_exists hq p, hs]

theorem graph_halts (hs : s.starts p q 2 w = true) (hw : pktOk w = false ∨ s.graphEntries p q w = none) :
    ∃ u, execGraph p.toNat q w s = .next u ∧ s.haltsAt u p q := by
  have h := fetched_relinked s p q w
  refine ⟨_, ?_, relinked_haltQueue h _ q⟩
  rcases hw with hw | hw
  · simp [execGraph, queue_exists hq p, hs, hw]
  · simp [execGraph, queue_exists hq p, hs, hw, relinked_graphEntries h]

theorem graph_runs {es : List GraphEnt} (hs : s.starts p q 2 w = true) (hw : pktOk w = true)
    (he : s.graphEntries p q w = some es) : ∃ u, execGraph p.toNat q w s = .next u
      ∧ s.queueIs u p q
          { s.advanced p q with running := (s.advanced p q).running ++ [.graph es] } ∧ u.mem = s.mem := by
  have h := fetched_relinked s p q w
  refine ⟨_, ?_, relinked_setHostQueue h _ q _⟩
  simp [execGraph, queue_exists hq p, hs, hw, relinked_graphEntries h, he, relinked_advanced h]

/-! ## WAIT (R269) -/

theorem wait_idle (hs : s.starts p q 4 w = false) : execWait p.toNat q w s = .next s := by
  simp [execWait, queue_exists hq p, hs]

theorem wait_holds (hs : s.starts p q 4 w = true) (hw : pktOk w = true)
    (hg : (s.signal p q w[1]).isSome = true) : ∃ u, execWait p.toNat q w s = .next u
      ∧ s.queueIs u p q { s.queue p q with waiting := some w } ∧ u.mem = s.mem := by
  have h := fetched_relinked s p q w
  refine ⟨_, ?_, relinked_setHostQueue h _ q _⟩
  have hn : (s.signal p q w[1]).isNone = false := by simpa [Option.isNone_eq_false_iff] using hg
  simp [execWait, queue_exists hq p, hs, hw, relinked_signal h, relinked_queue h, hn]

theorem wait_halts (hs : s.starts p q 4 w = true) (hg : (s.signal p q w[1]).isSome = false) :
    ∃ u, execWait p.toNat q w s = .next u ∧ s.haltsAt u p q := by
  have h := fetched_relinked s p q w
  refine ⟨_, ?_, relinked_haltQueue h _ q⟩
  have hn : (s.signal p q w[1]).isNone = true := by simpa using hg
  simp [execWait, queue_exists hq p, hs, relinked_signal h, hn]

omit hq in
/-- A registered WAIT whose signal can be read meets its condition as the signal does. -/
theorem waitMet_iff {y : RecWords} {z : Word} (hw : (s.queue p q).waiting = some y)
    (hz : s.signal p q y[1] = some z) (hr : s.queueRekeys p q (y[1], .read) = false) :
    s.waitMet p q = true ↔ if y[0].getLsbD 16 = true then y[2].toNat ≤ z.toNat else z = y[2] := by
  simp only [State.waitMet, hw, hz, hr, Bool.not_false, Bool.true_and]
  split <;> simp

theorem waitConditionMet_idle (hm : s.waitMet p q = false) : execWaitConditionMet p.toNat q s = .next s := by
  simp [execWaitConditionMet, queue_exists hq p, hm]

theorem waitConditionMet_goes_on {y : RecWords} (hw : (s.queue p q).waiting = some y)
    (hm : s.waitMet p q = true) : ∃ u, execWaitConditionMet p.toNat q s = .next u
      ∧ s.queueIs u p q { s.advanced p q with waiting := none } ∧ u.mem = s.mem := by
  have h := queueAsked_relinked s p q (y[1], .read)
  refine ⟨_, ?_, relinked_setHostQueue h _ q _⟩
  simp [execWaitConditionMet, queue_exists hq p, hm, hw, relinked_advanced h]

/-! ## INDIRECT and CKPT (R204, R269) -/

theorem indirect_idle (hs : s.starts p q 5 w = false) : execIndirect p.toNat q w s = .next s := by
  simp [execIndirect, queue_exists hq p, hs]

theorem indirect_lends (hs : s.starts p q 5 w = true) (hw : pktOk w = true)
    (hi : (s.queue p q).indirect = none) : ∃ u, execIndirect p.toNat q w s = .next u ∧ u.mem = s.mem
      ∧ s.queueIs u p q { s.queue p q with
          indirect := some (w[1], if w[2] = 0 then 65536 else w[2].toNat)
          window := s.prefetch p q w[1] (if w[2] = 0 then 65536 else w[2].toNat) } := by
  have h := fetched_relinked s p q w
  refine ⟨_, ?_, (relinked_setHostQueue h _ q _).symm⟩
  simp [execIndirect, queue_exists hq p, hs, hw, hi, relinked_prefetch h]

theorem indirect_halts (hs : s.starts p q 5 w = true)
    (hw : pktOk w = false ∨ (s.queue p q).indirect.isSome = true) :
    ∃ u, execIndirect p.toNat q w s = .next u ∧ s.haltsAt u p q := by
  have h := fetched_relinked s p q w
  refine ⟨_, ?_, relinked_haltQueue h _ q⟩
  rcases hw with hw | hw <;> simp [execIndirect, queue_exists hq p, hs, hw]

theorem ckpt_idle (hs : s.starts p q 6 w = false) : execCkpt p.toNat q w s = .next s := by
  simp [execCkpt, queue_exists hq p, hs]

theorem ckpt_closes (hs : s.starts p q 6 w = true) (hw : pktOk w = true) : ∃ u, execCkpt p.toNat q w s = .next u
      ∧ s.queueIs u p q (s.advanced p q) ∧ (u.part p).undo = []
      ∧ (u.part p).ckptValid = true ∧ (u.part p).step = w[1] ∧ u.mem = s.mem := by
  have h := fetched_relinked s p q w
  obtain ⟨hy, hm⟩ := relinked_setHostQueue h p q (s.advanced p q)
  let t := (s.fetched p q w).setHostQueue p q (s.advanced p q)
  refine ⟨t.setPart p { t.part p with undo := [], ckptValid := true, step := w[1] }, ?_,
    queueIs_congr hy (by simp [t]), by simp, by simp, by simp, hm⟩
  simp [execCkpt, queue_exists hq p, hs, hw, relinked_advanced h, t]

end packet

/-! ## Abort tokens (R387) -/

theorem relinked_refl (s : State) : s.relinked s := ⟨rfl, fun _ _ => rfl⟩

theorem relinked_trans {s t u : State} (h : s.relinked t) (g : t.relinked u) : s.relinked u :=
  ⟨by rw [g.1, h.1], fun p x => (g.2 p x).trans (h.2 p x)⟩

theorem received_relinked (s : State) (d : Nat) : s.relinked (s.received (.peerMem d)) :=
  ⟨rfl, fun p h => modPeerLink_reaches s d receive_st p h⟩

theorem carried_relinked (s : State) (d : Nat) : s.relinked (s.carried (.peerMem d)) :=
  ⟨rfl, fun p h => modPeerLink_reaches s d carry_st p h⟩

theorem foldl_carried_relinked (ds : List Nat) : ∀ s : State, s.relinked (ds.foldl (fun t d => t.carried (.peerMem d)) s) := by
  induction ds with
  | nil => exact relinked_refl
  | cons d ds ih => exact fun s => relinked_trans (carried_relinked s d) (ih _)

/-- Lines of the log change nothing of a partition but the log, and no byte. -/
theorem foldl_logError_spec {α : Type} (p : BitVec 4) (f : α → Word) (r : ErrReason) (l : List α) : ∀ s : State,
    (l.foldl (fun s d => s.logError p (f d) r) s).mem = s.mem
      ∧ ∃ es, (l.foldl (fun s d => s.logError p (f d) r) s).part p = { s.part p with errlog := es } := by
  induction l with
  | nil => exact fun s => ⟨rfl, _, rfl⟩
  | cons d l ih =>
    intro s
    obtain ⟨hm, es, he⟩ := ih (s.logError p (f d) r)
    exact ⟨hm, es, by rw [List.foldl_cons, he, part_logError]⟩

/-- The unwind step of a fault: the least that its partition knows (R387). -/
def Partition.unwindStep (x : Partition) : Word :=
  match x.unwind with
  | some u => if u.toNat < x.step.toNat then u else x.step
  | none => x.step

/-- The devices that a partition's token goes to, over links that are up (R350, R387). -/
def State.tokenPeers (s : State) (p : BitVec 4) : List Nat :=
  ((s.part p).group.filter fun d => decide (d ≠ Config.device)).filter fun d => s.reaches p (.peerMem d)

theorem sendTokens_spec (s : State) (p : BitVec 4) :
    (s.sendTokens p).mem = s.mem ∧ ∃ ts es, ts.map (·.1) = (if (s.part p).tokens = [] then s.tokenPeers p else (s.part p).tokens.map (·.1))
      ∧ (s.sendTokens p).part p = { s.part p with unwind := some (s.part p).unwindStep, tokens := ts, errlog := es } := by
  by_cases ht : (s.part p).tokens = []
  · let up (d : Nat) : Bool := s.reaches p (.peerMem d)
    let others := (s.part p).group.filter fun d => d != Config.device
    let ts := (others.filter up).map fun d => (d, (s.part p).unwindStep)
    let t := s.setPart p { s.part p with unwind := some (s.part p).unwindStep, tokens := ts }
    have hc := foldl_carried_relinked (others.filter up) t
    obtain ⟨hm, es, he⟩ := foldl_logError_spec p (fun d => BitVec.ofNat 64 d) 1 (others.filter fun d => !up d)
      ((others.filter up).foldl (fun t d => t.carried (.peerMem d)) t)
    have e : s.sendTokens p = (others.filter fun d => !up d).foldl (fun s d => s.logError p (BitVec.ofNat 64 d) 1)
        ((others.filter up).foldl (fun t d => t.carried (.peerMem d)) t) := by
      simp only [State.sendTokens, ht, List.isEmpty_nil, if_true]; rfl
    refine ⟨by rw [e, hm, relinked_mem hc]; rfl, ts, es, ?_, ?_⟩
    · rw [if_pos ht]
      simp only [ts, List.map_map, Function.comp_def, List.map_id', State.tokenPeers, others, up]
      congr 2; funext d; by_cases hd : d = Config.device <;> simp [hd]
    · rw [e, he, relinked_part hc]; simp [t]
  · refine ⟨?_, (s.part p).tokens, (s.part p).errlog, by rw [if_neg ht], ?_⟩
    · simp [State.sendTokens, ht]
    · simp only [State.sendTokens, List.isEmpty_iff, ht, if_false, part_setPart]; rfl

theorem unwindStep_toNat (x : Partition) :
    x.unwindStep.toNat = match x.unwind with | some a => min a.toNat x.step.toNat | none => x.step.toNat := by
  unfold Partition.unwindStep
  cases x.unwind with
  | none => rfl
  | some a => simp only; split <;> omega

theorem report_mem (s : State) (c : Src) (k : Nat) (a b d : Word) : (s.report c k a b d).mem = s.mem := by simp [State.report, State.modTile]

theorem report_part (s : State) (c : Src) (k : Nat) (a b d : Word) (p : BitVec 4) : (s.report c k a b d).part p = s.part p := by
  simp [State.report, State.modTile]

theorem abortTokenReceive_unheard {s : State} {p : BitVec 4} {dev : Nat} (step : Word) (h : s.hears dev = false) :
    execAbortTokenReceive p dev step s = .next s := by simp [execAbortTokenReceive, h]

/-- The partition as the token finds it: stopped, as by a fault of its own. -/
def Partition.halted (x : Partition) : Partition :=
  if x.stopped then x
  else { x with stopped := true, rollback := !x.tokenMode && x.ckptValid, hq := x.hq.map fun q => (q.1, { q.2 with halted := true }) }

theorem halted_stopped (x : Partition) : x.halted.stopped = true := by unfold Partition.halted; split <;> simp_all
theorem halted_tokens (x : Partition) : x.halted.tokens = x.tokens := by unfold Partition.halted; split <;> rfl
theorem halted_group (x : Partition) : x.halted.group = x.group := by unfold Partition.halted; split <;> rfl
theorem halted_unwindStep (x : Partition) : x.halted.unwindStep = x.unwindStep := by unfold Partition.halted; split <;> rfl

theorem abortTokenReceive_stops {s : State} {p : BitVec 4} {dev : Nat} (step : Word) (hd : dev < 64) (h : s.hears dev = true) :
    ∃ u a, execAbortTokenReceive p dev step s = .next u ∧ (u.part p).stopped = true
      ∧ (u.part p).unwind = some a ∧ a.toNat = min (s.part p).unwindStep.toNat step.toNat
      ∧ ((s.part p).stopped = false → (u.part p).rollback = false)
      ∧ (u.part p).tokens.map (·.1) = (if (s.part p).tokens = [] then s.tokenPeers p else (s.part p).tokens.map (·.1))
      ∧ u.mem = s.mem := by
  have hr := received_relinked s dev
  let r := s.received (.peerMem dev)
  let t := if (s.part p).stopped = true then r else r.stopPartition p
  have htm : t.mem = s.mem := by simp only [t]; split <;> exact (relinked_mem hr :)
  have htp : t.part p = (s.part p).halted := by
    simp only [t, Partition.halted, r]; split <;> simp [State.stopPartition, relinked_part hr]
  have hpeers : t.tokenPeers p = s.tokenPeers p := by
    have hreach (d : Nat) : t.reaches p (.peerMem d) = s.reaches p (.peerMem d) := by
      rw [← hr.2]; simp only [t]; split <;> rfl
    have hg : (t.part p).group = (s.part p).group := by rw [htp, halted_group]
    simp only [State.tokenPeers, hreach, hg]
  obtain ⟨hm, ts, es, hts, he⟩ := sendTokens_spec t p
  let x := (t.sendTokens p).part p
  let v := (t.sendTokens p).setPart p { x with
    rollback := if (s.part p).stopped = true then x.rollback else false
    unwind := x.unwind.map fun u => if step.toNat < u.toNat then step else u }
  have hx : x.unwind = some (s.part p).unwindStep ∧ x.tokens = ts ∧ x.stopped = true := by
    simp only [x, he, htp, halted_stopped, halted_unwindStep, and_self]
  have hv : (v.part p).unwind = some (if step.toNat < (s.part p).unwindStep.toNat then step else (s.part p).unwindStep)
      ∧ (v.part p).stopped = true ∧ (v.part p).tokens = ts ∧ ((s.part p).stopped = false → (v.part p).rollback = false) := by
    simp only [v, part_setPart, hx, Option.map_some, true_and]
    intro hs; simp [hs]
  let u := if (s.part p).stopped = true then v else v.report ⟨0, 3⟩ 0x04 (p.setWidth 64) 1 0
  have hup : u.part p = v.part p := by simp only [u]; split <;> simp [report_part]
  have hum : u.mem = s.mem := by
    have : v.mem = s.mem := hm.trans htm
    simp only [u]; split <;> simp [report_mem, this]
  refine ⟨u, if step.toNat < (s.part p).unwindStep.toNat then step else (s.part p).unwindStep, ?_, ?_, ?_, ?_, ?_, ?_, hum⟩
  · have hd' : ¬ 64 ≤ dev := by omega
    have hst : (r.part p).stopped = (s.part p).stopped := by rw [relinked_part hr]
    by_cases hs : (s.part p).stopped = true
    · simp [execAbortTokenReceive, hd', h, u, v, x, t, r, hs, hst]
    · simp only [Bool.not_eq_true] at hs
      simp [execAbortTokenReceive, hd', h, u, v, x, t, r, hs, hst]
  · rw [hup]; exact hv.2.1
  · rw [hup]; exact hv.1
  · split <;> omega
  · rw [hup]; exact hv.2.2.2
  · rw [hup, hv.2.2.1, hts, hpeers, htp, halted_tokens]

end Sys2Proof.Machine
end

section
/-! Writes of the sequencer: what they leave of queues and launches, the completion counters, and the records pushed. -/

namespace Sys2Proof.Machine

/-! ## What a write at a home leaves of the sequencer -/

/-- `t` has the descriptors, class queues, host queues and error logs of `s`, its launches and its images. -/
structure State.keepsQueues (s t : State) : Prop where
  d : ∀ p, (t.part p).d = (s.part p).d
  queues : ∀ p, (t.part p).queues = (s.part p).queues
  hq : ∀ p, (t.part p).hq = (s.part p).hq
  errlog : ∀ p, (t.part p).errlog = (s.part p).errlog
  launches : t.launches = s.launches
  nextOrd : t.nextOrd = s.nextOrd
  images : t.images = s.images

theorem keepsQueues_of_parts {s t : State} (hp : t.parts = s.parts) (hl : t.launches = s.launches) (ho : t.nextOrd = s.nextOrd)
    (hi : t.images = s.images) : s.keepsQueues t := by
  have h (p : BitVec 4) : t.part p = s.part p := by simp only [State.part, hp]
  exact ⟨fun p => by rw [h], fun p => by rw [h], fun p => by rw [h], fun p => by rw [h], hl, ho, hi⟩

theorem keepsQueues_refl (s : State) : s.keepsQueues s := keepsQueues_of_parts rfl rfl rfl rfl

theorem keepsQueues_trans {s t u : State} (h : s.keepsQueues t) (g : t.keepsQueues u) : s.keepsQueues u :=
  ⟨fun p => (g.d p).trans (h.d p), fun p => (g.queues p).trans (h.queues p), fun p => (g.hq p).trans (h.hq p),
    fun p => (g.errlog p).trans (h.errlog p), g.launches.trans h.launches, g.nextOrd.trans h.nextOrd, g.images.trans h.images⟩

theorem keepsQueues_foldl {α : Type} {f : State → α → State} (hf : ∀ (s : State) x, s.keepsQueues (f s x)) (l : List α) :
    ∀ s : State, s.keepsQueues (l.foldl f s) := by
  induction l with
  | nil => exact keepsQueues_refl
  | cons x l ih => exact fun s => keepsQueues_trans (hf s x) (ih _)

/-- A partition written back with its descriptor, queues and error log. -/
theorem keepsQueues_setPart (s : State) (p : BitVec 4) {x : Partition} (hd : x.d = (s.part p).d) (hq : x.queues = (s.part p).queues)
    (hh : x.hq = (s.part p).hq) (he : x.errlog = (s.part p).errlog) : s.keepsQueues (s.setPart p x) := by
  have h (r : BitVec 4) : (s.setPart p x).part r = if r = p then x else s.part r := by
    split
    · next e => rw [e, part_setPart]
    · next e => exact part_setPart_ne s x e
  exact ⟨fun r => by rw [h]; split <;> simp_all, fun r => by rw [h]; split <;> simp_all, fun r => by rw [h]; split <;> simp_all,
    fun r => by rw [h]; split <;> simp_all, rfl, rfl, rfl⟩

theorem report_keepsQueues (s : State) (c : Src) (k : Nat) (a b d : Word) : s.keepsQueues (s.report c k a b d) :=
  keepsQueues_of_parts (by simp [State.report, State.modTile]) (by simp [State.report, State.modTile]) (by simp [State.report, State.modTile])
    (by simp [State.report, State.modTile])

theorem logUndo_keepsQueues (s : State) (line : Nat) : s.keepsQueues (s.logUndo line) := by
  unfold State.logUndo
  simp only
  split_ifs
  · exact keepsQueues_refl s
  · exact keepsQueues_setPart s _ rfl rfl rfl rfl
  · refine keepsQueues_trans ?_ (report_keepsQueues ..)
    exact keepsQueues_setPart s _ rfl rfl rfl rfl
  · exact keepsQueues_refl s

theorem rekeyLine_keepsQueues (s : State) (line : Nat) : s.keepsQueues (s.rekeyLine line) := by
  unfold State.rekeyLine
  simp only [setBytes_eq]
  split
  · exact keepsQueues_refl s
  · exact keepsQueues_of_parts rfl rfl rfl rfl

theorem setBytes_keepsQueues (s : State) (h : Home) (off : Nat) (bs : List Byte) : s.keepsQueues (s.setBytes h off bs) := by
  rw [setBytes_eq]; exact keepsQueues_of_parts rfl rfl rfl rfl

theorem putBytes_keepsQueues (s : State) (h : Home) (off : Nat) (bs : List Byte) : s.keepsQueues (s.putBytes h off bs) := by
  cases h with
  | dram => exact keepsQueues_trans (keepsQueues_foldl rekeyLine_keepsQueues _ s) (setBytes_keepsQueues ..)
  | host | slice | pool | custodian | peerMem | peerPool => exact setBytes_keepsQueues ..

theorem markUnits_keepsQueues (s : State) (h : Home) (off n : Nat) (p : Bool) : s.keepsQueues (s.markUnits h off n p) := by
  refine keepsQueues_foldl (fun s u => ?_) _ s
  split_ifs
  · exact keepsQueues_of_parts rfl rfl rfl rfl
  · exact keepsQueues_of_parts rfl rfl rfl rfl
  · exact keepsQueues_refl s

theorem putGranules_keepsQueues (s : State) (h : Home) (off : Nat) (bs : List Byte) (w : Word) : s.keepsQueues (s.putGranules h off bs w) :=
  keepsQueues_trans (putBytes_keepsQueues ..) (keepsQueues_foldl (fun t g => keepsQueues_of_parts (t := t.setTagWord h g w) rfl rfl rfl rfl) _ _)

theorem bankWrite_keepsQueues (s : State) (h : Home) (off : Nat) (bs : List Byte) (w : Word) : s.keepsQueues (s.bankWrite h off bs w) :=
  keepsQueues_trans (putGranules_keepsQueues ..) (keepsQueues_foldl
    (fun s c => keepsQueues_of_parts (by simp [State.modCtx]) (by simp [State.modCtx]) (by simp [State.modCtx]) (by simp [State.modCtx])) _ _)

theorem homeWrite_keepsQueues (s : State) (h : Home) (off : Nat) (bs : List Byte) (w : Word) (p : Bool) :
    s.keepsQueues (s.homeWrite h off bs w p) := by
  cases h with
  | pool | custodian => exact bankWrite_keepsQueues ..
  | peerPool => exact putGranules_keepsQueues ..
  | dram => exact keepsQueues_trans (keepsQueues_foldl logUndo_keepsQueues _ s) (keepsQueues_trans (putBytes_keepsQueues ..) (markUnits_keepsQueues ..))
  | host | slice | peerMem => exact keepsQueues_trans (putBytes_keepsQueues ..) (markUnits_keepsQueues ..)

/-! ## Words of device memory -/

theorem leNat_leBytes (n : Nat) : ∀ v, leNat (leBytes n v) = v % 256 ^ n := by
  induction n with
  | zero => intro v; simp [leBytes, leNat, Nat.mod_one]
  | succ n ih =>
    intro v
    simp only [leBytes, leNat, ih, BitVec.toNat_ofNat]
    exact (Nat.mod_mul (x := v) (a := 256) (b := 256 ^ n)).symm.trans (by rw [Nat.pow_succ' (m := 256)])

theorem bytes_congr {s t : State} {h : Home} {n : Nat} : ∀ {off : Nat}, (∀ a, off ≤ a → a < off + n → t.byte h a = s.byte h a) →
    t.bytes h off n = s.bytes h off n := by
  induction n with
  | zero => intro off _; rfl
  | succ n ih =>
    intro off hb
    simp only [State.bytes]
    rw [hb off (by omega) (by omega), ih fun a h1 h2 => hb a (by omega) (by omega)]

/-- A word elsewhere than the bytes written reads as before. -/
theorem word_sameBytesBut {s t : State} {h : Home} {off n : Nat} (hs : s.sameBytesBut t h off n) {a k : Nat}
    (ha : a + k ≤ 2 ^ 64) (hd : a + k ≤ off ∨ off + n ≤ a) : t.word h a k = s.word h a k := by
  rw [State.word, State.word, bytes_congr fun b h1 h2 => hs h b (by omega) (by omega)]

/-- A 64-bit word written at a home reads as written. -/
theorem word_homeWrite {s : State} (h : Home) (off : Nat) (v : Word) (w : Word) (p : Bool) (hc : s.canonical = true) (ho : off + 8 ≤ 2 ^ 64) :
    (s.homeWrite h off (leBytes 8 v.toNat) w p).word h off 8 = v.toNat := by
  have hb := (homeWrite_spec (s := s) h off (leBytes 8 v.toNat) w p hc (by rw [leBytes_length]; exact ho)).1
  rw [leBytes_length] at hb
  rw [State.word, hb, leNat_leBytes]
  exact Nat.mod_eq_of_lt v.isLt

theorem sameBytesBut_sameStore {s t u v : State} {h : Home} {off n : Nat} (hs : s.sameStore t) (hb : t.sameBytesBut u h off n)
    (hu : u.sameStore v) : s.sameBytesBut v h off n :=
  fun x a ha hn => ((sameStore_byte hu x a).trans (hb x a ha hn)).trans (sameStore_byte hs x a)

theorem sameStore_setHostQueue (s : State) (p : BitVec 4) (q : Nat) (y : HostQueue) : s.sameStore (s.setHostQueue p q y) :=
  ⟨rfl, rfl, rfl, rfl⟩

/-! ## RELEASE (R269) -/

/-- What a RELEASE writes to its signal: its value, or the sum with the old one. -/
def State.releaseValue (s : State) (w : RecWords) (h : Home) (off : Nat) : Word :=
  if w[0].getLsbD 19 = true then BitVec.ofNat 64 (s.word h off 8) + w[2] else w[2]

theorem releaseValue_toNat (s : State) (w : RecWords) (h : Home) (off : Nat) : (s.releaseValue w h off).toNat =
    if w[0].getLsbD 19 = true then (s.word h off 8 + w[2].toNat) % 2 ^ 64 else w[2].toNat := by
  unfold State.releaseValue
  split <;> simp

section packet
variable {p : BitVec 4} {q : Nat} (hq : q < 64) {s : State} {w : RecWords}
include hq

theorem release_idle (hs : s.starts p q 3 w = false) : execRelease p.toNat q w s = .next s := by
  simp [execRelease, queue_exists hq p, hs]

theorem release_halts (hs : s.starts p q 3 w = true) (hn : s.queuePlace p q w[1] (if w[0].getLsbD 19 = true then .both else .write) = none) :
    ∃ u, execRelease p.toNat q w s = .next u ∧ s.haltsAt u p q := by
  have h := fetched_relinked s p q w
  refine ⟨_, ?_, relinked_haltQueue h _ q⟩
  simp [-BitVec.getLsbD_eq_getElem, execRelease, queue_exists hq p, hs, relinked_queuePlace h, hn]

theorem release_writes {h : Home} {off : Nat} (hs : s.starts p q 3 w = true) (hw : pktOk w = true)
    (hn : s.queuePlace p q w[1] (if w[0].getLsbD 19 = true then .both else .write) = some (h, off)) (hc : s.canonical = true)
    (ho : off + 8 ≤ 2 ^ 64) : ∃ u, execRelease p.toNat q w s = .next u ∧ s.queueIs u p q (s.advanced p q) ∧ s.sameBytesBut u h off 8
      ∧ u.word h off 8 = (if w[0].getLsbD 19 = true then (s.word h off 8 + w[2].toNat) % 2 ^ 64 else w[2].toNat) := by
  let t := s.fetched p q w
  have hr : s.relinked t := fetched_relinked s p q w
  have ht : t.canonical = true := (relinked_canonical hr).trans hc
  let v := s.releaseValue w h off
  let b := w[0].getLsbD 19 && t.homePoison h off 8
  let u := t.homeWrite h off (leBytes 8 v.toNat) 0 b
  have hu := sameStore_setHostQueue u p q (s.advanced p q)
  have hk : (u.part p).hq = (s.part p).hq := ((homeWrite_keepsQueues ..).hq p).trans (congrArg Partition.hq (relinked_part hr p))
  refine ⟨u.setHostQueue p q (s.advanced p q), ?_, queueIs_setHostQueue hk q _, ?_, ?_⟩
  · simp [-BitVec.getLsbD_eq_getElem, execRelease, queue_exists hq p, hs, hw, relinked_queuePlace hr, hn, relinked_advanced hr, relinked_word hr, u, v, b, t,
      State.releaseValue]
  · have hb := (homeWrite_spec (s := t) h off (leBytes 8 v.toNat) 0 b ht (by rw [leBytes_length]; exact ho)).2.1
    rw [leBytes_length] at hb
    exact sameBytesBut_sameStore (relinked_sameStore hr) hb hu
  · rw [State.word, sameStore_bytes hu, ← State.word, word_homeWrite h off v 0 b ht ho, releaseValue_toNat]

end packet

/-! ## Completion counters (R252, Table 12.2) -/

/-- A level and an index of Table 12.2. -/
def isCounter (c : Nat × Nat) : Prop := 1 ≤ c.1 ∧ c.1 ≤ 4 ∧ c.2 < 4096

/-- The completion counters of a partition lie within the address space. -/
def Partition.countersFit (x : Partition) : Prop := (x.word 10).toNat + 2 ^ 17 ≤ 2 ^ 64

theorem word_of_d {x y : Partition} (h : x.d = y.d) (i : Nat) : x.word i = y.word i := by rw [Partition.word, h, Partition.word]

theorem counterAddr_of_d {s t : State} {p : BitVec 4} (h : (t.part p).d = (s.part p).d) (l i : Nat) : t.counterAddr p l i = s.counterAddr p l i := by
  rw [State.counterAddr, word_of_d h, State.counterAddr]

/-- A counter lies among the counters of its partition. -/
theorem counterAddr_within (s : State) (p : BitVec 4) {c : Nat × Nat} (hc : isCounter c) :
    ((s.part p).word 10).toNat ≤ s.counterAddr p c.1 c.2 ∧ s.counterAddr p c.1 c.2 + 8 ≤ ((s.part p).word 10).toNat + 2 ^ 17 := by
  obtain ⟨h1, h2, h3⟩ := hc
  simp only [State.counterAddr]; omega

/-- Two counters share no byte. -/
theorem counterAddr_apart (s : State) (p : BitVec 4) {c e : Nat × Nat} (hc : isCounter c) (he : isCounter e) (hn : e ≠ c) :
    s.counterAddr p e.1 e.2 + 8 ≤ s.counterAddr p c.1 c.2 ∨ s.counterAddr p c.1 c.2 + 8 ≤ s.counterAddr p e.1 e.2 := by
  obtain ⟨l, i⟩ := c
  obtain ⟨m, j⟩ := e
  obtain ⟨h1, h2, h3⟩ := hc
  obtain ⟨g1, g2, g3⟩ := he
  simp only [State.counterAddr, ne_eq, Prod.mk.injEq] at *
  omega

theorem counter_congr {s t : State} {p : BitVec 4} (hd : (t.part p).d = (s.part p).d) {l i : Nat}
    (hw : t.word .dram (s.counterAddr p l i) 8 = s.word .dram (s.counterAddr p l i) 8) : t.counter p l i = s.counter p l i := by
  rw [State.counter, counterAddr_of_d hd, hw, State.counter]

theorem counter_sameStore {s t : State} (hs : s.sameStore t) {p : BitVec 4} (hd : (t.part p).d = (s.part p).d) (l i : Nat) :
    t.counter p l i = s.counter p l i :=
  counter_congr hd (by rw [State.word, sameStore_bytes hs, State.word])

/-- A counter elsewhere than the bytes written reads as before. -/
theorem counter_sameBytesBut {s t : State} {p : BitVec 4} (hd : (t.part p).d = (s.part p).d) {off n : Nat} (hb : s.sameBytesBut t .dram off n)
    (hf : (s.part p).countersFit) {c : Nat × Nat} (hc : isCounter c)
    (ha : s.counterAddr p c.1 c.2 + 8 ≤ off ∨ off + n ≤ s.counterAddr p c.1 c.2) : t.counter p c.1 c.2 = s.counter p c.1 c.2 := by
  have := counterAddr_within s p hc
  exact counter_congr hd (word_sameBytesBut hb (by have := hf; unfold Partition.countersFit at this; omega) ha)

theorem setCounter_keepsQueues (s : State) (p : BitVec 4) (l i : Nat) (w : Word) : s.keepsQueues (s.setCounter p l i w) := homeWrite_keepsQueues ..

/-- A counter written reads as written, and every other counter as before. -/
theorem setCounter_spec {s : State} {p : BitVec 4} {c : Nat × Nat} (hs : s.canonical = true) (hf : (s.part p).countersFit) (hc : isCounter c)
    (w : Word) : (s.setCounter p c.1 c.2 w).canonical = true ∧ (s.setCounter p c.1 c.2 w).counter p c.1 c.2 = w
      ∧ ∀ e, isCounter e → e ≠ c → (s.setCounter p c.1 c.2 w).counter p e.1 e.2 = s.counter p e.1 e.2 := by
  have hk := setCounter_keepsQueues s p c.1 c.2 w
  have ha := counterAddr_within s p hc
  have ho : s.counterAddr p c.1 c.2 + 8 ≤ 2 ^ 64 := by have := hf; unfold Partition.countersFit at this; omega
  obtain ⟨-, hb, hw⟩ := homeWrite_spec (s := s) .dram (s.counterAddr p c.1 c.2) (leBytes 8 w.toNat) 0 false hs (by rw [leBytes_length]; exact ho)
  rw [leBytes_length] at hb
  refine ⟨hw.canonical hs, ?_, fun e he hn => counter_sameBytesBut (hk.d p) hb hf he (counterAddr_apart s p hc he hn)⟩
  rw [State.counter, counterAddr_of_d (hk.d p)]
  unfold State.setCounter
  rw [word_homeWrite _ _ w 0 false hs ho]
  simp

/-! ## The fields of a counter entry (Table 12.2) -/

theorem ccState_ccWord {st : Nat} (h : st < 4) (canc : Bool) (failed out : Nat) : ccState (ccWord st canc failed out) = st := by
  have e (x : BitVec 2) (y : BitVec 1) (z : BitVec 29) (o : BitVec 32) : BitVec.extractLsb' 62 2 (x ++ y ++ z ++ o) = x :=
    (BitVec.extractLsb'_append_eq_of_le (by decide)).trans
      ((BitVec.extractLsb'_append_eq_of_le (by decide)).trans BitVec.extractLsb'_append_eq_left)
  exact (congrArg BitVec.toNat (e ..)).trans (by rw [BitVec.toNat_ofNat, Nat.mod_eq_of_lt h])

theorem ccOut_ccWord (st : Nat) (canc : Bool) (failed out : Nat) : ccOut (ccWord st canc failed out) = out % 2 ^ 32 := by
  have e (x : BitVec 32) (o : BitVec 32) : BitVec.extractLsb' 0 32 (x ++ o) = o := BitVec.extractLsb'_append_eq_right
  exact (congrArg BitVec.toNat (e ..)).trans (by rw [BitVec.toNat_ofNat])

/-- A counter entry with one outstanding task more (R253). -/
def ccMore (w : Word) : Word := if ccState w = 1 then ccWord 1 (w.getLsbD 61) (ccFailed w) (ccOut w + 1) else ccWord 1 false 0 1

theorem ccState_ccMore (w : Word) : ccState (ccMore w) = 1 := by
  unfold ccMore; split <;> exact ccState_ccWord (by decide) _ _ _

theorem ccOut_ccMore (w : Word) : ccOut (ccMore w) = if ccState w = 1 then (ccOut w + 1) % 2 ^ 32 else 1 := by
  unfold ccMore; split <;> simp [ccOut_ccWord]

/-! ## One outstanding task more (R253) -/

theorem incCounter_keepsQueues (s : State) (p : BitVec 4) (c : Nat × Nat) : s.keepsQueues (s.incCounter p c) := by
  unfold State.incCounter
  simp only
  split_ifs
  · exact setCounter_keepsQueues ..
  · refine keepsQueues_trans (setCounter_keepsQueues s p c.1 c.2 (ccWord 1 false 0 1)) ?_
    exact keepsQueues_setPart _ p rfl rfl rfl rfl
  · exact setCounter_keepsQueues ..

/-- But for a job's account, the entry is all that changes. -/
theorem incCounter_sameStore (s : State) (p : BitVec 4) (c : Nat × Nat) :
    (s.setCounter p c.1 c.2 (ccMore (s.counter p c.1 c.2))).sameStore (s.incCounter p c)
      ∧ ((s.setCounter p c.1 c.2 (ccMore (s.counter p c.1 c.2))).canonical = true → (s.incCounter p c).canonical = true) := by
  unfold State.incCounter ccMore
  simp only
  split_ifs
  · exact ⟨⟨rfl, rfl, rfl, rfl⟩, id⟩
  · exact ⟨⟨rfl, rfl, rfl, rfl⟩, fun h => h⟩
  · exact ⟨⟨rfl, rfl, rfl, rfl⟩, id⟩

theorem incCounter_spec {s : State} {p : BitVec 4} {c : Nat × Nat} (hs : s.canonical = true) (hf : (s.part p).countersFit) (hc : isCounter c) :
    (s.incCounter p c).canonical = true ∧ (s.incCounter p c).counter p c.1 c.2 = ccMore (s.counter p c.1 c.2)
      ∧ ∀ e, isCounter e → e ≠ c → (s.incCounter p c).counter p e.1 e.2 = s.counter p e.1 e.2 := by
  obtain ⟨h1, h2, h3⟩ := setCounter_spec hs hf hc (ccMore (s.counter p c.1 c.2))
  obtain ⟨g1, g2⟩ := incCounter_sameStore s p c
  have hd : ((s.incCounter p c).part p).d = ((s.setCounter p c.1 c.2 (ccMore (s.counter p c.1 c.2))).part p).d :=
    ((incCounter_keepsQueues s p c).d p).trans ((setCounter_keepsQueues ..).d p).symm
  exact ⟨g2 h1, (counter_sameStore g1 hd _ _).trans h2, fun e he hn => (counter_sameStore g1 hd _ _).trans (h3 e he hn)⟩

theorem incCounters_keepsQueues (cs : List (Nat × Nat)) (s : State) (p : BitVec 4) :
    s.keepsQueues (cs.foldl (fun s c => s.incCounter p c) s) :=
  keepsQueues_foldl (fun s c => incCounter_keepsQueues s p c) cs s

/-- Distinct counters each count one task more. -/
theorem incCounters_spec {p : BitVec 4} (cs : List (Nat × Nat)) : ∀ {s : State}, s.canonical = true → (s.part p).countersFit →
    (∀ c ∈ cs, isCounter c) → cs.Nodup →
    (cs.foldl (fun s c => s.incCounter p c) s).canonical = true
      ∧ (∀ c ∈ cs, (cs.foldl (fun s c => s.incCounter p c) s).counter p c.1 c.2 = ccMore (s.counter p c.1 c.2))
      ∧ ∀ e, isCounter e → e ∉ cs → (cs.foldl (fun s c => s.incCounter p c) s).counter p e.1 e.2 = s.counter p e.1 e.2 := by
  induction cs with
  | nil => exact fun hs _ _ _ => ⟨hs, by simp, fun _ _ _ => rfl⟩
  | cons c cs ih =>
    intro s hs hf hcs hn
    obtain ⟨hn, hnd⟩ := List.nodup_cons.1 hn
    have hc := hcs c (by simp)
    obtain ⟨h1, h2, h3⟩ := incCounter_spec hs hf hc
    have hf' : ((s.incCounter p c).part p).countersFit := by
      unfold Partition.countersFit
      rw [word_of_d ((incCounter_keepsQueues s p c).d p)]
      exact hf
    obtain ⟨g1, g2, g3⟩ := ih h1 hf' (fun e he => hcs e (by simp [he])) hnd
    simp only [List.foldl_cons]
    refine ⟨g1, fun e he => ?_, fun e he hne => ?_⟩
    · rcases List.mem_cons.1 he with rfl | he'
      · rw [g3 e hc hn, h2]
      · rw [g2 e he', h3 e (hcs e he) (fun h => hn (h ▸ he'))]
    · rw [List.mem_cons, not_or] at hne
      rw [g3 e he hne.2, h3 e he hne.1]

theorem isCounter_recCounters {r : RecWords} : ∀ c ∈ recCounters r, isCounter c := by
  intro c hc
  simp only [recCounters, List.mem_map, List.mem_cons, List.not_mem_nil, or_false] at hc
  obtain ⟨l, hl, rfl⟩ := hc
  exact ⟨by simp only; omega, by simp only; omega, BitVec.isLt _⟩

theorem recCounters_nodup (r : RecWords) : (recCounters r).Nodup := by simp [recCounters]

/-! ## The overflow region (R251) -/

/-- The overflow region meets no completion counter and lies within the address space, where it holds a record. -/
def Partition.regionApart (x : Partition) : Prop :=
  64 * x.overflowCap = 0 ∨ (x.word 8).toNat + 64 * x.overflowCap ≤ (x.word 10).toNat
    ∨ ((x.word 10).toNat + 2 ^ 17 ≤ (x.word 8).toNat ∧ (x.word 8).toNat + 64 * x.overflowCap ≤ 2 ^ 64)

theorem wordBytes_length (ws : List Word) : (wordBytes ws).length = 8 * ws.length := by
  simp only [wordBytes, List.length_flatMap, leBytes_length, List.map_const', List.sum_replicate, smul_eq_mul]; omega

theorem recordBytes_length (rs : List RecWords) : (wordBytes (rs.flatMap fun r => r.toList)).length = 64 * rs.length := by
  simp only [wordBytes_length, List.length_flatMap, Vector.length_toList, List.map_const', List.sum_replicate, smul_eq_mul]; omega

theorem spill_keepsQueues (s : State) (p : BitVec 4) : s.keepsQueues (s.spill p) := by
  unfold State.spill
  simp only
  split
  · exact keepsQueues_refl s
  · exact homeWrite_keepsQueues ..

/-- The records past the head caches reach no completion counter. -/
theorem spill_spec {s : State} {p : BitVec 4} (hs : s.canonical = true) (hf : (s.part p).countersFit) (hr : (s.part p).regionApart) :
    (s.spill p).canonical = true ∧ ∀ c, isCounter c → (s.spill p).counter p c.1 c.2 = s.counter p c.1 c.2 := by
  have hk := spill_keepsQueues s p
  have e : s.spill p = if ((s.part p).overflow.take (s.part p).overflowCap).isEmpty then s else s.homeWrite .dram ((s.part p).word 8).toNat
    (wordBytes (((s.part p).overflow.take (s.part p).overflowCap).flatMap fun r => r.toList)) 0 false := rfl
  have hl := recordBytes_length ((s.part p).overflow.take (s.part p).overflowCap)
  by_cases he : ((s.part p).overflow.take (s.part p).overflowCap).isEmpty = true
  · rw [if_pos he] at e
    rw [e]
    exact ⟨hs, fun _ _ => rfl⟩
  rw [if_neg he] at e
  have hpos : 0 < ((s.part p).overflow.take (s.part p).overflowCap).length := by
    rw [List.length_pos_iff]; simpa [List.isEmpty_iff] using he
  have hcap : ((s.part p).overflow.take (s.part p).overflowCap).length ≤ (s.part p).overflowCap := List.length_take_le _ _
  unfold Partition.countersFit at hf
  unfold Partition.regionApart at hr
  obtain ⟨-, hb, hw⟩ := homeWrite_spec (s := s) .dram ((s.part p).word 8).toNat
    (wordBytes (((s.part p).overflow.take (s.part p).overflowCap).flatMap fun r => r.toList)) 0 false hs (by rw [hl]; omega)
  rw [← e] at hb hw
  rw [hl] at hb
  refine ⟨hw.canonical hs, fun c hc => counter_sameBytesBut (hk.d p) hb hf hc ?_⟩
  have := counterAddr_within s p hc
  omega

/-! ## A record pushed (R251, R253) -/

/-- `t` is `s` with the records `rs` behind those of class queue k of partition p; every other class queue, every descriptor and launch is as before. -/
structure State.pushedBehind (s t : State) (p : BitVec 4) (k : Nat) (rs : List RecWords) : Prop where
  d : (t.part p).d = (s.part p).d
  launches : t.launches = s.launches
  nextOrd : t.nextOrd = s.nextOrd
  queue : (t.part p).queue k = (s.part p).queue k ++ rs
  others : ∀ j, j ≠ k → (t.part p).queue j = (s.part p).queue j

theorem queue_of_queues {x y : Partition} (h : x.queues = y.queues) (k : Nat) : x.queue k = y.queue k := by
  rw [Partition.queue, h, Partition.queue]

theorem pushedBehind_of_keepsQueues {s t : State} (h : s.keepsQueues t) (p : BitVec 4) (k : Nat) : s.pushedBehind t p k [] :=
  ⟨h.d p, h.launches, h.nextOrd, by rw [queue_of_queues (h.queues p), List.append_nil], fun j _ => queue_of_queues (h.queues p) j⟩

theorem pushedBehind_trans {s t u : State} {p : BitVec 4} {k : Nat} {rs rs' : List RecWords} (h : s.pushedBehind t p k rs) (g : t.pushedBehind u p k rs') :
    s.pushedBehind u p k (rs ++ rs') :=
  ⟨g.d.trans h.d, g.launches.trans h.launches, g.nextOrd.trans h.nextOrd, by rw [g.queue, h.queue, List.append_assoc],
    fun j hj => (g.others j hj).trans (h.others j hj)⟩

theorem queue_setIfInBounds (x : Partition) {k : Nat} (hk : k < 4) (q : List RecWords) (j : Nat) :
    ({ x with queues := x.queues.setIfInBounds k q } : Partition).queue j = if j = k then q else x.queue j := by
  simp only [Partition.queue]
  by_cases h : j = k
  · subst h; simp [hk]
  · simp [h, Ne.symm h, Array.getD_eq_getD_getElem?]

theorem countersFit_of_d {x y : Partition} (h : x.d = y.d) (hy : y.countersFit) : x.countersFit := by
  unfold Partition.countersFit; rw [word_of_d h]; exact hy

theorem regionApart_of_d {x y : Partition} (h : x.d = y.d) (hy : y.regionApart) : x.regionApart := by
  unfold Partition.regionApart Partition.overflowCap; rw [word_of_d h, word_of_d h, word_of_d h]; exact hy

/-- A record put behind a class queue reaches its queue alone, and no completion counter. -/
theorem setQueue_append_spec {s : State} {p : BitVec 4} {k : Nat} (hk : k < 4) (r : RecWords) (hs : s.canonical = true)
    (hf : (s.part p).countersFit) (hr : (s.part p).regionApart) :
    s.pushedBehind (s.setQueue p k ((s.part p).queue k ++ [r])) p k [r] ∧ (s.setQueue p k ((s.part p).queue k ++ [r])).canonical = true
      ∧ ∀ c, isCounter c → (s.setQueue p k ((s.part p).queue k ++ [r])).counter p c.1 c.2 = s.counter p c.1 c.2 := by
  let t := s.setPart p { s.part p with queues := (s.part p).queues.setIfInBounds k ((s.part p).queue k ++ [r]) }
  have hp : t.part p = { s.part p with queues := (s.part p).queues.setIfInBounds k ((s.part p).queue k ++ [r]) } := part_setPart ..
  have hd : (t.part p).d = (s.part p).d := by rw [hp]
  have hq : s.pushedBehind t p k [r] := by
    refine ⟨hd, rfl, rfl, ?_, fun j hj => ?_⟩
    · rw [hp, queue_setIfInBounds _ hk, if_pos rfl]
    · rw [hp, queue_setIfInBounds _ hk, if_neg hj]
  have e : s.setQueue p k ((s.part p).queue k ++ [r]) = t.spill p := rfl
  have hcn : t.canonical = true := hs
  have hst : s.sameStore t := ⟨rfl, rfl, rfl, rfl⟩
  rw [e]
  clear_value t
  obtain ⟨h1, h2⟩ := spill_spec hcn (countersFit_of_d hd hf) (regionApart_of_d hd hr)
  have hpb := pushedBehind_trans hq (pushedBehind_of_keepsQueues (spill_keepsQueues t p) p k)
  rw [List.append_nil] at hpb
  exact ⟨hpb, h1, fun c h => (h2 c h).trans (counter_sameStore hst hd c.1 c.2)⟩

/-- A record whose counters are not cancelling and whose class queue has room is pushed, and each of its counters counts one task more. -/
theorem pushRecord_spec {s : State} {p : BitVec 4} {r : RecWords} (hs : s.canonical = true) (hf : (s.part p).countersFit)
    (hr : (s.part p).regionApart) (hc : s.cancelling p r = false) (hk : recClass r < 4) (hroom : (s.part p).full (recClass r) = false) :
    s.pushedBehind (s.pushRecord p r false).1 p (recClass r) [r] ∧ (s.pushRecord p r false).1.canonical = true
      ∧ ∀ c ∈ recCounters r, (s.pushRecord p r false).1.counter p c.1 c.2 = ccMore (s.counter p c.1 c.2) := by
  let t := (recCounters r).foldl (fun s c => s.incCounter p c) s
  have hkq : s.keepsQueues t := incCounters_keepsQueues _ s p
  obtain ⟨h1, h2, -⟩ := incCounters_spec (p := p) (recCounters r) hs hf isCounter_recCounters (recCounters_nodup r)
  obtain ⟨g1, g2, g3⟩ := setQueue_append_spec (s := t) hk r h1 (countersFit_of_d (hkq.d p) hf) (regionApart_of_d (hkq.d p) hr)
  have e : (s.pushRecord p r false).1 = t.setQueue p (recClass r) ((t.part p).queue (recClass r) ++ [r]) := by
    have hk3 : ¬3 < recClass r := by omega
    simp only [State.pushRecord, hc, hk3, hroom, decide_false, Bool.or_false, Bool.false_eq_true, if_false]
    rfl
  rw [e]
  refine ⟨?_, g2, fun c hcm => (g3 c (isCounter_recCounters c hcm)).trans (h2 c hcm)⟩
  simpa using pushedBehind_trans (pushedBehind_of_keepsQueues hkq p (recClass r)) g1

/-! ## The records of a LAUNCH (R269) -/

theorem launchRecord_three (p : BitVec 4) (ord : Nat) (w : RecWords) (i : Nat) :
    (launchRecord p ord w i)[3] = w[0].extractLsb' 32 32 ++ BitVec.ofNat 32 i := rfl

theorem launchRecord_four (p : BitVec 4) (ord : Nat) (w : RecWords) (i : Nat) :
    (launchRecord p ord w i)[4] = (0xFFF : BitVec 12) ++ w[0].extractLsb' 20 4 ++ BitVec.ofNat 48 (ord * 2 ^ 24 + i) := rfl

theorem launchRecord_six (p : BitVec 4) (ord : Nat) (w : RecWords) (i : Nat) :
    (launchRecord p ord w i)[6] = w[6].extractLsb' 0 48 ++ (0 : BitVec 12) ++ p := rfl

/-- Every record of a LAUNCH names the same counters. -/
theorem recCounters_launchRecord (p : BitVec 4) (ord : Nat) (w : RecWords) (i : Nat) :
    recCounters (launchRecord p ord w i) = recCounters (launchRecord p 0 w 0) := by
  simp only [recCounters, recCounter, launchRecord_six]

theorem recClass_launchRecord (p : BitVec 4) (ord : Nat) (w : RecWords) (i : Nat) :
    recClass (launchRecord p ord w i) = (w[0].extractLsb' 20 4).toNat := by
  rw [recClass, launchRecord_four]
  exact congrArg BitVec.toNat ((BitVec.extractLsb'_append_eq_of_le (Nat.le_refl _)).trans BitVec.extractLsb'_append_eq_right)

theorem recAge_launchRecord (p : BitVec 4) {ord : Nat} (w : RecWords) {i : Nat} (h : ord * 2 ^ 24 + i < 2 ^ 48) :
    recAge (launchRecord p ord w i) = ord * 2 ^ 24 + i := by
  rw [recAge, launchRecord_four]
  exact (congrArg BitVec.toNat BitVec.extractLsb'_append_eq_right).trans (by rw [BitVec.toNat_ofNat, Nat.mod_eq_of_lt h])

theorem recIndex_launchRecord (p : BitVec 4) (ord : Nat) (w : RecWords) {i : Nat} (h : i < 2 ^ 32) :
    recIndex (launchRecord p ord w i) = i := by
  rw [recIndex, launchRecord_three]
  exact (congrArg BitVec.toNat BitVec.extractLsb'_append_eq_right).trans (by rw [BitVec.toNat_ofNat, Nat.mod_eq_of_lt h])

theorem recPart_launchRecord (p : BitVec 4) (ord : Nat) (w : RecWords) (i : Nat) : recPart (launchRecord p ord w i) = p := by
  rw [recPart, launchRecord_six]
  exact BitVec.extractLsb'_append_eq_right

/-- CLAUNCH is the launch counter of every record. -/
theorem recCounter_launchRecord_one (p : BitVec 4) (ord : Nat) (w : RecWords) (i : Nat) : recCounter (launchRecord p ord w i) 1 = pktCounter w := by
  have f (x : Word) : (x.extractLsb' 0 48).extractLsb' 0 12 = x.extractLsb' 0 12 := by
    ext i hi
    simp
  rw [recCounter, launchRecord_six, pktCounter]
  exact congrArg BitVec.toNat (((BitVec.extractLsb'_append_eq_of_le (by decide)).trans (BitVec.extractLsb'_append_eq_of_le (by decide))).trans (f _))

end Sys2Proof.Machine
end

section
/-! LAUNCH, and the statement about the host queues. -/

namespace Sys2Proof.Machine

/-! ## The pushes of a LAUNCH (R253, R269) -/

/-- A class queue has room for n records more, in its head cache or in the overflow region (R251). -/
def Partition.roomFor (x : Partition) (k n : Nat) : Prop :=
  (x.queue k).length + n ≤ 256 ∨ ([0, 1, 2, 3].map fun j => (x.queue j).length - 256).sum + n ≤ x.overflowCap

theorem overflow_length (x : Partition) : x.overflow.length = ([0, 1, 2, 3].map fun j => (x.queue j).length - 256).sum := by
  simp only [Partition.overflow, List.length_flatMap, List.length_drop, List.map_cons, List.map_nil, List.sum_cons, List.sum_nil]
  omega

/-- Behind i records of n that a class queue has room for, it is not full. -/
theorem not_full_of_roomFor {s t : State} {p : BitVec 4} {k n : Nat} {rs : List RecWords} (h : s.pushedBehind t p k rs) (hk : k < 4)
    (hr : (s.part p).roomFor k n) (hn : rs.length < n) : (t.part p).full k = false := by
  have hl : ((t.part p).queue k).length = ((s.part p).queue k).length + rs.length := by rw [h.queue, List.length_append]
  have ho (j : Nat) (hj : j ≠ k) : ((t.part p).queue j).length = ((s.part p).queue j).length := by rw [h.others j hj]
  have hcap : (t.part p).overflowCap = (s.part p).overflowCap := by rw [Partition.overflowCap, word_of_d h.d, Partition.overflowCap]
  unfold Partition.roomFor at hr
  rw [Partition.full, overflow_length, hcap]
  simp only [List.map_cons, List.map_nil, List.sum_cons, List.sum_nil] at hr ⊢
  obtain rfl | rfl | rfl | rfl : k = 0 ∨ k = 1 ∨ k = 2 ∨ k = 3 := by omega
  · rw [ho 1 (by decide), ho 2 (by decide), ho 3 (by decide), hl]; simp; omega
  · rw [ho 0 (by decide), ho 2 (by decide), ho 3 (by decide), hl]; simp; omega
  · rw [ho 0 (by decide), ho 1 (by decide), ho 3 (by decide), hl]; simp; omega
  · rw [ho 0 (by decide), ho 1 (by decide), ho 2 (by decide), hl]; simp; omega

/-- What n pushes of a launch leave of a counter that it names: not cancelling, open once one record has been pushed. -/
structure Pushing (s t : State) (p : BitVec 4) (w : RecWords) (ord n : Nat) : Prop where
  behind : s.pushedBehind t p (w[0].extractLsb' 20 4).toNat ((List.range n).map (launchRecord p ord w))
  canonical : t.canonical = true
  live : ∀ c ∈ recCounters (launchRecord p 0 w 0), ccState (t.counter p c.1 c.2) ≠ 2
  launchOpen : if n = 0 then ccState (t.counter p 1 (pktCounter w)) ≠ 1
    else ccState (t.counter p 1 (pktCounter w)) = 1 ∧ ccOut (t.counter p 1 (pktCounter w)) = n

theorem launchCounter_mem (p : BitVec 4) (w : RecWords) : (1, pktCounter w) ∈ recCounters (launchRecord p 0 w 0) := by
  rw [← recCounter_launchRecord_one p 0 w 0]; simp [recCounters]

theorem cancelling_eq_false {s : State} {p : BitVec 4} {r : RecWords} :
    s.cancelling p r = false ↔ ∀ c ∈ recCounters r, ccState (s.counter p c.1 c.2) ≠ 2 := by
  simp [State.cancelling]

/-- The next push of a launch for whose records there is room. -/
theorem pushing_step {s t : State} {p : BitVec 4} {w : RecWords} {ord n g : Nat} (h : Pushing s t p w ord n)
    (hk : (w[0].extractLsb' 20 4).toNat < 4) (hf : (s.part p).countersFit) (hr : (s.part p).regionApart)
    (hroom : (s.part p).roomFor (w[0].extractLsb' 20 4).toNat g) (hn : n < g) (hg : g ≤ 2 ^ 23) :
    Pushing s (t.pushRecord p (launchRecord p ord w n) false).1 p w ord (n + 1) := by
  obtain ⟨hb, hc, hl, ho⟩ := h
  have hcs := recCounters_launchRecord p ord w n
  have hcl := recClass_launchRecord p ord w n
  obtain ⟨g1, g2, g3⟩ := pushRecord_spec hc (countersFit_of_d hb.d hf) (regionApart_of_d hb.d hr)
    (cancelling_eq_false.2 (by rw [hcs]; exact hl)) (by rw [hcl]; exact hk)
    (by rw [hcl]; exact not_full_of_roomFor hb hk hroom (by simpa using hn))
  rw [hcs] at g3
  rw [hcl] at g1
  refine ⟨?_, g2, fun c hcm => ?_, ?_⟩
  · rw [List.range_succ, List.map_append]
    exact pushedBehind_trans hb g1
  · rw [g3 c hcm, ccState_ccMore]; decide
  · have := g3 _ (launchCounter_mem p w)
    simp only at this
    rw [if_neg (Nat.succ_ne_zero n), this, ccState_ccMore, ccOut_ccMore]
    refine ⟨rfl, ?_⟩
    split at ho
    · rw [if_neg ho]; omega
    · rw [if_pos ho.1, ho.2]; omega

/-- All the pushes of a launch. -/
theorem pushing_all {s : State} {p : BitVec 4} {w : RecWords} (ord : Nat) {g : Nat} (hc : s.canonical = true)
    (hk : (w[0].extractLsb' 20 4).toNat < 4) (hf : (s.part p).countersFit) (hr : (s.part p).regionApart)
    (hroom : (s.part p).roomFor (w[0].extractLsb' 20 4).toNat g) (hg : g ≤ 2 ^ 23)
    (hl : s.cancelling p (launchRecord p 0 w 0) = false) (ho : ccState (s.counter p 1 (pktCounter w)) ≠ 1) {n : Nat} (hn : n ≤ g) :
    Pushing s ((List.range n).foldl (fun s i => (s.pushRecord p (launchRecord p ord w i) false).1) s) p w ord n := by
  induction n with
  | zero =>
    exact ⟨pushedBehind_of_keepsQueues (keepsQueues_refl s) p _, hc, cancelling_eq_false.1 hl, by rw [if_pos rfl]; exact ho⟩
  | succ n ih =>
    rw [List.range_succ, List.foldl_append]
    exact pushing_step (ih (by omega)) hk hf hr hroom (by omega) hg

/-! ## LAUNCH (R269) -/

/-- What a LAUNCH that is not refused meets, of the grounds of R269. -/
theorem launchRefused_eq_false {s : State} {p : BitVec 4} {w : RecWords} (h : s.launchRefused p w = false) :
    0 < (w[3].extractLsb' 0 32).toNat ∧ (w[3].extractLsb' 0 32).toNat ≤ 2 ^ 23 ∧ s.cancelling p (launchRecord p 0 w 0) = false
      ∧ ccState (s.counter p 1 (pktCounter w)) ≠ 1 ∧ (w[0].extractLsb' 20 4).toNat < 4 := by
  simp only [State.launchRefused, State.launchGrounds, List.any_cons, List.any_nil, Bool.or_false, Bool.or_eq_false_iff, decide_eq_false_iff_not,
    beq_eq_false_iff_ne] at h
  obtain ⟨-, -, ⟨h1, h2⟩, -, h3, h4, -, -, -, h5⟩ := h
  exact ⟨by omega, by omega, h3, h4, by omega⟩

/-- The grounds of a refusal are of memory, descriptors, launches and images alone. -/
theorem launchGrounds_congr {s t : State} (hs : s.sameStore t) {p : BitVec 4} (hd : (t.part p).d = (s.part p).d) (hl : t.launches = s.launches)
    (ho : t.nextOrd = s.nextOrd) (hi : t.images = s.images) (w : RecWords) : t.launchGrounds p w = s.launchGrounds p w := by
  simp only [State.launchGrounds, State.listedEntry, State.cancelling, State.launch?, counter_sameStore hs hd, hl, ho, hi]

/-- A LAUNCH that is not refused, with room for its records: its launch stands under the next ordinal, and its G records in index order behind
those of its class. -/
theorem acceptLaunch_spec {s : State} {p : BitVec 4} {w : RecWords} (hn : s.launchRefused p w = false) (hc : s.canonical = true)
    (hf : (s.part p).countersFit) (hr : (s.part p).regionApart)
    (hroom : (s.part p).roomFor (w[0].extractLsb' 20 4).toNat (w[3].extractLsb' 0 32).toNat) :
    (s.acceptLaunch p w).nextOrd = (s.nextOrd + 1) % 2 ^ 24
      ∧ (∃ l ∈ (s.acceptLaunch p w).launches, l.ord = s.nextOrd ∧ l.part = p ∧ l.g = (w[3].extractLsb' 0 32).toNat ∧ l.pool = w[4] ∧ l.slots = w[7])
      ∧ ((s.acceptLaunch p w).part p).queue (w[0].extractLsb' 20 4).toNat = (s.part p).queue (w[0].extractLsb' 20 4).toNat
          ++ (List.range (w[3].extractLsb' 0 32).toNat).map (launchRecord p s.nextOrd w)
      ∧ ∀ j, j ≠ (w[0].extractLsb' 20 4).toNat → ((s.acceptLaunch p w).part p).queue j = (s.part p).queue j := by
  obtain ⟨hg0, hg, hl, ho, hk⟩ := launchRefused_eq_false hn
  let c (l : Nat) : Nat := recCounter (launchRecord p s.nextOrd w 0) l
  let l : Launch := ⟨s.nextOrd, p, w[4], (w[3].extractLsb' 0 32).toNat, (w[0].extractLsb' 24 5).toNat, 2 ^ 23, w[0].extractLsb' 18 2, w[0].getLsbD 16,
    w[7], #v[c 1, c 2, c 3, c 4], false⟩
  let t : State := { s with launches := s.launches ++ [l], nextOrd := (s.nextOrd + 1) % 2 ^ 24 }
  obtain ⟨hb, -, -, hopen⟩ := pushing_all (s := t) (p := p) s.nextOrd hc hk hf hr hroom hg hl ho (Nat.le_refl _)
  let u := (List.range (w[3].extractLsb' 0 32).toNat).foldl (fun s' i => (s'.pushRecord p (launchRecord p s.nextOrd w i) false).1) t
  have e : s.acceptLaunch p w = u := by
    have hne : ccOut (u.counter p 1 (c 1)) ≠ 0 := by
      rw [if_neg (by omega)] at hopen
      have : c 1 = pktCounter w := recCounter_launchRecord_one ..
      rw [this]
      exact fun h => by rw [h] at hopen; omega
    have e0 : s.acceptLaunch p w = if ccOut (u.counter p 1 (c 1)) = 0 then u.completeCounter p 1 (c 1) false else u := rfl
    rw [e0, if_neg hne]
  rw [e]
  exact ⟨hb.nextOrd, ⟨l, by rw [hb.launches]; simp [t], rfl, rfl, rfl, rfl, rfl⟩, hb.queue, hb.others⟩

/-- The log takes one line for each ground that holds. -/
theorem foldl_grounds_spec (p : BitVec 4) (a : Word) (l : List (Bool × ErrReason)) : ∀ s : State,
    (l.foldl (fun s e => if e.1 then s.logError p a e.2 else s) s).launches = s.launches
      ∧ ∃ es, es.length = (l.filter (·.1)).length
        ∧ (l.foldl (fun s e => if e.1 then s.logError p a e.2 else s) s).part p = { s.part p with errlog := (s.part p).errlog ++ es } := by
  induction l with
  | nil => exact fun s => ⟨rfl, [], rfl, by simp⟩
  | cons e l ih =>
    intro s
    by_cases he : e.1 = true
    · obtain ⟨hl, es, hn, hp⟩ := ih (s.logError p a e.2)
      rw [List.foldl_cons, if_pos he]
      exact ⟨hl, ⟨a, e.2⟩ :: es, by simp [he, hn], by rw [hp]; simp⟩
    · obtain ⟨hl, es, hn, hp⟩ := ih s
      rw [List.foldl_cons, if_neg he]
      exact ⟨hl, es, by simp [he, hn], hp⟩

/-- A refused LAUNCH is logged; no queue and no launch changes. -/
theorem refuseLaunch_spec {s : State} {p : BitVec 4} {w : RecWords} (hr : s.launchRefused p w = true) :
    (s.refuseLaunch p w).launches = s.launches ∧ ((s.refuseLaunch p w).part p).hq = (s.part p).hq
      ∧ ((s.refuseLaunch p w).part p).queues = (s.part p).queues ∧ (s.part p).errlog.length < ((s.refuseLaunch p w).part p).errlog.length := by
  let t := (s.launchGrounds p w).foldl (fun s e => if e.1 then s.logError p w[1] e.2 else s) s
  obtain ⟨hl, es, hn, hp⟩ := foldl_grounds_spec p w[1] (s.launchGrounds p w) s
  have hk : t.keepsQueues (s.refuseLaunch p w) := by
    have e : s.refuseLaunch p w = if ccState (t.counter p 1 (pktCounter w)) = 0 || ccState (t.counter p 1 (pktCounter w)) = 3
        then t.setCounter p 1 (pktCounter w) (ccWord 3 false (w[3].extractLsb' 0 32).toNat 0) else t := rfl
    rw [e]
    split
    · exact setCounter_keepsQueues ..
    · exact keepsQueues_refl t
  have hpos : 0 < es.length := by
    rw [hn, List.length_pos_iff, ne_eq, List.filter_eq_nil_iff]
    intro h
    obtain ⟨e, he, h1⟩ := List.any_eq_true.1 hr
    exact h e he h1
  refine ⟨hk.launches.trans hl, ?_, ?_, ?_⟩
  · rw [hk.hq, hp]
  · rw [hk.queues, hp]
  · rw [hk.errlog, hp]; simp only [List.length_append]; omega

theorem relinked_launchRefused {s t : State} (h : s.relinked t) (p : BitVec 4) (w : RecWords) : t.launchRefused p w = s.launchRefused p w := by
  have hi : t.images = s.images := by rw [h.1]
  rw [State.launchRefused, launchGrounds_congr (relinked_sameStore h) (congrArg Partition.d (relinked_part h p)) (relinked_launches h)
    (relinked_nextOrd h) hi, State.launchRefused]

/-- A state in which the queue has passed the packet refuses what the one before it refuses. -/
theorem launchRefused_setHostQueue {s t : State} (h : s.relinked t) (p : BitVec 4) (q : Nat) (y : HostQueue) (w : RecWords) :
    (t.setHostQueue p q y).launchRefused p w = s.launchRefused p w := by
  have hs := sameStore_trans (relinked_sameStore h) (sameStore_setHostQueue t p q y)
  have hi : t.images = s.images := by rw [h.1]
  have hd : ((t.setHostQueue p q y).part p).d = (s.part p).d := by simp [relinked_part h]
  rw [State.launchRefused, launchGrounds_congr hs hd (relinked_launches h :) (relinked_nextOrd h :) hi, State.launchRefused]

section packet
variable {p : BitVec 4} {q : Nat} (hq : q < 64) {s : State} {w : RecWords} (hg : (s.queue p q).graphReady = [])
include hq hg

/-- A LAUNCH of which its queue runs no GRAPH. -/
theorem launch_idle (hs : s.starts p q 1 w = false) : execLaunch p.toNat q w s = .next s := by
  simp [execLaunch, queue_exists hq p, hs, hg]

theorem launch_halts (hs : s.starts p q 1 w = true) (hw : (pktOk w && pktKind w == 1) = false) :
    ∃ u, execLaunch p.toNat q w s = .next u ∧ s.haltsAt u p q := by
  have h := fetched_relinked s p q w
  refine ⟨_, ?_, relinked_haltQueue h _ q⟩
  have hbad : (!pktOk w || pktKind w != 1) = true := by rw [bne, ← Bool.not_and, hw]; rfl
  simp only [execLaunch, queue_exists hq p, hs, hg, hbad, BitVec.ofNat_toNat, BitVec.setWidth_eq, List.contains_nil, Bool.false_and,
    Bool.false_eq_true, Bool.not_true, if_false, if_true]

theorem launch_refused (hs : s.starts p q 1 w = true) (hw : pktOk w = true) (hk : pktKind w = 1) (hr : s.launchRefused p w = true) :
    ∃ u, execLaunch p.toNat q w s = .next u ∧ s.queueIs u p q (s.advanced p q) ∧ u.launches = s.launches
      ∧ (∀ j, (u.part p).queue j = (s.part p).queue j) ∧ (s.part p).errlog.length < (u.part p).errlog.length := by
  have h := fetched_relinked s p q w
  let t := (s.fetched p q w).setHostQueue p q (s.advanced p q)
  have ht : s.queueIs t p q (s.advanced p q) := (relinked_setHostQueue h p q _).1
  have htp : t.part p = { s.part p with hq := (q, s.advanced p q) :: (s.part p).hq.filter (·.1 != q) } := by simp [t, relinked_part h]
  obtain ⟨h1, h2, h3, h4⟩ := refuseLaunch_spec (s := t) (p := p) (w := w) ((launchRefused_setHostQueue h p q _ w).trans hr)
  refine ⟨t.refuseLaunch p w, ?_, queueIs_congr ht h2, h1.trans (relinked_launches h :), fun j => ?_, ?_⟩
  · simp [execLaunch, queue_exists hq p, hs, hg, hw, hk, relinked_launchRefused h, hr, relinked_advanced h, t]
  · rw [queue_of_queues h3, htp]; rfl
  · rw [htp] at h4; exact h4

theorem launch_accepted (hs : s.starts p q 1 w = true) (hw : pktOk w = true) (hk : pktKind w = 1) (hr : s.launchRefused p w = false)
    (hord : s.nextOrd < 2 ^ 24) (hc : s.canonical = true) (hf : (s.part p).countersFit) (ha : (s.part p).regionApart)
    (hroom : (s.part p).roomFor (w[0].extractLsb' 20 4).toNat (w[3].extractLsb' 0 32).toNat) :
    ∃ u, execLaunch p.toNat q w s = .next u ∧ u.nextOrd = (s.nextOrd + 1) % 2 ^ 24
      ∧ (∃ l ∈ u.launches, l.ord = s.nextOrd ∧ l.part = p ∧ l.g = (w[3].extractLsb' 0 32).toNat ∧ l.pool = w[4] ∧ l.slots = w[7])
      ∧ ((u.part p).queue (w[0].extractLsb' 20 4).toNat).length
          = ((s.part p).queue (w[0].extractLsb' 20 4).toNat).length + (w[3].extractLsb' 0 32).toNat
      ∧ (∀ i < (w[3].extractLsb' 0 32).toNat, ∃ r,
          ((u.part p).queue (w[0].extractLsb' 20 4).toNat)[((s.part p).queue (w[0].extractLsb' 20 4).toNat).length + i]? = some r ∧ r[0] = w[1]
            ∧ recIndex r = i ∧ r[1] = w[2] + BitVec.ofNat 64 (i * (w[3].extractLsb' 32 32).toNat) ∧ recAge r = s.nextOrd * 2 ^ 24 + i ∧ recPart r = p)
      ∧ (∀ j, j ≠ (w[0].extractLsb' 20 4).toNat → (u.part p).queue j = (s.part p).queue j) := by
  have h := fetched_relinked s p q w
  let y := { s.advanced p q with running := (s.advanced p q).running ++ [Run.launch (pktCounter w)] }
  let t := (s.fetched p q w).setHostQueue p q y
  have htp : t.part p = { s.part p with hq := (q, y) :: (s.part p).hq.filter (·.1 != q) } := by simp [t, relinked_part h]
  have hd : (t.part p).d = (s.part p).d := by rw [htp]
  have hqs (j : Nat) : (t.part p).queue j = (s.part p).queue j := by rw [htp]; rfl
  have ho : t.nextOrd = s.nextOrd := (relinked_nextOrd h :)
  have hroom' : (t.part p).roomFor (w[0].extractLsb' 20 4).toNat (w[3].extractLsb' 0 32).toNat := by
    simpa only [Partition.roomFor, hqs, Partition.overflowCap, word_of_d hd] using hroom
  have hg23 := (launchRefused_eq_false hr).2.1
  obtain ⟨h1, h2, h3, h4⟩ := acceptLaunch_spec (s := t) (p := p) (w := w) ((launchRefused_setHostQueue h p q y w).trans hr)
    ((relinked_canonical h).trans hc) (countersFit_of_d hd hf) (regionApart_of_d hd ha) hroom'
  rw [ho] at h1 h2 h3
  rw [hqs] at h3
  refine ⟨t.acceptLaunch p w, ?_, h1, h2, ?_, fun i hi => ⟨launchRecord p s.nextOrd w i, ?_, rfl, recIndex_launchRecord p _ w (by omega), rfl,
    recAge_launchRecord p w (by omega), recPart_launchRecord p _ w i⟩, fun j hj => (h4 j hj).trans (hqs j)⟩
  · simp [execLaunch, queue_exists hq p, hs, hg, hw, hk, relinked_launchRefused h, hr, relinked_advanced h, t, y]
  · rw [h3]; simp
  · rw [h3, List.getElem?_append_right (Nat.le_add_right _ _), Nat.add_sub_cancel_left, List.getElem?_map, List.getElem?_range hi, Option.map_some]

end packet

/-- Settles O44: each packet by its own lemmas, the pushes of a LAUNCH by induction on their number. -/
theorem queueEvents : Obligations.QueueEvents := by
  unfold Obligations.QueueEvents
  intro p' q dev v step w s hp hq hdev
  obtain ⟨p, rfl⟩ : ∃ p : BitVec 4, p.toNat = p' := ⟨BitVec.ofNat 4 p', by rw [BitVec.toNat_ofNat, Nat.mod_eq_of_lt hp]⟩
  rw [BitVec.ofNat_toNat, BitVec.setWidth_eq]
  intro pn x holds halts
  refine ⟨tailRegisterWrite_moves hq v, tailRegisterWrite_unconfigured hq v, tailRegisterWrite_logged hq v, ?launch, ?graph, ?release, ?wait,
    ?rekeys, ?writes, ?waitRekeys, ?waitMet, ?indirect, ckpt_closes hq, ?token, abortTokenReceive_unheard step⟩
  case launch =>
    intro hs hg
    exact ⟨launch_halts hq hg hs, launch_refused hq hg hs, launch_accepted hq hg hs⟩
  case graph => exact fun hs => ⟨graph_halts hq hs, fun es => graph_runs hq hs⟩
  case release => exact fun hs hw => ⟨release_halts hq hs, fun h off => release_writes hq hs hw⟩
  case wait => exact fun hs hw => ⟨wait_holds hq hs hw, wait_halts hq hs⟩
  case rekeys =>
    intro h
    have hs (kind : Nat) : s.starts p q kind w = false := starts_of_queueRekeys h kind
    exact ⟨graph_idle hq (hs 2), release_idle hq (hs 3), wait_idle hq (hs 4), indirect_idle hq (hs 5), ckpt_idle hq (hs 6),
      fun hg => launch_idle hq hg (hs 1)⟩
  case writes => exact fun hk h => ckpt_idle hq (starts_of_writesOut hk h q 6)
  case waitRekeys =>
    intro y hy hr
    have hm : s.waitMet p q = false := by simp [State.waitMet, show (s.queue p q).waiting = some y from hy, show s.queueRekeys p q (y[1], .read) = true from hr]
    exact waitConditionMet_idle hq hm
  case waitMet =>
    intro y z hy hz hr
    have hm := waitMet_iff hy hz hr
    exact ⟨fun h => waitConditionMet_goes_on hq hy (hm.2 h), fun h => waitConditionMet_idle hq (Bool.eq_false_iff.2 fun e => h (hm.1 e))⟩
  case indirect => exact fun hs => ⟨indirect_lends hq hs, indirect_halts hq hs⟩
  case token =>
    intro h o own
    obtain ⟨u, a, h1, h2, h3, h4, h5⟩ := abortTokenReceive_stops (p := p) step hdev h
    rw [unwindStep_toNat] at h4
    exact ⟨u, a, h1, h2, h3, h4, h5⟩

end Sys2Proof.Machine
end

section
/-! Scrubbing, translations, frames and TDISP; partition descriptors. -/

namespace Sys2Proof.Machine

/-! ## Canonical lists filtered by key -/

/-- A key that a filter takes out reads as the default. -/
theorem clGet_filter_out {α : Type} (d : α) {P : Nat → Bool} {n : Nat} (hn : P n = false) (l : List (Nat × α)) :
    clGet d (l.filter fun m => P m.1) n = d := by
  induction l with
  | nil => rfl
  | cons e r ih =>
    by_cases he : P e.1 = true
    · have hne : n ≠ e.1 := fun h => by rw [h, he] at hn; cases hn
      rw [List.filter_cons_of_pos (p := fun m : Nat × α => P m.1) he]
      simp only [clGet, hne, if_false, ih, ite_self]
    · rw [List.filter_cons_of_neg (p := fun m : Nat × α => P m.1) he, ih]

theorem clGet_filter_above {α : Type} [DecidableEq α] {d : α} {P : Nat → Bool} {n : Nat} (hn : P n = true) (l : List (Nat × α)) :
    ∀ b : Option Nat, clAbove d b l → clGet d (l.filter fun m => P m.1) n = clGet d l n := by
  induction l with
  | nil => exact fun _ _ => rfl
  | cons e r ih =>
    intro b h
    obtain ⟨-, -, hr⟩ := h
    by_cases he : P e.1 = true
    · rw [List.filter_cons_of_pos (p := fun m : Nat × α => P m.1) he]
      simp only [clGet, ih _ hr]
    · have hne : n ≠ e.1 := fun h => he (h ▸ hn)
      rw [List.filter_cons_of_neg (p := fun m : Nat × α => P m.1) he, ih _ hr]
      simp only [clGet, hne, if_false]
      by_cases hlt : n < e.1
      · simp [hlt, clGet_below hr (Nat.le_of_lt hlt)]
      · simp [hlt]

/-- A key that a filter leaves reads as before, of a canonical list. -/
theorem clGet_filter_in {α : Type} [DecidableEq α] {d : α} {l : List (Nat × α)} (h : clWf d l = true) {P : Nat → Bool} {n : Nat}
    (hn : P n = true) : clGet d (l.filter fun m => P m.1) n = clGet d l n :=
  clGet_filter_above hn l none ((clWf_iff d l).1 h)

/-! ## Scrubbing (R202) -/

theorem patrolScrub_clean (line : Nat) (s : State) : execPatrolScrub line .clean s = .next s := by
  unfold execPatrolScrub; split <;> rfl

theorem patrolScrub_corrected {line : Nat} (hl : 64 * line < 0xC000000000) (s : State) : ∃ u, execPatrolScrub line .corrected s = .next u
    ∧ u.stackErr.toArray.getD (line / 4 % 8) 0 = s.stackErr.toArray.getD (line / 4 % 8) 0 + 1 ∧ u.mem = s.mem ∧ u.pois = s.pois := by
  have hk : line / 4 % 8 < 8 := Nat.mod_lt _ (by decide)
  refine ⟨_, if_neg (by omega), ?_, rfl, rfl⟩
  simp [hk]

theorem patrolScrub_uncorrectable {line : Nat} (hl : 64 * line < 0xC000000000) {s : State} (hc : s.canonical = true) :
    ∃ u, execPatrolScrub line .uncorrectable s = .next u ∧ u.unitPoison .dram (64 * line) = true ∧ u.mem = s.mem := by
  obtain ⟨-, -, hp, -⟩ := (canonical_iff s).1 hc
  refine ⟨s.setUnit .dram (64 * line) true, if_neg (by omega), ?_, rfl⟩
  rw [State.unitPoison, State.setUnit, clGet_set hp, if_pos rfl]

/-! ## Translations (R206, R270) -/

/-- A field that no step of a fold changes is as before. -/
theorem foldl_field {α β : Type} (g : State → β) {f : State → α → State} (hf : ∀ s x, g (f s x) = g s) (l : List α) :
    ∀ s, g (l.foldl f s) = g s := by
  induction l with
  | nil => exact fun _ => rfl
  | cons x l ih => exact fun s => (ih _).trans (hf s x)

theorem completePhaser_frame (s : State) (site idx : Nat) (p : Phaser) :
    (s.completePhaser site idx p).tlb = s.tlb ∧ (s.completePhaser site idx p).mem = s.mem := by
  unfold State.completePhaser; split <;> exact ⟨rfl, rfl⟩

theorem countDown_frame (s : State) (m : PhMsg) (n : Nat) : (s.countDown m n).tlb = s.tlb ∧ (s.countDown m n).mem = s.mem := by
  unfold State.countDown
  simp only
  split
  · exact completePhaser_frame ..
  · exact ⟨rfl, rfl⟩

theorem emptySlot_frame (s : State) (site k : Nat) : (s.emptySlot site k).tlb = s.tlb ∧ (s.emptySlot site k).mem = s.mem := by
  have h1 : (s.setSlot site k LineSlot.reset).tlb = s.tlb ∧ (s.setSlot site k LineSlot.reset).mem = s.mem := by
    simp [State.setSlot, State.modTile]
  unfold State.emptySlot
  simp only
  split
  · next j _ =>
    have h2 : ((s.setSlot site k LineSlot.reset).retireJob site j.id).tlb = s.tlb
        ∧ ((s.setSlot site k LineSlot.reset).retireJob site j.id).mem = s.mem := by
      simp [State.retireJob, State.modTile, h1]
    split
    · exact ⟨(countDown_frame ..).1.trans h2.1, (countDown_frame ..).2.trans h2.2⟩
    · exact h2
  · exact h1

/-- Line-cache blocks emptied leave every translation and every byte. -/
theorem emptyBlocks_frame (s : State) (f : Nat → Nat → LineSlot → Bool) : (s.emptyBlocks f).tlb = s.tlb ∧ (s.emptyBlocks f).mem = s.mem := by
  have step (s : State) (site k : Nat) :
      (if (s.slot site k).st != .empty && f site k (s.slot site k) then s.emptySlot site k else s).tlb = s.tlb
        ∧ (if (s.slot site k).st != .empty && f site k (s.slot site k) then s.emptySlot site k else s).mem = s.mem := by
    split
    · exact emptySlot_frame s site k
    · exact ⟨rfl, rfl⟩
  exact ⟨foldl_field State.tlb (fun s site => foldl_field State.tlb (fun s k => (step s site k).1) _ s) _ s,
    foldl_field State.mem (fun s site => foldl_field State.mem (fun s k => (step s site k).2) _ s) _ s⟩

/-- An invalidation leaves the translations of other PASIDs, and of its own those that do not meet its range. -/
theorem invalidate_spec (s : State) (pasid : BitVec 20) (va len : Nat) :
    (∀ e ∈ (s.invalidate pasid va len).tlb, e.pasid = pasid → meets e.base (2 ^ e.size) (va % 2 ^ 57) len = false)
      ∧ (∀ e ∈ s.tlb, e.pasid ≠ pasid → e ∈ (s.invalidate pasid va len).tlb) ∧ (s.invalidate pasid va len).mem = s.mem := by
  obtain ⟨ht, hm⟩ := emptyBlocks_frame s fun _ _ x => x.pasid == pasid && meets (x.base % 2 ^ 57) x.span (va % 2 ^ 57) len
  have e : (s.invalidate pasid va len).tlb = s.tlb.filter fun t => !(t.pasid == pasid && meets t.base (2 ^ t.size) (va % 2 ^ 57) len) := by
    simp only [State.invalidate, ht]
  refine ⟨fun x hx hp => ?_, fun x hx hp => ?_, hm⟩
  · rw [e, List.mem_filter] at hx
    simpa [hp] using hx.2
  · rw [e, List.mem_filter]
    exact ⟨hx, by simp [hp]⟩

theorem tlbInvalidation_completes {s : State} {pasid : BitVec 20} (va len : Nat) (hb : s.pasidBusy pasid = false) :
    ∃ u, execTlbInvalidation pasid va len s = .next u
      ∧ (∀ e ∈ u.tlb, e.pasid = pasid → e.base + 2 ^ e.size ≤ va % 2 ^ 57 ∨ va % 2 ^ 57 + len ≤ e.base)
      ∧ (∀ e ∈ s.tlb, e.pasid ≠ pasid → e ∈ u.tlb) ∧ u.mem = s.mem := by
  obtain ⟨h1, h2, h3⟩ := invalidate_spec s pasid va len
  refine ⟨s.invalidate pasid va len, by simp [execTlbInvalidation, hb], fun e he hp => ?_, h2, h3⟩
  have := h1 e he hp
  simp only [meets, Bool.and_eq_false_iff, decide_eq_false_iff_not] at this
  omega

theorem pasidTeardown_completes {s : State} {pasid : BitVec 20} (hb : s.pasidBusy pasid = false) (hw : s.pasidWalks pasid = false) :
    ∃ u, execPasidTeardown pasid s = .next u ∧ (∀ e ∈ u.tlb, e.base < 2 ^ 57 → e.pasid ≠ pasid)
      ∧ (∀ e ∈ s.tlb, e.pasid ≠ pasid → e ∈ u.tlb) ∧ pasid ∉ u.tearing ∧ u.mem = s.mem := by
  let t : State := { s with tearing := if s.tearing.contains pasid then s.tearing else s.tearing ++ [pasid] }
  obtain ⟨h1, h2, h3⟩ := invalidate_spec t pasid 0 (2 ^ 57)
  refine ⟨{ t.invalidate pasid 0 (2 ^ 57) with tearing := s.tearing.filter (· != pasid) }, by simp [execPasidTeardown, hb, hw, t],
    fun e he hlt hp => ?_, h2, by simp, h3⟩
  have := h1 e he hp
  have hpos : 0 < 2 ^ e.size := Nat.two_pow_pos _
  simp only [meets, Bool.and_eq_false_iff, decide_eq_false_iff_not] at this
  omega

/-- A request that waits stands in the list of work; translations and bytes are as before (log 56). -/
theorem later_spec (s : State) (ev : Instr) : (∃ w ∈ (s.later ev).work, w.ev = ev) ∧ (s.later ev).tlb = s.tlb ∧ (s.later ev).mem = s.mem := by
  unfold State.later
  split
  · next h =>
    obtain ⟨w, hw, he⟩ := List.any_eq_true.1 h
    exact ⟨⟨w, hw, eq_of_beq he⟩, rfl, rfl⟩
  · exact ⟨⟨custodianWork 0 ev, by simp, rfl⟩, rfl, rfl⟩

theorem tlbInvalidation_waits {s : State} {pasid : BitVec 20} (va len : Nat) (hb : s.pasidBusy pasid = true) :
    ∃ u, execTlbInvalidation pasid va len s = .next u ∧ (∃ w ∈ u.work, w.ev = .tlbInvalidation pasid va len) ∧ u.tlb = s.tlb ∧ u.mem = s.mem :=
  ⟨s.later (.tlbInvalidation pasid va len), by simp [execTlbInvalidation, hb], later_spec ..⟩

/-! ## Frames (R342) -/

theorem frameOwnershipChange_before_firmware {s : State} (h : s.firmwareUp = false) (frame : Nat) (owner : BitVec 8) :
    execFrameOwnershipChange frame owner s = .next s := by simp [execFrameOwnershipChange, h]

theorem frameOwnershipChange_completes {s : State} {frame : Nat} (owner : BitVec 8) (hl : frame < 393216) (hf : s.firmwareUp = true)
    (hb : s.frameBusy frame = false) (hc : s.canonical = true) : ∃ u, execFrameOwnershipChange frame owner s = .next u
      ∧ u.frameOwner (2 ^ 21 * frame) = owner ∧ (∀ f, f ≠ frame → u.frameOwner (2 ^ 21 * f) = s.frameOwner (2 ^ 21 * f)) ∧ u.mem = s.mem := by
  obtain ⟨-, -, -, -, hw, -⟩ := (canonical_iff s).1 hc
  have hdiv (f : Nat) : 2 ^ 21 * f / 2 ^ 21 = f := Nat.mul_div_cancel_left f (by decide)
  refine ⟨{ s with frames := clSet 0xFF s.frames frame owner }, by simp [execFrameOwnershipChange, hf, hb, hl], ?_, fun f hne => ?_, rfl⟩
  · rw [State.frameOwner, hdiv, clGet_set hw, if_pos rfl]
  · rw [State.frameOwner, hdiv, clGet_set hw, if_neg hne, State.frameOwner, hdiv]

/-! ## TDISP (Table 16.3) -/

/-- A descriptor with TDISP as its interface is assigned. -/
def Partition.withTdisp (x : Partition) (on : Bool) : Partition :=
  { x with d := x.d.set 0 (if on then x.d[0] ||| 0x2000000000000000 else x.d[0] &&& 0xDFFFFFFFFFFFFFFF) }

theorem withTdisp_tdisp (x : Partition) (on : Bool) : (x.withTdisp on).tdisp = on := by
  cases on <;> simp [Partition.withTdisp, Partition.tdisp, Partition.word]

theorem tdispAssignment_completes (p : BitVec 4) (on : Bool) (s : State) : ∃ u, execTdispAssignment p.toNat on s = .next u
    ∧ (u.part p).tdisp = on ∧ (u.part p).stopped = (s.part p).stopped ∧ (∀ q, q ≠ p → u.part q = s.part q) ∧ u.mem = s.mem := by
  have hp : ¬16 ≤ p.toNat := by have := p.isLt; omega
  refine ⟨s.setPart p ((s.part p).withTdisp on), ?_, ?_, ?_, fun q hq => part_setPart_ne s _ hq, rfl⟩
  · simp [execTdispAssignment, hp, Partition.withTdisp]
  · rw [part_setPart, withTdisp_tdisp]
  · rw [part_setPart]; rfl

/-! ## Descriptors (R345 to R347) -/

/-- The descriptor that stands at an address of device memory. -/
def State.descriptorAt (s : State) (addr : Nat) : Vector Word 16 :=
  Vector.ofFn fun i : Fin 16 => BitVec.ofNat 64 (s.word .dram (addr + 8 * i.val) 8)

/-- The conditions under which a descriptor is copied (R345, R346). -/
def State.admits (s : State) (p : BitVec 4) (addr : Nat) : Prop :=
  s.frameOwner addr = 0x10 ∧ descriptorOk (s.descriptorAt addr) = true ∧ s.sliceTaken p.toNat (s.descriptorAt addr)[9] = false
    ∧ ((s.part p).valid = true → frozenChanged (s.part p).d (s.descriptorAt addr) = false) ∧ s.poolOwned p (s.descriptorAt addr) = true
    ∧ ((s.part p).word 7 = (s.descriptorAt addr)[7] ∨ ∀ l, (l ∈ s.locks → l.part ≠ p) ∧ ∀ w ∈ s.waiters, w.part ≠ p)

/-- The same conditions broken, as the model tests them. -/
def State.descriptorBad (s : State) (p : BitVec 4) (addr : Nat) : Bool :=
  s.frameOwner addr != 0x10 || !descriptorOk (s.descriptorAt addr) || s.sliceTaken p.toNat ((s.descriptorAt addr).toArray.getD 9 0)
    || ((s.part p).valid && frozenChanged (s.part p).d (s.descriptorAt addr))
    || (((s.locks.any fun l => l.part == p) || (s.waiters.any fun l => l.part == p)) && (s.part p).word 7 != (s.descriptorAt addr).toArray.getD 7 0)
    || !s.poolOwned p (s.descriptorAt addr)

theorem locks_free_iff (s : State) (p : BitVec 4) :
    ((s.locks.any fun l => l.part == p) || (s.waiters.any fun l => l.part == p)) = false
      ↔ ∀ l, (l ∈ s.locks → l.part ≠ p) ∧ ∀ w ∈ s.waiters, w.part ≠ p := by
  simp only [Bool.or_eq_false_iff, List.any_eq_false, beq_iff_eq]
  exact ⟨fun h l => ⟨h.1 l, h.2⟩, fun h => ⟨fun l => (h l).1, (h ⟨p, 0, 0, 0, 0⟩).2⟩⟩

theorem descriptorBad_eq_false_iff (s : State) (p : BitVec 4) (addr : Nat) : s.descriptorBad p addr = false ↔ s.admits p addr := by
  have h9 : (s.descriptorAt addr).toArray.getD 9 0 = (s.descriptorAt addr)[9] := by simp
  have h7 : (s.descriptorAt addr).toArray.getD 7 0 = (s.descriptorAt addr)[7] := by simp
  rw [State.descriptorBad, State.admits, h9, h7, ← locks_free_iff]
  generalize s.descriptorAt addr = d
  simp only [Bool.or_eq_false_iff, Bool.and_eq_false_iff, bne_eq_false_iff_eq, Bool.not_eq_false', and_assoc]
  constructor
  · rintro ⟨h1, h2, h3, h4, h5, h6⟩
    exact ⟨h1, h2, h3, fun hv => h4.resolve_left (by simp [hv]), h6, h5.symm⟩
  · rintro ⟨h1, h2, h3, h4, h5, h6⟩
    exact ⟨h1, h2, h3, (Bool.eq_false_or_eq_true (s.part p).valid).symm.imp_right h4, h6.symm, h5⟩

/-- The descriptor register of a partition set. -/
def State.pointsTo (s : State) (p : BitVec 4) (addr : Nat) : State := { s with descAddr := s.descAddr.setIfInBounds p.toNat addr }

/-- A key generated for a partition whose V is first set (R347). -/
def State.keyed (s : State) (p : Nat) (on : Bool) : State :=
  if on && s.keys.toArray.getD p 0 == 0 then { s with keys := s.keys.setIfInBounds p s.nextKey, nextKey := s.nextKey + 1 } else s

/-- A descriptor copied into its register, with the key and the counters of a partition whose V is set anew. -/
def State.copyDescriptor (s : State) (p : BitVec 4) (addr : Nat) : State :=
  let t := ((s.pointsTo p addr).setPart p
    { s.part p with d := storedDescriptor (s.part p).d (s.descriptorAt addr) }).keyed p.toNat (((s.descriptorAt addr).toArray.getD 0 0).getLsbD 63)
  if ((s.descriptorAt addr).toArray.getD 0 0).getLsbD 63 && !(s.part p).valid then t.clearCounters p else t

theorem partitionDescriptorWrite_eq {s : State} (hf : s.firmwareUp = true) (p : BitVec 4) (addr : Nat) :
    execPartitionDescriptorWrite p.toNat addr s = .next (if s.descriptorBad p addr = true
      then (s.pointsTo p addr).logError p (BitVec.ofNat 64 addr) 10 else s.copyDescriptor p addr) := by
  have hp : ¬16 ≤ p.toNat := by have := p.isLt; omega
  simp only [execPartitionDescriptorWrite, hp, hf, decide_false, Bool.not_true, Bool.or_false, Bool.false_eq_true, if_false, BitVec.ofNat_toNat,
    BitVec.setWidth_eq]
  by_cases hb : s.descriptorBad p addr = true
  · rw [if_pos hb]; exact if_pos hb
  · rw [if_neg hb]; exact if_neg hb

theorem partitionDescriptorWrite_before_firmware {s : State} (h : s.firmwareUp = false) (p addr : Nat) :
    execPartitionDescriptorWrite p addr s = .next s := by simp [execPartitionDescriptorWrite, h]

theorem partitionDescriptorWrite_refused {s : State} {p : BitVec 4} {addr : Nat} (hf : s.firmwareUp = true) (ha : ¬s.admits p addr) :
    ∃ u, execPartitionDescriptorWrite p.toNat addr s = .next u ∧ (u.part p).d = (s.part p).d ∧ u.keys = s.keys ∧ u.mem = s.mem
      ∧ (u.part p).errlog.length = (s.part p).errlog.length + 1 := by
  have hb : s.descriptorBad p addr = true := by
    rw [← Bool.not_eq_false]; exact fun h => ha ((descriptorBad_eq_false_iff s p addr).1 h)
  refine ⟨(s.pointsTo p addr).logError p (BitVec.ofNat 64 addr) 10, (partitionDescriptorWrite_eq hf p addr).trans (by rw [if_pos hb]), ?_, rfl, rfl, ?_⟩
  · rw [part_logError]; rfl
  · rw [part_logError, List.length_append]; rfl

theorem keyed_frame (s : State) (p : Nat) (on : Bool) :
    (s.keyed p on).parts = s.parts ∧ (s.keyed p on).descAddr = s.descAddr ∧ (s.keyed p on).mem = s.mem := by
  unfold State.keyed; split <;> exact ⟨rfl, rfl, rfl⟩

/-- A key is drawn where there is none and V is set, and none else. -/
theorem keyed_keys (s : State) {p : Nat} (hp : p < 17) (on : Bool) :
    (s.keys[p]? = some 0 → on = true → (s.keyed p on).keys[p]? = some s.nextKey ∧ (s.keyed p on).nextKey = s.nextKey + 1)
      ∧ (s.keys[p]? ≠ some 0 ∨ on = false → (s.keyed p on).keys = s.keys) := by
  have hkey : s.keys[p]? = some 0 ↔ s.keys.toArray.getD p 0 = 0 := by simp [hp]
  refine ⟨fun hk hv => ?_, fun hk => ?_⟩
  · simp only [State.keyed, hv, hkey.1 hk, beq_self_eq_true, Bool.and_self, if_true, and_true]
    simp [hp]
  · have hc : (on && s.keys.toArray.getD p 0 == 0) = false := by
      rcases hk with hk | hk
      · simpa using fun _ => mt hkey.2 hk
      · simp [hk]
    simp only [State.keyed, hc, Bool.false_eq_true, if_false]

theorem clearCounters_frame (s : State) (p : BitVec 4) :
    (s.clearCounters p).parts = s.parts ∧ (s.clearCounters p).descAddr = s.descAddr ∧ (s.clearCounters p).keys = s.keys
      ∧ (s.clearCounters p).nextKey = s.nextKey := ⟨rfl, rfl, rfl, rfl⟩

/-- The register, the descriptor and the keys that a copy leaves, and the bytes where no counters are cleared. -/
theorem copyDescriptor_spec (s : State) (p : BitVec 4) (addr : Nat) :
    let t := (s.pointsTo p addr).setPart p
      { s.part p with d := storedDescriptor (s.part p).d (s.descriptorAt addr) }
    let on := ((s.descriptorAt addr).toArray.getD 0 0).getLsbD 63
    (s.copyDescriptor p addr).parts = t.parts ∧ (s.copyDescriptor p addr).descAddr = t.descAddr
      ∧ (s.copyDescriptor p addr).keys = (t.keyed p.toNat on).keys ∧ (s.copyDescriptor p addr).nextKey = (t.keyed p.toNat on).nextKey
      ∧ ((s.part p).valid = true ∨ on = false → (s.copyDescriptor p addr).mem = s.mem) := by
  intro t on
  obtain ⟨h1, h2, h3⟩ := keyed_frame t p.toNat on
  have e : s.copyDescriptor p addr = if on && !(s.part p).valid then (t.keyed p.toNat on).clearCounters p else t.keyed p.toNat on := rfl
  rw [e]
  split
  · next h =>
    obtain ⟨g1, g2, g3, g4⟩ := clearCounters_frame (t.keyed p.toNat on) p
    refine ⟨g1.trans h1, g2.trans h2, g3, g4, fun hv => ?_⟩
    rcases hv with hv | hv <;> simp [hv] at h
  · exact ⟨h1, h2, rfl, rfl, fun _ => h3⟩

theorem partitionDescriptorWrite_copied {s : State} {p : BitVec 4} {addr : Nat} (hf : s.firmwareUp = true) (ha : s.admits p addr) :
    ∃ u, execPartitionDescriptorWrite p.toNat addr s = .next u ∧ u.descAddr[p.toNat]? = some addr
      ∧ (u.part p).d = storedDescriptor (s.part p).d (s.descriptorAt addr) ∧ (∀ q, q ≠ p → u.part q = s.part q)
      ∧ ((s.part p).valid = true ∨ (s.descriptorAt addr)[0].getLsbD 63 = false → u.mem = s.mem)
      ∧ (s.keys[p.toNat]? = some 0 → (s.descriptorAt addr)[0].getLsbD 63 = true → u.keys[p.toNat]? = some s.nextKey ∧ u.nextKey = s.nextKey + 1)
      ∧ (s.keys[p.toNat]? ≠ some 0 ∨ (s.descriptorAt addr)[0].getLsbD 63 = false → u.keys = s.keys) := by
  have hb : s.descriptorBad p addr = false := (descriptorBad_eq_false_iff s p addr).2 ha
  have hp := p.isLt
  obtain ⟨h1, h2, h3, h4, h5⟩ := copyDescriptor_spec s p addr
  have h0 : (s.descriptorAt addr).toArray.getD 0 0 = (s.descriptorAt addr)[0] := by simp
  rw [h0] at h3 h4 h5
  have hpart (q : BitVec 4) : (s.copyDescriptor p addr).part q = (State.setPart s p
      { s.part p with d := storedDescriptor (s.part p).d (s.descriptorAt addr) }).part q := by simp only [State.part, h1]; rfl
  obtain ⟨k1, k2⟩ := keyed_keys ((s.pointsTo p addr).setPart p { s.part p with d := storedDescriptor (s.part p).d (s.descriptorAt addr) })
    (show p.toNat < 17 by omega) ((s.descriptorAt addr)[0].getLsbD 63)
  rw [← h3, ← h4] at k1
  rw [← h3] at k2
  refine ⟨s.copyDescriptor p addr, (partitionDescriptorWrite_eq hf p addr).trans (by rw [hb]; rfl), ?_, ?_, fun q hq => ?_, h5, k1, k2⟩
  · rw [h2]; simp [State.pointsTo, State.setPart, hp]
  · rw [hpart, part_setPart]
  · rw [hpart, part_setPart_ne s _ hq]

end Sys2Proof.Machine
end

section
/-! Resets of a partition and of the package, and the statement about the system tables. -/

namespace Sys2Proof.Machine

/-! ## Partition reset (R19, R199, R346) -/

/-- A cell of slice k. -/
def sliceCell (k n : Nat) : Bool := decide ((Home.slice k).key 0 ≤ n) && decide (n < (Home.slice k).key (2 ^ 23))

/-- The mark of a unit of slice k. -/
def sliceUnit (k n : Nat) : Bool := n / 2 ^ 58 == (Home.slice k).number

/-- One slice scrubbed to zero, its poison marks cleared. -/
def State.scrubSlice (s : State) (k : Nat) : State :=
  { s.wipe (.slice k) 0 (2 ^ 23) with pois := (s.wipe (.slice k) 0 (2 ^ 23)).pois.filter fun m => m.1 / 2 ^ 58 != (Home.slice k).number }

/-- Slices scrubbed lose their cells and the marks of their units; nothing else changes but tag words. -/
theorem foldl_scrubSlice_eq (ks : List Nat) : ∀ s : State, ∃ g, ks.foldl State.scrubSlice s = { s with
    mem := s.mem.filter fun m => !ks.any (sliceCell · m.1)
    pois := s.pois.filter fun m => !ks.any (sliceUnit · m.1)
    gtags := g } := by
  induction ks with
  | nil => exact fun s => ⟨s.gtags, by simp⟩
  | cons k ks ih =>
    intro s
    obtain ⟨g, e⟩ := ih (s.scrubSlice k)
    refine ⟨g, ?_⟩
    have hm : (s.scrubSlice k).mem = s.mem.filter fun m => !sliceCell k m.1 := rfl
    have hp : (s.scrubSlice k).pois = s.pois.filter fun m => !sliceUnit k m.1 := rfl
    rw [List.foldl_cons, e, hm, hp]
    simp only [List.filter_filter, List.any_cons, Bool.not_or, Bool.and_comm]
    rfl

/-- The slices of a partition. -/
def Partition.slices (x : Partition) : List Nat := (List.range 24).filter x.hasSlice

theorem mem_slices {x : Partition} {k : Nat} : k ∈ x.slices ↔ k < 24 ∧ x.hasSlice k = true := by
  simp [Partition.slices]

theorem clearPartition_mem (s : State) (p : BitVec 4) :
    (s.clearPartition p).mem = s.mem.filter fun m => !(s.part p).slices.any (sliceCell · m.1) := by
  obtain ⟨g, e⟩ := foldl_scrubSlice_eq (s.part p).slices s
  have h : (s.clearPartition p).mem = ((s.part p).slices.foldl State.scrubSlice s).mem := rfl
  rw [h, e]

theorem clearPartition_pois (s : State) (p : BitVec 4) :
    (s.clearPartition p).pois = s.pois.filter fun m => !(s.part p).slices.any (sliceUnit · m.1) := by
  obtain ⟨g, e⟩ := foldl_scrubSlice_eq (s.part p).slices s
  have h : (s.clearPartition p).pois = ((s.part p).slices.foldl State.scrubSlice s).pois := rfl
  rw [h, e]

/-- What a reset leaves of the package but for bytes, marks and tag words. -/
theorem clearPartition_fields (s : State) (p : BitVec 4) :
    (s.clearPartition p).parts = s.parts.set p.toNat Partition.reset p.isLt ∧ (s.clearPartition p).launches = s.launches.filter (·.part != p)
      ∧ (s.clearPartition p).locks = s.locks.filter (·.part != p) ∧ (s.clearPartition p).waiters = s.waiters.filter (·.part != p)
      ∧ (s.clearPartition p).keys = s.keys.setIfInBounds p.toNat s.nextKey ∧ (s.clearPartition p).nextKey = s.nextKey + 1
      ∧ (s.clearPartition p).descAddr = s.descAddr.setIfInBounds p.toNat 0 := by
  obtain ⟨g, e⟩ := foldl_scrubSlice_eq (s.part p).slices s
  have h : s.scrubSlices p = (s.part p).slices.foldl State.scrubSlice s := rfl
  simp only [State.clearPartition, h, e, and_self]

theorem sliceCell_key (k : Nat) (h : Home) {a : Nat} (ha : a < 2 ^ 64) : sliceCell k (h.key a) = true ↔ h.number = 16 + k ∧ a < 2 ^ 23 := by
  have hn : (Home.slice k).number = 16 + k := rfl
  rw [sliceCell, Bool.and_eq_true, decide_eq_true_eq, decide_eq_true_eq, Home.key, Home.key, Home.key, hn]
  omega

theorem sliceUnit_key (k j : Nat) {a : Nat} (ha : a < 2 ^ 64) : sliceUnit k ((Home.slice j).key a / 64) = true ↔ j = k := by
  simp only [sliceUnit, Home.key, Home.number, beq_iff_eq]
  omega

/-- Outside device memory a byte reads as it is stored. -/
theorem byte_eq_rawByte (s : State) {h : Home} (hd : h ≠ .dram) (a : Nat) : s.byte h a = clGet 0 s.mem (h.key a) := by
  cases h with
  | dram => exact absurd rfl hd
  | host | slice | pool | custodian | peerMem | peerPool => rfl

/-- Only a slice has the number of one. -/
theorem number_ne_slice {h : Home} (hs : ∀ k, h ≠ .slice k) {k : Nat} (hk : k < 24) : h.number ≠ 16 + k := by
  cases h with
  | slice j => exact absurd rfl (hs j)
  | dram | host | pool | custodian | peerMem | peerPool => simp only [Home.number]; omega

/-- A byte outside the slices of a partition that is reset, and outside device memory, is as before. -/
theorem clearPartition_byte_kept {s : State} {p : BitVec 4} (hc : s.canonical = true) {h : Home} (hd : h ≠ .dram) {a : Nat} (ha : a < 2 ^ 64)
    (hs : ∀ k ∈ (s.part p).slices, h.number ≠ 16 + k) : (s.clearPartition p).byte h a = s.byte h a := by
  obtain ⟨hm, -⟩ := (canonical_iff s).1 hc
  rw [byte_eq_rawByte _ hd, byte_eq_rawByte _ hd, clearPartition_mem]
  refine clGet_filter_in hm (P := fun n => !(s.part p).slices.any (sliceCell · n)) ?_
  rw [Bool.not_eq_true', List.any_eq_false]
  exact fun k hk hcell => hs k hk ((sliceCell_key k h ha).1 hcell).1

/-- A byte of a slice of a partition that is reset is zero, and its unit unmarked. -/
theorem clearPartition_slice {s : State} {p : BitVec 4} {k a : Nat} (hk : k ∈ (s.part p).slices) (ha : a < 2 ^ 23) :
    (s.clearPartition p).byte (.slice k) a = 0 ∧ (s.clearPartition p).unitPoison (.slice k) a = false := by
  have h64 : a < 2 ^ 64 := by omega
  constructor
  · rw [byte_eq_rawByte _ (by simp), clearPartition_mem]
    refine clGet_filter_out 0 (P := fun n => !(s.part p).slices.any (sliceCell · n)) ?_ _
    rw [Bool.not_eq_false', List.any_eq_true]
    exact ⟨k, hk, (sliceCell_key k (.slice k) h64).2 ⟨rfl, ha⟩⟩
  · rw [State.unitPoison, clearPartition_pois]
    refine clGet_filter_out false (P := fun n => !(s.part p).slices.any (sliceUnit · n)) ?_ _
    rw [Bool.not_eq_false', List.any_eq_true]
    exact ⟨k, hk, (sliceUnit_key k k h64).2 rfl⟩

theorem partitionReset_waits {s : State} {p : BitVec 4} (hb : s.partBusy p = true) : ∃ u, execPartitionReset p.toNat s = .next u
    ∧ (u.part p).stopped = true ∧ (u.part p).d = (s.part p).d ∧ (∃ w ∈ u.work, w.ev = .partitionReset p.toNat) ∧ u.mem = s.mem := by
  have hp : ¬16 ≤ p.toNat := by have := p.isLt; omega
  let t := (s.stopPartition p).setPart p { (s.stopPartition p).part p with rollback := false }
  have ht : (t.part p).stopped = true ∧ (t.part p).d = (s.part p).d := by simp [t, State.stopPartition]
  obtain ⟨h1, -, h2⟩ := later_spec t (.partitionReset p.toNat)
  have h3 : (t.later (.partitionReset p.toNat)).part p = t.part p := by unfold State.later; split <;> rfl
  refine ⟨t.later (.partitionReset p.toNat), ?_, by rw [h3]; exact ht.1, by rw [h3]; exact ht.2, h1, h2⟩
  simp only [execPartitionReset, hp, if_false, BitVec.ofNat_toNat, BitVec.setWidth_eq, hb, if_true]
  rfl

theorem partitionReset_completes {s : State} {p : BitVec 4} {a : Nat} {h : Home} (hb : s.partBusy p = false) :
    ∃ u, execPartitionReset p.toNat s = .next u ∧ u.part p = Partition.reset ∧ (∀ l ∈ u.locks, l.part ≠ p)
      ∧ (∀ w ∈ u.waiters, w.part ≠ p) ∧ (∀ l ∈ u.launches, l.part ≠ p) ∧ u.keys[p.toNat]? = some s.nextKey ∧ u.nextKey = s.nextKey + 1
      ∧ u.descAddr[p.toNat]? = some 0 ∧ (∀ q, q ≠ p → u.part q = s.part q)
      ∧ (s.canonical = true → a < 2 ^ 64 →
        (∀ k, k < 24 → (s.part p).hasSlice k = true → a < 2 ^ 23 → u.byte (.slice k) a = 0 ∧ u.unitPoison (.slice k) a = false)
        ∧ (h ≠ .dram → (∀ k, h ≠ .slice k) → u.byte h a = s.byte h a)
        ∧ ∀ k, k < 24 → (s.part p).hasSlice k = false → u.byte (.slice k) a = s.byte (.slice k) a) := by
  have hp := p.isLt
  obtain ⟨h1, h2, h3, h4, h5, h6, h7⟩ := clearPartition_fields s p
  have hpart (q : BitVec 4) : (s.clearPartition p).part q = (s.setPart p Partition.reset).part q := by simp only [State.part, h1]; rfl
  refine ⟨s.clearPartition p, ?_, by rw [hpart, part_setPart], by simp [h3], by simp [h4], by simp [h2], ?_, h6, ?_,
    fun q hq => by rw [hpart, part_setPart_ne s _ hq], fun hc ha => ⟨fun k hk hs => clearPartition_slice (mem_slices.2 ⟨hk, hs⟩),
      fun hd hsl => clearPartition_byte_kept hc hd ha fun k hk => ?_, fun k hk hs => clearPartition_byte_kept hc (by simp) ha fun j hj hn => ?_⟩⟩
  · simp [execPartitionReset, show ¬16 ≤ p.toNat by omega, hb]
  · rw [h5]; simp [show p.toNat < 17 by omega]
  · rw [h7]; simp [hp]
  · exact number_ne_slice hsl (mem_slices.1 hk).1
  · obtain rfl : k = j := by simpa [Home.number] using hn
    rw [(mem_slices.1 hj).2] at hs
    cases hs

/-! ## Package reset (R7, R22, R347) -/

/-- A cell or a unit outside the dies: of device memory, the host or a peer. -/
def outsideDies (n : Nat) : Bool := n / 2 ^ 64 ≤ 1 || 4096 ≤ n / 2 ^ 64

theorem outsideDies_key (h : Home) {a : Nat} (ha : a < 2 ^ 64) : outsideDies (h.key a) = true ↔ h.number ≤ 1 ∨ 4096 ≤ h.number := by
  rw [outsideDies, Bool.or_eq_true, decide_eq_true_eq, decide_eq_true_eq, Home.key]
  omega

/-- The state that a package reset leaves. -/
def State.afterReset (s : State) : State :=
  { State.reset with
    mem := s.mem.filter fun m => outsideDies m.1
    gtags := s.gtags.filter fun m => outsideDies (256 * m.1)
    pois := s.pois.filter fun m => outsideDies (64 * m.1)
    lineKeys := s.lineKeys
    keys := (Vector.replicate 17 0).set 16 s.nextKey
    nextKey := s.nextKey + 1
    clusters := s.clusters.map ClClock.kept
    iommu := s.iommu
    nextId := s.nextId
    fresh := s.fresh
    turns := s.turns }

theorem packageReset_eq (s : State) : execPackageReset s = .next s.afterReset := rfl

theorem afterReset_byte_kept {s : State} (hc : s.canonical = true) {h : Home} {a : Nat} (ha : a < 2 ^ 64) (hh : h = .host ∨ ∃ k, h = .peerMem k) :
    s.afterReset.byte h a = s.byte h a := by
  obtain ⟨hm, -⟩ := (canonical_iff s).1 hc
  rcases hh with rfl | ⟨k, rfl⟩
  · exact clGet_filter_in hm ((outsideDies_key .host ha).2 (by decide))
  · exact clGet_filter_in hm ((outsideDies_key (.peerMem k) ha).2 (.inr (Nat.le_add_right ..)))

theorem afterReset_byte_pool (s : State) {site a : Nat} (hs : site < 288) (ha : a < 2 ^ 64) : s.afterReset.byte (.pool site) a = 0 := by
  refine clGet_filter_out 0 (P := outsideDies) ?_ _
  rw [← Bool.not_eq_true, outsideDies_key (.pool site) ha]
  simp only [Home.number]
  omega

theorem afterReset_clusters (s : State) (c : Fin 48) :
    (s.afterReset.clusters[c]).age = (s.clusters[c]).age ∧ (s.afterReset.clusters[c]).drift = (s.clusters[c]).drift := by
  simp [State.afterReset, ClClock.kept]

/-- Settles O46: each event by its own lemmas; what a reset keeps of memory is what its filters keep of the canonical lists. -/
theorem systemTableEvents : Obligations.SystemTableEvents := by
  unfold Obligations.SystemTableEvents
  intro line va len frame p' addr a pasid owner h on s hp
  obtain ⟨p, rfl⟩ : ∃ p : BitVec 4, p.toNat = p' := ⟨BitVec.ofNat 4 p', by rw [BitVec.toNat_ofNat, Nat.mod_eq_of_lt hp]⟩
  rw [BitVec.ofNat_toNat, BitVec.setWidth_eq]
  intro pn x d
  refine ⟨?scrub, ?translations, tlbInvalidation_waits va len, ?firmware, frameOwnershipChange_completes owner, ?descriptor,
    ⟨partitionReset_completes, partitionReset_waits⟩, ?package, tdispAssignment_completes p on s⟩
  case scrub => exact fun hl => ⟨patrolScrub_clean line s, patrolScrub_corrected hl s, patrolScrub_uncorrectable hl⟩
  case translations => exact fun hb => ⟨tlbInvalidation_completes va len hb, pasidTeardown_completes hb⟩
  case firmware => exact fun hf => ⟨frameOwnershipChange_before_firmware hf frame owner, partitionDescriptorWrite_before_firmware hf p.toNat addr⟩
  case descriptor => exact ⟨partitionDescriptorWrite_copied, partitionDescriptorWrite_refused⟩
  case package =>
    exact ⟨s.afterReset, packageReset_eq s, rfl, rfl, rfl, rfl, rfl, rfl, rfl, rfl, rfl, rfl, rfl, rfl, rfl, rfl, rfl, afterReset_clusters s,
      fun hc ha hh => afterReset_byte_kept hc ha hh, fun ha site hs => afterReset_byte_pool s hs ha⟩

end Sys2Proof.Machine
end

section
/-! Precise traps without a handler, and the statement about them. -/

namespace Sys2Proof.Machine

/-- Block `b` of `s` and its task have ended in `t` by a fatal trap, of which the custodian's queue has the report (R117). -/
def State.endsTask (s t : State) : Prop :=
  t.ctx.ending = some .failed ∧ t.ctx.runs = false ∧ t.ctx.flight = [] ∧ t.ctx.pend = []
    ∧ t.ctx.comm = { s.ctx.cur.undoAnswers s.ctx.comm with shadow := t.ctx.comm.shadow } ∧ t.ctx.work = s.ctx.cur.entryWork t.ctx.comm
    ∧ t.mem = s.mem ∧ t.gtags = s.gtags ∧ t.pois = s.pois ∧ t.work = s.work ∧ t.parkedCtx = s.parkedCtx
    ∧ (s.tile.reports.length < 64 → t.tile.reports.length = s.tile.reports.length + 1)

theorem discard_comm (c : Ctx) (b : Block) :
    (c.discard b).comm = { b.undoAnswers c.comm with shadow := (c.discard b).comm.shadow } := by
  obtain ⟨n, l, e⟩ := resume_spec c
  simp only [Ctx.discard, e]
  cases b.engine.after <;> rfl

theorem report_ctx (s : State) (c : Src) (k : Nat) (w1 w2 w3 : Word) : (s.report c k w1 w2 w3).ctx = s.ctx := by
  simp [State.report, State.modTile]

/-- The report of a context in focus stands in its tile's queue, where that has room (R396). -/
theorem report_who (s : State) (k : Nat) (w1 w2 w3 : Word) :
    s.report s.who k w1 w2 w3 = { s with tile := s.tile.report s.who.site s.who.cid k w1 w2 w3 } := by
  simp [State.report, State.modTile, State.setTile, State.getTile]

theorem fatal_endsTask (s : State) (t : Trap) : s.endsTask (s.fatal s.ctx.cur t) := by
  simp only [State.fatal, report_who]
  refine ⟨rfl, by simp [Ctx.runs], rfl, rfl, discard_comm .., rfl, rfl, rfl, rfl, rfl, rfl, fun h => ?_⟩
  simp [Tile.report, h]

/-- A precise trap is fatal here: no older block waits for its commit, and no handler is installed or the context is inside it. -/
def State.trapsFatal (s : State) : Prop := s.ctx.closings = [] ∧ (s.ctx.comm.tvec.getLsbD 0 = false ∨ s.ctx.ih = true)

/-- A precise fault without a handler, or inside it, ends the task, whether its error response is logged or not. -/
theorem raise_endsTask {s : State} (h : s.trapsFatal) (code detail : BitVec 8) (v : Word) (log : Bool) :
    s.endsTask (s.raise code detail v log) := by
  obtain ⟨hc, hf⟩ := h
  have fatal (t : State) (y : Trap) (hy : y.bnd = false) (e : t.ctx = s.ctx) : t.takeTrap s.ctx.cur y = t.fatal t.ctx.cur y := by
    rw [State.takeTrap, if_pos, e]
    rcases hf with hf | hf <;> simp only [Ctx.isFatal, Ctx.hasHandler, e, hf, hy, Bool.not_false, Bool.true_or, Bool.and_self, Bool.or_true]
  simp only [State.raise, walking_nil hc, settle_nil hc, intact_self, if_true, Bool.false_eq_true, if_false]
  cases log
  · rw [if_neg Bool.false_ne_true, fatal s _ rfl rfl]
    exact fatal_endsTask s _
  · rw [if_pos rfl, fatal (s.logError _ _ _) _ rfl rfl]
    exact fatal_endsTask (s.logError _ _ _) _

section dies
variable {s : State} (hs : s.trapsFatal)
include hs

theorem trap_endsTask {h : Hdr} (imm : BitVec 16) (hi : s.mayIssue h []) : ∃ t, exec (.trap h imm) s = .next t ∧ s.endsTask t :=
  ⟨_, congrArg Host.Outcome.next (issue_none_error (rs := []) hi _), raise_endsTask hs ..⟩

theorem tfence_endsTask {h : Hdr} (hi : s.mayIssue h []) (hv : s.ctx.work.flags &&& s.ctx.work.fmask ≠ 0) :
    ∃ t, exec (.tfence h) s = .next t ∧ s.endsTask t := by
  refine ⟨s.raise _ _ _ _, ?_, raise_endsTask hs 0x20 0x00 ((s.ctx.work.flags &&& s.ctx.work.fmask).setWidth 64) false⟩
  simp only [exec, execTfence, if_neg hv]
  exact congrArg Host.Outcome.next (issue_none_error (rs := []) hi _)

theorem eret_endsTask {h : Hdr} (hi : s.mayIssue h []) (ho : s.ctx.ih = false) (hp : s.ctx.work.guardPoison h = false) :
    ∃ t, exec (.eret h) s = .next t ∧ s.endsTask t := by
  refine ⟨s.raise _ _ _ _, ?_, raise_endsTask hs 0x04 0x02 s.iss.addr false⟩
  have ha := hi.2
  simp only [exec, execEret, State.transfer, Form.regs, List.append_nil, Option.toList, ha, hp, ho, Bool.false_eq_true, if_false]
  exact congrArg Host.Outcome.next (issue_none_error (rs := []) hi _)

theorem mfc_endsTask {h : Hdr} {d : BitVec 6} {n : BitVec 16} (hn : ctlAccess s.who.cid n = .none) (hi : s.mayIssue h [.x d]) :
    ∃ t, exec (.mfc h d n) s = .next t ∧ s.endsTask t := by
  refine ⟨s.raise _ _ _ _, ?_, raise_endsTask hs 0x04 0x01 s.iss.addr false⟩
  simp only [exec, execMfc, hn, if_true]
  exact congrArg Host.Outcome.next (issue_error _ hi.2 hi.1)

theorem mtc_endsTask {h : Hdr} {n : BitVec 16} {s1 : BitVec 6} (hn : ctlAccess s.who.cid n = .none) (hi : s.mayIssue h [.x s1]) :
    ∃ t, exec (.mtc h n s1) s = .next t ∧ s.endsTask t := by
  refine ⟨s.raise _ _ _ _, ?_, raise_endsTask hs 0x04 0x01 s.iss.addr false⟩
  simp only [exec, execMtc, hn]
  exact congrArg Host.Outcome.next (issue_none_error hi _)

/-- A misaligned `ld` or `st` (R222). -/
theorem misaligned_endsTask {h : Hdr} {ty : Fmt} {sp : Space} {d : BitVec 6} {m : MemOp} (ssel : BitVec 2) (hint : Hint)
    (ha : (m.addr s.xval).toNat % (ty.width / 8) ≠ 0) (hi : s.mayIssue h (MemOp.srcs m ++ [.x d])) :
    (∃ t, exec (.ld h ty sp d m ssel hint) s = .next t ∧ s.endsTask t) ∧ ∃ t, exec (.st h ty sp d m hint) s = .next t ∧ s.endsTask t := by
  have hl (n : Nat) (need : Need) : s.locate sp (m.addr s.xval) n (ty.width / 8) need = .error (.fault 0x0B need.detail (m.addr s.xval)) := by
    simp [State.locate, ha]
  refine ⟨⟨s.raise _ _ _ _, ?_, raise_endsTask hs 0x0B Need.read.detail (m.addr s.xval) false⟩,
    ⟨s.raise _ _ _ _, ?_, raise_endsTask hs 0x0B Need.write.detail (m.addr s.xval) false⟩⟩
  · simp only [exec, execLd, State.load, hl]
    exact congrArg Host.Outcome.next (issue_error _ (by simpa [Form.regs] using hi.2) hi.1)
  · simp only [exec, execSt, State.store, hl]
    exact congrArg Host.Outcome.next (issue_error _ (by simpa [Form.regs] using hi.2) hi.1)

end dies

/-- Settles O9: each form stops with State.raise, which ends the task where no handler takes the trap. -/
theorem fatalTrapEndsTask : Obligations.FatalTrapEndsTask := by
  unfold Obligations.FatalTrapEndsTask
  refine ⟨fun h imm s hi hc hf => ?_, fun h imm n d s1 ty sp m ssel hint s hc hf => ?_⟩
  · obtain ⟨t, e, he, hr, hfl, hp, -, -, hm, hg, -, hw, hk, hl⟩ := trap_endsTask ⟨hc, hf⟩ imm hi
    exact ⟨t, e, he, hr, hfl, hp, hm, hg, hk, hw, hl⟩
  · have hs : s.trapsFatal := ⟨hc, hf⟩
    exact ⟨fun _ _ _ _ => raise_endsTask hs .., fun hi => ⟨trap_endsTask hs imm hi, tfence_endsTask hs hi, fun ho hp => eret_endsTask hs hi ho hp⟩,
      fun hn => ⟨mfc_endsTask hs hn, mtc_endsTask hs hn⟩, misaligned_endsTask hs ssel hint⟩

end Sys2Proof.Machine
end

section
/-! Stores: those held in the store buffer, and those that leave the tile as commands. -/

namespace Sys2Proof.Machine

/-! ## Stores held in the store buffer (R224, R228) -/

/-- The poison of a store: that of its guard, of its address registers and of its data (log 38). -/
theorem storeForm_poison (s : State) (h : Hdr) (major : BitVec 8) (rs : List Reg) (d : Reg) :
    ({ h := h, major := major, also := rs, data := some d } : Form).poison s.ctx.work = s.poisonFrom h (rs ++ [d]) := rfl

/-- A store of the local space that passes its checks, issued with effect. -/
theorem localStore_held {s : State} {h : Hdr} {major : BitVec 8} {rs : List Reg} {d : Reg} {ea : Word} {data : List Byte} {b : Nat}
    (hi : s.mayIssue h (rs ++ [d])) (hl : s.localOk ea data.length b) (hb : s.ctx.cur.bytes + data.length ≤ 4096)
    (hw : s.writeHeld [(localOff ea, data.length)] = false) :
    s.issue { h := h, major := major, also := rs, data := some d } false
        (s.store { h := h, major := major, also := rs, data := some d } .loc ea b data)
      = (s.storeHeld (localOff ea) ea data (s.ctx.work.tagOf d) (s.poisonFrom h (rs ++ [d]))).foldedBy (s.ctx.work.tagOf d) := by
  simp only [State.store, locate_loc _ hl, checked, bytesFull_none hb, hw, Bool.false_eq_true, if_false, List.findSome?, id_eq]
  exact store_of hi _

/-- The stores of an indexed form, one after another (R228). -/
theorem bufferAll (tag : Tag) (p : Bool) (ps : List ((Nat × Word) × List Byte)) (s : State) :
    ps.foldl (fun s e => (s.buffer e.1.1 e.2 tag p).digests .loc e.1.2 e.2) s =
      s.modCur fun b => { b with
        stores := b.stores ++ ps.map fun e => ⟨e.1.1, e.2, tag, s.ctx.work.ws, p⟩
        bytes := b.bytes + (ps.map fun e => e.2.length).sum
        digest := b.digest ++ ps.map fun e => (digestAddr .loc e.1.2, e.2.mapIdx fun i y => ((e.1.2.extractLsb' 0 3).toNat + i, y)) } := by
  induction ps generalizing s with
  | nil => simp [State.modCur]
  | cons e r ih =>
    rw [List.foldl_cons, ih]
    simp only [State.modCur, State.buffer, State.digests, List.map_cons, List.sum_cons, List.append_assoc, List.cons_append,
      List.nil_append, Nat.add_assoc]

theorem laneAddrs_length (s : State) (xb vi : BitVec 6) (off : BitVec 14) (b : Nat) : (s.laneAddrs xb vi off b).length = s.vl := by
  simp [State.laneAddrs]

/-- Pieces of b bytes each. -/
theorem sum_lengths {α : Type} {b : Nat} (g : α → List Byte) (l : List α) (h : ∀ x ∈ l, (g x).length = b) :
    (l.map fun x => (g x).length).sum = l.length * b := by
  rw [List.map_congr_left h, List.map_const', List.sum_replicate, smul_eq_mul]

/-- Settles O17: `st` and `vst` hold one store, `vscat` one a lane. -/
theorem localStores : Obligations.LocalStores := by
  unfold Obligations.LocalStores
  refine ⟨fun h ty r m hint s => ⟨fun hi hl hb hw => ?_, fun hi hl hb hw => congrArg Host.Outcome.next (localStore_held hi hl hb hw)⟩,
    fun h ty vs xb vi off hint s hi hl hb hw => ?_⟩
  · have e := leBytes_length (ty.width / 8) (s.xval r).toNat
    rw [← e] at hl hb hw
    refine congrArg Host.Outcome.next (localStore_held hi ?_ hb hw)
    rwa [e] at hl ⊢
  · refine ⟨_, rfl, ?_⟩
    simp only [laneOffs_ok s .write _ _ hl, List.map_map, Function.comp_def, hw, checked, bytesFull_none hb, Bool.false_eq_true,
      if_false, List.findSome?, id_eq, bufferAll]
    rw [store_of (rs := [.x xb, .v vi]) hi]
    refine ⟨?_, ?_, rfl, rfl, rfl, rfl, rfl, rfl⟩
    · refine congrArg (s.ctx.cur.stores ++ ·) (List.ext_getElem (by simp) fun l h1 h2 => ?_)
      simp [storeForm_poison]
    · refine congrArg (s.ctx.cur.bytes + ·) ?_
      rw [sum_lengths (b := ty.width / 8) (fun e : (Nat × Word) × List Byte => e.2)]
      · simp [laneAddrs_length]
      · simp only [List.mem_mapIdx, forall_exists_index]
        rintro _ l hl rfl
        exact leBytes_length ..

/-! ## Stores that leave the tile (R201, R224, R225, R238) -/

/-- The message of part `l` of a store of `data` from `d`, whose address registers are `rs`; the last of the parts `legs` frees the entry. -/
def State.storePart (s : State) (h : Hdr) (rs : List Reg) (d : Reg) (data : List Byte) (legs : List Leg) (l : Leg) : Cmd :=
  ⟨s.iss.addr, .send ⟨s.who, dstOf l.home l.off, true, false, decide (some l = legs.getLast?),
    s.asking l (if some l = legs.getLast? then s.nextId else 0)
      (.store ((data.drop l.pos).take l.len) (s.ctx.work.tagOf d) s.ctx.work.ws (s.poisonFrom h (rs ++ [d])))⟩⟩

/-- A store of `data` from `d`, listed as one command with a message for each of `legs`, and nothing else but its fold and its page walks. -/
def State.storeListed (s t : State) (h : Hdr) (rs : List Reg) (d : Reg) (data : List Byte) (legs : List Leg) : Prop :=
  t.ctx.cur.cmds = s.ctx.cur.cmds ++ legs.map (s.storePart h rs d data legs)
    ∧ t.ctx.cur.ncmds = s.ctx.cur.ncmds + 1 ∧ t.ctx.cur.lf = foldStep s.ctx.cur.lf (s.ctx.work.tagOf d)
    ∧ (s.ctx.cur.taint = none →
      (t.ctx.cur.taint.isSome = true ↔ s.poisonFrom h (rs ++ [d]) = true ∧ ∃ l ∈ legs, l.crosses = true))
    ∧ t.ctx.cur.stores = s.ctx.cur.stores ∧ t.ctx.work = s.ctx.work ∧ t.ctx.flight = s.ctx.flight
    ∧ t.mem = s.mem ∧ t.gtags = s.gtags ∧ t.work = s.work ++ legs.flatMap s.asksWalk

/-- Taint where poison would cross a boundary (R227), and nothing else. -/
theorem taintIf_eq (s : State) (c : Bool) :
    (if c = true then s.tainted else s) = s.modCur fun b => { b with taint := if c && b.taint.isNone then some s.iss.addr else b.taint } := by
  cases c
  · rfl
  · cases ht : s.ctx.cur.taint <;> simp [State.tainted, State.modCur, ht]

theorem remoteStore_listed {s : State} {h : Hdr} {major : BitVec 8} {rs : List Reg} {d : Reg} {sp : Space} {ea : Word} {esz : Nat}
    {data : List Byte} {legs : List Leg} (hn : s.ctx.cur.ncmds < 32) (hm : s.msgs < 32) (hi : s.mayIssue h (rs ++ [d]))
    (hl : s.locate sp ea data.length esz .write = .ok (.away legs)) :
    s.storeListed (s.issue { h := h, major := major, also := rs, data := some d } false
      (s.store { h := h, major := major, also := rs, data := some d } sp ea esz data)) h rs d data legs := by
  simp only [State.store, hl, checked, cmdFull_none hn, msgFull_none hm, List.findSome?, id_eq, store_of hi, taintIf_eq]
  simp only [storeForm_poison, walks_eq, State.storeListed, State.foldedBy, State.digests, State.remoteStore, State.newId, State.command,
    State.modCur, List.map_map, true_and]
  refine ⟨congrArg _ (List.map_congr_left fun l _ => ?_), fun ht => ?_, rfl⟩
  · simp only [State.storePart, State.reqWork, State.reqOf, State.asking, State.part, Function.comp_def, beq_eq_decide, decide_eq_true_eq]
    rfl
  · simp [ht]

/-- A store whose bytes all stand in one unit: the same with one message. -/
theorem remoteStore_listed_one {s t : State} {h : Hdr} {rs : List Reg} {d : Reg} {data : List Byte} {l : Leg} (h0 : l.pos = 0)
    (ht : s.storeListed t h rs d data [l]) :
    let p := s.poisonFrom h (rs ++ [d])
    t.ctx.cur.cmds = s.ctx.cur.cmds ++ [⟨s.iss.addr, .send ⟨s.who, dstOf l.home l.off, true, false, true,
        s.asking l s.nextId (.store (data.take l.len) (s.ctx.work.tagOf d) s.ctx.work.ws p)⟩⟩]
    ∧ t.ctx.cur.ncmds = s.ctx.cur.ncmds + 1 ∧ t.ctx.cur.lf = foldStep s.ctx.cur.lf (s.ctx.work.tagOf d)
    ∧ (s.ctx.cur.taint = none → (t.ctx.cur.taint.isSome = true ↔ (p && l.crosses) = true))
    ∧ t.ctx.cur.stores = s.ctx.cur.stores ∧ t.ctx.work = s.ctx.work ∧ t.ctx.flight = s.ctx.flight
    ∧ t.mem = s.mem ∧ t.gtags = s.gtags ∧ t.work = s.work ++ s.asksWalk l := by
  simpa [State.storeListed, State.storePart, h0] using ht

/-- Settles O18: a store that leaves is listed with a message for each of its parts; with one part there is one message. -/
theorem remoteStores : Obligations.RemoteStores := by
  unfold Obligations.RemoteStores
  refine ⟨fun h ty sp r m hint l s h0 hn hm => ⟨fun hi hl => ?_, fun hi hl => ?_⟩, fun h ty sp r m hint legs s _ hn hm hi hl => ?_⟩
  · have e := leBytes_length (ty.width / 8) (s.xval r).toNat
    exact ⟨_, rfl, remoteStore_listed_one h0 (remoteStore_listed hn hm hi (by rw [e]; exact hl))⟩
  · exact ⟨_, rfl, remoteStore_listed_one h0 (remoteStore_listed hn hm hi hl)⟩
  · exact ⟨_, rfl, remoteStore_listed hn hm hi hl⟩

end Sys2Proof.Machine
end

section
/-! Loads that leave the tile. -/

namespace Sys2Proof.Machine

theorem loadForm_poison (s : State) (h : Hdr) (major : BitVec 8) (rs : List Reg) (d : Reg) :
    ({ h := h, major := major, srcs := rs, dests := [d], mem := true } : Form).poison s.ctx.work = s.poisonFrom h rs := by
  simp only [Form.poison, List.append_nil, Option.toList]
  rfl

/-- The request of leg `l` of a load, number `k` of its legs. -/
def State.loadAsk (s : State) (k : Nat) (l : Leg) : Work :=
  ⟨s.who, dstOf l.home l.off, false, false, false, s.asking l (s.nextId + k) (.load l.len)⟩

/-- What leg `l` of a load is awaited as, number `k` of its legs `legs`; the last holds the load's message entry. -/
def State.loadAwait (s : State) (legs : List Leg) (d : Dest) (conv : Leg → Conv) (p : Bool) (start : Nat) (now : Bool) (k : Nat) (l : Leg) : Pend :=
  ⟨s.nextId + k, if some l = legs.getLast? then .msg else .none, [d], conv l, p, start, s.ctx.cur.seq, now, none⟩

/-- A load sent at issue, behind its page walks. -/
def State.loadsSent (s : State) (legs : List Leg) (d : Dest) (conv : Leg → Conv) (p : Bool) (start : Nat) : State :=
  { s with
    nextId := s.nextId + legs.length
    work := s.work ++ legs.flatMap s.asksWalk ++ legs.mapIdx s.loadAsk
    ctx := { s.ctx with pend := s.ctx.pend ++ legs.mapIdx (s.loadAwait legs d conv p start true) } }

/-- A load listed as a command of its block, behind its page walks. -/
def State.loadsListed (s : State) (legs : List Leg) (d : Dest) (conv : Leg → Conv) (p : Bool) : State :=
  { s with
    nextId := s.nextId + legs.length
    work := s.work ++ legs.flatMap s.asksWalk
    ctx := { s.ctx with cur := { s.ctx.cur with
      cmds := s.ctx.cur.cmds ++ legs.mapIdx fun k l => ⟨s.iss.addr, .send (s.loadAsk k l)⟩
      ncmds := s.ctx.cur.ncmds + 1
      rets := s.ctx.cur.rets ++ legs.mapIdx (s.loadAwait legs d conv p 0 false) } } }

theorem walks_remoteLoad {s : State} {legs : List Leg} (hc : s.ctx.closings = [])
    (ht : ∀ l ∈ legs, ∀ t, l.tile = some t → ∃ site, s.siteOf t = some site ∧ l.home = .pool site)
    (d : Dest) (conv : Leg → Conv) (p : Bool) (start : Nat) :
    (s.walks legs).remoteLoad legs d conv p start = s.loadsSent legs d conv p start := by
  rw [walks_eq]
  exact remoteLoad_all legs d conv p start legs { s with work := s.work ++ legs.flatMap s.asksWalk } hc ht

theorem walks_deviceLoad (s : State) (legs : List Leg) (d : Dest) (conv : Leg → Conv) (p : Bool) :
    (s.walks legs).deviceLoad legs d conv p = s.loadsListed legs d conv p := by
  rw [walks_eq]
  refine (congrArg (fun r : State × List CmdOp => r.1.command r.2) (deviceLoad_all legs d conv p legs _ [])).trans ?_
  simp only [State.command, State.modCur, State.loadsListed, List.nil_append, List.mapIdx_eq_zipIdx_map, List.map_map]
  rfl

section away
variable {s : State} {h : Hdr} {major : BitVec 8} {rs : List Reg} {r : Reg} {sp : Space} {ea : Word} {n esz : Nat} {legs : List Leg}
  (hi : s.mayIssue h (rs ++ [r])) (hm : s.msgs < 32) (hl : s.locate sp ea n esz .read = .ok (.away legs))
include hi hm hl

/-- A load that leaves the tile for pages that are no device pages, issued with effect (R35, R223, R225). -/
theorem load_sent (hc : s.ctx.closings = []) (hd : ∀ l ∈ legs, l.dev = false) (ssel : BitVec 2) (d : Dest) (conv : Leg → Conv) (lat : Nat) (pay : List Byte → Payload) :
    s.issue { h := h, major := major, srcs := rs, dests := [r], mem := true } false
        (s.load { h := h, major := major, srcs := rs, dests := [r], mem := true } sp ea n esz ssel d conv lat pay)
      = (s.foldedAway h major rs).loadsSent legs d conv (s.poisonFrom h rs) (s.ctx.sclk + 1) := by
  have hany : legs.any (·.dev) = false := by simpa using hd
  simp only [State.load, hl, hany, checked, msgFull_none hm, Bool.false_eq_true, if_false, List.findSome?, id_eq,
    walks_remoteLoad hc (away_tile hl), loadForm_poison]
  exact away_of (also := []) (by simpa using hi) _ false

/-- A load of a device page, issued with effect (R210). -/
theorem load_listed (hn : s.ctx.cur.ncmds < 32) (hd : ∃ l ∈ legs, l.dev = true) (ssel : BitVec 2) (d : Dest) (conv : Leg → Conv) (lat : Nat) (pay : List Byte → Payload) :
    s.issue { h := h, major := major, srcs := rs, dests := [r], mem := true } false
        (s.load { h := h, major := major, srcs := rs, dests := [r], mem := true } sp ea n esz ssel d conv lat pay)
      = (s.foldedAway h major rs).loadsListed legs d conv (s.poisonFrom h rs) := by
  have hany : legs.any (·.dev) = true := by simpa using hd
  simp only [State.load, hl, hany, checked, cmdFull_none hn, msgFull_none hm, if_true, List.findSome?, id_eq, walks_deviceLoad, loadForm_poison]
  exact away_of (also := []) (by simpa using hi) _ false

end away

/-- A load with one leg. -/
theorem loadsSent_one (s : State) (l : Leg) (d : Dest) (conv : Conv) (p : Bool) (start : Nat) :
    s.loadsSent [l] d (fun _ => conv) p start = s.loadSent l d conv p start := by
  simp [State.loadsSent, State.loadSent, State.loadAsk, State.loadAwait]

section ldl
variable {s : State} {h : Hdr} {ty : Fmt} {d : BitVec 6} {m : MemOp} (hi : s.mayIssue h (MemOp.srcs m ++ [.x d]))
  (ha : (m.addr s.xval).toNat % (ty.width / 8) = 0)
include hi ha

/-- An `ldl` that a ready block of its context serves (R231). -/
theorem ldl_hit {bs : List Byte} {bad : Bool} (hh : s.lineHit (m.addr s.xval) (ty.width / 8) = some (bs, bad)) (hint : Hint) :
    exec (.ldl h ty d m hint) s = .next ((s.foldedAway h 0x87 (MemOp.srcs m)).inFlight 8 (.x d) (.word (scalarOf ty bs)) (baseX d)
      (s.poisonFrom h (MemOp.srcs m) || bad) 0) := by
  simp only [exec, execLdl, ha, hh, loadForm_poison, bne_self_eq_false, Bool.false_eq_true, if_false]
  exact congrArg Host.Outcome.next (away_of (also := []) (by simpa using hi) _ false)

/-- One that none serves: a global load that becomes pending eight cycles later (R223). -/
theorem ldl_miss {l : Leg} (hm : s.msgs < 32) (hc : s.ctx.closings = []) (hh : s.lineHit (m.addr s.xval) (ty.width / 8) = none)
    (hl : s.globalLegs (m.addr s.xval) .read (unitPieces (m.addr s.xval).toNat (ty.width / 8)) = .ok [l]) (hint : Hint) :
    exec (.ldl h ty d m hint) s
      = .next ((s.foldedAway h 0x87 (MemOp.srcs m)).loadSent l (.x d) (.scalar ty) (s.poisonFrom h (MemOp.srcs m)) (s.ctx.sclk + 8)) := by
  have ht : ∀ k ∈ [l], ∀ t, k.tile = some t → ∃ site, s.siteOf t = some site ∧ k.home = .pool site := fun k hk t e => by
    rw [globalLegs_tile hl k hk] at e
    cases e
  simp only [exec, execLdl, ha, hh, hl, loadForm_poison, bne_self_eq_false, Bool.false_eq_true, if_false, checked, msgFull_none hm,
    List.findSome?, id_eq, walks_remoteLoad hc ht, loadsSent_one]
  exact congrArg Host.Outcome.next (away_of (also := []) (by simpa using hi) _ false)

end ldl

/-- Settles O16: what leaves at issue is load_sent, what waits for the commit load_listed. -/
theorem remoteLoads : Obligations.RemoteLoads := by
  unfold Obligations.RemoteLoads
  refine ⟨fun h ty sp d m ssel hint l s hi hc => ⟨fun hm hd hl => ?_, fun hm hn hd hl => ?_, fun bs bad ha hh => ?_, fun hm ha hh hl => ?_⟩,
    fun h ty sp vd m ssel hint legs s hi hc hm _ hl => ⟨fun hd => ?_, fun hd hn => ?_⟩⟩
  · refine congrArg Host.Outcome.next ((load_sent hi hm hl hc (by simpa using hd) ..).trans ?_)
    rw [loadsSent_one]
  · refine ⟨_, congrArg Host.Outcome.next (load_listed hi hm hl hn ⟨l, by simp, hd⟩ ..), ?_⟩
    exact ⟨congrArg (s.work ++ ·) (List.flatMap_singleton ..), rfl, rfl, by simp [State.loadsListed, State.loadAwait, State.foldedAway, State.foldedBy], rfl⟩
  · exact ldl_hit hi ha hh hint
  · exact ldl_miss hi ha hm hc hh hl hint
  · exact congrArg Host.Outcome.next (load_sent hi hm hl hc hd ..)
  · exact congrArg Host.Outcome.next (load_listed hi hm hl hn hd ..)

end Sys2Proof.Machine
end

section
/-! The monitor wait. -/

namespace Sys2Proof.Machine

/-- A wake-up is due at once (R236): for a pre-emption, or for a trap that is no wound outside a handler (R328). -/
theorem wakes_iff (c : Ctx) : c.wakes = true ↔ c.preempt = true ∨ ∃ t ∈ c.traps, c.ih = true ∨ ∀ n, t ≠ .wound n := by
  have hw (t : ATrap) : c.wokenBy t = true ↔ c.ih = true ∨ ∀ n, t ≠ .wound n := by cases t <;> simp [Ctx.wokenBy, ATrap.isWound]
  simp [Ctx.wakes, hw]

theorem mwaitHeld_iff (s : State) :
    s.mwaitHeld = true ↔ s.ctx.monitor.isSome = true ∨ ∃ w ∈ s.work, w.src = s.who ∧ w.dst = .tile s.who.site ∧ w.write = true := by
  simp [State.mwaitHeld, and_assoc]

theorem useBanks_ctx (s : State) (h : Home) (off n : Nat) : (s.useBanks h off n).ctx = s.ctx := by
  cases h <;> simp [State.useBanks, State.modTile]

theorem useBanks_iss (s : State) (h : Home) (off n : Nat) : (s.useBanks h off n).iss = s.iss := by
  cases h <;> simp [State.useBanks, State.modTile]

/-- A form that waits, where no older block waits for its commit. -/
theorem issue_waits {s : State} {f : Form} (c : Freeze) (hc : s.ctx.closings = []) (ha : s.ctx.awaited f.regs = none)
    (hg : s.ctx.work.admits f.h = true) : s.issue f false (.error (.freeze c)) = s.waitsFor c := by
  rw [issue_error _ ha hg]
  exact freeze_nil hc c

/-- The form of an `mwait` (Table 11.2). -/
def mwaitForm (h : Hdr) (d : BitVec 6) (m : MemOp) : Form :=
  { h := h, major := 0x8C, srcs := .x d :: MemOp.srcs m, dests := [.x d], mem := true }

/-- The comparison of an `mwait` that has not been woken (R236). -/
theorem monitorValue_compared {s : State} {slot : Slot} (off n : Nat) (v : Word) (hw : (s.ctx.woken.find? fun w => w.slot == slot) = none) :
    s.monitorValue slot off n v
      = if leNat (s.monitorRead off n).1 = v.toNat % 2 ^ (8 * n) ∧ ¬s.ctx.wakes = true then none else some (s.monitorRead off n) := by
  simp [State.monitorValue, hw]

section mwait
variable {s : State} {h : Hdr} {ty : Fmt} {d : BitVec 6} {m : MemOp} (ssel : BitVec 2) (hint : Hint)
  (hi : s.mayIssue h ((.x d :: MemOp.srcs m) ++ [.x d])) (hc : s.ctx.closings = [])
  (hl : s.localOk (m.addr s.xval) (ty.width / 8) (ty.width / 8))
  (hr : s.readHeld [(localOff (m.addr s.xval), ty.width / 8)] = false)
include hi hc

theorem mwait_issues : exec (.mwait h ty d m ssel hint) s = .next (s.issueMwait (mwaitForm h d m) ty (m.addr s.xval) (s.xval d) ssel) := by
  have ha : s.ctx.awaited (mwaitForm h d m).regs = none := by simpa [mwaitForm, Form.regs] using hi.2
  simp only [mwaitForm] at ha ⊢
  simp only [exec, execMwait, ha, hi.1, Option.isNone_none, Bool.and_self, if_true, behindCommit_nil hc]

include hl hr


/-- While the monitor is armed, or a write to the own scratchpad is still to be served there, the bundle waits. -/
theorem mwait_held (hh : s.mwaitHeld = true) : exec (.mwait h ty d m ssel hint) s = .next (s.waitsFor .monitor) := by
  have ha : s.ctx.awaited (mwaitForm h d m).regs = none := by simpa [mwaitForm, Form.regs] using hi.2
  rw [mwait_issues ssel hint hi hc, State.issueMwait, locate_loc _ hl]
  simp only [hr, hh, Bool.false_eq_true, if_false, if_true]
  exact congrArg Host.Outcome.next (issue_waits _ hc ha hi.1)

/-- A read that ends the wait is delivered as a load delivers it. -/
theorem mwait_gives (hh : ¬s.mwaitHeld = true) {g : List Byte × List (Nat × Word)}
    (hg : s.monitorValue h.slot (localOff (m.addr s.xval)) (ty.width / 8) (s.xval d) = some g) :
    exec (.mwait h ty d m ssel hint) s = .next (s.loads h 0x8C 5 (.x d) (.x d :: MemOp.srcs m) [(localOff (m.addr s.xval), ty.width / 8)]
      ⟨g.1, g.2.any fun w => tagPoison w.2, contribution (s.ctx.work.stamp ssel) g.2⟩ (.word (scalarOf ty g.1))) := by
  rw [mwait_issues ssel hint hi hc, State.issueMwait, locate_loc _ hl]
  simp only [hr, hh, mwaitForm, hg, Bool.false_eq_true, if_false]
  exact congrArg Host.Outcome.next (loads_of hi 5 [(localOff (m.addr s.xval), ty.width / 8)] ⟨_, _, _⟩ _)

/-- Where nothing ends the wait, the monitor is armed and the bundle waits. -/
theorem mwait_arms (hh : ¬s.mwaitHeld = true)
    (hg : s.monitorValue h.slot (localOff (m.addr s.xval)) (ty.width / 8) (s.xval d) = none) :
    exec (.mwait h ty d m ssel hint) s = .next
      ((({ s with ctx := { s.ctx with monitor := some ⟨h.slot, localOff (m.addr s.xval), ty.width / 8, false⟩ } } : State).useBanks
        s.who.pad (localOff (m.addr s.xval)) (ty.width / 8)).waitsFor .monitor) := by
  have ha : s.ctx.awaited (mwaitForm h d m).regs = none := by simpa [mwaitForm, Form.regs] using hi.2
  rw [mwait_issues ssel hint hi hc, State.issueMwait, locate_loc _ hl]
  simp only [hr, hh, mwaitForm, hg, Bool.false_eq_true, if_false]
  refine congrArg Host.Outcome.next (issue_waits _ ?_ ?_ ?_)
  all_goals rw [useBanks_ctx]
  exacts [hc, ha, hi.1]

end mwait

/-- Settles O23: the read that ends the wait is that of a wake-up, else the comparison's own. -/
theorem monitorWait : Obligations.MonitorWait := by
  unfold Obligations.MonitorWait
  intro h ty d m ssel hint s n ea off rs elem due held mine gives hi hc hl hr
  have hh : held ↔ s.mwaitHeld = true := (mwaitHeld_iff s).symm
  have hd : due ↔ s.ctx.wakes = true := (wakes_iff s.ctx).symm
  have hm : s.ctx.woken.find? mine = s.ctx.woken.find? fun w => w.slot == h.slot := by simp only [mine, beq_eq_decide]
  rw [hh, hm, hd]
  refine ⟨mwait_held ssel hint hi hc hl hr, fun w hx hw => mwait_gives ssel hint hi hc hl hr hx ?_,
    fun hx hw => ⟨fun hy => mwait_gives ssel hint hi hc hl hr hx ?_, fun hy hz => mwait_arms ssel hint hi hc hl hr hx ?_⟩⟩
  · simp only [State.monitorValue, hw]
  · rw [monitorValue_compared _ _ _ hw, if_neg fun hz => hy.elim (fun k => k hz.1) hz.2]
    rfl
  · rw [monitorValue_compared _ _ _ hw, if_pos ⟨hy, hz⟩]

end Sys2Proof.Machine
end

section
/-! The held waits of phasers. -/

namespace Sys2Proof.Machine

theorem phTarget_dst {s : State} {r : PhRef} {detail : BitVec 8} {m : PhMsg} (h : s.phTarget r detail = .ok m) : m.dst = .tile m.site := by
  have hd : m.dev = Config.device := by
    cases r <;> simp only [State.phTarget] at h
    · cases h; rfl
    · split at h
      · cases h
      · split at h <;> cases h
        rfl
  rw [PhMsg.dst, if_pos hd]

/-- The tag of a read of a phaser, whose contribution is 0 (R363). -/
def State.phaserTag (s : State) (h : Hdr) (major : BitVec 8) (r : PhRef) (s2 : BitVec 6) : Tag :=
  destTag h major 0 (s.ctx.work.tagOf (refReg r)) (s.ctx.work.tagOf (.x s2)) 0

/-- The wait of `h`'s slot over: its hold gone, its fold step made and `w` on its way to d without poison (R360). -/
def State.waitEnds (s : State) (h : Hdr) (major : BitVec 8) (d : BitVec 6) (r : PhRef) (s2 : BitVec 6) (w : Word) : State :=
  ((s.unhold h.slot).foldedBy (s.phaserTag h major r s2)).inFlight 1 (.x d) (.word w) (s.phaserTag h major r s2) false 0

/-- A wait that has started: its hold, its message, and behind it a limit of 0, which tests once (R364). -/
def State.startWaits (s : State) (slot : Slot) (r : PhRef) (m : PhMsg) (p : BitVec 32) (limit : Option Nat) : State :=
  { s with
    nextId := s.nextId + 1
    work := s.work ++ ⟨s.who, m.dst, false, false, false, .phaserWaitArrival m p s.nextId⟩
      :: if limit = some 0 then [⟨s.who, m.dst, false, false, false, .phswLimitExpiry s.who⟩] else []
    ctx := { s.ctx with holds := s.ctx.holds ++ [⟨slot, s.nextId, remoteRef r, limit, none, false, false⟩] } }

theorem startWait_eq (s : State) (slot : Slot) (r : PhRef) (m : PhMsg) (p : BitVec 32) (limit : Option Nat) :
    s.startWait slot r m p limit = s.startWaits slot r m p limit := by
  by_cases h : limit = some 0 <;> simp [State.startWait, State.startWaits, State.newId, State.send, h]

section wait
variable {s : State} {h : Hdr} {major : BitVec 8} {d : BitVec 6} {r : PhRef} {s2 : BitVec 6} {also : List Reg} {p : BitVec 32}
  {limit : Option Nat} {m : PhMsg}

/-- In the custodian's context a held form is illegal (R363). -/
theorem holdForm_custodian (hc : s.who.cid = 3) : s.holdForm (phaserForm h major d r [.x s2] also) r p limit = s.illegal := by
  simp only [State.holdForm, hc, bne_self_eq_false, Bool.false_and, Bool.false_eq_true, if_false, beq_self_eq_true]
  exact issue_illegal ..

variable (hi : s.mayIssue h ([refReg r, .x s2] ++ also ++ [.x d]))
include hi

theorem phaserForm_awaits : s.ctx.awaited (phaserForm h major d r [.x s2] also).regs = none := by
  simpa [phaserForm, Form.regs] using hi.2

theorem unhold_gives (w : Word) :
    (s.unhold h.slot).issue (phaserForm h major d r [.x s2] also) false ((s.unhold h.slot).gives 1 (.word w) 0) = s.waitEnds h major d r s2 w := by
  have hs : (phaserForm h major d r [.x s2] also).steps s.ctx.work 0 = [s.phaserTag h major r s2] := by
    simp [phaserForm, Form.steps, Form.tag, State.phaserTag, destTag]
  rw [State.gives, issue_ok _ (phaserForm_awaits (s := s.unhold h.slot) hi) hi.1]
  change (((s.unhold h.slot).folded ((phaserForm h major d r [.x s2] also).steps s.ctx.work 0) noCon).deliver ..) = _
  rw [hs, folded_one]
  simp [phaserForm, State.deliver, Form.tag, noCon, State.waitEnds, State.inFlight, State.foldedBy, State.schedule, Ctx.schedule, Form.poison,
    State.unhold, State.phaserTag, destTag, Regs.destOf]

variable (h3 : s.who.cid ≠ 3) (hc : s.ctx.closings = [])

include h3 hc

/-- A held form that may issue goes by its hold (R360). -/
theorem holdForm_eq : s.holdForm (phaserForm h major d r [.x s2] also) r p limit = s.phaserWait (phaserForm h major d r [.x s2] also) r p limit := by
  have ha := phaserForm_awaits (major := major) hi
  have hg : s.ctx.work.admits (phaserForm h major d r [.x s2] also).h = true := hi.1
  simp [State.holdForm, ha, hg, behindCommit_nil hc, h3]

variable (hp : s.ctx.work.poisonOf (refReg r) = false) (ht : s.phTarget r 0x01 = .ok m)
include hp ht

/-- No hold stands: the wait starts with a message to its phaser. -/
theorem holdForm_starts (hh : (s.ctx.holds.find? fun x => x.slot == h.slot) = none) (hm : s.msgs < 32) :
    s.holdForm (phaserForm h major d r [.x s2] also) r p limit = (s.startWaits h.slot r m p limit).waitsFor .phaser := by
  have hf : (if remoteRef r then s.msgFull else none) = none := by simp [msgFull_none hm]
  rw [holdForm_eq hi h3 hc]
  simp only [State.phaserWait, State.refPoisoned, hp, ht, hf, phaserForm, hh, Bool.false_eq_true, if_false, startWait_eq]
  exact issue_waits _ hc (phaserForm_awaits (major := major) (s := s.startWaits h.slot r m p limit) hi) hi.1

variable {x : Hold} (hh : (s.ctx.holds.find? fun x => x.slot == h.slot) = some x)
include hh

/-- The wait has been answered: it ends with its status. -/
theorem holdForm_answered {w : Word} (ha : x.answer = some w) :
    s.holdForm (phaserForm h major d r [.x s2] also) r p limit = s.waitEnds h major d r s2 w := by
  rw [holdForm_eq hi h3 hc, ← unhold_gives hi]
  simp only [State.phaserWait, State.refPoisoned, hp, ht, phaserForm, hh, ha, Bool.false_eq_true, if_false]

variable (ha : x.answer = none)
include ha

/-- The phaser has refused it: an error response (R209). -/
theorem holdForm_refused (hr : x.refused = true) :
    s.holdForm (phaserForm h major d r [.x s2] also) r p limit = s.raise 0x0A 0x01 m.ref false := by
  rw [holdForm_eq hi h3 hc]
  simp only [State.phaserWait, State.refPoisoned, hp, ht, phaserForm, hh, ha, hr, Bool.false_eq_true, if_false, if_true]
  exact issue_error _ (phaserForm_awaits hi) hi.1

/-- Its limit has passed: it ends with the value 0 (R364). -/
theorem holdForm_expired (hr : x.refused = false) (he : x.expired = true) :
    s.holdForm (phaserForm h major d r [.x s2] also) r p limit = s.waitEnds h major d r s2 0 := by
  rw [holdForm_eq hi h3 hc, ← unhold_gives hi]
  simp only [State.phaserWait, State.refPoisoned, hp, ht, phaserForm, hh, ha, hr, he, Bool.false_eq_true, if_false, if_true]

/-- Else it goes on holding its bundle. -/
theorem holdForm_holds (hr : x.refused = false) (he : x.expired = false) :
    s.holdForm (phaserForm h major d r [.x s2] also) r p limit = s.waitsFor .phaser := by
  rw [holdForm_eq hi h3 hc]
  simp only [State.phaserWait, State.refPoisoned, hp, ht, phaserForm, hh, ha, hr, he, Bool.false_eq_true, if_false]
  exact issue_waits _ hc (phaserForm_awaits hi) hi.1

end wait

/-- Settles O30: each case of a hold by its own lemma. -/
theorem phaserWaits : Obligations.PhaserWaits := by
  unfold Obligations.PhaserWaits
  intro h r d s2 s3 s reg i major also limit hform
  have hreg : reg = refReg r := by cases r <;> rfl
  have he : exec i s = .next (s.holdForm (phaserForm h major d r [.x s2] also) r ((s.xval s2).setWidth 32) limit) := by
    rcases hform with ⟨rfl, rfl, rfl, rfl⟩ | ⟨rfl, rfl, rfl, rfl⟩
    · rfl
    · rw [← BitVec.toNat_setWidth]
      rfl
  rw [he]
  refine ⟨fun h3 => congrArg Host.Outcome.next (holdForm_custodian h3), fun m h3 hi hc hp ht => ?_⟩
  rw [hreg] at hi hp
  refine ⟨fun x w hx ha => ?_, fun x hx ha hr => ⟨fun he => ?_, fun he => ?_⟩, fun x hx ha hr hs => ?_, fun hx hm => ?_⟩
  · rw [holdForm_answered hi h3 hc hp ht hx ha, hreg]
    rfl
  · rw [holdForm_expired hi h3 hc hp ht hx ha hr he, hreg]
    rfl
  · rw [holdForm_holds hi h3 hc hp ht hx ha hr he]
  · exact ⟨_, rfl, by rw [holdForm_refused hi h3 hc hp ht hx ha hr]; exact raise_enters hs ..⟩
  · rw [holdForm_starts hi h3 hc hp ht hx hm, State.startWaits, phTarget_dst ht]

end Sys2Proof.Machine
end

section
/-! The deferral queue and the reduction trees. -/

namespace Sys2Proof.Machine

/-- The results of a form, each in flight to its destination under its tag (R25, R168). -/
theorem deliver_eq (s : State) (f : Form) (r : Regs) (o : Out) :
    s.deliver f r o = { s with ctx := { s.ctx with flight := s.ctx.flight ++ ((f.dests.zip o.res).zipIdx).map fun e =>
      ⟨s.ctx.sclk + e.1.2.lat, r.destOf e.1.1, e.1.2.pay, f.tag r o.con.m e.2, o.poison || f.poison r, e.1.2.flags, s.ctx.cur.seq⟩ } } := by
  unfold State.deliver
  generalize (f.dests.zip o.res).zipIdx = es
  induction es generalizing s with
  | nil => simp
  | cons e es ih =>
    rw [List.foldl_cons, ih]
    simp only [State.schedule, Ctx.schedule, List.map_cons, List.append_assoc, List.cons_append, List.nil_append]

/-- The fold of a form without contribution. -/
theorem folded_noCon (s : State) (ts : List Tag) :
    s.folded ts noCon = { s with ctx := { s.ctx with cur := { s.ctx.cur with lf := ts.foldl foldStep s.ctx.cur.lf } } } := by
  simp only [State.folded, noCon, stale_kept]

/-! ## The deferral queue (R286 to R288) -/

/-- The lanes that are active and selected, in ascending order: counted by number, or among the 64. -/
theorem selected_eq (vl : Nat) (v : Lanes) :
    (List.range vl).filter (fun l => v.toArray.getD l 0 != 0)
      = ((List.finRange 64).filter fun l => decide (l.val < vl) && decide (v[l] ≠ 0)).map Fin.val := by
  refine List.Pairwise.eq_of_mem_iff (List.pairwise_lt_range.filter _) ?_ fun l => ?_
  · exact List.pairwise_map.2 ((List.pairwise_lt_finRange 64).filter _)
  · by_cases hl : l < 64
    · simp only [List.mem_filter, List.mem_range, List.mem_map, List.mem_finRange, Array.getD_eq_getD_getElem?, Vector.getElem?_toArray]
      refine ⟨fun ⟨h1, h2⟩ => ⟨⟨l, hl⟩, ?_, rfl⟩, ?_⟩
      · simpa [h1, hl] using h2
      · rintro ⟨k, h1, rfl⟩
        simpa using h1
    · have hv : v.toArray.getD l 0 = 0 := by simp [hl]
      simp only [List.mem_filter, List.mem_map, hv, bne_self_eq_false, Bool.false_eq_true, and_false, false_iff]
      rintro ⟨k, -, rfl⟩
      exact hl k.isLt

theorem takePath_got (id : BitVec 8) (n : Nat) (q : List DeferRec) : (takePath id n q).1 = (q.filter fun r => r.id == id).take n := by
  induction q generalizing n with
  | nil => cases n <;> rfl
  | cons x q ih =>
    cases n with
    | zero => rfl
    | succ n => by_cases hx : x.id = id <;> simp [takePath, hx, ih]

theorem takePath_same (id : BitVec 8) (n : Nat) (q : List DeferRec) :
    (takePath id n q).2.filter (fun r => r.id == id) = (q.filter fun r => r.id == id).drop n := by
  induction q generalizing n with
  | nil => cases n <;> rfl
  | cons x q ih =>
    cases n with
    | zero => rfl
    | succ n => by_cases hx : x.id = id <;> simp [takePath, hx, ih]

theorem takePath_other (id : BitVec 8) (n : Nat) (q : List DeferRec) :
    (takePath id n q).2.filter (fun r => r.id != id) = q.filter fun r => r.id != id := by
  induction q generalizing n with
  | nil => cases n <;> rfl
  | cons x q ih =>
    cases n with
    | zero => rfl
    | succ n => by_cases hx : x.id = id <;> simp [takePath, hx, ih]

theorem takePath_length (id : BitVec 8) (n : Nat) (q : List DeferRec) : (takePath id n q).2.length + (takePath id n q).1.length = q.length := by
  induction q generalizing n with
  | nil => cases n <;> rfl
  | cons x q ih =>
    cases n with
    | zero => simp [takePath]
    | succ n =>
      by_cases hx : x.id = id
      · simp only [takePath, hx, if_true, List.length_cons, ← ih n]; omega
      · simp only [takePath, hx, if_false, List.length_cons, ← ih (n + 1)]; omega

/-- The records that a `vdefer` appends: one for each active lane that its mask selects (R287). -/
def State.deferred (s : State) (h : Hdr) (vm : BitVec 6) (run : List (BitVec 6)) (id : BitVec 8) : List DeferRec :=
  ((List.finRange 64).filter fun l => decide (l.val < s.vl) && decide ((s.vval vm)[l] ≠ 0)).map fun l =>
    ⟨id, BitVec.ofNat 6 l.val, run.map fun v => (s.vval v)[l], s.poisonFrom h (.v vm :: run.map .v)⟩

theorem lanes_getD (v : Lanes) (l : Fin 64) : v.toArray.getD l.val 0 = v[l] := by simp

theorem deferred_eq (s : State) (h : Hdr) (vm : BitVec 6) (run : List (BitVec 6)) (id : BitVec 8) :
    ((List.range s.vl).filter fun l => (s.vval vm).toArray.getD l 0 != 0).map (fun l =>
      (⟨id, BitVec.ofNat 6 l, run.map fun v => (s.vval v).toArray.getD l 0, s.poisonFrom h (.v vm :: run.map .v)⟩ : DeferRec))
    = s.deferred h vm run id := by
  simp only [selected_eq, List.map_map, Function.comp_def, lanes_getD, State.deferred]

theorem vdefer_eq {h : Hdr} {vm v1 : BitVec 6} {nm1 : BitVec 2} {s : State} (hi : s.mayIssue h (.v vm :: (vRun v1 nm1).map .v)) (id : BitVec 8) :
    exec (.vdefer h vm v1 nm1 id) s = .next (if s.ctx.work.defer.length + (s.deferred h vm (vRun v1 nm1) id).length ≤ 512
      then s.atEnd (.deferral (s.ctx.work.defer ++ s.deferred h vm (vRun v1 nm1) id)) else s.illegal) := by
  have hp : ({ h := h, major := 0x70, also := .v vm :: (vRun v1 nm1).map .v } : Form).poison s.ctx.work
      = s.poisonFrom h (.v vm :: (vRun v1 nm1).map .v) := by
    simp only [Form.poison, List.nil_append, Option.toList, List.append_nil]
    rfl
  simp only [exec, execVdefer, hp, deferred_eq]
  by_cases hq : s.ctx.work.defer.length + (s.deferred h vm (vRun v1 nm1) id).length ≤ 512
  · rw [if_neg (by omega), if_pos hq]
    exact congrArg Host.Outcome.next (issue_none hi _)
  · rw [if_pos (by omega), if_neg hq]
    exact congrArg Host.Outcome.next (issue_none_error hi _)

/-- The value that a `vdrain` delivers to its destination j of n + 1: of the records `got`, lane k has the j-th value of the k-th, and the last
destination its map word (R288). -/
def drained (got : List DeferRec) (id : BitVec 8) (n j : Nat) : Payload :=
  .lanes (lanesOf (got.map fun r => if j < n then r.vals.getD j 0 else 0x80000000 ||| (id.setWidth 32 : Lane) <<< 8 ||| r.lane.setWidth 32))

theorem lanesOf_get (l : List Lane) (k : Fin 64) : (lanesOf l)[k] = l.getD k.val 0 := by simp [lanesOf]

/-- The results of a `vdrain`, each with its destination and its number. -/
theorem drain_results (run : List (BitVec 6)) (vm : BitVec 6) (got : List DeferRec) (id : BitVec 8) :
    ((run.map Reg.v ++ [Reg.v vm]).zip ((List.range run.length).map (fun i => (⟨4, .lanes (lanesOf (got.map fun r : DeferRec => r.vals.getD i 0)), 0⟩ : Res))
        ++ [(⟨4, .lanes (lanesOf (got.map fun r => 0x80000000 ||| (id.setWidth 32 : Lane) <<< 8 ||| r.lane.setWidth 32)), 0⟩ : Res)])).zipIdx
      = (List.finRange (run.length + 1)).map fun j => ((Reg.v ((run ++ [vm]).getD j.val vm), (⟨4, drained got id run.length j.val, 0⟩ : Res)), j.val) := by
  refine List.ext_getElem (by simp) fun j h1 h2 => ?_
  have hj : j < run.length + 1 := by simpa using h2
  by_cases hn : j < run.length
  · simp [List.getElem?_append, hn, drained]
  · obtain rfl : j = run.length := by omega
    simp [drained]

/-- What a `vdrain` leaves: the records taken off the queue at the end of its bundle, vl, the values and the map in flight, and a fold step for
each destination (R288). -/
theorem vdrain_eq {h : Hdr} {v1 vm : BitVec 6} {nm1 : BitVec 2} {s : State} (hi : s.mayIssue h ((vRun v1 nm1).map .v ++ [.v vm])) (id : BitVec 8) :
    let n := nm1.toNat + 1
    let got := (s.ctx.work.defer.filter fun r => r.id == id).take 64
    exec (.vdrain h v1 vm nm1 id) s = .next { s with
      iss := { s.iss with late := s.iss.late ++ [.deferral (takePath id 64 s.ctx.work.defer).2] }
      ctx := { s.ctx with
        cur := { s.ctx.cur with lf := (List.range (n + 1)).foldl (fun f j => foldStep f (destTag h 0x71 0 0 0 j)) s.ctx.cur.lf }
        flight := s.ctx.flight ++ ⟨s.ctx.sclk + 4, .vl, .word (BitVec.ofNat 64 (max got.length 1)), 0, false, 0, s.ctx.cur.seq⟩
          :: (List.finRange (n + 1)).map fun j => ⟨s.ctx.sclk + 4, s.ctx.work.destOf (.v ((vRun v1 nm1 ++ [vm]).getD j.val vm)),
            drained got id n j.val, destTag h 0x71 0 0 0 j.val, got.any (·.poison) || s.ctx.work.guardPoison h, 0, s.ctx.cur.seq⟩ } } := by
  intro n got
  have hn : (vRun v1 nm1).length = n := by simp [vRun, n]
  have hs (r : Regs) : ({ h := h, major := 0x71, dests := (vRun v1 nm1).map .v ++ [.v vm] } : Form).steps r 0
      = (List.range (n + 1)).map (destTag h 0x71 0 0 0) := by
    simp [Form.steps, Form.tag, destTag, hn]
  have hp : ({ h := h, major := 0x71, dests := (vRun v1 nm1).map .v ++ [.v vm] } : Form).poison s.ctx.work = s.ctx.work.guardPoison h := by
    simp [Form.poison]
  simp only [exec, execVdrain, takePath_got]
  rw [issue_ok _ (by simpa [Form.regs] using hi.2) hi.1, deliver_eq, drain_results, hn, folded_noCon, hp]
  simp only [noCon, hs, State.late, State.schedule, Ctx.schedule, List.foldl_map, List.append_assoc, List.cons_append, List.nil_append,
    List.map_map]
  rfl

/-! ## Reductions (R291, R293) -/

/-- The entry that a context may name: valid, and of its partition (R290). -/
def State.ownTree (s : State) (t : BitVec 4) : Prop :=
  treeValid s.who.site (s.tree s.who.site t.toNat).cfg = true ∧ treePart (s.tree s.who.site t.toNat).cfg = s.ctx.part

theorem sendForm_poison (s : State) (h : Hdr) (major : BitVec 8) (rs : List Reg) :
    ({ h := h, major := major, also := rs } : Form).poison s.ctx.work = s.poisonFrom h rs := by
  simp only [Form.poison, List.nil_append, Option.toList, List.append_nil]
  rfl

/-- What a read of a root buffer leaves: its destinations pending, the result reserved, and a result present sent. -/
theorem claimRoot_eq (s : State) (t : Nat) (ds : List Dest) (p : Bool) : s.claimRoot t ds p = { s with
    nextId := s.nextId + 1
    work := s.work ++ match (s.tree s.who.site t).root with
      | some q => [rootAnswer s.who s.nextId q]
      | none => []
    ctx := { s.ctx with
      pend := s.ctx.pend ++ [⟨s.nextId, .none, ds, .reduction t, p, s.ctx.sclk + 2, s.ctx.cur.seq, true, none⟩]
      cur := { s.ctx.cur with reserved := if t ∈ s.ctx.cur.reserved then s.ctx.cur.reserved else s.ctx.cur.reserved ++ [t] } } } := by
  cases hr : (s.tree s.who.site t).root
  all_goals
    simp only [State.tree] at hr
    simp [State.claimRoot, State.newId, State.awaitNow, Ctx.awaits, State.modCur, State.send, State.tree, hr]

section reduction
variable {s : State} {h : Hdr} {v x : BitVec 6} {t : BitVec 4} {op : RedOp}

/-- `rsend` to an entry that admits it is one command with its packet (R291). -/
theorem rsend_lists (hi : s.mayIssue h [.v v]) (hm : s.ownTree t) (hin : treeIn (s.tree s.who.site t.toNat).cfg 0 = true)
    (hop : treeOp (s.tree s.who.site t.toNat).cfg = some op) (hn : s.ctx.cur.ncmds < 32) (hf : s.rsendFull = none) :
    exec (.rsend h v t op) s = .next (s.lists [.send ⟨s.who, .router s.who.site, false, false, false,
      .reductionPacketArrival s.who.site t.toNat 0
        ⟨Vector.ofFn fun i : Fin 64 => if i.val < s.vl then (s.vval v)[i] else redIdentity op, op, s.ctx.part, s.poisonFrom h [.v v], 0, 0, 0, 0, false⟩⟩]) := by
  obtain ⟨hv, hp⟩ := hm
  simp only [exec, execRsend, sendForm_poison, hv, hp, hin, hop, checked, cmdFull_none hn, hf, bne_self_eq_false, Bool.not_true, Bool.or_self,
    Bool.false_eq_true, if_false, List.findSome?, id_eq]
  exact congrArg Host.Outcome.next (issue_none hi _)

/-- To any other entry it is an error response (R291). -/
theorem rsend_refused (hi : s.mayIssue h [.v v])
    (hm : ¬(s.ownTree t ∧ treeIn (s.tree s.who.site t.toNat).cfg 0 = true ∧ treeOp (s.tree s.who.site t.toNat).cfg = some op)) :
    exec (.rsend h v t op) s = .next (s.raise 0x0A 0x02 (t.setWidth 64) false) := by
  simp only [exec, execRsend]
  rw [if_pos]
  · exact congrArg Host.Outcome.next (issue_none_error hi _)
  · simp only [State.ownTree] at hm
    simp only [Bool.or_eq_true, Bool.not_eq_true', bne_iff_ne, ne_eq, ← Bool.not_eq_true]
    tauto

/-- The form of an `rrecv` (Table 13.9). -/
def rrecvForm (h : Hdr) (v x : BitVec 6) : Form := { h := h, major := 0xC4, dests := [.v v, .x x] }

/-- What an `rrecv` does with effect (R293). -/
def State.rrecvBody (s : State) (f : Form) (t : BitVec 4) : Except Halt Out :=
  let w := (s.tree s.who.site t.toNat).cfg
  if !treeValid s.who.site w || treePart w != s.ctx.part || treeOut w != 0 then .error (.fault 0x0A 0x01 (t.setWidth 64))
  else if s.rootTaken t.toNat then .error (.freeze .root)
  else .ok { s := s.claimRoot t.toNat (f.dests.map s.ctx.work.destOf) (f.poison s.ctx.work) }

theorem rrecvBody_own (hm : s.ownTree t) (hout : treeOut (s.tree s.who.site t.toNat).cfg = 0) (f : Form) :
    s.rrecvBody f t = if s.rootTaken t.toNat then .error (.freeze .root)
      else .ok { s := s.claimRoot t.toNat (f.dests.map s.ctx.work.destOf) (f.poison s.ctx.work) } := by
  obtain ⟨hv, hp⟩ := hm
  simp [State.rrecvBody, hv, hp, hout]

variable (hi : s.mayIssue h [.v v, .x x]) (hc : s.ctx.closings = [])
include hi hc

theorem rrecv_eq : exec (.rrecv h v x t) s = .next (s.issue (rrecvForm h v x) false (s.rrecvBody (rrecvForm h v x) t)) := by
  have ha : s.ctx.awaited (rrecvForm h v x).regs = none := hi.2
  simp only [rrecvForm] at ha ⊢
  simp only [exec, execRrecv, ha, hi.1, Option.isNone_none, Bool.and_self, if_true, behindCommit_nil hc]
  rfl

theorem rrecv_refused (hm : ¬(s.ownTree t ∧ treeOut (s.tree s.who.site t.toNat).cfg = 0)) :
    exec (.rrecv h v x t) s = .next (s.raise 0x0A 0x01 (t.setWidth 64) false) := by
  rw [rrecv_eq hi hc, State.rrecvBody, if_pos]
  · exact congrArg Host.Outcome.next (issue_error _ hi.2 hi.1)
  · simp only [State.ownTree] at hm
    simp only [Bool.or_eq_true, Bool.not_eq_true', bne_iff_ne, ne_eq, ← Bool.not_eq_true]
    tauto

variable (hm : s.ownTree t) (hout : treeOut (s.tree s.who.site t.toNat).cfg = 0)
include hm hout

theorem rrecv_waits (ht : s.rootTaken t.toNat = true) : exec (.rrecv h v x t) s = .next (s.waitsFor .root) := by
  rw [rrecv_eq hi hc, rrecvBody_own hm hout, if_pos ht]
  exact congrArg Host.Outcome.next (issue_waits _ hc hi.2 hi.1)

theorem rrecv_claims (ht : s.rootTaken t.toNat = false) : exec (.rrecv h v x t) s = .next { s with
    nextId := s.nextId + 1
    work := s.work ++ match (s.tree s.who.site t.toNat).root with
      | some p => [rootAnswer s.who s.nextId p]
      | none => []
    ctx := { s.ctx with
      pend := s.ctx.pend ++ [⟨s.nextId, .none, [s.ctx.work.destOf (.v v), .x x], .reduction t.toNat, s.ctx.work.guardPoison h,
        s.ctx.sclk + 2, s.ctx.cur.seq, true, none⟩]
      cur := { s.ctx.cur with
        reserved := if t.toNat ∈ s.ctx.cur.reserved then s.ctx.cur.reserved else s.ctx.cur.reserved ++ [t.toNat]
        lf := foldStep (foldStep s.ctx.cur.lf (destTag h 0xC4 0 0 0 0)) (destTag h 0xC4 0 0 0 1) } } } := by
  have hp : (rrecvForm h v x).poison s.ctx.work = s.ctx.work.guardPoison h := by simp [rrecvForm, Form.poison]
  rw [rrecv_eq hi hc, rrecvBody_own hm hout, ht, if_neg Bool.false_ne_true, hp, issue_ok (f := rrecvForm h v x) _ hi.2 hi.1, deliver_eq, folded_noCon]
  simp only [claimRoot_eq, rrecvForm, Form.steps, Form.tag, destTag, noCon, List.zip_nil_right, List.zipIdx_nil, List.map_nil, List.append_nil]
  rfl

end reduction

/-- Settles O27: the queue by vdefer_eq, vdrain_eq and the laws of takePath; the tree by what an entry admits. -/
theorem reductionAndDeferralForms : Obligations.ReductionAndDeferralForms := by
  unfold Obligations.ReductionAndDeferralForms
  refine ⟨fun h vm v1 nm1 id s => ⟨fun hi => ?_, fun hi => ?_⟩, fun h v x t op s => ⟨fun hi hm hin hop hn hf => ?_, fun hi hc hm hout => ?_,
    fun hi hs hm => ?_, fun hi hs hm => ?_⟩⟩
  · intro ls new
    have hl : (s.deferred h vm (vRun v1 nm1) id).length = ls.length := List.length_map _
    rw [vdefer_eq hi id, hl]
    split
    · rfl
    · rfl
  · refine ⟨_, _, vdrain_eq hi id, rfl, takePath_same .., takePath_other .., ?_, ⟨fun j => drained _ id (nm1.toNat + 1) j.val, rfl, fun j => ?_⟩,
      rfl, rfl, rfl, rfl⟩
    · rw [← takePath_got, takePath_length]
    · refine ⟨_, rfl, fun k => ?_⟩
      rw [lanesOf_get, List.getD_eq_getElem?_getD, List.getElem?_map]
      cases (List.take 64 (s.ctx.work.defer.filter fun r => r.id == id))[k.val]? <;> rfl
  · exact ⟨_, fun k => by simp, rsend_lists hi hm hin hop hn hf⟩
  · exact ⟨rrecv_waits hi hc hm hout, rrecv_claims hi hc hm hout⟩
  · exact ⟨_, rsend_refused hi hm, raise_enters hs ..⟩
  · exact ⟨_, rrecv_refused hi hs.1 hm, raise_enters hs ..⟩

end Sys2Proof.Machine
end

section
/-! The return from an exception. -/

namespace Sys2Proof.Machine

/-! ## What the end of a freeze, an abort and a run from the entry leave of a context (R34, R391) -/

@[simp] theorem resume_ih (c : Ctx) : c.resume.ih = c.ih := by obtain ⟨n, l, e⟩ := resume_spec c; rw [e]
@[simp] theorem resume_ending (c : Ctx) : c.resume.ending = c.ending := by obtain ⟨n, l, e⟩ := resume_spec c; rw [e]
@[simp] theorem resume_saved (c : Ctx) : c.resume.saved = c.saved := by obtain ⟨n, l, e⟩ := resume_spec c; rw [e]
@[simp] theorem resume_cause (c : Ctx) : c.resume.cause = c.cause := by obtain ⟨n, l, e⟩ := resume_spec c; rw [e]
@[simp] theorem resume_comm (c : Ctx) : c.resume.comm = c.comm := by obtain ⟨n, l, e⟩ := resume_spec c; rw [e]
@[simp] theorem resume_closings (c : Ctx) : c.resume.closings = c.closings := by obtain ⟨n, l, e⟩ := resume_spec c; rw [e]

theorem reenter_ih (c : Ctx) (b : Block) (r : Bool) : (c.reenter b r).ih = c.ih := resume_ih c
theorem reenter_ending (c : Ctx) (b : Block) (r : Bool) : (c.reenter b r).ending = c.ending := resume_ending c
theorem reenter_saved (c : Ctx) (b : Block) (r : Bool) : (c.reenter b r).saved = c.saved := resume_saved c
theorem reenter_cause (c : Ctx) (b : Block) (r : Bool) : (c.reenter b r).cause = c.cause := resume_cause c

/-- An abort takes the blocks behind it along. -/
theorem reenter_closings (c : Ctx) (b : Block) (r : Bool) :
    (c.reenter b r).closings = c.closings.filter fun x => !decide (b.seq ≤ x.blk.seq) :=
  congrArg (List.filter _) (resume_closings c)

/-! ## The return of a context (R118, R145) -/

section eret
variable (c : Ctx)

@[simp] theorem deliverAll_tsched : c.deliverAll.tsched = c.tsched := by simp only [Ctx.deliverAll]
@[simp] theorem deliverAll_cause : c.deliverAll.cause = c.cause := by simp only [Ctx.deliverAll]
@[simp] theorem deliverAll_tval : c.deliverAll.tval = c.tval := by simp only [Ctx.deliverAll]
@[simp] theorem deliverAll_saved : c.deliverAll.saved = c.saved := by simp only [Ctx.deliverAll]
@[simp] theorem deliverAll_savedBlk : c.deliverAll.savedBlk = c.savedBlk := by simp only [Ctx.deliverAll]
@[simp] theorem deliverAll_cur : c.deliverAll.cur = c.cur := by simp only [Ctx.deliverAll]
@[simp] theorem deliverAll_flight : c.deliverAll.flight = [] := by simp only [Ctx.deliverAll]

/-- A return with RDR set: at ctl.epc on the committed copies, nothing in flight. -/
theorem eret_rdr (h : c.deliverAll.comm.rdr = true) : c.eret.flight = [] ∧ c.eret.comm.rdr = false ∧ c.eret.work = c.eret.comm
    ∧ c.eret.comm.loops = (if c.deliverAll.comm.loops[0].kind ≠ 0 ∧ c.deliverAll.comm.loops[0].body = (c.savedBlk.getD c.cur).entry
      then c.deliverAll.comm.popLevel else c.deliverAll.comm).loops := by
  simp only [Ctx.eret, h, if_true, deliverAll_flight, deliverAll_savedBlk, deliverAll_cur, Bool.and_eq_true, bne_iff_ne, decide_eq_true_eq, true_and]

/-- A return with RDR clear: the committed copies stand, and the saved carry-ins not yet due are in flight. -/
theorem eret_noRdr (h : c.deliverAll.comm.rdr = false) : c.eret.comm = c.deliverAll.comm
    ∧ ∀ f ∈ c.saved, c.tsched.toNat < f.due → f ∈ c.eret.flight := by
  simp only [Ctx.eret, h, Bool.false_eq_true, if_false, Ctx.landDue, deliverAll_tsched, deliverAll_saved, true_and]
  refine fun f hf hd => List.mem_filter.2 ⟨hf, ?_⟩
  have : ¬f.due ≤ c.tsched.toNat := by omega
  simp [Ctx.lands, this]

/-- What every return leaves. -/
theorem eret_always : c.eret.ih = false ∧ c.eret.sclk = c.tsched.toNat ∧ c.eret.saved = [] ∧ c.eret.savedBlk = none
    ∧ c.eret.cause = c.cause ∧ c.eret.tval = c.tval ∧ c.eret.cur.lf = 0 ∧ c.eret.cur.rerun = false ∧ c.eret.cur.entry = c.eret.pc
    ∧ c.eret.pc = c.deliverAll.comm.epc &&& 0x01FFFFFFFFFFFFF8 := by
  cases h : c.deliverAll.comm.rdr <;> simp [Ctx.eret, h, Ctx.landDue, Block.fresh, codeAddr]

end eret

/-- The assay of a block without taint that leaves through an `eret` (R118, R178, R387). -/
theorem assay_eret {s : State} {x : Closing} {rest : List Closing} {m' : Hallmark} (hc : s.ctx.closings = x :: rest) (ht : x.blk.taint = none)
    (hx : x.blk.xfer = .eret) (hm : Hallmark.of x.hall 0xF000000000000000 = some m') :
    let fin := x.work.landAll x.inflight
    let ok := !fin.rdr || s.listedClass s.ctx.part x.hallAddr m' fin.epc
    s.assay = if ok && x.blk.lf == x.hall.setWidth 32 then s.commitBlock x rest fin else s.failAssay x fin.epc ok := by
  simp only [State.assay, hc, ht, hx, hm]

/-- A first failure: the block is entered again, and nothing is charged (R179). -/
theorem failAssay_first {s : State} {x : Closing} (hr : x.blk.rerun = false) (next : Word) (ok : Bool) :
    s.failAssay x next ok = ({ s with ctx := s.ctx.reenter x.blk true } : State).count 0x004 := by
  simp [State.failAssay, hr]

/-- Where the assay of the oldest closing block leaves none, it settles them all. -/
theorem settle_one {s : State} (hc : s.ctx.closings ≠ []) (ha : s.assay.ctx.closings = []) : s.settle = s.assay := by
  simp [State.settle, hc, ha]

/-! ## The close of a block that holds an `eret` (R33, R118, R137) -/

/-- The present block as it closes with an `eret` behind its last bundle; `a`, `hall` and `m` are its hallmark. -/
def State.eretClosing (s : State) (a hall : Word) (m : Hallmark) : Closing :=
  ⟨s.ctx.cur, s.lateEffects.ctx.work, s.ctx.flight.filter fun f => decide (f.due ≤ s.ctx.sclk + 2) && !f.isTouch, s.ctx.sclk + 2, a, hall, 0, false,
    m.safe⟩

/-- The context with that block closed behind it. -/
def State.eretCloses (s : State) (a hall : Word) (m : Hallmark) : State :=
  { s.lateEffects with ctx := { s.lateEffects.ctx with
      closings := [s.eretClosing a hall m]
      flight := s.ctx.flight.filter fun f => !(decide (f.due ≤ s.ctx.sclk + 2) && !f.isTouch) } }

/-- The assay of that block agrees: the return address is listed where RDR is 1, and its fold is the hallmark's (R77, R118, R178). -/
def State.eretAgrees (s : State) (a hall : Word) (m m' : Hallmark) : Prop :=
  let fin := (s.eretClosing a hall m).work.landAll (s.eretClosing a hall m).inflight
  (fin.rdr = false ∨ s.listedClass s.ctx.part a m' fin.epc = true) ∧ s.ctx.cur.lf = hall.setWidth 32

section close
variable {s : State} {a hall : Word} {m m' : Hallmark}

theorem closeBlock_eret (hx : s.ctx.cur.xfer = .eret) (hc : s.ctx.closings = []) : s.closeBlock a hall m =
    let w := s.eretCloses a hall m
    let t := if w.walking then { w with ctx := { w.ctx with frozen := some .translation } } else w.returnNow
    { t with iss := { t.iss with fate := .moved } } := by
  have hl : s.lateEffects.ctx.closings = [] := hc
  simp only [State.closeBlock, State.closeWith, hx, hl, List.nil_append]
  rfl

theorem eretCloses_walking : (s.eretCloses a hall m).walking = s.walkingOf s.who := rfl

/-- A return whose block commits, with no block behind it: the compares under way are made, and the return acts (R118, R388). -/
theorem returnNow_eretCloses {u : State} (hu : (s.eretCloses a hall m).assay = u)
    (hi : u.intact (s.eretCloses a hall m) = true) (hc : u.ctx.closings = []) (hn : u.ctx.cur.nb ≠ 0) :
    (s.eretCloses a hall m).returnNow =
      ({ u.compareAll with ctx := Ctx.eret { u.compareAll.ctx.resume with work := u.compareAll.ctx.comm } } : State).settleCopies
        u.compareAll.who u.compareAll.ctx.comm.rdr := by
  subst hu
  rw [State.returnNow, settle_one (by simp [State.eretCloses]) hc, if_pos]
  simp only [hi, hc, List.isEmpty_nil, Bool.and_self, Bool.true_and, bne_iff_ne, ne_eq, hn, not_false_eq_true]

variable (ht : s.ctx.cur.taint = none) (hx : s.ctx.cur.xfer = .eret) (hm : Hallmark.of hall 0xF000000000000000 = some m')
include ht hx hm

theorem assay_eretCloses (h : s.eretAgrees a hall m m') : (s.eretCloses a hall m).assay =
    (s.eretCloses a hall m).commitBlock (s.eretClosing a hall m) [] ((s.eretClosing a hall m).work.landAll (s.eretClosing a hall m).inflight) := by
  obtain ⟨h1, h2⟩ := h
  rw [assay_eret (x := s.eretClosing a hall m) rfl ht hx hm, if_pos]
  refine Bool.and_eq_true_iff.2 ⟨?_, beq_iff_eq.2 h2⟩
  rcases h1 with h1 | h1
  · simp [h1]
  · exact Bool.or_eq_true_iff.2 (.inr h1)

theorem assay_eretCloses_fails (h : ¬s.eretAgrees a hall m m') (hr : s.ctx.cur.rerun = false) : (s.eretCloses a hall m).assay =
    ({ s.eretCloses a hall m with ctx := (s.eretCloses a hall m).ctx.reenter s.ctx.cur true } : State).count 0x004 := by
  rw [assay_eret (x := s.eretClosing a hall m) rfl ht hx hm, if_neg]
  · exact failAssay_first hr ..
  · intro hg
    obtain ⟨h1, h2⟩ := Bool.and_eq_true_iff.1 hg
    refine h ⟨?_, beq_iff_eq.1 h2⟩
    rcases Bool.or_eq_true_iff.1 h1 with h1 | h1
    · exact .inl (by simpa using h1)
    · exact .inr h1

/-- A return whose block fails its first assay: the block runs again from its entry, and the context does not return. -/
theorem returnNow_eretCloses_fails (h : ¬s.eretAgrees a hall m m') (hr : s.ctx.cur.rerun = false) : (s.eretCloses a hall m).returnNow =
    ({ s.eretCloses a hall m with ctx := (s.eretCloses a hall m).ctx.reenter s.ctx.cur true } : State).count 0x004 := by
  have he := assay_eretCloses_fails ht hx hm h hr
  have hc : (s.eretCloses a hall m).assay.ctx.closings = [] := by
    rw [he, State.count, reenter_closings]
    simp [State.eretCloses, State.eretClosing]
  have hn : (s.eretCloses a hall m).assay.ctx.cur.nb = 0 := by
    rw [he]
    rfl
  rw [State.returnNow, settle_one (by simp [State.eretCloses]) hc, hn, bne_self_eq_false, Bool.and_false, if_neg Bool.false_ne_true, he]

end close

/-- Settles O12: what a return does by the lemmas on Ctx.eret, and when it does by the assay of its block. -/
theorem returnFromTrap : Obligations.ReturnFromTrap := by
  unfold Obligations.ReturnFromTrap
  refine ⟨fun h s => ⟨fun hi hp ho => ?_, fun c => ?_⟩, fun a hall m m' s hx hc ht hn hm => ⟨fun hw => ?_, fun hw hg hi hu hb => ?_, fun hw hg hr => ?_⟩⟩
  · have ha := hi.2
    simp only [exec, execEret, State.transfer, Form.regs, List.append_nil, Option.toList, ha, hp, ho, Bool.false_eq_true, if_false, if_true]
    exact congrArg Host.Outcome.next (issue_none (rs := []) hi _)
  · obtain ⟨h1, h2, h3, h4, h5, h6, h7, h8, h9, h10⟩ := eret_always c
    refine ⟨h1, h2, h3, h4, h5, h6, h7, h8, h9, h10, fun hr => ?_, eret_noRdr c⟩
    obtain ⟨hf, hr', hw, hl⟩ := eret_rdr c hr
    exact ⟨hf, hr', hw, fun hk hb => by rw [hl, if_pos ⟨hk, hb⟩]; rfl, fun hk => by rw [hl, if_neg fun h => hk.elim h.1 fun k => k h.2]⟩
  · rw [closeBlock_eret hx hc]
    simp only [eretCloses_walking, hw, if_true]
    exact ⟨rfl, trivial, rfl, rfl, rfl, rfl⟩
  · rw [closeBlock_eret hx hc]
    simp only [eretCloses_walking, hw, Bool.false_eq_true, if_false]
    rw [returnNow_eretCloses (assay_eretCloses ht hx hm hg) hi hu hb]
    rfl
  · rw [closeBlock_eret hx hc]
    simp only [eretCloses_walking, hw, Bool.false_eq_true, if_false]
    rw [returnNow_eretCloses_fails ht hx hm hg hr]
    exact ⟨rfl, rfl, reenter_ih .., rfl, reenter_saved .., rfl, rfl⟩

end Sys2Proof.Machine
end

section
/-! A result in flight that does not land, against the statement about landing. -/

namespace Sys2Proof.Machine

/-- State.reset with a touchstone compare in flight, due in the next cycle. -/
def touchDue : State :=
  { State.reset with ctx := { Ctx.reset with flight := [⟨1, .touch, .compare 0 0 0, 0, false, 0, 0⟩] } }

/-- A touchstone compare that is due does not land as the clock advances: it waits for the end of the bundle of its cycle (R388). -/
theorem clock_keeps_touch {s : State} {f : Flight} (hp : s.ctx.pend = []) (hf : s.ctx.flight = [f]) (ht : f.isTouch = true) :
    s.clock.ctx.flight = [f] := by
  simp [State.clock, Ctx.landDue, Ctx.releaseHeld, Ctx.lands, hp, hf, ht]

/-- Refutes O56: not every result in flight lands in the cycle in which it is due. A touchstone compare that is due as the clock advances stays
in flight, since it is made only as the bundle of its cycle ends (R388, Ctx.lands), and the statement names no exception for it. -/
theorem not_resultsLand : ¬Obligations.ResultsLand := by
  unfold Obligations.ResultsLand
  rintro ⟨-, h⟩
  obtain ⟨-, -, -, -, hdue⟩ := h _ touchDue rfl rfl
  have hkept := clock_keeps_touch (s := touchDue) rfl rfl rfl
  have hgone := (hdue (by decide)).1
  rw [hkept] at hgone
  exact absurd hgone (List.cons_ne_nil _ _)

end Sys2Proof.Machine
end

section
/-! Answers, wake-ups, limits and page walks as they arrive. -/

namespace Sys2Proof.Machine

section arrival
variable {a : Answer} {x : Ctx} {p : Pend}

/-- A pending result with the answer that has arrived for it. -/
def Pend.holding (a : Answer) (q : Pend) : Pend := if q.id = a.id then { q with held := some a } else q

theorem holding_id (q : Pend) : (q.holding a).id = q.id := by
  unfold Pend.holding; split <;> rfl

theorem holding_other {q : Pend} (h : q.id ≠ a.id) : q.holding a = q := if_neg h

/-- A context whose one result of an identifier has its answer. -/
theorem arrive_eq (hp : p ∈ x.pend) (hid : p.id = a.id) :
    x.arrive a = ({ x with pend := x.pend.map (Pend.holding a) } : Ctx).releaseHeld :=
  if_pos (List.any_eq_true.2 ⟨p, hp, decide_eq_true hid⟩)

/-- One turn of the answers that have arrived: that of a result is written where its cycle has come. -/
def Ctx.tryRelease (c : Ctx) (p : Pend) : Ctx := match p.held with
  | some a => if c.takes p && !c.behind p then c.answered p a else c
  | none => c

theorem releaseHeld_foldl (c : Ctx) : c.releaseHeld = c.pend.foldl Ctx.tryRelease c := rfl

theorem foldl_unheld (l : List Pend) (h : ∀ q ∈ l, q.held = none) (c : Ctx) : l.foldl Ctx.tryRelease c = c := by
  induction l with
  | nil => rfl
  | cons q l ih =>
    have hq : c.tryRelease q = c := by simp only [Ctx.tryRelease, h q (List.mem_cons_self ..)]
    rw [List.foldl_cons, hq]
    exact ih fun q hq => h q (List.mem_cons_of_mem _ hq)

/-- One result that has its answer, whose cycle has come and which stands behind no other, is written. -/
theorem releaseHeld_one {c : Ctx} {l r : List Pend} (hc : c.pend = l ++ p :: r) (hl : ∀ q ∈ l, q.held = none) (hr : ∀ q ∈ r, q.held = none)
    (ha : p.held = some a) (ht : c.takes p = true) (hb : c.behind p = false) : c.releaseHeld = c.answered p a := by
  have hp : c.tryRelease p = c.answered p a := by simp [Ctx.tryRelease, ha, ht, hb]
  rw [releaseHeld_foldl, hc, List.foldl_append, foldl_unheld l hl, List.foldl_cons, hp, foldl_unheld r hr]

/-- The answer to the one result of its identifier, none other awaiting the same register, is written (R35). -/
theorem arrive_writes (hp : x.pend.filter (·.id == a.id) = [p]) (hn : ∀ q ∈ x.pend, q.held = none) (ht : x.takes p = true)
    (hd : ∀ q ∈ x.pend, q ≠ p → ∀ d ∈ p.dests, d ∈ q.dests → d = .x 0) :
    x.arrive a = ({ x with pend := x.pend.map (Pend.holding a) } : Ctx).answered { p with held := some a } a := by
  obtain ⟨l, r, hx, hl, hpa, hr⟩ := List.filter_eq_cons_iff.1 hp
  have hid : p.id = a.id := by simpa using hpa
  have hl' : ∀ q ∈ l, q.id ≠ a.id := fun q hq e => hl q hq (by simp [e])
  have hr' : ∀ q ∈ r, q.id ≠ a.id := fun q hq e => List.filter_eq_nil_iff.1 hr q hq (by simp [e])
  have hm : p ∈ x.pend := by simp [hx]
  have hmap : x.pend.map (Pend.holding a) = l ++ { p with held := some a } :: r := by
    rw [hx, List.map_append, List.map_cons, List.map_congr_left fun q hq => holding_other (hl' q hq),
      List.map_congr_left fun q hq => holding_other (hr' q hq), List.map_id', List.map_id', Pend.holding, if_pos hid]
  rw [arrive_eq hm hid]
  refine releaseHeld_one hmap (fun q hq => hn q (by simp [hx, hq])) (fun q hq => hn q (by simp [hx, hq])) rfl ht ?_
  have hw : ∀ q ∈ (l ++ { p with held := some a } :: r).takeWhile fun q => q.id != p.id, q ∈ l := by
    rw [List.takeWhile_append_of_pos fun q hq => by simpa [hid] using hl' q hq]
    simp
  rw [Ctx.behind, hmap, List.any_eq_false]
  intro q hq hs
  obtain ⟨d, hd', hc⟩ := List.any_eq_true.1 hs
  obtain ⟨h1, h2⟩ := Bool.and_eq_true_iff.1 hc
  have hql := hw q hq
  refine bne_iff_ne.1 h2 (hd q (by simp [hx, hql]) ?_ d (List.contains_iff_mem.1 h1) hd')
  rintro rfl
  exact hl' q hql hid

theorem filter_holding (l : List Pend) : (l.map (Pend.holding a)).filter (·.id != a.id) = l.filter (·.id != a.id) := by
  induction l with
  | nil => rfl
  | cons q l ih =>
    rw [List.map_cons, List.filter_cons, List.filter_cons, ih, holding_id]
    by_cases h : q.id = a.id
    · simp [h]
    · rw [holding_other h]

/-- A scalar answer in its register. -/
theorem write_scalar {ty : Fmt} {n : BitVec 6} (hc : p.conv = .scalar ty) (hd : p.dests = [.x n]) (hn : n ≠ 0) (r : Regs) :
    (p.write a r).getX n = ⟨ty.fit (ty.opnd (a.words.headD 0)), baseX n, a.poison || p.poison⟩ := by
  have h0 : n ≠ 0#6 := hn
  simp [Pend.write, hc, hd, Regs.setX, Regs.getX, h0]

theorem isReduction_scalar {ty : Fmt} (hc : p.conv = .scalar ty) : p.isReduction = false := by
  simp [Pend.isReduction, hc]

end arrival

theorem setCtx_mem (s : State) (c : Src) (x : Ctx) : (s.setCtx c x).mem = s.mem := by
  unfold State.setCtx; split <;> rfl

theorem arrival_next {a : Answer} {s : State} (h : a.src.site < 288) :
    exec (.asyncResultArrival a) s = .next (s.setCtx a.src ((s.getCtx a.src).arrive a)) :=
  if_neg (Nat.not_le.2 h)

section wakeup
variable {s : State} {slot : Slot} {off n : Nat} {hit : Bool}

theorem focus_self (s : State) : s.focus s.who = s := if_pos rfl

/-- The freeze of a monitor wait ends with it. -/
def Ctx.leavesMonitor (c : Ctx) : Ctx := if c.frozen == some .monitor then c.resume else c

theorem resume_frozen (c : Ctx) : c.resume.frozen = none := by
  unfold Ctx.resume; split <;> simp_all

theorem resume_work (c : Ctx) : c.resume.work = c.work := by
  unfold Ctx.resume; split <;> rfl

theorem leavesMonitor_work (c : Ctx) : c.leavesMonitor.work = c.work := by
  unfold Ctx.leavesMonitor; split
  · exact resume_work c
  · rfl

theorem leavesMonitor_frozen {c : Ctx} (h : c.frozen = some .monitor) : c.leavesMonitor.frozen = none := by
  rw [Ctx.leavesMonitor, if_pos (by simp [h])]; exact resume_frozen c

theorem wakeup_stays (hs : s.who.site < 288) (hm : s.ctx.monitor = some ⟨slot, off, n, hit⟩) (hw : ¬(hit = true ∨ s.ctx.wakes = true)) :
    exec (.monitorWakeup s.who) s = .next s := by
  have hw' : (!hit && !s.ctx.wakes) = true := by simpa using hw
  show execMonitorWakeup s.who s = _
  simp only [execMonitorWakeup, if_neg (Nat.not_le.2 hs), focus_self, hm, hw', if_true]

theorem wakeup_reads (hs : s.who.site < 288) (hm : s.ctx.monitor = some ⟨slot, off, n, hit⟩) (hw : hit = true ∨ s.ctx.wakes = true) :
    let u : State := { s with iss := { s.iss with nst := s.ctx.cur.stores.length } }
    let g := u.monitorRead off n
    exec (.monitorWakeup s.who) s =
      .next { u with ctx := { s.ctx.leavesMonitor with monitor := none, woken := s.ctx.woken ++ [⟨slot, g.1, g.2⟩] } } := by
  have hw' : ¬(!hit && !s.ctx.wakes) = true := by rcases hw with h | h <;> simp [h]
  show execMonitorWakeup s.who s = _
  simp only [execMonitorWakeup, if_neg (Nat.not_le.2 hs), focus_self, hm, if_neg hw']
  rfl

end wakeup

section expiry
variable {s : State} {c : Src}

/-- An answer to a hold of the context, or its wait, is on its way. -/
def State.answerDue (s : State) (c : Src) (id : Nat) : Bool := s.work.any fun w => match w.ev with
  | .asyncResultArrival a => a.src == c && a.id == id
  | .phaserWaitArrival m _ i => m.src == c && i == id
  | _ => false

theorem answerDue_false {id : Nat} (h : ∀ w ∈ s.work, (∀ b, w.ev = .asyncResultArrival b → b.src = c → b.id ≠ id)
    ∧ ∀ m q i, w.ev = .phaserWaitArrival m q i → m.src = c → i ≠ id) : s.answerDue c id = false := by
  rw [State.answerDue, List.any_eq_false]
  intro w hw
  obtain ⟨h1, h2⟩ := h w hw
  split
  next b e => simpa using h1 b e
  next m q i e => simpa using h2 m q i e
  next => exact Bool.false_ne_true

/-- A hold after the limits of its context have been looked at. -/
def State.expires (s : State) (c : Src) (h : Hold) : Hold :=
  { h with expired := h.expired || (h.limit == some 0 && h.answer.isNone && !s.answerDue c h.id) }

theorem limitExpiry_next (hc : c.site < 288) : exec (.phswLimitExpiry c) s =
    .next (s.setCtx c { s.getCtx c with holds := (s.getCtx c).holds.map (s.expires c) }) :=
  if_neg (Nat.not_le.2 hc)

theorem expires_due {h : Hold} (hl : h.limit = some 0) (ha : h.answer = none) (hw : s.answerDue c h.id = false) :
    s.expires c h = { h with expired := true } := by
  simp [State.expires, hl, ha, hw]

theorem expires_other {h : Hold} (hl : h.limit ≠ some 0) : s.expires c h = h := by
  have hb : (h.limit == some 0) = false := beq_eq_false_iff_ne.2 hl
  simp only [State.expires, hb, Bool.false_and, Bool.or_false]

end expiry

section walk
variable {s : State}

theorem mem_keepTlb (s : State) (e : TlbEnt) (n : Nat) : e ∈ (s.keepTlb e n).tlb := by simp [State.keepTlb]

theorem of_mem_keepTlb {e d : TlbEnt} {n : Nat} (h : d ∈ (s.keepTlb e n).tlb) : d ∈ s.tlb ∨ d = e := by
  simp only [State.keepTlb, List.mem_append, List.mem_filter, List.mem_singleton] at h
  exact h.imp_left And.left

/-- An entry of another TLB stays. -/
theorem keepTlb_other {e d : TlbEnt} {n : Nat} (h : d ∈ s.tlb) (hd : d.at_ ≠ e.at_) : d ∈ (s.keepTlb e n).tlb := by
  refine List.mem_append_left _ (List.mem_filter.2 ⟨h, ?_⟩)
  simp only [Bool.not_eq_true', List.contains_eq_mem, decide_eq_false_iff_not]
  intro hk
  exact hd (by simpa using (List.mem_filter.1 (List.mem_of_mem_take hk)).2)

theorem walkComplete_next {site : Nat} {pasid : BitVec 20} {va leaf : Word} {b : Nat} (hs : site < 288) (ht : pasid ∉ s.tearing)
    (hl : s.leafOf site pasid ((BitVec.ofNat 64 (s.word .dram (s.pasidBase + 16 * pasid.toNat) 8)).extractLsb' 1 4) va = some (leaf, b)) :
    let page := (va.setWidth 57).toNat / 2 ^ b * 2 ^ b
    exec (.pageWalkComplete site pasid va) s = .next ((s.keepTlb ⟨site, pasid, page, b, leaf⟩ 64).keepTlb
      ⟨288 + siteDie site % 2, pasid, page, b, leaf⟩ 16384) := by
  have hc : ¬(288 ≤ site || s.tearing.contains pasid) = true := by simp [hs, ht]
  show execPageWalkComplete site pasid va s = _
  simp only [execPageWalkComplete, if_neg hc, hl]

end walk

/-- Settles O40: an answer is written to both copies, a wait takes what it finds, a walk's leaf enters two TLBs. -/
theorem answerEvents : Obligations.AnswerEvents := by
  unfold Obligations.AnswerEvents
  intro a c pasid va s ha hc x
  refine ⟨fun p hp hn ht hd => ?_, rfl, fun slot off n hit hs hm => ?_, fun h hh hl hans hw => ?_, ?_⟩
  · have hid : p.id = a.id := by
      have : p ∈ x.pend.filter (·.id == a.id) := by simp [hp]
      simpa using (List.mem_filter.1 this).2
    refine ⟨_, arrival_next ha, ?_⟩
    rw [getCtx_setCtx, setCtx_mem, arrive_writes hp hn ht hd]
    refine ⟨rfl, rfl, ?_, rfl, fun ty n hcv hds h0 => ?_⟩
    · show (x.pend.map (Pend.holding a)).filter (·.id != p.id) = _
      rw [hid]; exact filter_holding _
    · have hr : ({ p with held := some a } : Pend).isReduction = false := isReduction_scalar hcv
      simp only [Ctx.answered, hr, Bool.false_eq_true, if_false]
      exact write_scalar (p := { p with held := some a }) hcv hds h0 x.comm
  · intro wakes
    have hk : wakes ↔ hit = true ∨ s.ctx.wakes = true := by rw [wakes_iff]
    refine ⟨fun h => wakeup_stays hs hm (hk.not.1 h), fun h => ⟨_, wakeup_reads hs hm (hk.1 h), rfl, rfl, fun hf => ?_, ?_, rfl⟩⟩
    · exact leavesMonitor_frozen hf
    · exact leavesMonitor_work s.ctx
  · refine ⟨_, limitExpiry_next hc, ?_⟩
    rw [getCtx_setCtx]
    refine ⟨List.mem_map.2 ⟨h, hh, expires_due hl hans (answerDue_false hw)⟩, rfl, fun g hg hgl => ?_⟩
    exact List.mem_map.2 ⟨g, hg, expires_other hgl⟩
  · intro own leaf b ht hl page
    refine ⟨_, walkComplete_next hc ht hl, keepTlb_other (mem_keepTlb ..) ?_, mem_keepTlb .., fun e he => ?_, rfl⟩
    · exact Nat.ne_of_lt (Nat.lt_of_lt_of_le hc (Nat.le_add_right ..))
    · rcases of_mem_keepTlb he with h | rfl
      · rcases of_mem_keepTlb h with h | rfl
        · exact .inl h
        · exact .inr ⟨rfl, rfl⟩
      · exact .inr ⟨rfl, rfl⟩

end Sys2Proof.Machine
end

section
/-! The debug port. -/

namespace Sys2Proof.Machine

section port
variable {c : Src} {s : State}

/-- An update of one context sets it and leaves the rest. -/
theorem modCtx_sets (c : Src) (f : Ctx → Ctx) (s : State) : (s.modCtx c f).getCtx c = f (s.getCtx c)
    ∧ (∀ d, d ≠ c → (s.modCtx c f).getCtx d = s.getCtx d) ∧ (s.modCtx c f).mem = s.mem ∧ (s.modCtx c f).work = s.work := by
  refine ⟨getCtx_setCtx .., fun d hd => getCtx_setCtx_ne s _ hd, ?_, ?_⟩ <;>
    · unfold State.modCtx State.setCtx; split <;> rfl

theorem askStop_eq (x : Ctx) : x.askStop = if x.task.isSome = true then { x with stopReq := true } else { x with halted := true } := rfl

theorem goOn_halted {x : Ctx} (h : x.halted = true) : x.goOn = { x.landDue with halted := false } := if_pos h

/-- A resume, of a halted context or of one that is not. -/
theorem goOn_resumes (x : Ctx) : ({ x.goOn with steps := 0 } : Ctx)
    = if x.halted = true then { x.landDue with halted := false, steps := 0 } else { x with steps := 0 } := by
  unfold Ctx.goOn; split <;> rfl

/-- The numbers of a context that exists. -/
theorem exists_site (hs : c.site < 288) (hc : c.cid < 4) : ¬(288 ≤ c.site || 4 ≤ c.cid) = true := by simp [hs, hc]

section
variable (hs : c.site < 288) (hc : c.cid < 4)
include hs hc

theorem stopRequest_next (hp : s.portRefused c = false) : exec (.debugStopRequest c) s = .next (s.modCtx c Ctx.askStop) := by
  show execDebugStopRequest c s = _
  rw [execDebugStopRequest, if_neg (exists_site hs hc), hp]; rfl

theorem resume_next (hp : s.portRefused c = false) :
    exec (.debugResume c) s = .next (s.modCtx c fun x => { x.goOn with steps := 0 }) := by
  show execDebugResume c s = _
  rw [execDebugResume, if_neg (exists_site hs hc), hp]; rfl

theorem step_next {k : BitVec 16} (hp : s.portRefused c = false) (hk : k ≠ 0) (hh : (s.getCtx c).halted = true) :
    exec (.debugStep c k) s = .next (s.modCtx c fun x => { x.goOn with steps := k.toNat + 1 }) := by
  show execDebugStep c k s = _
  rw [execDebugStep, if_neg (exists_site hs hc), if_neg (by simp only [hp, hh, hk]; decide)]

theorem stepEnd_next : exec (.debugStepEnd c) s = .next (s.modCtx c fun x => if x.steps = 1 then x.askStop else x) :=
  if_neg (exists_site hs hc)

/-- What the port leaves of a context when it writes a register. -/
theorem registerWrite_next {r : DebugReg} {ws : List Word} {tag : Option Tag} {poison : Option Bool} (hp : s.portRefused c = false)
    (hh : (s.getCtx c).halted = true) : ∃ u, exec (.debugRegisterWrite c r ws tag poison) s = .next u ∧ u.mem = s.mem
      ∧ u.getCtx c = ((s.getCtx c).writeAll fun g => g.debugWrite r ws tag poison).debugWrite r ws tag poison := by
  obtain ⟨hx, -, hm, -⟩ := modCtx_sets c (fun x => (x.writeAll fun g => g.debugWrite r ws tag poison).debugWrite r ws tag poison) s
  have hn : ¬(s.portRefused c || !(s.getCtx c).halted) = true := by rw [hp, hh]; exact Bool.false_ne_true
  refine ⟨_, (if_neg (exists_site hs hc)).trans (if_neg hn), ?_⟩
  split
  · exact ⟨(State.setTile_mem ..).trans hm, (getCtx_setTile ..).trans hx⟩
  · exact ⟨hm, hx⟩

/-- The entry as an edit finds it: settled first where the edit concerns its value, its flags or its poison. -/
def Ctx.edited (x : Ctx) (n : Nat) (f : Flight) (e : SnapEdit) : Flight :=
  match e with | .value _ | .flags _ | .poison _ => x.entry n f | _ => f

/-- An edit of an entry of the snapshot buffer. -/
theorem entryEdit_next {n : Nat} {e : SnapEdit} {f : Flight} (hp : s.portRefused c = false) (hh : (s.getCtx c).halted = true)
    (hf : (s.getCtx c).snapshot[n]? = some f) :
    let x := s.getCtx c
    let g := x.edited n f e
    exec (.snapshotEntryEdit c n e) s = .next (s.setCtx c ((if g = f then x else x.settleEntry f g).editEntry g e)) := by
  have hn : ¬(s.portRefused c || !(s.getCtx c).halted) = true := by rw [hp, hh]; exact Bool.false_ne_true
  show execSnapshotEntryEdit c n e s = _
  simp only [execSnapshotEntryEdit, if_neg (exists_site hs hc), if_neg hn, hf]
  rfl

/-- The port does nothing where it is refused (R393). -/
theorem port_refused {n : Nat} {k : BitVec 16} {r : DebugReg} {e : SnapEdit} {ws : List Word} {tag : Option Tag} {poison : Option Bool}
    (hp : s.portRefused c = true) :
    exec (.debugStopRequest c) s = .next s ∧ exec (.debugResume c) s = .next s ∧ exec (.debugStep c k) s = .next s
      ∧ exec (.debugRegisterWrite c r ws tag poison) s = .next s ∧ exec (.snapshotEntryEdit c n e) s = .next s := by
  have hn := exists_site hs hc
  exact ⟨(if_neg hn).trans (if_pos hp), (if_neg hn).trans (if_pos hp), (if_neg hn).trans (if_pos (by rw [hp]; rfl)),
    (if_neg hn).trans (if_pos (by rw [hp]; rfl)), (if_neg hn).trans (if_pos (by rw [hp]; rfl))⟩

end

end port

section registers
variable (g : Regs) (ws : List Word) (tag : Option Tag) (poison : Option Bool)

theorem debugWrite_x {r : BitVec 6} (h : r ≠ 0) : (g.debugWrite (.x r) ws tag poison).getX r =
    ⟨ws.headD 0, tag.getD (g.getX r).tag, poison.getD (g.getX r).poison⟩ := by
  have h0 : r ≠ 0#6 := h
  simp [Regs.debugWrite, Regs.setX, Regs.getX, h0]

theorem debugWrite_x_other {r j : BitVec 6} (h : j ≠ r) : (g.debugWrite (.x r) ws tag poison).getX j = g.getX j := by
  have hn : r.toNat ≠ j.toNat := fun e => h (BitVec.eq_of_toNat_eq e.symm)
  by_cases h0 : r = 0
  · simp [Regs.debugWrite, Regs.setX, h0]
  · simp only [Regs.debugWrite, Regs.setX, if_neg h0, Regs.getX, Vector.getElem_set_ne _ _ hn]

theorem debugWrite_x_v (r : BitVec 6) : (g.debugWrite (.x r) ws tag poison).v = g.v := by
  simp only [Regs.debugWrite, Regs.setX]; split <;> rfl

theorem debugWrite_epc : g.debugWrite (.ctl 0x03) ws tag poison = { g with epc := ws.headD 0 &&& 0x01FFFFFFFFFFFFF8, rdr := true } := rfl

end registers

section entries
variable {f : Flight} {e : SnapEdit} {pre post : List Flight}

/-- The first result of a list that equals another is the one edited. -/
theorem editFirst_append (h : f ∉ pre) : editFirst f e (pre ++ f :: post) = pre ++ ((f.edit e).toList ++ post) := by
  induction pre with
  | nil => rw [List.nil_append, editFirst, if_pos rfl]; cases f.edit e <;> rfl
  | cons g r ih =>
    obtain ⟨hg, hr⟩ : f ≠ g ∧ f ∉ r := by simpa using h
    rw [List.cons_append, editFirst, if_neg (Ne.symm hg), ih hr, List.cons_append]

theorem settleFirst_append {g : Flight} (h : f ∉ pre) (h' : f ∉ post) : settleFirst f g (pre ++ f :: post) = pre ++ g :: post := by
  have keep (l : List Flight) (hl : f ∉ l) : settleFirst f g l = l :=
    (List.map_congr_left fun x hx => if_neg (by rintro rfl; exact hl hx)).trans (List.map_id' l)
  rw [settleFirst, List.map_append, List.map_cons, if_pos rfl]
  exact congrArg₂ (fun a b => a ++ g :: b) (keep pre h) (keep post h')

/-- An entry in flight is edited there. -/
theorem editEntry_flight {x : Ctx} (hs : x.saved = []) : x.editEntry f e =
    { x with flight := editFirst f e x.flight, cur := { x.cur with carry := editFirst f e x.cur.carry } } :=
  if_neg (by simp [hs])

/-- The result that an edit finds, and the one that it changes, settled before. -/
theorem edit_flight {x : Ctx} {g : Flight} (hs : x.saved = []) (hx : x.flight = pre ++ f :: post) (hf : f ∉ pre)
    (hg : g = f ∨ (g ∉ pre ∧ f ∉ post)) :
    let y := (if g = f then x else x.settleEntry f g).editEntry g e
    y.flight = pre ++ ((g.edit e).toList ++ post) ∧ y.comm = x.comm ∧ y.work = x.work ∧ y.sclk = x.sclk := by
  by_cases h : g = f
  · subst h
    simp only [if_pos, editEntry_flight hs, hx, editFirst_append hf, and_self]
  · obtain ⟨hp, hq⟩ := hg.resolve_left h
    have ht : (x.settleEntry f g).saved = [] := by simp [Ctx.settleEntry, hs, settleFirst]
    have hl : (x.settleEntry f g).flight = pre ++ g :: post := by simp only [Ctx.settleEntry, hx, settleFirst_append hf hq]
    simp only [if_neg h, editEntry_flight ht, hl, editFirst_append hp]
    exact ⟨trivial, rfl, rfl, rfl⟩

/-- Only a scale or a zero of an accumulator settles. -/
theorem entry_word {x : Ctx} {n : Nat} {v : Word} (h : f.pay = .word v) : x.entry n f = f := by
  unfold Ctx.entry Ctx.settled; split
  · next h2 => simp [h] at h2
  · next h2 => simp [h] at h2
  · rfl

end entries

/-- Settles O48: each operation of the port is an update of the one context. -/
theorem debugEvents : Obligations.DebugEvents := by
  unfold Obligations.DebugEvents
  intro c n k r e ws tag poison s hs hc x sets
  have sets_of {i : Instr} {f : Ctx → Ctx} {y : Ctx} (hi : exec i s = .next (s.modCtx c f)) (hy : f x = y) : sets i y := by
    obtain ⟨h1, h2, h3, h4⟩ := modCtx_sets c f s
    exact ⟨_, hi, h1.trans hy, h2, h3, h4⟩
  refine ⟨port_refused hs hc, fun hp => ⟨sets_of (stopRequest_next hs hc hp) rfl, sets_of (resume_next hs hc hp) (goOn_resumes x),
    fun hk hh => sets_of (step_next hs hc hp hk hh) (by rw [goOn_halted hh]), fun hh hr => ?_, fun hh => ?_, fun hh => ?_, fun hh => ?_, ?_⟩,
    fun h1 => sets_of (stepEnd_next hs hc) (if_pos h1)⟩
  · obtain ⟨u, hu, hm, hx⟩ := registerWrite_next (r := .x r) (ws := ws) (tag := tag) (poison := poison) hs hc hp hh
    refine ⟨u, hu, hm, ?_⟩
    rw [hx]
    exact ⟨debugWrite_x _ _ _ _ hr, debugWrite_x _ _ _ _ hr, fun j hj => debugWrite_x_other _ _ _ _ hj, debugWrite_x_v .., rfl⟩
  · obtain ⟨u, hu, hm, hx⟩ := registerWrite_next (r := .ctl 0x12) (ws := ws) (tag := tag) (poison := poison) hs hc hp hh
    exact ⟨u, hu, by rw [hx]; exact ⟨rfl, rfl, rfl⟩⟩
  · obtain ⟨u, hu, hm, hx⟩ := registerWrite_next (r := .ctl 0x03) (ws := ws) (tag := tag) (poison := poison) hs hc hp hh
    exact ⟨u, hu, by rw [hx]; exact ⟨rfl, rfl, hm⟩⟩
  · obtain ⟨u, hu, hm, hx⟩ := registerWrite_next (r := .ctl 0x11) (ws := ws) (tag := tag) (poison := poison) hs hc hp hh
    exact ⟨u, hu, by rw [hx]; exact ⟨rfl, rfl, rfl⟩⟩
  · intro f pre post hh hsv hf hfl hpre leaves
    have leaves_of {e : SnapEdit} {g : Flight} (he : g = x.edited n f e)
        (hg : g = f ∨ (g ∉ pre ∧ f ∉ post)) : leaves e (pre ++ ((g.edit e).toList ++ post)) := by
      subst he
      obtain ⟨h1, h2, h3, h4⟩ := edit_flight (e := e) hsv hfl hpre hg
      refine ⟨_, entryEdit_next hs hc hp hh hf, ?_⟩
      rw [getCtx_setCtx]
      exact ⟨h1, h2, h3, h4, by unfold State.setCtx; split <;> rfl⟩
    refine ⟨leaves_of rfl (.inl rfl), fun hg b => ?_, fun g => ?_, fun b g => ?_, fun v hv => ?_⟩
    · exact leaves_of (e := .poison b) rfl hg
    · exact leaves_of (e := .tag g) rfl (.inl rfl)
    · rw [hfl]; exact leaves_of (e := .ignored b g) rfl (.inl rfl)
    · have h := leaves_of (e := .value ws) (g := f) (entry_word hv).symm (.inl rfl)
      rwa [Flight.edit, hv] at h

end Sys2Proof.Machine
end

section
/-! A step runs the instruction that the pc decodes to. -/

namespace Sys2Proof.Machine

section decode
variable {h : Hdr} {major : Nat} {f : BitVec 47} {w : Word} {i : Instr}

/-- No form outside slot S has a major of the control transfers (R73). -/
theorem transfer_slotS (hs : h.slot ≠ .S) (hm : isTransferMajor major = true) : decodeForm h major f none = .error .unassigned := by
  obtain ⟨h1, h2⟩ : 0x40 ≤ major ∧ major ≤ 0x47 := by simpa [isTransferMajor] using hm
  obtain ⟨slot, g, n⟩ := h
  cases slot with
  | S => exact absurd rfl hs
  | A | B | V | M => interval_cases major <;> rfl

/-- What the decoding of one syllable without an extension says of its form. -/
theorem decodeSyllable_slot (hd : decodeSyllable w none = .ok i) :
    ∃ h major f, Syl.of w = .slot h major f ∧ extRule h.slot major f ≠ .required ∧ decodeForm h major f none = .ok i := by
  unfold decodeSyllable at hd
  split at hd
  · next h major f hw =>
    by_cases hr : extRule h.slot major f = .required
    · simp [hr] at hd
    · exact ⟨h, major, f, hw, hr, by simpa [hr] using hd⟩
  all_goals exact absurd hd (by simp)

theorem bundleReason_one (next : Word) (ht : transferOf [.slot h major f] = none) (hr : extRule h.slot major f ≠ .required)
    (hd : decodeForm h major f none = .ok i) : bundleReason [.slot h major f] false false next = none := by
  have hm : misplaced [.slot h major f] = false := by
    by_contra hm
    obtain ⟨hs, hj⟩ : h.slot ≠ .S ∧ isTransferMajor major = true := by simpa [misplaced] using hm
    rw [transfer_slotS hs hj] at hd
    exact absurd hd (by simp)
  have hb : badTransfer [.slot h major f] next = false := by simp [badTransfer, hm, ht]
  have hl : lacksExt [.slot h major f] = false := by simp [lacksExt, hr]
  simp [bundleReason, hb, hl, slotCodes, ascending, extOwners, extBetween]

/-- A bundle of one syllable. -/
theorem decodeBundle_one (next : Word) (ht : transferOf [Syl.of w] = none) (hd : decodeSyllable w none = .ok i) :
    decodeBundle [w] false false next = .ok ⟨[⟨0, w, i⟩], 1⟩ := by
  obtain ⟨h, major, f, hw, hr, hf⟩ := decodeSyllable_slot hd
  rw [hw] at ht
  have he : extOf [.slot h major f] h.slot = none := rfl
  have hs : decodeSyls [.slot h major f] [w] 0 = .ok [⟨0, w, i⟩] := by simp only [decodeSyls, hw, he, hf]
  simp only [decodeBundle, List.map_cons, List.map_nil, hw, bundleReason_one next ht hr hf, hs, List.length_singleton]

/-- The word at the pc ends its bundle. -/
theorem bundleAt_one {s : State} {pc : Word} (hw : s.fetchWord pc = .ok w) (hh : isHall w = false) (hb : stopBit w = true) :
    s.bundleAt pc = .ok ([w], false) := by
  have hr : s.fetchRun 9 pc = .ok ([w], false) := by
    rw [State.fetchRun, hw]; simp [hh, hb]
  rw [State.bundleAt, hr]; rfl

/-- A word with its stop bit that decodes to no transfer is a bundle. -/
theorem decodeAt_one {s : State} {pc : Word} (hw : s.fetchWord pc = .ok w) (hh : isHall w = false) (hb : stopBit w = true)
    (hn : s.ctx.cur.nb ≠ 256) (ht : transferOf [Syl.of w] = none) (hd : decodeSyllable w none = .ok i) :
    s.decodeAt pc = .ok ⟨[⟨0, w, i⟩], 1⟩ := by
  have hn' : (s.ctx.cur.nb == 256) = false := beq_eq_false_iff_ne.2 hn
  simp only [State.decodeAt, bundleAt_one hw hh hb, List.map_cons, List.map_nil, ht, Option.isSome_none, Bool.false_eq_true, if_false, hn',
    decodeBundle_one 0 ht hd]

end decode

section fetch

/-- A fetch over a link changes nothing of the context. -/
theorem fetches_ctx (s : State) (p : Place) : (s.fetches p).ctx = s.ctx := by
  have ha (h : Home) : (s.asked h).ctx = s.ctx := by cases h <;> rfl
  unfold State.fetches
  split
  · rfl
  · split
    · exact ha _
    · rfl

/-- The state behind the fetch of the bundle at the pc. -/
def State.bundleFetched (s : State) : State := match s.codePeer with | some p => s.fetches p | none => s

theorem bundleFetched_ctx (s : State) : s.bundleFetched.ctx = s.ctx := by
  unfold State.bundleFetched; split
  · exact fetches_ctx ..
  · rfl

end fetch

section bundle
variable {s u : State} {b : Bundle} {p : Placed}

theorem resume_running {c : Ctx} (h : c.frozen = none) : c.resume = c := by
  unfold Ctx.resume; rw [h]

/-- The end of a bundle that has issued. -/
def State.ends (u : State) : State := if u.iss.fate = .issued then u.bundleDone else u

/-- The trial of the one syllable of a bundle. -/
theorem tryAll_one {pc : Word} (hx : exec p.instr (s.latch pc p) = .next u) : tryAll exec pc s [p] ⟨s, none, none⟩ = match u.iss.fate with
    | .illegal => .ok ⟨s, none, some u⟩
    | .frozen => if u.intact s then .ok ⟨u, u.ctx.frozen, none⟩ else .error (.next u)
    | .moved => .error (.next u)
    | .issued | .fault => .ok ⟨s, none, none⟩ := by
  simp only [tryAll, hx, illegalAt]
  cases u.iss.fate <;> rfl

/-- The trial of a bundle from one state, and its issue from another. -/
def issueFrom (pc : Word) (b : Bundle) (s0 s1 : State) : Host.Outcome State Fault Refusal :=
  match tryAll exec pc s0 b.slots ⟨s0, none, none⟩ with
  | .error o => o
  | .ok t => match t.illegal, t.cause with
    | some u, _ => .next u
    | none, some c => .next { t.s with ctx := { t.s.ctx with frozen := some c }, iss := { t.s.iss with fate := .frozen } }
    | none, none => thenNext (runAll exec pc s1 b.slots s1) State.ends

/-- Without a freeze, and with nothing to release, both are the state as the bundle begins. -/
theorem issueBundle_running (hr : s.ctx.releaseHeld = s.ctx) (hz : s.ctx.frozen = none) :
    let s0 := s.begins (s.ctx.pc + BitVec.ofNat 64 (8 * b.len))
    s.issueBundle exec b = issueFrom s.ctx.pc b s0 s0 := by
  have hi : s.issueBundle exec b = issueFrom s.ctx.pc b
      (State.begins { s with ctx := { s.ctx.releaseHeld with frozen := none } } (s.ctx.pc + BitVec.ofNat 64 (8 * b.len)))
      (State.begins { s with ctx := s.ctx.releaseHeld.resume } (s.ctx.pc + BitVec.ofNat 64 (8 * b.len))) := rfl
  rw [hi, hr, resume_running hz, ← hz]

/-- A bundle of one syllable runs the instruction of it. -/
theorem issueFrom_one {pc : Word} (hb : b.slots = [p]) (hx : exec p.instr (s.latch pc p) = .next u)
    (hf : u.iss.fate = .frozen → u.ctx.frozen.isSome = true) : issueFrom pc b s s = .next u.ends := by
  simp only [issueFrom, hb, tryAll_one hx]
  unfold State.ends
  cases hu : u.iss.fate with
  | illegal | moved => rfl
  | issued | fault => simp [runAll, hx, hu, thenNext]
  | frozen =>
    obtain ⟨c, hc⟩ := Option.isSome_iff_exists.1 (hf hu)
    cases hi : u.intact s with
    | true => simp only [if_true, hc, reduceCtorEq, if_false]; rw [← hc, ← hu]
    | false => rfl

theorem intact_begins (s : State) (a : Word) : (s.begins a).intact (s.begins a) = true := by simp [State.intact]

/-- A context with nothing to commit or to wait for issues the bundle at its pc. -/
theorem issueNext_bundle {e : State} {w : Word} (hc : e.ctx.commits = false) (he : e.ctx.empties = 0)
    (hp : ((e.begins e.ctx.pc).codePeer.any fun p => (e.begins e.ctx.pc).rekeying p.home) = false)
    (hw : (e.begins e.ctx.pc).bundleFetched.fetchWord e.ctx.pc = .ok w) (hh : isHall w = false)
    (hd : (e.begins e.ctx.pc).bundleFetched.decodeAt e.ctx.pc = .ok b) :
    e.issueNext exec = thenNext ((e.begins e.ctx.pc).bundleFetched.issueBundle exec b) fun u => u.stepTrap e := by
  have he' : (e.ctx.empties != 0) = false := by simp [he]
  unfold State.bundleFetched at hw hd ⊢
  cases hq : (e.begins e.ctx.pc).codePeer with
  | none | some q =>
    simp only [hq] at hp hw hd
    simp only [State.issueNext, hc, Bool.false_and, Bool.false_eq_true, if_false, intact_begins, Bool.not_true, he', hq, hp, hw, hh, hd]

end bundle

section turn
variable {e v : State} {c : Src} {site : Nat}

/-- The first that may issue takes the wall cycle, or holds it, or is the only one. -/
theorem issueFirst_head {cs : List Src} (hw : e.who = c) (hi : e.issueNext exec = .next v) (hv : v.iss.fate ≠ .frozen ∨ cs = []) :
    (issueFirst exec (c :: cs) e).1 = .next v := by
  have hf : e.focus c = e := if_pos hw.symm
  simp only [issueFirst, hf, hi]
  rcases hv with hv | rfl
  · simp [hv]
  · split
    · rfl
    · split <;> rfl

/-- The turn of a context that may issue. -/
theorem takeTurn_context {s : State} (hs : c.site < 288) (hch : s.chore c = none) (hw : (s.opens exec c.site).who = c)
    (hcand : ((s.opens exec c.site).candidates c.site).head? = some c) (hp : (s.opens exec c.site).heldByPulse c.site = false)
    (hi : (s.opens exec c.site).issueNext exec = .next v) (hv : v.iss.fate ≠ .frozen ∨ (s.opens exec c.site).candidates c.site = [c]) :
    takeTurn exec (.context c) s = .next (v.tick c.site).closeDue := by
  obtain ⟨cs, hcs⟩ := List.head?_eq_some_iff.1 hcand
  have hv' : v.iss.fate ≠ .frozen ∨ cs = [] := hv.imp_right fun h => by simpa [hcs] using h
  have h1 : (wallCycle exec c.site s).1 = thenNext (issueFirst exec (c :: cs) (s.opens exec c.site)).1 fun t => (t.tick c.site).closeDue := by
    rw [wallCycle, hp, ← hcs]; rfl
  have h2 : takeTurn exec (.context c) s = (wallCycle exec c.site s).1 := by
    simp only [takeTurn, if_neg (Nat.not_le.2 hs), hch, hcand, if_true]
  rw [h2, h1, issueFirst_head hw hi hv']; rfl

end turn

/-- Settles O49: the turn of the context reaches the trial and the issue of its one syllable, in that order. -/
theorem stepRunsDecoded : Obligations.StepRunsDecoded := by
  unfold Obligations.StepRunsDecoded
  intro r w b p i u s ht hs hch t e hw hcand hpulse hcom hemp hfro hrel pc f at_ hpeer hword hhall
  refine ⟨?_, fun hstop hn htr hdec => ?_⟩
  · intro hd hb hx hf v hv
    have hctx : at_.ctx = e.ctx := bundleFetched_ctx f
    have hi : at_.issueBundle exec b = .next u.ends := by
      have hpc : at_.ctx.pc = pc := congrArg Ctx.pc hctx
      rw [issueBundle_running (by rw [hctx, hrel]) (by rw [hctx, hfro]), hpc]
      exact issueFrom_one hb hx hf
    have hnext : e.issueNext exec = .next v := by
      rw [issueNext_bundle hcom hemp hpeer hword hhall hd]
      exact congrArg (fun o => thenNext o fun u => u.stepTrap e) hi
    have hstep : step s = takeTurn exec (.context s.who) t := by rw [step, ht]
    rw [hstep]
    exact takeTurn_context hs hch hw hcand hpulse hnext hv
  · have hctx : at_.ctx = e.ctx := bundleFetched_ctx f
    exact decodeAt_one hword hhall hstop (by rw [hctx]; exact hn) htr hdec

end Sys2Proof.Machine
end

section
/-! A tainted block that closes with a return, against the statement about the events of a context. -/

namespace Sys2Proof.Machine

section tainted
variable {s : State} {x : Closing} {syl : Word}

/-- Without an abort token to send, a containment fault changes nothing of the context. -/
theorem contain_ctx (h : (s.part s.ctx.part).tokenMode = false) : (s.contain s.who s.ctx.part syl).ctx = s.ctx := by
  simp only [State.contain, h, Bool.false_eq_true, if_false]
  simp [State.stopPartition, State.setPart, State.report, State.modTile]

/-- The assay of a tainted block ends its task (R387). -/
theorem assay_tainted {rest : List Closing} (hc : s.ctx.closings = x :: rest) (ht : x.blk.taint = some syl)
    (h : (s.part s.ctx.part).tokenMode = false) : s.assay = { s.contain s.who s.ctx.part syl with
      ctx := { s.ctx.discard x.blk with flight := [], pend := [], ending := some .stopped } } := by
  simp only [State.assay, hc, ht, contain_ctx h]

theorem discard_cur (c : Ctx) (b : Block) : (c.discard b).cur = c.cur := by
  obtain ⟨n, l, e⟩ := resume_spec c; simp only [Ctx.discard, e]

theorem discard_ih (c : Ctx) (b : Block) : (c.discard b).ih = c.ih := resume_ih c
theorem discard_saved (c : Ctx) (b : Block) : (c.discard b).saved = c.saved := resume_saved c

theorem discard_tsched (c : Ctx) (b : Block) : (c.discard b).tsched = c.tsched := by
  obtain ⟨n, l, e⟩ := resume_spec c; simp only [Ctx.discard, e]

/-- The return behind the assay of a context's one closing block, which leaves no block and the one in focus begun: it acts (R118). -/
theorem returnNow_acts (hc : s.ctx.closings ≠ []) (ha : s.assay.ctx.closings = []) (hi : s.assay.intact s = true)
    (hn : s.assay.ctx.cur.nb ≠ 0) (hf : s.assay.ctx.flight = []) : s.returnNow =
      ({ s.assay with ctx := Ctx.eret { s.assay.ctx.resume with work := s.assay.ctx.comm } } : State).settleCopies s.assay.who
        s.assay.ctx.comm.rdr := by
  have hu : s.assay.compareAll = s.assay := by
    have hk : ({ s.assay with ctx := { s.assay.ctx with flight := [] } } : State) = s.assay := by rw [← hf]
    rw [State.compareAll, hf]
    exact hk
  rw [State.returnNow, settle_one hc ha, if_pos, hu]
  simp only [hi, ha, List.isEmpty_nil, Bool.and_self, Bool.true_and, bne_iff_ne, ne_eq, hn, not_false_eq_true]

theorem settleCopies_none {c : Src} {rdr : Bool} (h : (s.getTile c.site).jobs = []) : s.settleCopies c rdr = s := by
  rw [State.settleCopies, h]; rfl

end tainted

/-- A result that a trap has kept. -/
def keptFlight : Flight := ⟨1, .x 1, .word 0, 0, false, 0, 0⟩

/-- A tainted block that closes with an `eret`. -/
def taintedReturn : Closing :=
  ⟨{ Ctx.reset.cur with xfer := .eret, taint := some 0 }, Ctx.reset.work, [], 0, 0, 0, 0, false, false⟩

/-- A context with that block closing, one behind it begun, a carry-in kept, and its task already stopped. -/
def stoppedReturn : State :=
  { State.reset with ctx := { Ctx.reset with
      closings := [taintedReturn], cur := { Ctx.reset.cur with nb := 1 }, saved := [keptFlight], ending := some .stopped } }

/-- The return acts there behind the containment, and the carry-in is in flight again. -/
theorem stoppedReturn_flies : keptFlight ∈ stoppedReturn.returnNow.ctx.flight := by
  have ha : stoppedReturn.assay = _ := assay_tainted (x := taintedReturn) (rest := []) rfl rfl rfl
  have hc : stoppedReturn.assay.ctx.closings = [] := by rw [ha]; rfl
  have hi : stoppedReturn.assay.intact stoppedReturn = true := by rw [ha]; rfl
  have hn : stoppedReturn.assay.ctx.cur.nb ≠ 0 := by rw [ha]; exact Nat.one_ne_zero
  have hf : stoppedReturn.assay.ctx.flight = [] := by rw [ha]
  have hj : stoppedReturn.assay.tile.jobs = [] := by rw [ha]; rfl
  rw [returnNow_acts (List.cons_ne_nil _ _) hc hi hn hf, settleCopies_none]
  · refine (eret_noRdr _ ?_).2 _ ?_ ?_
    · rw [ha]; rfl
    · rw [ha]; exact List.mem_singleton.2 rfl
    · rw [ha]; exact Nat.one_pos
  · exact (congrArg Tile.jobs (if_pos rfl)).trans hj

/-- Refutes O42: a tainted block may leave a result in flight. The clause of R387 admits a block that closes with an `eret`; where the task has
ended as stopped before, State.returnNow finds nothing changed behind the containment, and returns: the carry-ins that the trap kept fly again. -/
theorem not_contextEvents : ¬Obligations.ContextEvents := by
  unfold Obligations.ContextEvents
  rintro ⟨-, h⟩
  obtain ⟨-, htaint⟩ := h taintedReturn [] stoppedReturn rfl rfl rfl
  obtain ⟨t, ht, -, -, -, hflight, -⟩ := htaint 0 rfl (by decide)
  have hs : exec .blockCommit stoppedReturn = .next stoppedReturn.returnNow := rfl
  have hmem := stoppedReturn_flies
  rw [hs] at ht
  rw [Host.Outcome.next.inj ht, hflight] at hmem
  exact absurd hmem List.not_mem_nil

end Sys2Proof.Machine
end

section
/-! Stream ports: their instructions, their chunks, and the forms that read or write them. -/

namespace Sys2Proof.Machine

/-! ## The elements of a chunk (R278) -/

theorem leNat_append (a b : List Byte) : leNat (a ++ b) = leNat a + 256 ^ a.length * leNat b := by
  induction a with
  | nil => simp [leNat]
  | cons x a ih => simp only [List.cons_append, leNat, ih, List.length_cons, pow_succ]; ring

theorem leNat_lt (a : List Byte) : leNat a < 256 ^ a.length := by
  induction a with
  | nil => simp [leNat]
  | cons x a ih =>
    have hx : x.toNat < 256 := x.isLt
    rw [leNat, List.length_cons, pow_succ]
    omega

/-- A piece of a number made of pieces of one length. -/
theorem leNat_piece {e : Nat} (l : List (List Byte)) (h : ∀ x ∈ l, x.length = e) (i : Nat) (hi : i < l.length) :
    leNat l.flatten / 256 ^ (e * i) % 256 ^ e = leNat l[i] := by
  induction l generalizing i with
  | nil => exact absurd hi (Nat.not_lt_zero i)
  | cons x l ih =>
    obtain ⟨hx, hl⟩ := List.forall_mem_cons.1 h
    have hlt : leNat x < 256 ^ e := hx ▸ leNat_lt x
    rw [List.flatten_cons, leNat_append, hx]
    cases i with
    | zero => simp [Nat.mod_eq_of_lt hlt]
    | succ i =>
      rw [Nat.mul_succ, pow_add, Nat.mul_comm (256 ^ (e * i)), ← Nat.div_div_eq_div_mul, Nat.add_mul_div_left _ _ (by positivity),
        Nat.div_eq_of_lt hlt, Nat.zero_add]
      exact ih hl i (Nat.lt_of_succ_lt_succ hi)

/-- An element format takes whole bytes. -/
theorem isElement_width {ty : Fmt} (h : ty.isElement = true) : ty.width = 8 * (ty.width / 8) ∧ 0 < ty.width / 8 := by
  cases ty <;> revert h <;> decide

theorem streamElem_fmt {d : Vector Word 5} {ty : Fmt} (h : streamFmt d = some ty) : streamElem d = ty.width / 8 := by
  simp [streamElem, h]

theorem flatMap_length {α : Type} {e : Nat} (l : List α) (g : α → List Byte) (h : ∀ x ∈ l, (g x).length = e) :
    (l.flatMap g).length = l.length * e := by
  rw [List.length_flatMap, sum_lengths g l h]

/-- An element as its lane. -/
def Fmt.elementLane (ty : Fmt) (v : Nat) : Lane := if ty.isSignedInt then ty.put (v : Int) else BitVec.ofNat 32 v

/-- The elements of a row of pieces of one length, one to a lane. -/
theorem elementLanes_get {ty : Fmt} (ht : ty.isElement = true) {α : Type} (l : List α) (g : α → List Byte)
    (h : ∀ x ∈ l, (g x).length = ty.width / 8) (i : Fin 64) :
    (elementLanes ty l.length (leNat (l.flatMap g)))[i] = (l[i.val]?.map fun x => Fmt.elementLane ty (leNat (g x))).getD 0 := by
  obtain ⟨hw, -⟩ := isElement_width ht
  simp only [elementLanes, Fin.getElem_fin, Vector.getElem_ofFn]
  by_cases hi : i.val < l.length
  · have hm : i.val < (l.map g).length := by simpa using hi
    have hp := leNat_piece (l.map g) (fun x hx => by obtain ⟨y, hy, rfl⟩ := List.mem_map.1 hx; exact h y hy) i.val hm
    have h2 : (2 : Nat) ^ ty.width = 256 ^ (ty.width / 8) := by rw [show 256 = 2 ^ 8 from rfl, ← pow_mul, ← hw]
    rw [pow_mul, h2, ← pow_mul, List.flatMap_def, hp, if_pos hi]
    simp [hi, Fmt.elementLane]
  · simp [hi]

section read
variable {s : State} {b : Binding} {n : Nat}

/-- The bytes of the elements of chunk n, as the scratchpad holds them. -/
def State.chunkBytes (s : State) (b : Binding) (n : Nat) : List Byte :=
  (chunkOffsets b.desc n).flatMap fun o => s.bytes s.who.pad o.toNat (streamElem b.desc)

/-- A chunk whose elements stand in the scratchpad and are not held is read now (R278). -/
theorem readChunk_pad (hk : streamKind b.desc = 0)
    (hf : ∀ o ∈ chunkOffsets b.desc n, 0 ≤ o ∧ o + streamElem b.desc ≤ s.padSize s.who.pad)
    (hh : s.readHeld ((chunkOffsets b.desc n).map fun o => (o.toNat, streamElem b.desc)) = false) :
    ∃ c, s.readChunk b n = .ok c ∧ c.bytes = s.chunkBytes b n := by
  have h0 : ¬streamKind b.desc = 1 := by omega
  have hn : (chunkOffsets b.desc n).find? (fun o => decide (o < 0) || decide ((s.padSize s.who.pad : Int) < o + streamElem b.desc)) = none := by
    rw [List.find?_eq_none]
    intro o ho
    obtain ⟨h1, h2⟩ := hf o ho
    simp only [Bool.or_eq_true, decide_eq_true_eq]
    omega
  refine ⟨_, by simp only [State.readChunk, if_neg h0, hn, hh, Bool.false_eq_true, if_false]; rfl, ?_⟩
  simp only [List.flatMap_map, State.chunkBytes]

/-- The lanes of a chunk read from the scratchpad. -/
theorem chunk_lanes {c : ChunkRead} {ty : Fmt} (hc : c.bytes = s.chunkBytes b n) (hf : streamFmt b.desc = some ty) (ht : ty.isElement = true)
    (i : Fin 64) : (c.lanes b.desc)[i] = (((chunkOffsets b.desc n)[i.val]?).map fun o =>
      Fmt.elementLane ty (leNat (s.bytes s.who.pad o.toNat (streamElem b.desc)))).getD 0 := by
  obtain ⟨-, hpos⟩ := isElement_width ht
  have he := streamElem_fmt hf
  have hl : ∀ o ∈ chunkOffsets b.desc n, (s.bytes s.who.pad o.toNat (streamElem b.desc)).length = ty.width / 8 :=
    fun o _ => (bytes_length ..).trans he
  have hn : c.bytes.length / streamElem b.desc = (chunkOffsets b.desc n).length := by
    rw [hc, State.chunkBytes, flatMap_length _ _ hl, he, Nat.mul_div_cancel _ hpos]
  have hc' : c.lanes b.desc = elementLanes ty (chunkOffsets b.desc n).length (leNat (s.chunkBytes b n)) := by
    simp only [ChunkRead.lanes, hf, hn]
    exact congrArg (fun x => elementLanes ty _ (leNat x)) hc
  rw [hc']
  exact elementLanes_get ht _ _ hl i

end read

/-! ## Lanes that are active (R151) -/

section active
variable {vl : Nat} {g : Fin 64 → Lane × Flags}

theorem active_lane (i : Fin 64) : (active vl g).1[i] = if i.val < vl then (g i).1 else 0 := by
  simp only [active, Fin.getElem_fin, Vector.getElem_map, Vector.getElem_ofFn]
  split <;> rfl

theorem foldl_or_bit (l : List (Lane × Flags)) (z : Flags) (c : Nat) :
    (l.foldl (fun a x => a ||| x.2) z).getLsbD c = true ↔ z.getLsbD c = true ∨ ∃ x ∈ l, x.2.getLsbD c = true := by
  induction l generalizing z with
  | nil => simp
  | cons x l ih => rw [List.foldl_cons, ih]; simp [or_assoc]

theorem active_flag (c : Nat) : (active vl g).2.getLsbD c = true ↔ ∃ i : Fin 64, i.val < vl ∧ (g i).2.getLsbD c = true := by
  simp only [active, ← Vector.foldl_toList, foldl_or_bit, BitVec.ofNat_eq_ofNat, BitVec.getLsbD_zero, Bool.false_eq_true, false_or, Vector.mem_toList_iff,
    Vector.mem_ofFn]
  constructor
  · rintro ⟨x, ⟨i, rfl⟩, hx⟩
    by_cases hi : i.val < vl
    · exact ⟨i, hi, by simpa [hi] using hx⟩
    · simp [hi] at hx
  · rintro ⟨i, hi, hx⟩
    exact ⟨_, ⟨i, rfl⟩, by simpa [hi] using hx⟩

/-- Lanes and flags that say what the active lanes give are those. -/
theorem active_unique {L : Lanes} {fl : Flags} (hL : ∀ i : Fin 64, L[i] = if i.val < vl then (g i).1 else 0)
    (hf : ∀ c, fl.getLsbD c = true ↔ ∃ i : Fin 64, i.val < vl ∧ (g i).2.getLsbD c = true) : active vl g = (L, fl) := by
  refine Prod.ext ?_ (BitVec.eq_of_getLsbD_eq fun c _ => Bool.eq_iff_iff.2 ?_)
  · ext1 i hi
    exact (active_lane ⟨i, hi⟩).trans (hL ⟨i, hi⟩).symm
  · rw [active_flag]; exact (hf c).symm

end active

/-! ## The v fields of ports (R274, Table 8.1) -/

/-- The v field of a port. -/
def portField (k : BitVec 3) : BitVec 6 := 24 + k.setWidth 6

theorem portField_toNat : ∀ k : BitVec 3, 24 ≤ (portField k).toNat ∧ (portField k).toNat < 32
    ∧ (portField k).setWidth 3 = k := by decide

theorem portField_low : ∀ k : BitVec 3, (portField k).getLsbD 5 = false := by decide

section port
variable {r : Regs} {k : BitVec 3} {b : Binding} {w : BitVec 6}

/-- A bound port stands in its v field. -/
theorem port_bound (hb : r.ports[k.toNat]'(k.isLt) = some b) : r.port (portField k) = some (k, b) := by
  obtain ⟨h1, h2, h3⟩ := portField_toNat k
  simp only [Regs.port, h1, h2, decide_true, Bool.and_self, if_true, h3, hb, Option.map_some]

/-- The v field of a port names no rotating register. -/
theorem physV_portField (k : BitVec 3) : r.physV (portField k) = portField k := by
  simp only [Regs.physV, portField_low, Bool.false_eq_true, if_false]

/-- Another v field names another register. -/
theorem physV_ne_portField (h : w ≠ portField k) : r.physV w ≠ portField k := by
  unfold Regs.physV
  split
  · intro he
    have h5 := portField_low k
    rw [← he] at h5
    simp only [BitVec.getLsbD_append] at h5
    exact Bool.noConfusion h5
  · exact h

/-- The chunk stands in its field, with its poison; every other register is as it was. -/
theorem withChunk_getV (c : ChunkRead) : (r.withChunk k b c).getV (portField k) = ⟨c.lanes b.desc, 0, c.poison⟩ := by
  have h : (r.withChunk k b c).physV (portField k) = portField k := physV_portField k
  simp only [Regs.getV, h]
  exact Vector.getElem_set_self (xs := r.v) (BitVec.isLt _)

theorem withChunk_getV_other (c : ChunkRead) (h : w ≠ portField k) : (r.withChunk k b c).getV w = r.getV w :=
  Vector.getElem_set_ne (BitVec.isLt _) (BitVec.isLt _) fun he => physV_ne_portField h (BitVec.eq_of_toNat_eq he.symm)

end port

/-! ## Forms whose v fields may denote ports (R274, R278, R279) -/

section issueV
variable {s : State} {f : Form} {body : Regs → List Res} {k : BitVec 3} {b : Binding}

/-- The registers of a form that denote no port. -/
def Form.plainRegs (f : Form) (r : Regs) : List Reg := f.regs.filter fun g => (r.portOf g).isNone

/-- The form that reads a chunk in place of one of its sources: the contribution takes the place of t1 (R168, R278). -/
def Form.reading (f : Form) (r : Regs) : Form := { f with mem := true, srcs := f.srcs.filter fun g => (r.portOf g).isNone }

theorem issueV_misuse (h : f.portMisuse s.ctx.work = true) : s.issueV f body = s.illegal := if_pos h

variable (hm : f.portMisuse s.ctx.work = false) (ha : s.ctx.awaited (f.plainRegs s.ctx.work) = none)
include hm ha

/-- A port that is read, and whose head chunk cannot be taken, stops the form. -/
theorem issueV_stops {ps : List (BitVec 3 × Binding)} {e : Halt} (hs : f.srcs.filterMap s.ctx.work.portOf = (k, b) :: ps)
    (hh : s.headChunk k b (s.ctx.work.admits f.h) = .error e) : s.issueV f body = s.halted e := by
  unfold Form.plainRegs at ha
  simp only [State.issueV, hm, ha, hs, hh, Bool.false_eq_true, if_false, List.head?_cons]

variable {ps : List (BitVec 3 × Binding)} {n : Nat} {c : ChunkRead} (hs : f.srcs.filterMap s.ctx.work.portOf = (k, b) :: ps)
include hs

/-- Without effect it folds, and pops nothing. -/
theorem issueV_guarded (hg : s.ctx.work.admits f.h = false) (hh : s.headChunk k b false = .ok (some (n, c))) :
    s.issueV f body = s.folded ((f.reading s.ctx.work).steps s.ctx.work (c.con s.ctx.work b).m) (c.con s.ctx.work b) := by
  unfold Form.plainRegs at ha
  simp only [State.issueV, hm, ha, hs, hg, hh, Bool.false_eq_true, if_false, List.head?_cons, Bool.not_false, if_true]
  rfl

/-- With effect the chunk is popped, and the form sees it in its register. -/
theorem issueV_reads (hg : s.ctx.work.admits f.h = true) (hh : s.headChunk k b true = .ok (some (n, c)))
    (hd : f.dests.filterMap s.ctx.work.portOf = []) :
    let g := f.reading s.ctx.work
    let con := c.con s.ctx.work b
    let view := s.ctx.work.withChunk k b c
    s.issueV f body = ((s.pop k b n).folded (g.steps s.ctx.work con.m) con).deliver g s.ctx.work
      { s := s.pop k b n, res := body view, con := con, poison := f.poison view } := by
  unfold Form.plainRegs at ha
  simp only [State.issueV, hm, ha, hs, hg, hh, hd, Bool.false_eq_true, if_false, List.head?_cons, List.head?_nil, Bool.not_true, if_true]
  rfl

end issueV

section written
variable {s : State} {f : Form} {body : Regs → List Res} {k : BitVec 3} {b : Binding}
  (hm : f.portMisuse s.ctx.work = false) (ha : s.ctx.awaited (f.plainRegs s.ctx.work) = none)
  (hs : f.srcs.filterMap s.ctx.work.portOf = []) (hg : s.ctx.work.admits f.h = true)
  {ps : List (BitVec 3 × Binding)} (hd : f.dests.filterMap s.ctx.work.portOf = (k, b) :: ps)
  {x : Res} {xs : List Res} (hx : body s.ctx.work = x :: xs)
include hm ha hs hg hd hx

/-- A result for a write port is pushed there. -/
theorem issueV_pushes {t : State} (hp : s.push k b x (f.tag s.ctx.work 0 0) (f.poison s.ctx.work) = .ok t) :
    s.issueV f body = t.folded (f.steps s.ctx.work 0) noCon := by
  unfold Form.plainRegs at ha
  simp only [State.issueV, hm, ha, hs, hg, hd, hx, hp, Bool.false_eq_true, if_false, List.head?_cons, List.head?_nil, Bool.not_true, noCon]

/-- A result that the port does not take stops the form. -/
theorem issueV_push_stops {e : Halt} (hp : s.push k b x (f.tag s.ctx.work 0 0) (f.poison s.ctx.work) = .error e) :
    s.issueV f body = s.halted e := by
  unfold Form.plainRegs at ha
  simp only [State.issueV, hm, ha, hs, hg, hd, hx, hp, Bool.false_eq_true, if_false, List.head?_cons, List.head?_nil, Bool.not_true, noCon]

end written

/-! ## The head chunk (R278) -/

section head
variable {s : State} {k : BitVec 3} {b : Binding} {n : Nat}

theorem headChunk_taken {c : ChunkRead} (hn : b.head = some n) (hc : s.takeChunk k b n = .ok c) (eff : Bool) :
    s.headChunk k b eff = .ok (some (n, c)) := by
  simp only [State.headChunk, hn, hc]

theorem headChunk_absent (hn : b.head = some n) (hc : s.takeChunk k b n = .error .absent) (eff : Bool) :
    s.headChunk k b eff = .error (.freeze .readPort) := by
  simp only [State.headChunk, hn, hc]

theorem headChunk_end (hn : b.head = none) : s.headChunk k b true = .error (.error 0x01 (b.off.setWidth 64)) := by
  simp only [State.headChunk, hn, if_true]

/-- An error response is logged, and then taken (R197). -/
theorem error_enters (h : s.trapsEnter) (detail : BitVec 8) (v : Word) :
    (s.logError s.ctx.part v 2).entersHandler (s.halted (.error detail v)) 0x0A detail v := by
  have hr : s.halted (.error detail v) = (s.logError s.ctx.part v 2).raise 0x0A detail v false := by
    have h' : (s.logError s.ctx.part v 2).ctx.closings = [] := h.1
    simp only [State.halted, State.raise, walking_nil h.1, settle_nil h.1, walking_nil h', settle_nil h', intact_self, if_true,
      Bool.false_eq_true, if_false]
    rfl
  rw [hr]
  exact raise_enters (s := s.logError s.ctx.part v 2) h 0x0A detail v

/-- The pieces of a chunk are its elements. -/
theorem chunkPieces_size (d : Vector Word 5) (n : Nat) (l : Lanes) :
    (chunkPieces d n l).foldl (fun n p => n + p.2.length) 0 = (chunkOffsets d n).length * streamElem d := by
  have hf (ps : List (Nat × List Byte)) (z : Nat) : ps.foldl (fun n p => n + p.2.length) z = z + (ps.map fun p => p.2.length).sum := by
    induction ps generalizing z with
    | nil => rfl
    | cons p ps ih => rw [List.foldl_cons, ih, List.map_cons, List.sum_cons, Nat.add_assoc]
  have hl : ∀ p ∈ chunkPieces d n l, p.2.length = streamElem d := by
    intro p hp
    obtain ⟨i, hi, rfl⟩ := List.mem_mapIdx.1 hp
    exact leBytes_length ..
  rw [hf, Nat.zero_add, sum_lengths _ _ hl, chunkPieces, List.length_mapIdx]

/-- The address and the bytes of a pushed chunk, as the digest takes them (R383). -/
def chunkDigest (ps : List (Nat × List Byte)) : Word × List (Nat × Byte) :=
  (digestAddr .loc (BitVec.ofNat 64 ((ps.map (·.1)).headD 0)), ps.flatMap fun p => p.2.mapIdx fun i y => (p.1 + i, y))

section push
variable {lat : Nat} {L : Lanes} {fl : Flags} {tag : Tag} {p : Bool} (hn : b.head = some n)
  (hf : ∀ o ∈ chunkOffsets b.desc n, 0 ≤ o ∧ o + streamElem b.desc ≤ s.padSize s.who.pad)
  (hb : s.ctx.cur.bytes + streamLanes b.desc * streamElem b.desc ≤ 4096)
include hn hf hb

theorem push_eq : s.push k b ⟨lat, .lanes L, fl⟩ tag p =
    if 4096 < s.drainBytes k + (chunkOffsets b.desc n).length * streamElem b.desc then .error (.freeze .writePort)
    else .ok (State.inFlight { s with ctx := { s.ctx with
      work := { s.ctx.work with ports := s.ctx.work.ports.set k.toNat (some { b with pos := n + 1 }) k.isLt }
      cur := { s.ctx.cur with
        touched := s.ctx.cur.touched ++ [k]
        bytes := s.ctx.cur.bytes + streamLanes b.desc * streamElem b.desc
        pushes := s.ctx.cur.pushes ++ [⟨s.ctx.sclk + lat, k, chunkPieces b.desc n L, tag, s.ctx.work.ws, p⟩]
        digest := s.ctx.cur.digest ++ [chunkDigest (chunkPieces b.desc n L)] } } } lat .flagsOnly .none 0 false fl) := by
  have ho : (chunkOffsets b.desc n).find? (fun o => decide (o < 0) || decide ((s.padSize s.who.pad : Int) < o + streamElem b.desc)) = none := by
    rw [List.find?_eq_none]
    intro o ho
    obtain ⟨h1, h2⟩ := hf o ho
    simp only [Bool.or_eq_true, decide_eq_true_eq]
    omega
  have hl : s.bytesFull (streamLanes b.desc * streamElem b.desc) = none := if_pos hb
  simp only [State.push, hn, ho, hl, chunkPieces_size]
  rfl

end push

end head

/-! ## Lane-wise forms of two sources with a port (R274, R278, R279) -/

section forms
variable {s : State} {h : Hdr} {major : BitVec 8} {lat : Nat} {f : Fin 64 → Lane → Lane → Lane × Flags} {k : BitVec 3} {b : Binding}
  {u w : BitVec 6}

/-- What a lane-wise form of two sources gives, from the registers as it sees them. -/
def pairResult (lat : Nat) (f : Fin 64 → Lane → Lane → Lane × Flags) (x y : BitVec 6) (r : Regs) : List Res :=
  laneRes lat (active r.vl.toNat fun l => f l (r.lanes x)[l] (r.lanes y)[l])

/-- A lane-wise form of two sources. -/
def State.pairwise (s : State) (h : Hdr) (major : BitVec 8) (lat : Nat) (f : Fin 64 → Lane → Lane → Lane × Flags) (d x y : BitVec 6) : State :=
  s.issueV (formV h major d [x, y]) (pairResult lat f x y)

variable (hb : s.ctx.work.ports[k.toNat]'(k.isLt) = some b) (hp : s.noPorts [u, w])

theorem portOf_none (hp : s.noPorts [u, w]) : s.ctx.work.portOf (.v u) = none ∧ s.ctx.work.portOf (.v w) = none :=
  ⟨hp u (by simp), hp w (by simp)⟩

section
include hb

theorem pairwise_reads_dest (hr : writePort b = false) : s.pairwise h major lat f (portField k) u w = s.illegal := by
  have hq : s.ctx.work.portOf (.v (portField k)) = some (k, b) := port_bound hb
  refine issueV_misuse ?_
  simp only [Form.portMisuse, formV, List.filterMap_cons, hq, List.filterMap_nil, List.any_cons, hr, Bool.not_false, Bool.true_or]

theorem pairwise_reads_two :
    s.pairwise h major lat f u (portField k) (portField k) = s.illegal := by
  have hq : s.ctx.work.portOf (.v (portField k)) = some (k, b) := port_bound hb
  refine issueV_misuse ?_
  simp [Form.portMisuse, formV, hq]

theorem pairwise_writes_source (hr : writePort b = true) : s.pairwise h major lat f u (portField k) w = s.illegal := by
  have hq : s.ctx.work.portOf (.v (portField k)) = some (k, b) := port_bound hb
  refine issueV_misuse ?_
  simp [Form.portMisuse, formV, hq, hr]

end

include hb hp

theorem noPorts_ne : w ≠ portField k := by
  rintro rfl
  exact absurd ((portOf_none hp).2.symm.trans (port_bound hb)) (by simp)

section reads
variable (hr : writePort b = false) (ha : s.ctx.awaited [.p h.guard, .v w, .v u] = none)

theorem readForm_fine (hr : writePort b = false) : (formV h major u [portField k, w]).portMisuse s.ctx.work = false := by
  have hq : s.ctx.work.portOf (.v (portField k)) = some (k, b) := port_bound hb
  obtain ⟨hu, hw⟩ := portOf_none hp
  simp [Form.portMisuse, formV, hq, hu, hw, hr]

theorem readForm_plain : (formV h major u [portField k, w]).plainRegs s.ctx.work = [.p h.guard, .v w, .v u] := by
  have hq : s.ctx.work.portOf (.v (portField k)) = some (k, b) := port_bound hb
  have hg : s.ctx.work.portOf (.p h.guard) = none := rfl
  obtain ⟨hu, hw⟩ := portOf_none hp
  simp [Form.plainRegs, Form.regs, formV, hq, hu, hw, hg]

theorem readForm_port : (formV h major u [portField k, w]).srcs.filterMap s.ctx.work.portOf = [(k, b)] := by
  have hq : s.ctx.work.portOf (.v (portField k)) = some (k, b) := port_bound hb
  simp [formV, hq, (portOf_none hp).2]

theorem readForm_reading : (formV h major u [portField k, w]).reading s.ctx.work =
    { h := h, major := major, srcs := [.v w], dests := [.v u], mem := true } := by
  have hq : s.ctx.work.portOf (.v (portField k)) = some (k, b) := port_bound hb
  simp [Form.reading, formV, hq, (portOf_none hp).2]

include hr ha

theorem pairwise_stops {e : Halt} (hh : s.headChunk k b (s.ctx.work.admits h) = .error e) :
    s.pairwise h major lat f u (portField k) w = s.halted e :=
  issueV_stops (readForm_fine hb hp hr) (by rw [readForm_plain hb hp]; exact ha) (readForm_port hb hp) hh

variable {n : Nat} {c : ChunkRead} (hn : b.head = some n) (hc : s.takeChunk k b n = .ok c)
include hn hc

/-- With a false guard the form folds with the chunk's contribution, and pops nothing. -/
theorem pairwise_folds (hg : s.ctx.work.admits h = false) :
    let con := contribution (s.ctx.work.stamp (streamSsel b.desc)) c.gs
    s.pairwise h major lat f u (portField k) w =
      s.folded [destTag h major con.m (s.ctx.work.tagOf (.v w)) 0 0] con := by
  have hi := issueV_guarded (body := pairResult lat f (portField k) w) (readForm_fine (major := major) hb hp hr)
    (by rw [readForm_plain hb hp]; exact ha) (readForm_port hb hp) hg (headChunk_taken hn hc false)
  rw [readForm_reading hb hp] at hi
  exact hi

omit hr ha hn hc in
/-- The poison of a form that reads a chunk: the chunk's, the register's and the guard's. -/
theorem readForm_poison (c : ChunkRead) : (formV h major u [portField k, w]).poison (s.ctx.work.withChunk k b c)
    = (s.ctx.work.guardPoison h || (c.poison || (s.ctx.work.getV w).poison)) := by
  have hw := noPorts_ne hb hp
  simp only [Form.poison, formV, List.map_cons, List.map_nil, List.append_nil, Option.toList, List.any_cons, List.any_nil, Regs.poisonOf,
    withChunk_getV, withChunk_getV_other c hw, Bool.not_false, Bool.true_and, Bool.or_false]
  rfl

omit hr ha hn hc in
/-- What the form gives from a chunk in place of its first source. -/
theorem readForm_result (c : ChunkRead) : pairResult lat f (portField k) w (s.ctx.work.withChunk k b c)
    = laneRes lat (active s.vl fun l => f l (c.lanes b.desc)[l] (s.vval w)[l]) := by
  have hw := noPorts_ne hb hp
  simp only [pairResult, Regs.lanes, withChunk_getV, withChunk_getV_other c hw]
  rfl

/-- With effect the chunk is popped, and stands in its field. -/
theorem pairwise_pops (hg : s.ctx.work.admits h = true) {L : Lanes} {fl : Flags}
    (hL : active s.vl (fun l => f l (c.lanes b.desc)[l] (s.vval w)[l]) = (L, fl)) :
    let con := contribution (s.ctx.work.stamp (streamSsel b.desc)) c.gs
    let tag := destTag h major con.m (s.ctx.work.tagOf (.v w)) 0 0
    s.pairwise h major lat f u (portField k) w = ((s.pop k b n).folded [tag] con).inFlight lat (s.ctx.work.destOf (.v u)) (.lanes L) tag
      (c.poison || s.poisonFrom h [.v w]) fl := by
  intro con tag
  have hi := issueV_reads (body := pairResult lat f (portField k) w) (readForm_fine (major := major) hb hp hr)
    (by rw [readForm_plain hb hp]; exact ha) (readForm_port hb hp) hg (headChunk_taken hn hc true) (by simp [formV, (portOf_none hp).1])
  dsimp only at hi
  rw [readForm_reading hb hp, readForm_poison hb hp, readForm_result hb hp, hL, deliver_eq] at hi
  have hpoison : (s.ctx.work.guardPoison h || (c.poison || (s.ctx.work.getV w).poison) || s.poisonFrom h [.v w])
      = (c.poison || s.poisonFrom h [.v w]) := by
    have hw : s.poisonFrom h [.v w] = (s.ctx.work.guardPoison h || ((s.ctx.work.getV w).poison || false)) := rfl
    rw [hw]; grind
  rw [← hpoison]
  exact hi

end reads

section writes
variable (hr : writePort b = true) (hi : s.mayIssue h [.v u, .v w])

theorem writeForm_fine (hr : writePort b = true) : (formV h major (portField k) [u, w]).portMisuse s.ctx.work = false := by
  have hq : s.ctx.work.portOf (.v (portField k)) = some (k, b) := port_bound hb
  obtain ⟨hu, hw⟩ := portOf_none hp
  simp [Form.portMisuse, formV, hq, hu, hw, hr]

theorem writeForm_plain : (formV h major (portField k) [u, w]).plainRegs s.ctx.work = [.p h.guard, .v u, .v w] := by
  have hq : s.ctx.work.portOf (.v (portField k)) = some (k, b) := port_bound hb
  have hg : s.ctx.work.portOf (.p h.guard) = none := rfl
  obtain ⟨hu, hw⟩ := portOf_none hp
  simp [Form.plainRegs, Form.regs, formV, hq, hu, hw, hg]

omit hb in
theorem writeForm_sources : (formV h major (portField k) [u, w]).srcs.filterMap s.ctx.work.portOf = [] := by
  obtain ⟨hu, hw⟩ := portOf_none hp
  simp [formV, hu, hw]

omit hp in
theorem writeForm_port : (formV h major (portField k) [u, w]).dests.filterMap s.ctx.work.portOf = [(k, b)] := by
  have hq : s.ctx.work.portOf (.v (portField k)) = some (k, b) := port_bound hb
  simp [formV, hq]

omit hb hp in
theorem writeForm_poison (d : BitVec 6) : (formV h major d [u, w]).poison s.ctx.work = s.poisonFrom h [.v u, .v w] := by
  simp [Form.poison, formV, State.poisonFrom]

include hr hi
variable {n : Nat} (hn : b.head = some n)
  (hf : ∀ o ∈ chunkOffsets b.desc n, 0 ≤ o ∧ o + streamElem b.desc ≤ s.padSize s.who.pad)
  (hs : s.ctx.cur.bytes + streamLanes b.desc * streamElem b.desc ≤ 4096)
include hn hf hs

/-- A result enters the block's pushes (R279). -/
theorem pairwise_pushes (hd : s.drainBytes k + (chunkOffsets b.desc n).length * streamElem b.desc ≤ 4096) {L : Lanes} {fl : Flags}
    (hL : active s.vl (fun l => f l (s.vval u)[l] (s.vval w)[l]) = (L, fl)) :
    let tag := s.tagFrom h major [.v u, .v w]
    s.pairwise h major lat f (portField k) u w = State.inFlight { s with ctx := { s.ctx with
      work := { s.ctx.work with ports := s.ctx.work.ports.set k.toNat (some { b with pos := n + 1 }) k.isLt }
      cur := { s.ctx.cur with
        touched := s.ctx.cur.touched ++ [k]
        bytes := s.ctx.cur.bytes + streamLanes b.desc * streamElem b.desc
        pushes := s.ctx.cur.pushes ++ [⟨s.ctx.sclk + lat, k, chunkPieces b.desc n L, tag, s.ctx.work.ws, s.poisonFrom h [.v u, .v w]⟩]
        digest := s.ctx.cur.digest ++ [chunkDigest (chunkPieces b.desc n L)]
        lf := foldStep s.ctx.cur.lf tag } } } lat .flagsOnly .none 0 false fl := by
  intro tag
  have hb' : pairResult lat f u w s.ctx.work = [⟨lat, .lanes L, fl⟩] :=
    (congrArg (laneRes lat) hL : _)
  have ht : (formV h major (portField k) [u, w]).tag s.ctx.work 0 0 = tag := form_tag s _ rfl rfl
  have hsteps : (formV h major (portField k) [u, w]).steps s.ctx.work 0 = [tag] := by rw [← ht]; rfl
  have hpush := push_eq (k := k) (lat := lat) (L := L) (fl := fl) (tag := tag) (p := s.poisonFrom h [.v u, .v w]) hn hf hs
  rw [if_neg (Nat.not_lt.2 hd)] at hpush
  refine (issueV_pushes (writeForm_fine hb hp hr) (by rw [writeForm_plain hb hp]; exact hi.2) (writeForm_sources hp) hi.1 (writeForm_port hb)
    hb' (by rw [ht, writeForm_poison]; exact hpush)).trans ?_
  rw [hsteps, folded_noCon]
  rfl

/-- Where the drain buffer has no room, the bundle waits (R279). -/
theorem pairwise_drains (hd : 4096 < s.drainBytes k + (chunkOffsets b.desc n).length * streamElem b.desc) (hc : s.ctx.closings = []) :
    s.pairwise h major lat f (portField k) u w = s.waitsFor .writePort := by
  have ht : (formV h major (portField k) [u, w]).tag s.ctx.work 0 0 = s.tagFrom h major [.v u, .v w] := form_tag s _ rfl rfl
  have hpush := push_eq (k := k) (lat := lat) (L := (active s.vl fun l => f l (s.vval u)[l] (s.vval w)[l]).1)
    (fl := (active s.vl fun l => f l (s.vval u)[l] (s.vval w)[l]).2) (tag := s.tagFrom h major [.v u, .v w])
    (p := s.poisonFrom h [.v u, .v w]) hn hf hs
  rw [if_pos hd] at hpush
  refine (issueV_push_stops (writeForm_fine hb hp hr) (by rw [writeForm_plain hb hp]; exact hi.2) (writeForm_sources hp) hi.1
    (writeForm_port hb) rfl (by rw [ht, writeForm_poison]; exact hpush)).trans ?_
  exact freeze_nil hc .writePort

end writes

end forms

/-! ## `sbind`, `sunbind` and `sadv` (R276, R277) -/

section binding
variable {h : Hdr} {k : BitVec 3} {s1 : BitVec 6} {n : BitVec 12} {s : State}

theorem portTouched_iff : s.portTouched k = true ↔ k ∈ s.ctx.cur.touched := by simp [State.portTouched]

theorem sbind_touched (ht : k ∈ s.ctx.cur.touched) : exec (.sbind h k s1) s = .next s.illegal := by
  show execSbind h k s1 s = _
  rw [execSbind, portTouched_iff.2 ht]
  exact congrArg Host.Outcome.next (issue_illegal ..)

theorem unbound_illegal (ht : k ∈ s.ctx.cur.touched ∨ s.ctx.work.ports[k.toNat]'(k.isLt) = none) :
    exec (.sunbind h k) s = .next s.illegal ∧ exec (.sadv h k n) s = .next s.illegal := by
  have hx : (s.portTouched k || (s.binding k).isNone) = true := by
    rcases ht with ht | ht
    · rw [portTouched_iff.2 ht]; rfl
    · have hb : s.binding k = none := ht
      rw [hb]; exact Bool.or_true _
  constructor
  · show execSunbind h k s = _
    rw [execSunbind, hx]
    exact congrArg Host.Outcome.next (issue_illegal ..)
  · show execSadv h k n s = _
    simp only [execSadv, hx]
    exact congrArg Host.Outcome.next (issue_illegal ..)

/-- A descriptor of the scratchpad without fault binds its port at the end of the bundle. -/
theorem sbind_binds (ht : k ∉ s.ctx.cur.touched) (hi : s.mayIssue h [.x s1]) (hl : s.localOk (s.xval s1) 40 8) :
    let off := localOff (s.xval s1)
    let desc : Vector Word 5 := Vector.ofFn fun i : Fin 5 => s.localWord (off + 8 * i.val)
    s.readHeld [(off, 40)] = false → streamBad desc = none →
    exec (.sbind h k s1) s = .next ((s.loadsGranules off 40).atEnd (.bind k ⟨desc, BitVec.ofNat 22 off, 0⟩)) := by
  intro off desc hh hbad
  have hf : s.portTouched k = false := by rw [← Bool.not_eq_true, portTouched_iff]; exact ht
  show execSbind h k s1 s = _
  simp only [execSbind, hf, locate_loc .read hl]
  simp only [off, desc] at hh hbad
  simp only [hh, hbad, Bool.false_eq_true, if_false]
  exact congrArg Host.Outcome.next (issue_none hi _)

section bound
variable {b : Binding} (ht : k ∉ s.ctx.cur.touched) (hi : s.mayIssue h []) (hb : s.ctx.work.ports[k.toNat]'(k.isLt) = some b)
include ht hi hb

omit hi in
theorem bound_fine : (s.portTouched k || (s.binding k).isNone) = false := by
  have hf : s.portTouched k = false := by rw [← Bool.not_eq_true, portTouched_iff]; exact ht
  have hb' : s.binding k = some b := hb
  rw [hf, hb']; rfl

theorem sunbind_unbinds : exec (.sunbind h k) s = .next (s.atEnd (.unbind k)) := by
  show execSunbind h k s = _
  rw [execSunbind, bound_fine ht hb]
  exact congrArg Host.Outcome.next (issue_none (rs := []) hi _)

theorem sadv_advances (hn : streamWrap b.desc = true ∨ b.pos + n.toNat ≤ streamChunks b.desc) :
    exec (.sadv h k n) s = .next (s.atEnd (.advance k n.toNat)) := by
  have hb' : s.binding k = some b := hb
  have hw : ¬(!streamWrap b.desc && decide (streamChunks b.desc < b.pos + n.toNat)) = true := by
    rcases hn with hn | hn
    · simp [hn]
    · simp [Nat.not_lt.2 hn]
  have hx := bound_fine ht hb
  rw [hb'] at hx
  show execSadv h k n s = _
  simp only [execSadv, hb', hx, if_neg hw]
  exact congrArg Host.Outcome.next (issue_none (rs := []) hi _)

end bound

end binding

/-- The two-source lane-wise forms that the statement names, each with its major, its latency and its lanes. -/
def PairForm (h : Hdr) (m : VMod) (form : BitVec 6 → BitVec 6 → BitVec 6 → Instr) (major : BitVec 8) (lat : Nat)
    (f : Fin 64 → Lane → Lane → Lane × Flags) : Prop :=
  (form = Instr.vadd h m ∧ major = 0x01 ∧ lat = arithLat m 3 ∧ f = fun i y z => arith2 m i Ex.add (· + ·) y z)
    ∨ (form = Instr.vand h ∧ major = 0x0C ∧ lat = 2 ∧ f = fun _ y z => (y &&& z, 0))
    ∨ (form = Instr.vor h ∧ major = 0x0D ∧ lat = 2 ∧ f = fun _ y z => (y ||| z, 0))
    ∨ (form = Instr.vxor h ∧ major = 0x0E ∧ lat = 2 ∧ f = fun _ y z => (y ^^^ z, 0))

theorem exec_pair {h : Hdr} {m : VMod} {form : BitVec 6 → BitVec 6 → BitVec 6 → Instr} {major : BitVec 8} {lat : Nat}
    {f : Fin 64 → Lane → Lane → Lane × Flags} (hform : PairForm h m form major lat f) (d x y : BitVec 6) (s : State) :
    exec (form d x y) s = .next (s.pairwise h major lat f d x y) := by
  rcases hform with ⟨rfl, rfl, rfl, rfl⟩ | ⟨rfl, rfl, rfl, rfl⟩ | ⟨rfl, rfl, rfl, rfl⟩ | ⟨rfl, rfl, rfl, rfl⟩ <;> rfl

/-- Settles O26: the port instructions by their issue, a chunk by its elements, and a form by the port that it reads or writes. -/
theorem streamForms : Obligations.StreamForms := by
  unfold Obligations.StreamForms
  refine ⟨fun h k s1 n s => ?_, fun h m k b u w s hp hb => ?_⟩
  · exact ⟨sbind_binds, fun ht hi b hb => ⟨sunbind_unbinds ht hi hb, sadv_advances ht hi hb⟩, fun ht => sbind_touched (Classical.not_not.1 ht),
      fun ht => unbound_illegal (ht.imp_left Classical.not_not.1)⟩
  · intro q r x e moved fits lane
    refine ⟨fun n ty hk hf ht hfit hh => ?_, fun form major lat f hform => ?_⟩
    · obtain ⟨c, hc, hbytes⟩ := readChunk_pad hk hfit hh
      refine ⟨c, hc, fun i => (chunk_lanes hbytes hf ht i).trans ?_⟩
      cases (chunkOffsets b.desc n)[i.val]? <;> rfl
    · have hx := exec_pair hform
      intro gives
      refine ⟨fun hr => ⟨?_, ?_, fun ha => ⟨fun n c hn hc => ?_, fun n hn hc hcl => ?_, fun hn hg htr => ?_⟩⟩,
        fun hr => ⟨?_, fun hi n hn hfit hs => ⟨fun hd L fl hL => ?_, fun hd hcl => ?_⟩⟩⟩
      · rw [hx]; exact congrArg Host.Outcome.next (pairwise_reads_dest hb hr)
      · rw [hx]; exact congrArg Host.Outcome.next (pairwise_reads_two hb)
      · intro con tag folds
        refine ⟨fun hg L fl hL => ?_, fun hg => ?_⟩
        · rw [hx]
          exact congrArg Host.Outcome.next (pairwise_pops hb hp hr ha hn hc hg (active_unique hL.1 hL.2))
        · rw [hx]
          exact congrArg Host.Outcome.next (pairwise_folds hb hp hr ha hn hc hg)
      · rw [hx]
        exact congrArg Host.Outcome.next ((pairwise_stops hb hp hr ha (headChunk_absent hn hc _)).trans (freeze_nil hcl _))
      · refine ⟨_, (hx ..).trans (congrArg Host.Outcome.next (pairwise_stops hb hp hr ha ?_)), error_enters htr _ _⟩
        have hg' : s.ctx.work.admits h = true := hg
        rw [hg']; exact headChunk_end hn
      · rw [hx]; exact congrArg Host.Outcome.next (pairwise_writes_source hb hr)
      · refine ⟨chunkDigest (chunkPieces b.desc n L), (hx ..).trans (congrArg Host.Outcome.next ?_)⟩
        exact pairwise_pushes hb hp hr hi hn hfit hs hd (active_unique hL.1 hL.2)
      · rw [hx]; exact congrArg Host.Outcome.next (pairwise_drains hb hp hr hi hn hfit hs hd hcl)

end Sys2Proof.Machine
end

section
/-! The elements of an I4X operand. -/

namespace Sys2Proof.Machine

/-- Every byte gives two elements, in the order of the bytes. -/
theorem intElems_i4x_get (bs : List Byte) : ∀ (k : Nat) (b : Byte), bs[k]? = some b →
    (intElems .i4x bs)[2 * k]? = some (i4xPair b).1 ∧ (intElems .i4x bs)[2 * k + 1]? = some (i4xPair b).2 := by
  induction bs with
  | nil => intro k b h; simp at h
  | cons c r ih =>
    intro k b h
    have hc : intElems .i4x (c :: r) = (i4xPair c).1 :: (i4xPair c).2 :: intElems .i4x r := rfl
    cases k with
    | zero => obtain rfl : c = b := by simpa using h
              simp [hc]
    | succ k =>
      have hk := ih k b (by simpa using h)
      rw [hc, Nat.mul_succ]
      simpa using hk

/-- An outlier of high nibble `hi`: 8 × 2^(2j − 9), where j is the low bits of `hi`, with the sign of its top bit. -/
theorem outlier_exact : ∀ hi : BitVec 4, Fmt.f8e4.exact (hi ++ (8 : BitVec 4)).toNat
    = .fin (hi.getLsbD 3) 8 (2 * ((hi.extractLsb' 0 3).toNat : Int) - 9) := by decide

/-- The same outlier, scaled by 2^6: a power of four. -/
theorem outlier_pair : ∀ hi : BitVec 4, i4xPair (hi ++ (8 : BitVec 4))
    = ((if hi.getLsbD 3 then -1 else 1) * 4 ^ (hi.extractLsb' 0 3).toNat, 0) := by decide

theorem outlier_bits : ∀ hi : BitVec 4, (hi ++ (8 : BitVec 4)).extractLsb' 0 3 = 0 ∧ (hi ++ (8 : BitVec 4)).getLsbD 3 = true := by decide

theorem byte_nibbles (b : Byte) : b = b.extractLsb' 4 4 ++ b.extractLsb' 0 4 := by
  refine BitVec.eq_of_getLsbD_eq fun i hi => ?_
  simp only [BitVec.getLsbD_append, BitVec.getLsbD_extractLsb', Nat.zero_add]
  by_cases h : i < 4
  · simp [h]
  · have h4 : 4 + (i - 4) = i := by omega
    simp [h, h4, show i - 4 < 4 by omega]

/-- A nibble by sign; −8 is the outliers' alone. -/
theorem nibble_range : ∀ x : BitVec 4, -8 ≤ x.toInt ∧ x.toInt ≤ 7 ∧ (x ≠ 8 → -7 ≤ x.toInt) := by decide

/-- Settles O60: an outlier by its high nibble, every other byte by its two nibbles. -/
theorem i4xElements : Obligations.I4xElements := by
  unfold Obligations.I4xElements
  refine ⟨intElems_i4x_get, fun b => ?_⟩
  intro lo hi
  refine ⟨fun hlo => ?_, fun hlo => ?_⟩
  · have hb : b = hi ++ (8 : BitVec 4) := (byte_nibbles b).trans (congrArg (hi ++ ·) hlo)
    have hpair := outlier_pair hi
    have hexact := outlier_exact hi
    have hbits := outlier_bits hi
    rw [← hb] at hpair hexact hbits
    generalize (hi.extractLsb' 0 3).toNat = j at hpair hexact
    refine ⟨by rw [hpair], hbits.1, hbits.2, ⟨j, ?_⟩, hi.getLsbD 3, 8, 2 * (j : Int) - 9, hexact, by omega, ?_⟩
    · rw [hpair]
      cases hi.getLsbD 3
      · exact .inl (one_mul _)
      · exact .inr (neg_one_mul _)
    · have he : (2 * (j : Int) - 9 + 26).toNat = 2 * j + 17 := by omega
      rw [hpair, he, pow_add, pow_mul]
      ring
  · obtain ⟨h1, h2, h3⟩ := nibble_range lo
    obtain ⟨h4, h5, -⟩ := nibble_range hi
    exact ⟨if_neg hlo, h3 hlo, h2, h4, h5⟩

end Sys2Proof.Machine
end

section
/-! The values of read-modify-write operations (R233, R234). -/

namespace Sys2Proof.Machine

/-! ## Integers of N bits (R123, R128) -/

theorem fmt_width_le (ty : Fmt) : ty.width ≤ 64 := by cases ty <;> decide

/-- An element of N bits as an operand. -/
theorem opnd_ofNat {ty : Fmt} {v : Nat} (h : v < 2 ^ ty.width) : ty.opnd (BitVec.ofNat 64 v) = intOf ty.isSignedInt ty.width v := by
  have h64 : v < 2 ^ 64 := h.trans_le (Nat.pow_le_pow_right (by decide) (fmt_width_le ty))
  rw [Fmt.opnd, BitVec.toNat_ofNat, Nat.mod_eq_of_lt h64]

/-- The integer of N bits is the number itself modulo 2^N. -/
theorem intOf_emod (signed : Bool) (N w : Nat) : intOf signed N w % (2 ^ N : Int) = (w : Int) % 2 ^ N := by
  simp only [intOf]
  split <;> simp

theorem elemNat_add (ty : Fmt) (signed : Bool) (a d : Nat) :
    elemNat ty (intOf signed ty.width a + intOf signed ty.width d) = (a + d) % 2 ^ ty.width := by
  rw [elemNat, Int.add_emod, intOf_emod, intOf_emod, ← Int.add_emod]
  exact_mod_cast Int.toNat_natCast ((a + d) % 2 ^ ty.width)

/-- The count of zero bits below the lowest set bit: the bits below it are clear, and that bit is set. -/
theorem ctzN_spec (N n : Nat) : ctzN N n ≤ N ∧ (∀ j < ctzN N n, n.testBit j = false) ∧ (ctzN N n < N → n.testBit (ctzN N n) = true) := by
  unfold ctzN
  refine ⟨?_, fun j hj => ?_, fun h => ?_⟩
  · simpa using List.findIdx_le_length (p := fun i => n.testBit i) (xs := List.range N)
  · simpa using List.not_of_lt_findIdx hj
  · have hl : (List.range N).findIdx (fun i => n.testBit i) < (List.range N).length := by simpa using h
    simpa using List.findIdx_getElem (w := hl)

theorem popcN_eq (N n : Nat) : popcN N n = ((Finset.range N).filter fun i => n.testBit i = true).card := by
  simp only [popcN, Finset.card_def, Finset.filter_val, Finset.range_val, Multiset.range, Multiset.filter_coe, Multiset.coe_card, Bool.decide_eq_true]

theorem testBit_complement {N a : Nat} (h : a < 2 ^ N) (i : Nat) : (2 ^ N - 1 - a).testBit i = (decide (i < N) && !a.testBit i) := by
  rw [Nat.sub_sub, Nat.add_comm 1 a]
  exact Nat.testBit_two_pow_sub_succ h i

/-- The low N bits of a word. -/
theorem testBit_low {N i : Nat} (hi : i < N) (w : Word) : (w.toNat % 2 ^ N).testBit i = w.getLsbD i := by
  rw [Nat.testBit_mod_two_pow, decide_eq_true hi, Bool.true_and, BitVec.testBit_toNat]

/-! ## Table 11.2 -/

/-- `bfins`: the bits of rd under the mask xs, the old bits elsewhere. -/
theorem bfins_bits {N : Nat} (a : Nat) (rd xs : Word) {i : Nat} (hi : i < N) :
    ((a &&& (2 ^ N - 1 - xs.toNat % 2 ^ N)) ||| (rd.toNat % 2 ^ N &&& xs.toNat % 2 ^ N)).testBit i
      = if xs.getLsbD i then rd.getLsbD i else a.testBit i := by
  rw [Nat.testBit_or, Nat.testBit_and, Nat.testBit_and, testBit_complement (Nat.mod_lt _ (Nat.two_pow_pos N)), testBit_low hi, testBit_low hi,
    decide_eq_true hi]
  cases xs.getLsbD i <;> simp

/-- `ffcs`: the lowest clear bit of the element, which it sets. -/
theorem ffcs_lowest {a : Nat} (ha : a < 2 ^ 64) (ty : Fmt) (fi fo : Bool) (rd xs : Word) :
    ∃ k ≤ 64, (rmwApply .ffcs ty fi fo a rd xs).ret = BitVec.ofNat 64 k ∧ (∀ j < k, a.testBit j = true) ∧ (k < 64 → a.testBit k = false)
      ∧ (rmwApply .ffcs ty fi fo a rd xs).new = if k < 64 then a ||| 2 ^ k else a := by
  obtain ⟨hk, hbelow, hat⟩ := ctzN_spec 64 (2 ^ 64 - 1 - a)
  have hbit := testBit_complement ha
  refine ⟨_, hk, rfl, fun j hj => ?_, fun h => ?_, ?_⟩
  · have hlow := hbelow j hj
    rw [hbit, decide_eq_true (hj.trans_le hk)] at hlow
    simpa using hlow
  · have hset := hat h
    rw [hbit, decide_eq_true h] at hset
    simpa using hset
  · show (if ctzN 64 (2 ^ 64 - 1 - a) = 64 then a else _) = _
    rcases hk.lt_or_eq with h | h
    · rw [if_neg h.ne, if_pos h]
    · rw [if_pos h, if_neg (by omega)]

/-- Finite operands add exactly, over the lesser exponent. -/
theorem add_fin (rdn s t : Bool) (m n : Nat) (e f : Int) : ∃ neg, Ex.add rdn (.fin s m e) (.fin t n f)
    = (Ex.ofInt (sgnInt s (m * 2 ^ (e - Min.min e f).toNat) + sgnInt t (n * 2 ^ (f - Min.min e f).toNat)) (Min.min e f) neg, 0) :=
  ⟨_, rfl⟩

/-- A NaN operand gives NaN, without a flag. -/
theorem add_nan {rdn : Bool} {x y : Ex} (h : x = .nan ∨ y = .nan) : Ex.add rdn x y = (.nan, 0) := by
  rcases h with rfl | rfl
  · rfl
  · cases x <;> rfl

/-- Settles O21: the integer operations by their elements, `atom.fadd` by the exact sum. -/
theorem readModifyWriteValues : Obligations.ReadModifyWriteValues := by
  unfold Obligations.ReadModifyWriteValues
  refine ⟨fun ty fi fo a rd xs ha => ?_, fun ty fi fo a rd xs => ?_⟩
  · intro d old num leaves
    have hd : d < 2 ^ ty.width := Nat.mod_lt _ (Nat.two_pow_pos _)
    have hold : old = ty.fit (intOf ty.isSignedInt ty.width a) := congrArg ty.fit (opnd_ofNat ha)
    have hleaves (op : RmwOp) (new : Nat) (hn : (rmwApply op ty fi fo a rd xs).new = new)
        (hr : (rmwApply op ty fi fo a rd xs).ret = ty.fit (intOf ty.isSignedInt ty.width a)) : leaves op new := ⟨hn, hr.trans hold.symm⟩
    refine ⟨hleaves _ _ (elemNat_add ty _ a d) rfl, hleaves _ _ ?_ rfl, hleaves _ _ ?_ rfl, hleaves _ _ rfl rfl, hleaves _ _ rfl rfl,
      hleaves _ _ rfl rfl, hleaves _ _ rfl rfl, hleaves _ _ rfl rfl, ⟨_, hleaves _ _ rfl rfl, fun i hi => bfins_bits a rd xs hi⟩,
      ⟨_, hleaves _ _ rfl rfl, ?_⟩, fun hw => ffcs_lowest (hw ▸ ha) ty fi fo rd xs⟩
    · simp only [num, opnd_ofNat ha, opnd_ofNat hd]; rfl
    · simp only [num, opnd_ofNat ha, opnd_ofNat hd]; rfl
    · have hcap : (xs.extractLsb' 0 7).toNat = xs.toNat % 128 := BitVec.extractLsb'_toNat 0 7 xs
      rw [← popcN_eq, ← hcap]
      rfl
  · intro d x y z w signed
    refine ⟨rfl, fun s m e t n f hx hy => ?_, fun s hx hy => ?_, add_nan⟩
    · obtain ⟨neg, hz⟩ := add_fin false s t m n e f
      rw [← hx, ← hy] at hz
      exact ⟨congrArg Prod.snd hz, neg, (congrArg Prod.fst hz).trans (by simp [signed, sgnInt])⟩
    · show Ex.add false x.1 y.1 = _
      rw [hx, hy]
      cases s <;> rfl

end Sys2Proof.Machine
end

section
/-! Lane-wise forms whose fields denote registers, and the arithmetic ones among them. -/

namespace Sys2Proof.Machine

/-! ## Lane-wise forms without a port (R151, R152, R274) -/

section registers
variable {s : State} {h : Hdr} {vd : BitVec 6} {vs : List (BitVec 6)} (hp : s.noPorts (vd :: vs)) (hi : s.mayIssue h (vs.map .v ++ [.v vd]))
include hp

theorem formV_srcs_plain (major : BitVec 8) : (formV h major vd vs).srcs.filterMap s.ctx.work.portOf = [] := by
  refine List.filterMap_eq_nil_iff.2 fun g hg => ?_
  obtain ⟨v, hv, rfl⟩ := List.mem_map.1 hg
  exact hp v (List.mem_cons_of_mem _ hv)

theorem formV_dests_plain (major : BitVec 8) : (formV h major vd vs).dests.filterMap s.ctx.work.portOf = [] := by
  have hd : s.ctx.work.portOf (.v vd) = none := hp vd List.mem_cons_self
  simp [formV, hd]

theorem formV_plainRegs (major : BitVec 8) : (formV h major vd vs).plainRegs s.ctx.work = (formV h major vd vs).regs := by
  refine List.filter_eq_self.2 fun g hg => Option.isNone_iff_eq_none.2 ?_
  have hg' : g = .p h.guard ∨ ∃ v ∈ vd :: vs, g = .v v := by simpa [formV, Form.regs, eq_comm, or_comm] using hg
  rcases hg' with rfl | ⟨v, hv, rfl⟩
  · rfl
  · exact hp v hv

include hi

/-- Such a form issues as any form does. -/
theorem lanewise_writes (major : BitVec 8) (lat : Nat) (f : Regs → Fin 64 → Lane × Flags) : s.lanewise h major lat vd vs f
    = s.writes h major lat (.v vd) (vs.map .v) (.lanes (active s.vl (f s.ctx.work)).1) (active s.vl (f s.ctx.work)).2 := by
  have hs := formV_srcs_plain (h := h) hp major
  have hd := formV_dests_plain (h := h) hp major
  have ha : s.ctx.awaited (formV h major vd vs).regs = none := by simpa [formV, Form.regs] using hi.2
  have ha' := ha
  rw [← formV_plainRegs hp major, Form.plainRegs] at ha'
  have hm : (formV h major vd vs).portMisuse s.ctx.work = false := by simp [Form.portMisuse, hs, hd]
  have hg : s.ctx.work.admits (formV h major vd vs).h = true := hi.1
  have hissue := issue_ok (f := formV h major vd vs) { s := s, res := laneRes lat (active s.vl (f s.ctx.work)) } ha hg
  refine Eq.trans ?_ (hissue.symm.trans (issue_one hi lat _ _))
  simp only [State.lanewise, State.issueV, hm, ha', hs, hd, hg, Bool.false_eq_true, if_false, List.head?_nil, Bool.not_true]
  simp only [State.deliver, Bool.or_self, Bool.false_or]
  rfl

/-- A form that runs lane by lane gives the lanes and flags that its lane function says (R151, R152). -/
theorem lanewise_laneResult {i : Instr} {major : BitVec 8} {lat : Nat} {f : Regs → Fin 64 → Lane × Flags}
    (hx : exec i s = .next (s.lanewise h major lat vd vs f)) {g : Fin 64 → Lane × Flags} (hg : ∀ k, f s.ctx.work k = g k) :
    s.laneResult i h major lat vd vs g := by
  rw [lanewise_writes hp hi, funext hg] at hx
  exact ⟨_, _, hx, active_lane, active_flag⟩

end registers

/-! ## The arithmetic forms (R153 to R155) -/

theorem arithLat_float {m : VMod} (hm : m.fmt = .f32) (n : Nat) : arithLat m n = n := if_pos hm

theorem arithLat_int {m : VMod} (hm : m.fmt ≠ .f32) (n : Nat) : arithLat m n = 2 := if_neg hm

/-- The forms of two sources, each with its major, its latency on `.f32`, and what it does to exact values and to integers. -/
def ArithPair (h : Hdr) (m : VMod) (vd v1 v2 : BitVec 6) (i : Instr) (major : BitVec 8) (lat : Nat) (fop : Ex → Ex → Ex × Flags)
    (iop : Int → Int → Int) : Prop :=
  (i = .vadd h m vd v1 v2 ∧ major = 0x01 ∧ lat = 3 ∧ fop = (fun x y => Ex.add (m.rnd == .rdn) x y) ∧ iop = (fun x y => x + y))
    ∨ (i = .vsub h m vd v1 v2 ∧ major = 0x02 ∧ lat = 3 ∧ fop = (fun x y => Ex.sub (m.rnd == .rdn) x y) ∧ iop = (fun x y => x - y))
    ∨ (i = .vmul h m vd v1 v2 ∧ major = 0x03 ∧ lat = 3 ∧ fop = (fun x y => Ex.mul x y) ∧ iop = (fun x y => x * y))
    ∨ (i = .vmin h m vd v1 v2 ∧ major = 0x06 ∧ lat = 2 ∧ fop = (fun x y => (Ex.min x y, 0)) ∧ iop = (fun x y => Min.min x y))
    ∨ (i = .vmax h m vd v1 v2 ∧ major = 0x07 ∧ lat = 2 ∧ fop = (fun x y => (Ex.max x y, 0)) ∧ iop = (fun x y => Max.max x y))

theorem ite_lt_eq_min (a b : Int) : (if a < b then a else b) = Min.min a b := by split <;> omega

theorem ite_lt_eq_max (a b : Int) : (if a < b then b else a) = Max.max a b := by split <;> omega

theorem exec_arithPair {h : Hdr} {m : VMod} {vd v1 v2 : BitVec 6} {i : Instr} {major : BitVec 8} {lat : Nat} {fop : Ex → Ex → Ex × Flags}
    {iop : Int → Int → Int} (hform : ArithPair h m vd v1 v2 i major lat fop iop) (s : State) :
    exec i s = .next (s.lanewise h major (arithLat m lat) vd [v1, v2] fun r l =>
      arith2 m l (fun _ => fop) iop (r.lanes v1)[l] (r.lanes v2)[l]) := by
  have hlat : arithLat m 2 = 2 := ite_self 2
  rcases hform with ⟨rfl, rfl, rfl, rfl, rfl⟩ | ⟨rfl, rfl, rfl, rfl, rfl⟩ | ⟨rfl, rfl, rfl, rfl, rfl⟩ | ⟨rfl, rfl, rfl, rfl, rfl⟩
    | ⟨rfl, rfl, rfl, rfl, rfl⟩
  · rfl
  · rfl
  · rfl
  · simp only [hlat, ← ite_lt_eq_min]; rfl
  · simp only [hlat, ← ite_lt_eq_max]; rfl

theorem arith1_float {m : VMod} (hm : m.fmt = .f32) (l : Fin 64) (fop : Ex → Ex) (iop : Int → Int) (a : Lane) :
    let x := Fmt.f32.operand m.fi a.toNat
    let r := Fmt.f32.round m.rnd m.fo m.sat (l.val / 8) (l.val % 8) (fop x.1)
    arith1 m l fop iop a = (BitVec.ofNat 32 r.1, r.2 ||| (x.2 ||| 0)) := by
  intro x r
  have hz : x.2 ||| (0 : Flags) = x.2 := BitVec.or_zero
  rw [hz, arith1, if_pos hm, VMod.rounded, hm]
  rfl

/-- A difference of zeros keeps their common sign, else takes that of the mode (R60). -/
theorem sub_zeros (down p q : Bool) (e f : Int) : Ex.sub down (.fin p 0 e) (.fin q 0 f) = (.fin (if p = q then p else down) 0 0, 0) := rfl

/-- Settles O31: each form by its lanes, on `.f32` by exact values and else by integers. -/
theorem vectorArithmetic : Obligations.VectorArithmetic := by
  unfold Obligations.VectorArithmetic
  intro h m vd v1 v2 v3 s hp
  have hp1 : s.noPorts [vd, v1] := fun v hv => hp v (by simp at hv ⊢; tauto)
  have hp2 : s.noPorts [vd, v1, v2] := fun v hv => hp v (by simp at hv ⊢; tauto)
  have hp3 : s.noPorts [vd, v1, v2, v3] := hp
  intro a b c inn num rounded wrapped down
  refine ⟨fun hi i major lat fop iop hform => ?_, fun hi i major sub hform => ?_, fun hi => ?_, fun p q e f => sub_zeros down p q e f⟩
  · have hx := exec_arithPair hform s
    refine ⟨fun hm => ?_, fun hm => ?_⟩
    · rw [arithLat_float hm] at hx
      exact lanewise_laneResult hp2 hi hx fun k => by simp only [arith2, hm, if_true, VMod.rounded]; rfl
    · rw [arithLat_int hm] at hx
      exact lanewise_laneResult hp2 hi hx fun k => if_neg hm
  · have hx : exec i s = .next (s.lanewise h major (arithLat m 4) vd [v1, v2, v3] fun r l =>
        arith3 m l sub (r.lanes v1)[l] (r.lanes v2)[l] (r.lanes v3)[l]) := by
      rcases hform with ⟨rfl, rfl, rfl⟩ | ⟨rfl, rfl, rfl⟩ <;> rfl
    refine ⟨fun hm => ?_, fun hm => ?_⟩
    · rw [arithLat_float hm] at hx
      exact lanewise_laneResult hp3 hi hx fun k => by simp only [arith3, hm, if_true, VMod.rounded]; rfl
    · rw [arithLat_int hm] at hx
      refine lanewise_laneResult hp3 hi hx fun k => ?_
      simp only [arith3, hm, if_false]
      cases sub <;> rfl
  · refine ⟨fun hm => ⟨?_, ?_⟩, fun hm => ⟨?_, ?_⟩⟩
    · exact lanewise_laneResult hp1 hi rfl fun k => arith1_float hm k ..
    · refine lanewise_laneResult hp1 hi rfl fun k => (arith1_float hm k ..).trans ?_
      show rounded k (Ex.abs (inn (a k)).1, 0) (inn (a k)).2 = _
      cases (inn (a k)).1 <;> rfl
    · exact lanewise_laneResult hp1 hi rfl fun k => if_neg hm
    · refine lanewise_laneResult hp1 hi rfl fun k => ?_
      simp only [arith1, hm, if_false, Int.natCast_natAbs]
      rfl

end Sys2Proof.Machine
end

section
/-! Reduction trees: their entries, the combining of a round, its close, and the events that reach an entry. -/

namespace Sys2Proof.Machine

/-! ## Tree entries (R290) -/

theorem tree_setTree {s : State} (hc : s.canonical = true) (site t : Nat) (x : Tree) (site' t' : Nat) :
    (s.setTree site t x).tree site' t' = if treeKey site' t' = treeKey site t then x else s.tree site' t' :=
  clGet_set ((canonical_iff s).1 hc).2.2.2.2.2.2 _ _ _

theorem tree_setTree_same {s : State} (hc : s.canonical = true) (site t : Nat) (x : Tree) : (s.setTree site t x).tree site t = x := by
  rw [tree_setTree hc, if_pos rfl]

theorem tree_setTree_other {s : State} (hc : s.canonical = true) {site t site' t' : Nat} (x : Tree) (h : treeKey site' t' ≠ treeKey site t) :
    (s.setTree site t x).tree site' t' = s.tree site' t' := by
  rw [tree_setTree hc, if_neg h]

theorem setTree_canonical {s : State} (hc : s.canonical = true) (site t : Nat) (x : Tree) : (s.setTree site t x).canonical = true := by
  obtain ⟨h1, h2, h3, h4, h5, h6, h7⟩ := (canonical_iff s).1 hc
  exact (canonical_iff _).2 ⟨h1, h2, h3, h4, h5, h6, clSet_wf h7 _ _⟩

/-- The contributions that stand at the ports of an entry, in port order. -/
def Tree.contributions (x : Tree) : List Packet := x.ports.toList.filterMap id

theorem mem_contributions {x : Tree} {c : Packet} : c ∈ x.contributions ↔ some c ∈ x.ports.toList := by
  simp [Tree.contributions]

/-- The ports of IN at which no contribution stands. -/
def Tree.missing (x : Tree) : BitVec 5 := x.cfg.extractLsb' 54 5 &&& ~~~x.arr

/-- Without a contribution no port counts as arrived. -/
theorem arr_of_contributions_nil {x : Tree} (h : x.contributions = []) : x.arr = 0 := by
  have hnone (i : Nat) : (x.port i).isSome = false := by
    by_cases hi : i < 5
    · rcases hv : x.ports[i] with _ | c
      · simp [Tree.port, hi, hv]
      · have : c ∈ x.contributions := mem_contributions.2 (by rw [← hv]; simp)
        rw [h] at this
        exact absurd this List.not_mem_nil
    · simp [Tree.port, hi]
  simp only [Tree.arr, hnone]
  decide

/-- With nothing owed and no contribution the state word is zero (Table 13.9). -/
theorem stateWord_of_cleared {x : Tree} (ho : x.owed = Vector.replicate 5 0) (hp : x.ports = Vector.replicate 5 none) : x.stateWord = 0 := by
  have harr : x.arr = 0 := arr_of_contributions_nil (by rw [Tree.contributions, hp]; rfl)
  simp only [Tree.stateWord, Tree.owe, ho, harr]
  decide

/-- A change of a tile changes no tree. -/
theorem tree_modTile (s : State) (n : Nat) (f : Tile → Tile) (site t : Nat) : (s.modTile n f).tree site t = s.tree site t := by
  unfold State.tree
  rw [State.modTile, State.setTile_trees]

/-- A packet discarded: counted, and logged for its partition (R291). -/
theorem discarded_frame (s : State) (n : Nat) (p : BitVec 4) (f : Tile → Tile) (a : Word) (r : ErrReason) :
    let u := (s.modTile n f).logError p a r
    u.trees = s.trees ∧ u.work = s.work ∧ u.mem = s.mem ∧ (u.part p).errlog.length = (s.part p).errlog.length + 1 := by
  refine ⟨State.setTile_trees .., State.setTile_work .., State.setTile_mem .., ?_⟩
  rw [part_logError, List.length_append, State.modTile, part_setTile]
  rfl

/-! ## The combining of a round (R292) -/

section combined
variable {op : RedOp}

/-- Lanes combined step by step are combined each for itself. -/
theorem foldl_redLanes_lane (cs : List Packet) (k : Fin 64) : ∀ a : Lanes × Flags,
    (cs.foldl (fun a q => let (l, f) := redLanes op a.1 q.lanes; (l, a.2 ||| f)) a).1[k] = cs.foldl (fun a e => (redLane op a e.lanes[k]).1) a.1[k] := by
  induction cs with
  | nil => intro a; rfl
  | cons c cs ih =>
    intro a
    rw [List.foldl_cons, ih, List.foldl_cons]
    simp [redLanes]

theorem foldl_add_eq_sum (l : List Lane) : ∀ a : Lane, l.foldl (· + ·) a = (a :: l).sum := by
  induction l with
  | nil => intro a; simp
  | cons b l ih => intro a; rw [List.foldl_cons, ih]; simp [add_assoc]

theorem foldl_or_getLsbD {α : Type} (g : α → Flags) (l : List α) (b : Nat) : ∀ z : Flags,
    (l.foldl (fun f q => f ||| g q) z).getLsbD b = (z.getLsbD b || l.any fun q => (g q).getLsbD b) := by
  induction l with
  | nil => intro z; simp
  | cons q l ih => intro z; rw [List.foldl_cons, ih]; simp [Bool.or_assoc]

/-- The flags of every one of a list are kept in their OR. -/
theorem foldl_or_keeps {α : Type} (g : α → Flags) {l : List α} {c : α} (hc : c ∈ l) (z : Flags) :
    (l.foldl (fun f q => f ||| g q) z) &&& g c = g c := by
  refine BitVec.eq_of_getLsbD_eq fun b _ => ?_
  rw [BitVec.getLsbD_and, foldl_or_getLsbD]
  cases h : (g c).getLsbD b
  · simp
  · simpa using .inr ⟨c, hc, h⟩

/-- What the packet of a closed round holds, of the contributions in port order. -/
structure Combined (site : Nat) (op : RedOp) (missing : BitVec 5) (late : Bool) (ps : List Packet) (q : Packet) : Prop where
  lanes : ∃ c cs, ps = c :: cs ∧ ∀ k : Fin 64, q.lanes[k] = cs.foldl (fun a e => (redLane op a e.lanes[k]).1) c.lanes[k]
  touts : q.touts = BitVec.ofNat 8 (Min.min 255 ((ps.map fun c => c.touts.toNat).sum + if late then 1 else 0))
  flags : ∀ c ∈ ps, q.flags &&& c.flags = c.flags
  poison : q.poison = true ↔ ∃ c ∈ ps, c.poison = true
  inc : q.inc = true ↔ late = true ∨ ∃ c ∈ ps, c.inc = true
  late : late = true → q.site = BitVec.ofNat 10 site ∧ q.mask = missing

/-- A round with a contribution closes with such a packet. -/
theorem combine_some {ps : List Packet} (h : ps ≠ []) (site : Nat) (missing : BitVec 5) (late : Bool) :
    ∃ q, combine site op missing late ps = some q ∧ Combined site op missing late ps q := by
  obtain ⟨c, cs, rfl⟩ := List.exists_cons_of_ne_nil h
  refine ⟨_, rfl, ⟨c, cs, rfl, fun k => foldl_redLanes_lane cs k (c.lanes, 0)⟩, rfl, fun e he => foldl_or_keeps Packet.flags he _, ?_, ?_, ?_⟩
  · exact List.any_eq_true
  · simp only [Bool.or_eq_true, List.find?_isSome]
  · rintro rfl
    exact ⟨rfl, rfl⟩

/-- For IADD the lanes are the sums of the contributions. -/
theorem Combined.sum {site : Nat} {missing : BitVec 5} {late : Bool} {ps : List Packet} {q : Packet} (h : Combined site .iadd missing late ps q)
    (k : Fin 64) : q.lanes[k] = (ps.map fun c : Packet => c.lanes[k]).sum := by
  obtain ⟨c, cs, rfl, hl⟩ := h.lanes
  rw [hl, List.map_cons, ← foldl_add_eq_sum, List.foldl_map]
  rfl

end combined

/-! ## The close of a round (R292) -/

/-- An entry whose round closes: at a time-out each missing port owes one packet more. -/
def Tree.charged (z : Tree) (late : Bool) : Tree :=
  if late then { z with owed := Vector.ofFn fun i : Fin 5 => if z.missing.getLsbD i.val then owedInc z.owed[i] else z.owed[i] } else z

theorem charged_cfg (z : Tree) (late : Bool) : (z.charged late).cfg = z.cfg := by cases late <;> rfl

theorem charged_owed (z : Tree) (late : Bool) (i : Fin 5) :
    (z.charged late).owed[i] = if late = true ∧ z.missing.getLsbD i.val = true then owedInc z.owed[i] else z.owed[i] := by
  cases late <;> simp [Tree.charged]

section close
variable {s : State} {site t : Nat} {late : Bool} {q : Packet}
  (hq : combine site ((treeOp (s.tree site t).cfg).getD .fadd) (s.tree site t).missing late (s.tree site t).contributions = some q)
include hq

theorem closeRound_sends {n port : Nat} (hn : treeNeighbour site (treeOut (s.tree site t).cfg) = some (n, port)) :
    s.closeRound site t late = (s.setTree site t { (s.tree site t).charged late with ports := Vector.replicate 5 none, age := 0 }).send
      ⟨⟨site, 3⟩, .router n, false, false, false, .reductionPacketArrival n t port q⟩ := by
  simp only [Tree.missing, Tree.contributions] at hq
  cases late <;> simp only [State.closeRound, hq, hn, Bool.false_eq_true, if_true, if_false] <;> rfl

theorem closeRound_waits (hn : treeNeighbour site (treeOut (s.tree site t).cfg) = none) :
    s.closeRound site t late = (s.setTree site t { (s.tree site t).charged late with stuck := some q }).send (rootEntryWork site t) := by
  simp only [Tree.missing, Tree.contributions] at hq
  cases late <;> simp only [State.closeRound, hq, hn, Bool.false_eq_true, if_true, if_false] <;> rfl

end close

/-- `u` is `s` with the round of an entry, as `z` says it, closed with the packet q: the packet on its way to the neighbour and the ports empty,
or waiting at the root. -/
structure Closed (s u : State) (site t : Nat) (z : Tree) (late : Bool) (q : Packet) : Prop where
  others : ∀ site' t', treeKey site' t' ≠ treeKey site t → u.tree site' t' = s.tree site' t'
  owed : ∀ i : Fin 5, (u.tree site t).owed[i] = if late = true ∧ z.missing.getLsbD i.val = true then owedInc z.owed[i] else z.owed[i]
  sends : ∀ n port, treeNeighbour site (treeOut z.cfg) = some (n, port) → (u.tree site t).arr = 0
    ∧ u.work = s.work ++ [⟨⟨site, 3⟩, .router n, false, false, false, .reductionPacketArrival n t port q⟩]
  waits : treeNeighbour site (treeOut z.cfg) = none → (u.tree site t).stuck = some q ∧ u.work = s.work ++ [rootEntryWork site t]

theorem closeRound_closed {s : State} (hc : s.canonical = true) {site t : Nat} {late : Bool} {q : Packet} {z : Tree} (hz : s.tree site t = z)
    (hq : combine site ((treeOp z.cfg).getD .fadd) z.missing late z.contributions = some q) :
    Closed s (s.closeRound site t late) site t z late q := by
  subst hz
  have htree (x : Tree) (w : Work) : ((s.setTree site t x).send w).tree site t = x := tree_setTree_same hc site t x
  have hother (x : Tree) (w : Work) (site' t' : Nat) (h : treeKey site' t' ≠ treeKey site t) :
      ((s.setTree site t x).send w).tree site' t' = s.tree site' t' := tree_setTree_other hc x h
  rcases hn : treeNeighbour site (treeOut (s.tree site t).cfg) with _ | ⟨n, port⟩
  · rw [closeRound_waits hq hn]
    refine ⟨hother _ _, ?_, fun _ _ h => ?_, fun _ => ?_⟩
    · rw [htree]; exact charged_owed _ late
    · rw [hn] at h; cases h
    · rw [htree]; exact ⟨rfl, rfl⟩
  · rw [closeRound_sends hq hn]
    refine ⟨hother _ _, ?_, fun n' port' h => ?_, fun h => ?_⟩
    · rw [htree]; exact charged_owed _ late
    · obtain ⟨rfl, rfl⟩ : n = n' ∧ port = port' := by simpa [hn] using h
      rw [htree]; exact ⟨arr_of_contributions_nil rfl, rfl⟩
    · rw [hn] at h; cases h

/-! ## The events of an entry (R290 to R293) -/

/-- An entry admits a packet at a port: it is valid, of the packet's partition, and takes contributions there. -/
def Tree.takes (x : Tree) (site port : Nat) (p : Packet) : Bool := treeValid site x.cfg && treePart x.cfg == p.part && treeIn x.cfg port

theorem takes_iff (x : Tree) (site port : Nat) (p : Packet) :
    x.takes site port p = true ↔ treeValid site x.cfg = true ∧ treePart x.cfg = p.part ∧ treeIn x.cfg port = true := by
  simp [Tree.takes, and_assoc]

/-- The entry with the contribution of a packet at its port. -/
def Tree.entered (x : Tree) (port : Nat) (p : Packet) : Tree :=
  { x with ports := x.ports.setIfInBounds port (some p), age := if x.arr = 0 then 0 else x.age }

theorem entered_contributions_ne_nil (x : Tree) {port : Nat} (hp : port < 5) (p : Packet) : (x.entered port p).contributions ≠ [] := by
  have hmem : p ∈ (x.entered port p).contributions := by
    refine mem_contributions.2 (Vector.mem_toList_iff.2 ?_)
    have hget : (x.entered port p).ports[port] = some p := by simp [Tree.entered]
    exact hget ▸ Vector.getElem_mem hp
  exact List.ne_nil_of_mem hmem

section events
variable {s : State} {site t : Nat} (hs : site < 288) (ht : t < 16)
include hs ht

section packet
variable {port : Nat} {p : Packet} (hp : port < 5)
include hp

theorem packetIn_exists : (decide (288 ≤ site) || decide (16 ≤ t) || decide (5 ≤ port)) = false := by
  simp [hs, ht, hp]

/-- A packet that the entry does not admit is discarded and logged. -/
theorem packetIn_discards (h : (s.tree site t).takes site port p = false) :
    s.packetIn site t port p = (s.modTile site fun u => u.count 0x043 4 1).logError p.part (BitVec.ofNat 64 t) 5 := by
  simp only [Tree.takes] at h
  simp only [State.packetIn, packetIn_exists hs ht hp, h, Bool.false_eq_true, if_false, Bool.not_false, if_true]

variable (h : (s.tree site t).takes site port p = true)
include h

/-- A late packet is discarded against what its port owes. -/
theorem packetIn_late (ho : (s.tree site t).owe port ≠ 0) : s.packetIn site t port p =
    (s.setTree site t { s.tree site t with owed := (s.tree site t).owed.setIfInBounds port ((s.tree site t).owe port - 1) }).modTile site
      fun u => u.count 0x041 4 1 := by
  simp only [Tree.takes] at h
  simp only [State.packetIn, packetIn_exists hs ht hp, h, Bool.false_eq_true, if_false, Bool.not_true, bne_iff_ne, ho, ne_eq, not_false_eq_true, if_true]

variable (ho : (s.tree site t).owe port = 0)
include ho

/-- A packet waits while its port is occupied or the closed round waits for the root buffer. -/
theorem packetIn_waits (hw : ((s.tree site t).port port).isSome = true ∨ (s.tree site t).stuck.isSome = true) : s.packetIn site t port p = s := by
  simp only [Tree.takes] at h
  simp only [State.packetIn, packetIn_exists hs ht hp, h, Bool.false_eq_true, if_false, Bool.not_true, bne_iff_ne, ho, ne_eq, not_true_eq_false,
    Bool.or_eq_true, hw, if_true]

/-- Else it enters its port; the last one of a round closes it. -/
theorem packetIn_enters (hn : (s.tree site t).port port = none) (hk : (s.tree site t).stuck = none) : s.packetIn site t port p =
    if ((s.tree site t).entered port p).arr == (s.tree site t).cfg.extractLsb' 54 5
    then (s.setTree site t ((s.tree site t).entered port p)).closeRound site t false else s.setTree site t ((s.tree site t).entered port p) := by
  have hw : (((s.tree site t).port port).isSome || (s.tree site t).stuck.isSome) = false := by rw [hn, hk]; rfl
  simp only [Tree.takes] at h
  simp only [State.packetIn, packetIn_exists hs ht hp, h, hw, Bool.false_eq_true, if_false, Bool.not_true, bne_iff_ne, ho, ne_eq, not_true_eq_false]
  rfl

theorem packetIn_opens (hn : (s.tree site t).port port = none) (hk : (s.tree site t).stuck = none)
    (ha : ((s.tree site t).entered port p).arr ≠ (s.tree site t).cfg.extractLsb' 54 5) :
    s.packetIn site t port p = s.setTree site t ((s.tree site t).entered port p) :=
  (packetIn_enters hs ht hp h ho hn hk).trans (if_neg fun he => ha (beq_iff_eq.1 he))

theorem packetIn_closes (hn : (s.tree site t).port port = none) (hk : (s.tree site t).stuck = none)
    (ha : ((s.tree site t).entered port p).arr = (s.tree site t).cfg.extractLsb' 54 5) :
    s.packetIn site t port p = (s.setTree site t ((s.tree site t).entered port p)).closeRound site t false :=
  (packetIn_enters hs ht hp h ho hn hk).trans (if_pos (beq_iff_eq.2 ha))

end packet

theorem roundTimeout_closes (hd : s.mayTimeOut site t = true) : exec (.reductionRoundTimeout site t) s = .next (s.closeRound site t true) := by
  show execReductionRoundTimeout site t s = _
  simp [execReductionRoundTimeout, hs, ht, hd]

/-- A result enters the empty root buffer, or answers the committed `rrecv` that has claimed it. -/
theorem rootBufferEntry_enters {q : Packet} (hr : (s.tree site t).root = none) (hk : (s.tree site t).stuck = some q) :
    exec (.reductionRootBufferEntry site t) s = .next ((s.setTree site t { s.tree site t with
      root := if (s.tree site t).claimed then none else some q, stuck := none, claimed := false, ports := Vector.replicate 5 none, age := 0 }).sendAll
        ((s.receivers site t).map fun r => rootAnswer r.1 r.2 q)) := by
  show execReductionRootBufferEntry site t s = _
  simp only [execReductionRootBufferEntry, hr, hk, Nat.not_le.2 hs, Nat.not_le.2 ht, decide_false, Bool.or_self, Bool.false_eq_true, if_false]

omit hs ht in
theorem treeEntryWrite_before_firmware (w : Word) (hf : s.firmwareUp = false) : exec (.treeEntryWrite site t w) s = .next s := by
  show execTreeEntryWrite site t w s = _
  simp [execTreeEntryWrite, hf]

theorem treeEntryWrite_configures (w : Word) (hf : s.firmwareUp = true) : exec (.treeEntryWrite site t w) s = .next (s.setTree site t
    { s.tree site t with cfg := treeCfg w, owed := Vector.replicate 5 0, ports := Vector.replicate 5 none, age := 0, stuck := none }) := by
  show execTreeEntryWrite site t w s = _
  simp [execTreeEntryWrite, hf, hs, ht]

end events

/-- Settles O41: each event by its case, a closed round by the packet that its contributions combine to. -/
theorem reductionEvents : Obligations.ReductionEvents := by
  unfold Obligations.ReductionEvents
  intro site t port p w s hc hs ht hp x takes others y real lane closes
  have hlane (op : RedOp) (a b : Lane) : (redLane op a b).1 = lane op a b := by cases op <;> rfl
  have hcloses {u v : State} {z : Tree} {late : Bool} (hcfg : z.cfg = x.cfg) (howed : z.owed = x.owed)
      (hne : z.contributions ≠ []) (hwork : v.work = s.work) (htree : ∀ site' t', treeKey site' t' ≠ treeKey site t → v.tree site' t' = s.tree site' t')
      (hu : ∀ q, combine site ((treeOp z.cfg).getD .fadd) z.missing late z.contributions = some q → Closed v u site t z late q) : closes u z late := by
    obtain ⟨q, hq, hcomb⟩ := combine_some hne site z.missing late
    obtain ⟨hothers, howes, hsends, hwaits⟩ := hu q hq
    rw [hcfg] at hcomb hsends hwaits
    rw [howed] at howes
    rw [hwork] at hsends hwaits
    have hmiss : z.missing = x.cfg.extractLsb' 54 5 &&& ~~~z.arr := by rw [← hcfg]; rfl
    refine ⟨q, fun site' t' h => (hothers site' t' h).trans (htree site' t' h), fun hop k => ?_, fun op hop => ?_, hcomb.touts, fun c hc => ?_, ?_, ?_,
      hmiss ▸ hcomb.late, hmiss ▸ howes, hsends, hwaits⟩
    · rw [hop] at hcomb
      exact hcomb.sum k
    · rw [hop] at hcomb
      obtain ⟨c, cs, hcs, hl⟩ := hcomb.lanes
      exact ⟨c, cs, hcs, fun k => (hl k).trans (by simp only [Option.getD_some, hlane])⟩
    · exact hcomb.flags c (mem_contributions.2 hc)
    · exact hcomb.poison.trans (by simp only [mem_contributions])
    · exact hcomb.inc.trans (by simp only [mem_contributions])
  refine ⟨fun h => ?_, fun h ho => ?_, fun h ho hw => ?_, fun h ho hn hk => ?_, fun hv htm ha hk hage => ?_, fun q hr hk => ?_, treeEntryWrite_before_firmware w,
    fun hf => ?_⟩
  · have hx : x.takes site port p = false := by rw [← Bool.not_eq_true, takes_iff]; exact h
    exact ⟨_, congrArg Host.Outcome.next (packetIn_discards hs ht hp hx), discarded_frame s site p.part ..⟩
  · refine ⟨_, congrArg Host.Outcome.next (packetIn_late hs ht hp ((takes_iff ..).2 h) ho), fun site' t' hne => ?_, State.setTile_work .., ?_⟩
    · rw [tree_modTile, tree_setTree_other hc _ hne]
    · rw [tree_modTile, tree_setTree_same hc]
  · exact congrArg Host.Outcome.next (packetIn_waits hs ht hp ((takes_iff ..).2 h) ho hw)
  · have hx := (takes_iff ..).2 h
    refine ⟨s.packetIn site t port p, rfl, fun hopen => ?_, fun hlast => ?_⟩
    · rw [packetIn_opens hs ht hp hx ho hn hk hopen]
      exact ⟨tree_setTree_same hc .., fun _ _ hne => tree_setTree_other hc _ hne, rfl⟩
    · rw [packetIn_closes hs ht hp hx ho hn hk hlast]
      exact hcloses (v := s.setTree site t y) rfl rfl (entered_contributions_ne_nil x hp p) rfl (fun _ _ hne => tree_setTree_other hc _ hne) fun q hq =>
        closeRound_closed (setTree_canonical hc ..) (tree_setTree_same hc ..) hq
  · have hd : s.mayTimeOut site t = true := by
      simpa [State.mayTimeOut, and_assoc] using ⟨hv, htm, ha, hk, hage⟩
    refine ⟨_, roundTimeout_closes hs ht hd, hcloses rfl rfl ?_ rfl (fun _ _ _ => rfl) fun q hq => closeRound_closed hc rfl hq⟩
    exact fun hnil => ha (arr_of_contributions_nil hnil)
  · refine ⟨_, rootBufferEntry_enters hs ht hr hk, fun _ _ hne => tree_setTree_other hc _ hne, ?_⟩
    have htree (z : Tree) (ws : List Work) : ((s.setTree site t z).sendAll ws).tree site t = z := tree_setTree_same hc ..
    rw [htree]
    exact ⟨rfl, arr_of_contributions_nil rfl, rfl, rfl, rfl, rfl⟩
  · refine ⟨_, treeEntryWrite_configures hs ht w hf, fun _ _ hne => tree_setTree_other hc _ hne, ?_⟩
    rw [tree_setTree_same hc]
    exact ⟨rfl, stateWord_of_cleared rfl rfl, rfl, rfl, rfl⟩

end Sys2Proof.Machine
end

section
/-! What a write at a home leaves of tag words, marks, monitors and tiles. -/

namespace Sys2Proof.Machine

/-! ## Granules and tag words (R171, Table 10.2) -/

theorem mem_granulesOf {off n g : Nat} : g ∈ granulesOf off n ↔ 0 < n ∧ ∃ k, g = 256 * k ∧ off / 256 ≤ k ∧ k ≤ (off + n - 1) / 256 := by
  unfold granulesOf
  split
  · simp only [List.not_mem_nil, false_iff]; omega
  · simp only [List.mem_map, List.mem_range]
    constructor
    · rintro ⟨i, hi, rfl⟩; exact ⟨by omega, off / 256 + i, rfl, by omega, by omega⟩
    · rintro ⟨-, k, rfl, h1, h2⟩; exact ⟨k - off / 256, by omega, by omega⟩

theorem granuleKey_eq (h : Home) (a : Nat) : granuleKey h a = h.number * 2 ^ 56 + a / 256 := by
  simp only [granuleKey, Home.key]; omega

/-- The same tag words stand, over granules scrubbed for the same partitions. -/
def State.sameTags (s t : State) : Prop := t.gtags = s.gtags ∧ ∀ n, (t.getTile n).scrub = (s.getTile n).scrub

theorem sameTags_trans {s t u : State} (h : s.sameTags t) (g : t.sameTags u) : s.sameTags u :=
  ⟨g.1.trans h.1, fun n => (g.2 n).trans (h.2 n)⟩

theorem scrubbed_congr {s t : State} (h : ∀ n, (t.getTile n).scrub = (s.getTile n).scrub) (x : Home) : t.scrubbed x = s.scrubbed x := by
  cases x <;> simp only [State.scrubbed, h]

theorem sameTags_tagWord {s t : State} (h : s.sameTags t) (x : Home) (a : Nat) : t.tagWord x a = s.tagWord x a := by
  simp only [State.tagWord, h.1, scrubbed_congr h.2]

/-- A granule reads the tag word that was written, every other granule of its home its own. -/
theorem tagWord_setTagWord {s : State} (hc : clWf 0 s.gtags = true) (h : Home) (g : Nat) (w : Word) (a : Nat) :
    (s.setTagWord h g w).tagWord h a = if a / 256 = g / 256 then w else s.tagWord h a := by
  have hs : (s.setTagWord h g w).scrubbed h = s.scrubbed h := by cases h <;> rfl
  have hk : granuleKey h a = granuleKey h g ↔ a / 256 = g / 256 := by rw [granuleKey_eq, granuleKey_eq]; omega
  simp only [State.tagWord, hs]
  show clGet 0 (clSet 0 s.gtags _ _) _ ^^^ _ = _
  rw [clGet_set hc]
  simp only [hk]
  split
  · rw [BitVec.xor_assoc, BitVec.xor_self, BitVec.xor_zero]
  · rfl

/-- A tag word written to some granules changes the tag words alone. -/
theorem foldl_setTagWord_eq (h : Home) (w : Word) (gs : List Nat) : ∀ s : State,
    ∃ l, gs.foldl (fun s g => s.setTagWord h g w) s = { s with gtags := l } := by
  induction gs with
  | nil => exact fun s => ⟨s.gtags, rfl⟩
  | cons g gs ih => intro s; obtain ⟨l, e⟩ := ih (s.setTagWord h g w); exact ⟨l, e⟩

theorem tagWord_foldl_setTagWord (h : Home) (w : Word) (gs : List Nat) : ∀ {s : State}, clWf 0 s.gtags = true → ∀ a,
    (gs.foldl (fun s g => s.setTagWord h g w) s).tagWord h a = if ∃ g ∈ gs, a / 256 = g / 256 then w else s.tagWord h a := by
  induction gs with
  | nil => intro s _ a; simp
  | cons g gs ih =>
    intro s hc a
    have hc' : clWf 0 (s.setTagWord h g w).gtags = true := clSet_wf hc _ _
    rw [List.foldl_cons, ih hc', tagWord_setTagWord hc]
    by_cases h1 : ∃ x ∈ gs, a / 256 = x / 256
    · simp [h1]
    · by_cases h2 : a / 256 = g / 256 <;> simp [h1, h2]

/-- A write with its tag word changes bytes, the keys of lines and tag words alone. -/
theorem putGranules_eq {s : State} (hc : s.canonical = true) (h : Home) (off : Nat) (bs : List Byte) (w : Word) (ho : off + bs.length ≤ 2 ^ 64) :
    ∃ m lk l, s.putGranules h off bs w = { s with mem := m, lineKeys := lk, gtags := l } := by
  obtain ⟨h1, -, -, h4, -⟩ := (canonical_iff s).1 hc
  obtain ⟨⟨m, lk, e, -⟩, -⟩ := putBytes_spec (s := s) h off bs h1 h4 ho
  obtain ⟨l, e'⟩ := foldl_setTagWord_eq h w (granulesOf off bs.length) (s.putBytes h off bs)
  exact ⟨m, lk, l, by rw [State.putGranules, e', e]⟩

theorem tagWord_putGranules {s : State} (hc : s.canonical = true) (h : Home) (off : Nat) (bs : List Byte) (w : Word)
    (ho : off + bs.length ≤ 2 ^ 64) (a : Nat) : (s.putGranules h off bs w).tagWord h a =
      if ∃ g ∈ granulesOf off bs.length, a / 256 = g / 256 then w else s.tagWord h a := by
  obtain ⟨h1, h2, -, h4, -⟩ := (canonical_iff s).1 hc
  obtain ⟨⟨m, lk, e, -⟩, -⟩ := putBytes_spec (s := s) h off bs h1 h4 ho
  have hc' : clWf 0 (s.putBytes h off bs).gtags = true := by rw [e]; exact h2
  have ht : (s.putBytes h off bs).tagWord h a = s.tagWord h a := by rw [e]; cases h <;> rfl
  rw [State.putGranules, tagWord_foldl_setTagWord h w _ hc', ht]

/-! ## Monitors (R236) -/

/-- A context whose monitor watches a granule that a write touches. -/
theorem overlap_granules (m off n : Nat) : overlap (m, 1) (off, n) = true ↔ ∃ g ∈ granulesOf off n, g / 256 = m / 256 := by
  simp only [overlap, mem_granulesOf, Bool.and_eq_true, decide_eq_true_eq]
  constructor
  · rintro ⟨⟨⟨-, hn⟩, h1⟩, h2⟩
    exact ⟨256 * (m / 256), ⟨hn, m / 256, rfl, by omega, by omega⟩, by omega⟩
  · rintro ⟨g, ⟨hn, k, rfl, h1, h2⟩, hm⟩
    exact ⟨⟨⟨by omega, hn⟩, by omega⟩, by omega⟩

/-- The contexts of a scratchpad. -/
theorem mem_watchers {s : State} {c : Src} (hc : c.cid < 4) {mo : Monitor} (hm : (s.getCtx c).monitor = some mo) (hh : mo.hit = false) (off n : Nat) :
    c ∈ s.watchers c.pad off n ↔ ∃ g ∈ granulesOf off n, g / 256 = mo.off / 256 := by
  obtain ⟨site, cid⟩ := c
  have hcids : (⟨site, cid⟩ : Src) ∈ (match (Src.mk site cid).pad with
      | .pool x => [0, 1, 2].map (Src.mk x) | .custodian x => [⟨x, 3⟩] | _ => []) := by
    have hc' : cid = 0 ∨ cid = 1 ∨ cid = 2 ∨ cid = 3 := by have : cid < 4 := hc; omega
    rcases hc' with rfl | rfl | rfl | rfl <;> simp [Src.pad]
  rw [← overlap_granules]
  simp only [State.watchers, List.mem_filter, hm, hh, Bool.not_false, Bool.true_and]
  exact and_iff_right hcids

/-- Monitors met by a write leave tag words and tiles. -/
theorem wakeAll_frame (cs : List Src) (s : State) :
    (s.wakeAll cs).gtags = s.gtags ∧ (∀ n, (s.wakeAll cs).getTile n = s.getTile n) ∧ s.sameStore (s.wakeAll cs) ∧ Written s (s.wakeAll cs) := by
  have keeps := fold_keeps _ (fun s c => (wake_keeps s c).1) (fun s c => (wake_keeps s c).2) cs s
  refine ⟨foldl_field State.gtags (fun s c => ?_) cs s, fun n => foldl_field (fun s => s.getTile n) (fun s c => ?_) cs s, keeps.1, keeps.2⟩
  · simp [State.modCtx]
  · simp [State.modCtx]

/-- Each of them is met, and its wake-up is under way; any other monitor stays as it is. -/
theorem wakeAll_monitor (cs : List Src) : ∀ (s : State) (c : Src) (mo : Monitor), (s.getCtx c).monitor = some mo →
    ((s.wakeAll cs).getCtx c).monitor = some (if c ∈ cs then { mo with hit := true } else mo) := by
  induction cs with
  | nil => intro s c mo h; simpa [State.wakeAll] using h
  | cons d cs ih =>
    intro s c mo h
    have hstep : s.wakeAll (d :: cs) = ((s.modCtx d Ctx.monitorHit).send (wakeWork d)).wakeAll cs := rfl
    by_cases hd : c = d
    · subst hd
      rw [hstep, ih _ c { mo with hit := true } (by simp [State.modCtx, Ctx.monitorHit, h])]
      simp
    · rw [hstep, ih _ c mo (by simp [State.modCtx, getCtx_setCtx_ne _ _ hd, h])]
      simp [hd]

theorem wakeAll_work (cs : List Src) : ∀ (s : State) (c : Src), c ∈ cs → wakeWork c ∈ (s.wakeAll cs).work := by
  induction cs with
  | nil => intro s c h; exact absurd h List.not_mem_nil
  | cons d cs ih =>
    intro s c h
    have hstep : s.wakeAll (d :: cs) = ((s.modCtx d Ctx.monitorHit).send (wakeWork d)).wakeAll cs := rfl
    rw [hstep]
    rcases List.mem_cons.1 h with rfl | h
    · exact (wakeAll_frame cs _).2.2.2.work _ (by simp)
    · exact ih _ c h

/-! ## Tiles and bank operations (R191) -/

theorem getTile_own (s : State) : s.getTile s.who.site = s.tile := if_pos rfl

theorem getTile_modTile (s : State) (n : Nat) (f : Tile → Tile) (k : Nat) :
    (s.modTile n f).getTile k = if k = n then f (s.getTile k) else s.getTile k := by
  split
  · next h => subst h; exact getTile_setTile ..
  · next h => exact getTile_setTile_ne s _ h

/-- A change of a tile leaves all but the tiles. -/
theorem modTile_eq (s : State) (n : Nat) (f : Tile → Tile) : ∃ t l, s.modTile n f = { s with tile := t, parkedTile := l } := by
  unfold State.modTile State.setTile
  split
  · exact ⟨_, s.parkedTile, rfl⟩
  · exact ⟨s.tile, _, rfl⟩

/-- A field that a change of a tile keeps is kept at every tile. -/
theorem modTile_field {β : Type} (g : Tile → β) {f : Tile → Tile} (hf : ∀ t, g (f t) = g t) (s : State) (n k : Nat) :
    g ((s.modTile n f).getTile k) = g (s.getTile k) := by
  rw [getTile_modTile]
  split
  · exact hf _
  · rfl

theorem modTile_sameTags {f : Tile → Tile} (hf : ∀ t, (f t).scrub = t.scrub) (s : State) (n : Nat) : s.sameTags (s.modTile n f) :=
  ⟨State.setTile_gtags .., modTile_field Tile.scrub hf s n⟩

theorem modTile_sameStore (s : State) (n : Nat) (f : Tile → Tile) : s.sameStore (s.modTile n f) := by
  obtain ⟨t, l, e⟩ := modTile_eq s n f
  rw [e]; exact ⟨rfl, rfl, rfl, rfl⟩

/-- A field of the tiles other than what waits at their banks is kept by bank operations. -/
theorem useBanks_field {β : Type} (g : Tile → β) (hg : ∀ t l, g { t with banks := l } = g t) (s : State) (h : Home) (off n k : Nat) :
    g ((s.useBanks h off n).getTile k) = g (s.getTile k) := by
  cases h with
  | pool site => exact modTile_field g (fun t => hg t _) s site k
  | _ => rfl

/-- Bank operations leave all but the tiles. -/
theorem useBanks_eq (s : State) (h : Home) (off n : Nat) : ∃ t l, s.useBanks h off n = { s with tile := t, parkedTile := l } := by
  cases h with
  | pool site => unfold State.useBanks; exact modTile_eq ..
  | _ => exact ⟨s.tile, s.parkedTile, rfl⟩

theorem useBanks_sameTags (s : State) (h : Home) (off n : Nat) : s.sameTags (s.useBanks h off n) := by
  obtain ⟨t, l, e⟩ := useBanks_eq s h off n
  exact ⟨by rw [e], useBanks_field Tile.scrub (fun _ _ => rfl) s h off n⟩

/-! ## Marks of 64-byte units (R199, R202) -/

theorem unitPoison_setUnit {s : State} (hc : clWf false s.pois = true) (h : Home) (v u : Nat) (b : Bool) :
    (s.setUnit h (64 * v) b).unitPoison h (64 * u) = if u = v then b else s.unitPoison h (64 * u) := by
  have hk : h.key (64 * u) / 64 = h.key (64 * v) / 64 ↔ u = v := by simp only [Home.key]; omega
  show clGet false (clSet false s.pois _ b) _ = _
  rw [clGet_set hc]
  simp only [hk]
  rfl

/-- The mark of a unit after a write of n bytes that touches it. -/
def State.newMark (s : State) (h : Home) (off n : Nat) (poison : Bool) (u : Nat) : Bool :=
  if poison then true else if off ≤ 64 * u ∧ 64 * u + 64 ≤ off + n then false else s.unitPoison h (64 * u)

/-- One unit marked, as a write of n bytes marks it. -/
def State.markUnit (s : State) (h : Home) (off n : Nat) (poison : Bool) (u : Nat) : State :=
  if poison then s.setUnit h (64 * u) true else if off ≤ 64 * u && 64 * u + 64 ≤ off + n then s.setUnit h (64 * u) false else s

theorem markUnits_eq (s : State) (h : Home) (off n : Nat) (poison : Bool) :
    s.markUnits h off n poison = (linesOf off n).foldl (fun s u => s.markUnit h off n poison u) s := rfl

theorem markUnit_spec {s : State} (hc : clWf false s.pois = true) (h : Home) (off n : Nat) (poison : Bool) (v : Nat) :
    clWf false (s.markUnit h off n poison v).pois = true ∧ (s.markUnit h off n poison v).gtags = s.gtags
      ∧ ∀ u, (s.markUnit h off n poison v).unitPoison h (64 * u) = if u = v then s.newMark h off n poison u else s.unitPoison h (64 * u) := by
  cases poison
  · by_cases hcov : off ≤ 64 * v ∧ 64 * v + 64 ≤ off + n
    · have e : s.markUnit h off n false v = s.setUnit h (64 * v) false := by simp [State.markUnit, hcov]
      rw [e]
      refine ⟨clSet_wf hc _ _, rfl, fun u => ?_⟩
      rw [unitPoison_setUnit hc]
      split
      · next hu => subst hu; simp [State.newMark, hcov]
      · rfl
    · have e : s.markUnit h off n false v = s := by simpa [State.markUnit] using fun h1 h2 => absurd ⟨h1, h2⟩ hcov
      rw [e]
      refine ⟨hc, rfl, fun u => ?_⟩
      split
      · next hu => subst hu; simp [State.newMark, hcov]
      · rfl
  · exact ⟨clSet_wf hc _ _, rfl, fun u => unitPoison_setUnit hc h v u true⟩

theorem foldl_markUnit_spec (h : Home) (off n : Nat) (poison : Bool) (us : List Nat) : ∀ {s : State}, clWf false s.pois = true →
    (us.foldl (fun s u => s.markUnit h off n poison u) s).gtags = s.gtags
    ∧ ∀ u, (us.foldl (fun s u => s.markUnit h off n poison u) s).unitPoison h (64 * u)
      = if u ∈ us then s.newMark h off n poison u else s.unitPoison h (64 * u) := by
  induction us with
  | nil => intro s _; exact ⟨rfl, fun u => by simp⟩
  | cons v us ih =>
    intro s hc
    obtain ⟨hc', hg, hv⟩ := markUnit_spec hc h off n poison v
    obtain ⟨ihg, ihu⟩ := ih hc'
    refine ⟨ihg.trans hg, fun u => ?_⟩
    have hnew : (s.markUnit h off n poison v).newMark h off n poison u = s.newMark h off n poison u := by
      unfold State.newMark
      rw [hv]
      split
      · rfl
      · split
        · rfl
        · split
          · next hu h1 h2 => unfold State.newMark; rw [if_neg hu, if_neg h1]
          · rfl
    rw [List.foldl_cons, ihu, hnew, hv]
    by_cases h1 : u ∈ us
    · simp [h1]
    · by_cases h2 : u = v <;> simp [h1, h2]

/-- A write marks the units that it touches as its data are poisoned, or clears those that it covers, and changes no tag word. -/
theorem markUnits_spec {s : State} (hc : clWf false s.pois = true) (h : Home) (off n : Nat) (poison : Bool) :
    (s.markUnits h off n poison).gtags = s.gtags
    ∧ ∀ u ∈ linesOf off n, (s.markUnits h off n poison).unitPoison h (64 * u) = s.newMark h off n poison u := by
  obtain ⟨hg, hu⟩ := foldl_markUnit_spec h off n poison (linesOf off n) hc
  rw [markUnits_eq]
  exact ⟨hg, fun u hm => (hu u).trans (if_pos hm)⟩

end Sys2Proof.Machine
end

section
/-! Accesses performed at their homes: what a load, a store and a read-modify-write leave (R209, R212, R223, R224, R233). -/

namespace Sys2Proof.Machine

/-! ## What touches no home -/

/-- `t` is `s` but for links, for what tiles count and hold at their banks, and for work added. -/
structure State.keepsHomes (s t : State) : Prop where
  store : s.sameStore t
  tags : s.sameTags t
  pois : t.pois = s.pois
  ctx : t.ctx = s.ctx
  ctxs : ∀ c, t.getCtx c = s.getCtx c
  work : ∀ w ∈ s.work, w ∈ t.work
  canonical : s.canonical = true → t.canonical = true

theorem keepsHomes_trans {s t u : State} (h : s.keepsHomes t) (g : t.keepsHomes u) : s.keepsHomes u :=
  ⟨sameStore_trans h.store g.store, sameTags_trans h.tags g.tags, g.pois.trans h.pois, g.ctx.trans h.ctx, fun c => (g.ctxs c).trans (h.ctxs c),
    fun w hw => g.work w (h.work w hw), fun hc => g.canonical (h.canonical hc)⟩

theorem keepsHomes_links (s : State) (l : Vector Link 12) : s.keepsHomes { s with links := l } :=
  ⟨⟨rfl, rfl, rfl, rfl⟩, ⟨rfl, fun _ => rfl⟩, rfl, rfl, fun _ => rfl, fun _ h => h, id⟩

theorem asked_keepsHomes (s : State) (h : Home) : s.keepsHomes (s.asked h) := by
  rw [asked_eq]; exact keepsHomes_links ..

theorem send_keepsHomes (s : State) (w : Work) : s.keepsHomes (s.send w) :=
  ⟨⟨rfl, rfl, rfl, rfl⟩, ⟨rfl, fun _ => rfl⟩, rfl, rfl, fun _ => rfl, fun _ h => List.mem_append_left _ h, id⟩

theorem modTile_keepsHomes {f : Tile → Tile} (hf : ∀ t, (f t).scrub = t.scrub) (s : State) (n : Nat) : s.keepsHomes (s.modTile n f) := by
  have ht := modTile_sameTags hf s n
  obtain ⟨t, l, e⟩ := modTile_eq s n f
  rw [e] at ht ⊢
  exact ⟨⟨rfl, rfl, rfl, rfl⟩, ht, rfl, rfl, fun _ => rfl, fun _ h => h, id⟩

theorem useBanks_keepsHomes (s : State) (h : Home) (off n : Nat) : s.keepsHomes (s.useBanks h off n) := by
  have ht := useBanks_sameTags s h off n
  obtain ⟨t, l, e⟩ := useBanks_eq s h off n
  rw [e] at ht ⊢
  exact ⟨⟨rfl, rfl, rfl, rfl⟩, ht, rfl, rfl, fun _ => rfl, fun _ h => h, id⟩

theorem acked_keepsHomes (s : State) (c : Src) (ack : Bool) : s.keepsHomes (s.acked c ack) := by
  cases ack
  · exact keepsHomes_links s s.links
  · exact send_keepsHomes ..

/-! ## A write at a home -/

/-- `t` is `s` after a write of `bs` at `off` of home `h` under tag word `w` and poison `p`. -/
structure WrittenAt (s t : State) (h : Home) (off : Nat) (bs : List Byte) (w : Word) (p : Bool) : Prop where
  bytes : t.bytes h off bs.length = bs
  others : s.sameBytesBut t h off bs.length
  ctx : ∃ mo, t.ctx = { s.ctx with monitor := mo }
  tags : ∀ site, h = .pool site ∨ h = .custodian site → ∀ a,
    t.tagWord h a = if ∃ g ∈ granulesOf off bs.length, a / 256 = g / 256 then w else s.tagWord h a
  met : ∀ (c : Src) (mo : Monitor), c.pad = h → c.cid < 4 → (s.getCtx c).monitor = some mo → mo.hit = false →
    (∃ g ∈ granulesOf off bs.length, g / 256 = mo.off / 256) → wakeWork c ∈ t.work ∧ (t.getCtx c).monitor = some { mo with hit := true }
  unmet : ∀ (c : Src) (mo : Monitor), c.pad = h → c.cid < 4 → (s.getCtx c).monitor = some mo → mo.hit = false →
    ¬(∃ g ∈ granulesOf off bs.length, g / 256 = mo.off / 256) → (t.getCtx c).monitor = some mo
  marks : (∀ site, h ≠ .pool site ∧ h ≠ .custodian site ∧ ∀ d, h ≠ .peerPool d site) → t.gtags = s.gtags
    ∧ ∀ u ∈ linesOf off bs.length, t.unitPoison h (64 * u) = s.newMark h off bs.length p u

/-- The undo log of a partition keeps marks and tag words. -/
theorem logUndo_marks (s : State) (line : Nat) : (s.logUndo line).pois = s.pois ∧ (s.logUndo line).gtags = s.gtags := by
  unfold State.logUndo
  simp only
  split_ifs <;> simp [State.report, State.modTile, State.setPart]

section homeWrite
variable {s : State} (hc : s.canonical = true) (h : Home) (off : Nat) (bs : List Byte) (w : Word) (p : Bool) (ho : off + bs.length ≤ 2 ^ 64)
include hc ho

theorem tagWord_bankWrite (a : Nat) : (s.bankWrite h off bs w).tagWord h a =
    if ∃ g ∈ granulesOf off bs.length, a / 256 = g / 256 then w else s.tagWord h a := by
  obtain ⟨hg, ht, -⟩ := wakeAll_frame (s.watchers h off bs.length) (s.putGranules h off bs w)
  rw [State.bankWrite, sameTags_tagWord ⟨hg, fun n => congrArg Tile.scrub (ht n)⟩, tagWord_putGranules hc h off bs w ho]

theorem monitor_bankWrite {c : Src} {mo : Monitor} (hm : (s.getCtx c).monitor = some mo) :
    ((s.bankWrite h off bs w).getCtx c).monitor = some (if c ∈ s.watchers h off bs.length then { mo with hit := true } else mo) := by
  obtain ⟨m, lk, l, e⟩ := putGranules_eq hc h off bs w ho
  refine wakeAll_monitor (s.watchers h off bs.length) _ c mo ?_
  rw [e]; exact hm

theorem marks_homeWrite (hh : ∀ site, h ≠ .pool site ∧ h ≠ .custodian site ∧ ∀ d, h ≠ .peerPool d site) :
    (s.homeWrite h off bs w p).gtags = s.gtags
    ∧ ∀ u ∈ linesOf off bs.length, (s.homeWrite h off bs w p).unitPoison h (64 * u) = s.newMark h off bs.length p u := by
  have plain (v : State) (hv : v.canonical = true) (hp : v.pois = s.pois) (hg : v.gtags = s.gtags) :
      ((v.putBytes h off bs).markUnits h off bs.length p).gtags = s.gtags
      ∧ ∀ u ∈ linesOf off bs.length, ((v.putBytes h off bs).markUnits h off bs.length p).unitPoison h (64 * u) = s.newMark h off bs.length p u := by
    obtain ⟨h1, -, h3, h4, -⟩ := (canonical_iff v).1 hv
    obtain ⟨⟨m, lk, e, -⟩, -⟩ := putBytes_spec (s := v) h off bs h1 h4 ho
    obtain ⟨hg', hu⟩ := markUnits_spec (s := v.putBytes h off bs) (by rw [e]; exact h3) h off bs.length p
    refine ⟨hg'.trans (by rw [e]; exact hg), fun u hm => (hu u hm).trans ?_⟩
    rw [e]
    unfold State.newMark State.unitPoison
    rw [hp]
  have same := plain s hc rfl rfl
  cases h with
  | pool site => exact absurd rfl (hh site).1
  | custodian site => exact absurd rfl (hh site).2.1
  | peerPool d site => exact absurd rfl ((hh site).2.2 d)
  | dram =>
    have keeps := fold_keeps _ (fun s l => (logUndo_keeps s l).1) (fun s l => (logUndo_keeps s l).2) (linesOf off bs.length) s
    exact plain _ (keeps.2.canonical hc) (foldl_field State.pois (fun s l => (logUndo_marks s l).1) _ s)
      (foldl_field State.gtags (fun s l => (logUndo_marks s l).2) _ s)
  | host => exact same
  | slice k => exact same
  | peerMem d => exact same

/-- A write at a home, behind and before what touches no home. -/
theorem homeWrite_writtenAt {r t : State} (hr : r.keepsHomes s) (ht : (s.homeWrite h off bs w p).keepsHomes t) :
    WrittenAt r t h off bs w p := by
  obtain ⟨hbytes, hothers, hw⟩ := homeWrite_spec (s := s) h off bs w p hc ho
  have hpad (c : Src) (he : c.pad = h) : s.homeWrite h off bs w p = s.bankWrite h off bs w := by
    subst he; unfold Src.pad; split <;> rfl
  refine ⟨(sameStore_bytes ht.store h _ off).trans hbytes, ?_, ?_, fun site hsite a => ?_, fun c mo hcp hcid hm hh hg => ?_,
    fun c mo hcp hcid hm hh hg => ?_, fun hh => ?_⟩
  · exact sameBytesBut_sameStore hr.store hothers ht.store
  · obtain ⟨mo, hmo⟩ := hw.ctx
    exact ⟨mo, by rw [ht.ctx, hmo, hr.ctx]⟩
  · have hb : s.homeWrite h off bs w p = s.bankWrite h off bs w := by rcases hsite with rfl | rfl <;> rfl
    rw [sameTags_tagWord ht.tags, hb, tagWord_bankWrite hc h off bs w ho, sameTags_tagWord hr.tags]
  · rw [← hr.ctxs] at hm
    have hwatch : c ∈ s.watchers h off bs.length := by subst hcp; exact (mem_watchers hcid hm hh off bs.length).2 hg
    rw [hpad c hcp] at ht
    refine ⟨ht.work _ (wakeAll_work _ _ c hwatch), ?_⟩
    rw [ht.ctxs, monitor_bankWrite hc h off bs w ho hm, if_pos hwatch]
  · rw [← hr.ctxs] at hm
    have hwatch : c ∉ s.watchers h off bs.length := by subst hcp; exact fun hx => hg ((mem_watchers hcid hm hh off bs.length).1 hx)
    rw [ht.ctxs, hpad c hcp, monitor_bankWrite hc h off bs w ho hm, if_neg hwatch]
  · obtain ⟨hgt, hu⟩ := marks_homeWrite hc h off bs w p ho hh
    refine ⟨ht.tags.1.trans (hgt.trans hr.tags.1), fun u hm => ?_⟩
    have e1 : t.unitPoison h (64 * u) = (s.homeWrite h off bs w p).unitPoison h (64 * u) := by unfold State.unitPoison; rw [ht.pois]
    rw [e1, hu u hm]
    unfold State.newMark State.unitPoison
    rw [hr.pois]

end homeWrite

/-! ## Tag words of a write (R171, R235) -/

/-- A bit joined to one field of five leaves the others. -/
theorem append_or_field {k l m n o : Nat} (a : BitVec k) (p q : Bool) (b : BitVec l) (c : BitVec m) (d : BitVec n) (e : BitVec o) :
    (e ++ a ++ BitVec.ofBool p ++ b ++ c ++ d) ||| (0#o ++ 0#k ++ BitVec.ofBool q ++ 0#l ++ 0#m ++ 0#n)
      = e ++ a ++ BitVec.ofBool (p || q) ++ b ++ c ++ d := by
  simp only [BitVec.or_append, BitVec.ofBool_or_ofBool, BitVec.or_zero]

/-- Poison joined to a tag word is poison joined to its POISON bit. -/
theorem mkTagWord_or_poison (part : BitVec 4) (p q : Bool) (writer : BitVec 10) (stamp : BitVec 8) (tag : Tag) :
    mkTagWord part p writer stamp tag ||| (if q then 1 <<< 50 else 0) = mkTagWord part (p || q) writer stamp tag := by
  have hbit : ((if q then 1 <<< 50 else 0 : Nat) : Word) = 0#9 ++ 0#4 ++ BitVec.ofBool q ++ 0#10 ++ 0#8 ++ 0#32 := by cases q <;> rfl
  rw [hbit]
  exact append_or_field part p q writer stamp tag (0 : BitVec 9)

/-! ## The access served (R209) -/

section served
variable {r : Req} {s : State} (hc : s.canonical = true) (hm : homeMissing r.home = false) (hr : s.refuses r = false)

/-- The state in which an admitted access is performed: its packet counted on its link, its banks taken. -/
def State.serving (s : State) (r : Req) : State := (s.asked r.home).usesBank r

theorem serving_keepsHomes (s : State) (r : Req) : s.keepsHomes (s.serving r) :=
  keepsHomes_trans (asked_keepsHomes s r.home) (useBanks_keepsHomes ..)

/-- It differs from the state before in links and tiles alone. -/
theorem serving_eq (s : State) (r : Req) : ∃ l t k, s.serving r = { s with links := l, tile := t, parkedTile := k } := by
  obtain ⟨t, k, e⟩ := useBanks_eq (s.asked r.home) r.home r.off (accessSize r.body)
  exact ⟨_, t, k, by rw [State.serving, State.usesBank, e, asked_eq]⟩

theorem serving_who (s : State) (r : Req) : (s.serving r).who = s.who := by obtain ⟨l, t, k, e⟩ := serving_eq s r; rw [e]

theorem serving_work (s : State) (r : Req) : (s.serving r).work = s.work := by obtain ⟨l, t, k, e⟩ := serving_eq s r; rw [e]

theorem serving_bflags (s : State) (r : Req) : (s.serving r).tile.bflags = s.tile.bflags := by
  rw [← getTile_own, serving_who, ← getTile_own s, State.serving, State.usesBank, useBanks_field Tile.bflags fun _ _ => rfl, asked_eq]
  rfl

theorem asked_homePoison (s : State) (x h : Home) (off n : Nat) : (s.asked x).homePoison h off n = s.homePoison h off n := by
  rw [asked_eq]; cases h <;> rfl

theorem asked_word (s : State) (x h : Home) (off n : Nat) : (s.asked x).word h off n = s.word h off n := by
  rw [State.word, sameStore_bytes (asked_keepsHomes s x).store, State.word]

/-- The flags of a non-returning operation joined to ctl.bflags of the tile whose bank performed it (R55). -/
def Tile.flagged (t : Tile) (fl : Flags) : Tile := { t with bflags := t.bflags ||| fl }

/-- What follows a read-modify-write at its home: its answer, or its flags and its acknowledgement. -/
def State.rmwDone (u : State) (r : Req) (ret : Bool) (x : RmwResult) (q : Bool) : State :=
  if ret then u.send (answerWork ⟨r.src, r.id, [x.ret], q, x.flags⟩)
  else (u.modTile (reqBank r) (Tile.flagged · x.flags)).acked r.src (r.id != 0)

theorem rmwDone_keepsHomes (u : State) (r : Req) (ret : Bool) (x : RmwResult) (q : Bool) : u.keepsHomes (u.rmwDone r ret x q) := by
  cases ret
  · exact keepsHomes_trans (modTile_keepsHomes (f := (Tile.flagged · x.flags)) (fun _ => rfl) u (reqBank r)) (acked_keepsHomes ..)
  · exact send_keepsHomes ..

theorem rmwDone_bflags (u : State) {r : Req} (h : reqBank r = u.who.site) (x : RmwResult) (q : Bool) :
    (u.rmwDone r false x q).tile.bflags = u.tile.bflags ||| x.flags := by
  have hack (v : State) (c : Src) (ack : Bool) : (v.acked c ack).tile = v.tile := by cases ack <;> rfl
  have hown : (u.modTile u.who.site (Tile.flagged · x.flags)).tile = u.tile.flagged x.flags := by
    simp [State.modTile, State.setTile, State.getTile]
  simp only [State.rmwDone, Bool.false_eq_true, if_false, hack, h, hown]
  rfl

include hm hr

/-- An access that its home admits is performed there. -/
theorem arrival_served : exec (.remoteAccessArrival r) s = .next ((s.asked r.home).perform r false (r.id != 0)) := by
  show execRemoteAccessArrival r s = _
  simp only [execRemoteAccessArrival, hm, hr, Bool.false_eq_true, if_false]

theorem load_served {n : Nat} (hb : r.body = .load n) : ∃ t, exec (.remoteAccessArrival r) s = .next t
    ∧ t.work = s.work ++ [answerWork ⟨r.src, r.id, bytesWords (s.bytes r.home r.off n), s.homePoison r.home r.off n, 0⟩]
    ∧ t.ctx = s.ctx ∧ t.mem = s.mem ∧ t.gtags = s.gtags ∧ t.pois = s.pois := by
  have hx := arrival_served hm hr
  simp only [State.perform, hb, Bool.false_eq_true, if_false, asked_homePoison, sameStore_bytes (asked_keepsHomes s r.home).store] at hx
  have hk := serving_keepsHomes s r
  refine ⟨_, hx, ?_, hk.ctx, hk.store.1, hk.tags.1, hk.pois⟩
  exact congrArg (· ++ _) (serving_work s r)

include hc

theorem store_served {data : List Byte} {tag : Tag} {ws : BitVec 8} {p : Bool} (hb : r.body = .store data tag ws p)
    (ho : r.off + data.length ≤ 2 ^ 64) : ∃ t, exec (.remoteAccessArrival r) s = .next t
    ∧ WrittenAt s t r.home r.off data (mkTagWord r.part p (BitVec.ofNat 10 r.src.site) ws tag) p ∧ (r.id ≠ 0 → ackWork r.src ∈ t.work) := by
  have hx := arrival_served hm hr
  simp only [State.perform, hb, Bool.false_eq_true, if_false, reqTagWord] at hx
  have hk := serving_keepsHomes s r
  refine ⟨_, hx, homeWrite_writtenAt (hk.canonical hc) _ _ _ _ _ ho hk (acked_keepsHomes ..), fun hid => ?_⟩
  simp [State.acked, hid]

theorem rmw_served {op : RmwOp} {ty : Fmt} {d e : Word} {fi fo ret : Bool} {tag : Tag} {ws : BitVec 8} {p : Bool}
    (hb : r.body = .rmw op ty d e fi fo ret tag ws p) (ho : r.off + ty.width / 8 ≤ 2 ^ 64) :
    let x := rmwApply op ty fi fo (s.word r.home r.off (ty.width / 8)) d e
    let q := p || s.homePoison r.home r.off (ty.width / 8)
    ∃ t, exec (.remoteAccessArrival r) s = .next t
      ∧ WrittenAt s t r.home r.off (leBytes (ty.width / 8) x.new) (mkTagWord r.part q (BitVec.ofNat 10 r.src.site) ws tag) q
      ∧ (ret = true → answerWork ⟨r.src, r.id, [x.ret], q, x.flags⟩ ∈ t.work)
      ∧ (ret = false → reqBank r = s.who.site → t.tile.bflags = s.tile.bflags ||| x.flags) := by
  intro x q
  have hx := arrival_served hm hr
  simp only [State.perform, hb, Bool.false_eq_true, if_false, reqTagWord, asked_homePoison, asked_word, mkTagWord_or_poison,
    Bool.or_comm (s.homePoison _ _ _)] at hx
  have hk := serving_keepsHomes s r
  have hlen : r.off + (leBytes (ty.width / 8) x.new).length ≤ 2 ^ 64 := by rw [leBytes_length]; exact ho
  have hdone : exec (.remoteAccessArrival r) s = .next (((s.serving r).homeWrite r.home r.off (leBytes (ty.width / 8) x.new)
      (mkTagWord r.part q (BitVec.ofNat 10 r.src.site) ws tag) q).rmwDone r ret x q) := hx
  refine ⟨_, hdone, homeWrite_writtenAt (hk.canonical hc) _ _ _ _ _ hlen hk (rmwDone_keepsHomes ..), fun hret => ?_, fun hret hbank => ?_⟩
  · subst hret
    exact List.mem_append_right _ (List.mem_singleton_self _)
  · subst hret
    have hw := (homeWrite_spec r.home r.off _ (mkTagWord r.part q (BitVec.ofNat 10 r.src.site) ws tag) q (hk.canonical hc) hlen).2.2
    obtain ⟨l, n, htile⟩ := hw.tile
    rw [rmwDone_bflags _ (hbank.trans (by rw [hw.who, serving_who])), htile, ← serving_bflags s r]

end served

/-! ## The obligation -/

section written
variable {s t : State} {h : Home} {off : Nat} {bs : List Byte} {w : Word} {p : Bool} (hw : WrittenAt s t h off bs w p)
include hw

/-- Every granule of a write has its tag word. -/
theorem written_tag {site : Nat} (hh : h = .pool site ∨ h = .custodian site) {g : Nat} (hg : g ∈ granulesOf off bs.length) :
    t.tagWord h g = w := by
  rw [hw.tags site hh g, if_pos ⟨g, hg, rfl⟩]

/-- Every other granule keeps its own. -/
theorem written_tag_outside {site : Nat} (hh : h = .pool site ∨ h = .custodian site) {a : Nat}
    (ha : ∀ g ∈ granulesOf off bs.length, a / 256 ≠ g / 256) : t.tagWord h a = s.tagWord h a := by
  rw [hw.tags site hh a, if_neg fun ⟨g, hg, e⟩ => ha g hg e]

/-- A monitor armed on a granule of a write meets it, any other does not. -/
theorem written_monitor {c : Src} {mo : Monitor} (hp : c.pad = h) (hcid : c.cid < 4) (hm : (s.getCtx c).monitor = some mo) (hh : mo.hit = false) :
    ((∃ g ∈ granulesOf off bs.length, g / 256 = mo.off / 256) → wakeWork c ∈ t.work ∧ (t.getCtx c).monitor = some { mo with hit := true })
    ∧ ((∀ g ∈ granulesOf off bs.length, g / 256 ≠ mo.off / 256) → (t.getCtx c).monitor = some mo) :=
  ⟨hw.met c mo hp hcid hm hh, fun hg => hw.unmet c mo hp hcid hm hh fun ⟨g, hm, e⟩ => hg g hm e⟩

end written

/-- Settles O22: an admitted access is served at once (`arrival_served`), and a write at a home, behind and before what touches none, leaves
what `WrittenAt` says. -/
theorem accessesPerformed : Obligations.AccessesPerformed := by
  unfold Obligations.AccessesPerformed
  refine ⟨fun r s hc hm hr => ⟨fun n hb => load_served hm hr hb, fun data tag ws p hb ho => ?_, fun op ty d e fi fo ret tag ws p hb ho => ?_⟩,
    fun r s hc hm hr => ?_⟩
  · obtain ⟨t, hx, hw, hack⟩ := store_served hc hm hr hb ho
    exact ⟨t, hx, hw.bytes, hw.others, hw.ctx, hack⟩
  · obtain ⟨t, hx, hw, hret, hfl⟩ := rmw_served hc hm hr hb ho
    have hbytes := hw.bytes
    have hothers := hw.others
    rw [leBytes_length] at hbytes hothers
    exact ⟨t, hx, hbytes, hothers, hw.ctx, fun h => ⟨_, hret h⟩, hfl⟩
  · intro marks
    have hmarks {bs : List Byte} {n : Nat} {tag : Tag} {ws : BitVec 8} {p : Bool} {t : State} (hn : bs.length = n)
        (hx : exec (.remoteAccessArrival r) s = .next t)
        (hw : WrittenAt s t r.home r.off bs (mkTagWord r.part p (BitVec.ofNat 10 r.src.site) ws tag) p) : marks n tag ws p := by
      subst hn
      exact ⟨t, hx, fun site hh => ⟨fun g hg => written_tag hw hh hg, fun a _ ha => written_tag_outside hw hh ha,
        fun c mo _ hp hcid hmo hhit => written_monitor hw hp hcid hmo hhit⟩, hw.marks⟩
    refine ⟨fun data tag ws p hb ho => ?_, fun op ty d e fi fo ret tag ws p hb ho => ?_⟩
    · obtain ⟨t, hx, hw, -⟩ := store_served hc hm hr hb ho
      exact hmarks rfl hx hw
    · obtain ⟨t, hx, hw, -⟩ := rmw_served hc hm hr hb ho
      exact hmarks (leBytes_length ..) hx hw

end Sys2Proof.Machine
end

section
/-! Stream chunks as they are fetched and drained, the issue of block products, the delivery of their sums, and the touchstone compares. -/

namespace Sys2Proof.Machine

/-! ## A chunk fetched ahead (R280) -/

/-- What bank operations leave: everything but the tiles. -/
theorem useBanks_frame (s : State) (h : Home) (off n : Nat) :
    (s.useBanks h off n).mem = s.mem ∧ (s.useBanks h off n).gtags = s.gtags := by
  cases h <;> simp [State.useBanks, State.modTile]

theorem foldl_useBanks_frame {α : Type} (off : α → Nat) (gs : List α) (s : State) :
    let t := gs.foldl (fun s g => s.useBanks s.who.pad (off g) 1) s
    t.ctx = s.ctx ∧ t.mem = s.mem ∧ t.gtags = s.gtags :=
  ⟨foldl_field State.ctx (fun s g => useBanks_ctx s _ (off g) 1) gs s, foldl_field State.mem (fun s g => (useBanks_frame s _ (off g) 1).1) gs s,
    foldl_field State.gtags (fun s g => (useBanks_frame s _ (off g) 1).2) gs s⟩

theorem streamChunkFetch_fetches {k : BitVec 3} {s : State} {b : Binding} {n : Nat} {r : ChunkRead} (hb : s.binding k = some b)
    (hw : writePort b = false) (hn : s.ctx.nextFetch k b = some n) (hr : s.readChunk b n = .ok r) :
    ∃ t, exec (.streamChunkFetch k) s = .next t ∧ t.ctx = { s.ctx with fetched := s.ctx.fetched ++ [⟨k, n, r.bytes, r.gs, r.poison⟩] }
      ∧ t.mem = s.mem ∧ t.gtags = s.gtags ∧ (streamKind b.desc = 1 → t.tile = s.tile) := by
  have hx : exec (.streamChunkFetch k) s = execStreamChunkFetch k s := rfl
  simp only [execStreamChunkFetch, hb, hw, hn, hr, Bool.false_eq_true, if_false] at hx
  refine ⟨_, hx, ?_⟩
  split
  · exact ⟨rfl, rfl, rfl, fun _ => rfl⟩
  · next hk =>
    obtain ⟨h1, h2, h3⟩ := foldl_useBanks_frame Prod.fst r.gs { s with ctx := { s.ctx with fetched := s.ctx.fetched ++ [⟨k, n, r.bytes, r.gs, r.poison⟩] } }
    exact ⟨h1, h2, h3, fun h => absurd h hk⟩

/-! ## The touchstone compares (R388) -/

theorem touches_iff (c : Ctx) (f : Flight) : c.touches f = true ↔ f.due ≤ c.sclk ∧ f.dest = .touch := by
  unfold Ctx.touches Flight.isTouch
  cases f.dest <;> simp

/-- `t` has the memory of `s`, and of its context and tile in focus the results in flight and the counts of an audit. -/
structure State.sameCounts (s t : State) : Prop where
  who : t.who = s.who
  mem : t.mem = s.mem
  flight : t.ctx.flight = s.ctx.flight
  lcnt : t.tile.lcnt = s.tile.lcnt
  touches : t.tile.touches = s.tile.touches

theorem sameCounts_refl (s : State) : s.sameCounts s := ⟨rfl, rfl, rfl, rfl, rfl⟩

theorem sameCounts_trans {s t u : State} (h : s.sameCounts t) (g : t.sameCounts u) : s.sameCounts u :=
  ⟨g.who.trans h.who, g.mem.trans h.mem, g.flight.trans h.flight, g.lcnt.trans h.lcnt, g.touches.trans h.touches⟩

theorem report_sameCounts (s : State) (c : Src) (k : Nat) (a b d : Word) : s.sameCounts (s.report c k a b d) := by
  obtain ⟨⟨hm, -⟩, hw⟩ := report_keeps s c k a b d
  obtain ⟨r, l, ht⟩ := hw.tile
  exact ⟨hw.who, hm, by rw [report_ctx], by rw [ht], by rw [ht]⟩

theorem tallyJob_sameCounts (s : State) (c : Src) (f : JobTally → JobTally) : s.sameCounts (s.tallyJob c f) := by
  unfold State.tallyJob
  split
  · exact sameCounts_refl s
  · split
    · exact sameCounts_refl s
    · exact ⟨rfl, rfl, rfl, rfl, rfl⟩

theorem setTile_sameCounts (s : State) (site : Nat) {x : Tile} (hl : x.lcnt = (s.getTile site).lcnt) (ht : x.touches = (s.getTile site).touches) :
    s.sameCounts (s.setTile site x) := by
  by_cases h : site = s.who.site
  · subst h
    simp only [State.getTile, if_true] at hl ht
    simp only [State.setTile, if_true]
    exact ⟨rfl, rfl, rfl, hl, ht⟩
  · simp only [State.setTile, if_neg h]
    exact ⟨rfl, rfl, rfl, rfl, rfl⟩

theorem setCtx_sameCounts (s : State) (c : Src) {x : Ctx} (hx : x.flight = (s.getCtx c).flight) : s.sameCounts (s.setCtx c x) := by
  by_cases h : c = s.who
  · subst h
    simp only [State.getCtx, if_true] at hx
    simp only [State.setCtx, if_true]
    exact ⟨rfl, rfl, hx, rfl, rfl⟩
  · simp only [State.setCtx, if_neg h]
    exact ⟨rfl, rfl, rfl, rfl, rfl⟩

theorem askLeave_sameCounts (s : State) (c : Src) : s.sameCounts (s.askLeave c) := by
  have h := setCtx_sameCounts s c (x := { s.getCtx c with preempt := true }) rfl
  unfold State.askLeave
  simp only
  split
  · split
    · exact sameCounts_trans h ⟨rfl, rfl, rfl, rfl, rfl⟩
    · exact h
  · exact sameCounts_refl s

theorem vacate_sameCounts (s : State) (site : Nat) : s.sameCounts (s.vacate site) :=
  sameCounts_trans (sameCounts_trans (askLeave_sameCounts ..) (askLeave_sameCounts ..)) (askLeave_sameCounts ..)

/-- The start of a retirement changes no count (R182). -/
theorem checkRetire_sameCounts (s : State) (site : Nat) : s.sameCounts (s.checkRetire site) := by
  unfold State.checkRetire
  simp only
  split
  · refine sameCounts_trans (t := State.vacate _ site) ?_ ⟨rfl, rfl, rfl, rfl, rfl⟩
    refine sameCounts_trans ?_ (vacate_sameCounts ..)
    refine sameCounts_trans ?_ (report_sameCounts ..)
    exact setTile_sameCounts s site rfl rfl
  · exact sameCounts_refl s

/-- A fault charge at the own site. -/
theorem charge_own (s : State) : s.charge s.who.site false
    = State.checkRetire { s with tile := { s.tile with lcnt := satInc s.tile.lcnt, lcntInc := s.tile.lcntInc + 1 } } s.who.site := by
  simp [State.charge, State.getTile, State.setTile]

/-- A touchstone fault charges LCNT of its site and counts in the wall cycle under way (R388). -/
theorem touchFault_charges (s : State) (seed : BitVec 16) (c v : BitVec 32) :
    let t := s.touchFault seed c v
    t.ctx.flight = s.ctx.flight ∧ t.mem = s.mem ∧ t.tile.lcnt = satInc s.tile.lcnt ∧ t.tile.touches = s.tile.touches + 1 := by
  have h1 : s.sameCounts (((s.count 0x051).tallyJob s.who fun j => { j with touches := j.touches + 1 }).report s.who 0x03 (seed.setWidth 64)
      (c.setWidth 64) (v.setWidth 64)) :=
    sameCounts_trans (sameCounts_trans (t := s.count 0x051) ⟨rfl, rfl, rfl, rfl, rfl⟩ (tallyJob_sameCounts ..)) (report_sameCounts ..)
  have hwho : ((s.count 0x051).tallyJob s.who fun j => { j with touches := j.touches + 1 }).who = s.who :=
    (tallyJob_sameCounts (s.count 0x051) s.who _).who
  unfold State.touchFault
  simp only [hwho]
  generalize State.report _ s.who 3 _ _ _ = u at h1
  have h2 := checkRetire_sameCounts { u with tile := { u.tile with lcnt := satInc u.tile.lcnt, lcntInc := u.tile.lcntInc + 1 } } u.who.site
  rw [← charge_own] at h2
  generalize u.charge u.who.site false = w at h2
  have hown : w.modTile w.who.site (fun t => { t with touches := t.touches + 1 }) = { w with tile := { w.tile with touches := w.tile.touches + 1 } } := by
    simp [State.modTile, State.setTile, State.getTile]
  rw [hown]
  exact ⟨h2.flight.trans h1.flight, h2.mem.trans h1.mem, h2.lcnt.trans (congrArg satInc h1.lcnt),
    congrArg (· + 1) (h2.touches.trans h1.touches)⟩

theorem touchCompares_agree {fs : List Flight} (h : ∀ f ∈ fs, ∃ seed c, f.pay = .compare seed c c) (s : State) : s.touchCompares fs = s := by
  induction fs with
  | nil => rfl
  | cons f fs ih =>
    obtain ⟨⟨seed, c, hf⟩, hfs⟩ := List.forall_mem_cons.1 h
    have hstep : s.touchCompares (f :: fs) = s.touchCompares fs := by simp [State.touchCompares, hf]
    rw [hstep, ih hfs]

section compare
variable {s : State}

/-- Compares due that agree with the known answer leave nothing. -/
theorem touchstoneCompare_agrees (h : ∀ f ∈ s.ctx.flight, f.due ≤ s.ctx.sclk → f.dest = .touch → ∃ seed c, f.pay = .compare seed c c) :
    exec .touchstoneCompare s = .next { s with ctx := { s.ctx with
      flight := s.ctx.flight.filter fun g => !decide (g.due ≤ s.ctx.sclk ∧ g.dest = .touch) } } := by
  have hd : ∀ f ∈ s.ctx.flight.filter s.ctx.touches, ∃ seed c, f.pay = .compare seed c c := by
    intro f hf
    obtain ⟨hm, ht⟩ := List.mem_filter.1 hf
    obtain ⟨h1, h2⟩ := (touches_iff ..).1 ht
    exact h f hm h1 h2
  have he (g : Flight) : decide (g.due ≤ s.ctx.sclk ∧ g.dest = .touch) = s.ctx.touches g := by
    rw [Bool.eq_iff_iff, decide_eq_true_iff, touches_iff]
  simp only [he]
  exact congrArg Host.Outcome.next (touchCompares_agree hd _)

/-- One that does not is a touchstone fault. -/
theorem touchstoneCompare_faults {f : Flight} {seed : BitVec 16} {c v : BitVec 32} (hf : s.ctx.flight = [f]) (hd : f.due ≤ s.ctx.sclk)
    (ht : f.dest = .touch) (hp : f.pay = .compare seed c v) (hv : v ≠ c) :
    exec .touchstoneCompare s = .next (State.touchFault { s with ctx := { s.ctx with flight := [] } } seed c v) := by
  have htouch : s.ctx.touches f = true := (touches_iff ..).2 ⟨hd, ht⟩
  show Host.Outcome.next s.compareDue = _
  simp [State.compareDue, hf, htouch, State.touchCompares, hp, hv]

end compare

/-! ## The delivery of a sum (R283, R302) -/

theorem partialSumDelivery_halted {s : State} (h : s.ctx.halted = true) : exec .partialSumDelivery s = .next s := by
  show execPartialSumDelivery s = _
  simp [execPartialSumDelivery, h]

theorem partialSumDelivery_delivers {s : State} {f : Flight} {p : PSum} (h : s.ctx.halted = false)
    (hf : s.ctx.flight.filter (fun g => decide (g.due ≤ s.ctx.sclk ∧ g.dest = .ps)) = [f]) (hp : f.pay = .psum p) :
    exec .partialSumDelivery s = .next { s with ctx := { s.ctx with
      ps := { p with tag := f.tag, poison := f.poison }, flight := s.ctx.flight.filter fun g => !decide (g.due ≤ s.ctx.sclk ∧ g.dest = .ps) } } := by
  have he (g : Flight) : (decide (g.due ≤ s.ctx.sclk) && g.dest == Dest.ps) = decide (g.due ≤ s.ctx.sclk ∧ g.dest = .ps) := by
    rw [Bool.decide_and]; rfl
  have hdest : f.dest = .ps := by
    have hm : f ∈ s.ctx.flight.filter (fun g => decide (g.due ≤ s.ctx.sclk ∧ g.dest = .ps)) := hf ▸ List.mem_singleton_self f
    have := (List.mem_filter.1 hm).2
    exact (of_decide_eq_true this).2
  have hsum : f.sum? = some { p with tag := f.tag, poison := f.poison } := by simp [Flight.sum?, hdest, hp]
  show execPartialSumDelivery s = _
  simp only [execPartialSumDelivery, h, Bool.false_eq_true, if_false, he, hf, PSum.behind, List.filterMap_cons, hsum, List.filterMap_nil,
    List.getLast?_singleton, Option.getD_some]

end Sys2Proof.Machine
end

section
/-! A committed chunk as it drains from its buffer (R279, R281). -/

namespace Sys2Proof.Machine

/-- The granules of a walk's bytes, each once, in the order of first touch. -/
theorem mem_firstTouch {offs : List Nat} {g : Nat} : g ∈ firstTouch offs ↔ ∃ a ∈ offs, a / 256 * 256 = g := by
  have hfold : ∀ (l acc : List Nat), g ∈ l.foldl (fun acc a => if acc.contains (a / 256 * 256) then acc else acc ++ [a / 256 * 256]) acc
      ↔ g ∈ acc ∨ ∃ a ∈ l, a / 256 * 256 = g := by
    intro l
    induction l with
    | nil => simp
    | cons a l ih =>
      intro acc
      rw [List.foldl_cons, ih]
      by_cases ha : a / 256 * 256 ∈ acc
      · simp only [List.contains_iff_mem, ha, if_true, List.exists_mem_cons_iff]
        exact ⟨fun h => h.imp id .inr, fun h => h.elim .inl fun h => h.elim (fun e => .inl (e ▸ ha)) .inr⟩
      · simp only [List.contains_iff_mem, ha, if_false, List.exists_mem_cons_iff, List.mem_append, List.mem_singleton, or_assoc]
        exact or_congr_right (or_congr_left eq_comm)
  exact (hfold offs []).trans (by simp)

/-- The granules of a run of bytes are those of its walk. -/
theorem exists_firstTouch_granule (off n a : Nat) : (∃ g ∈ firstTouch (granulesOf off n), a / 256 = g / 256) ↔ ∃ g ∈ granulesOf off n, a / 256 = g / 256 := by
  simp only [mem_firstTouch]
  constructor
  · rintro ⟨g, ⟨b, hb, rfl⟩, h⟩; exact ⟨b, hb, by omega⟩
  · rintro ⟨g, hg, h⟩; exact ⟨_, ⟨g, hg, rfl⟩, by omega⟩

/-- A tag word written changes no byte. -/
theorem setTagWord_sameStore (s : State) (h : Home) (g : Nat) (w : Word) : s.sameStore (s.setTagWord h g w) := ⟨rfl, rfl, rfl, rfl⟩

theorem setTagWord_canonical {s : State} (hc : s.canonical = true) (h : Home) (g : Nat) (w : Word) : (s.setTagWord h g w).canonical = true := by
  obtain ⟨h1, h2, h3⟩ := (canonical_iff s).1 hc
  exact (canonical_iff _).2 ⟨h1, clSet_wf h2 _ _, h3⟩

theorem putBytes_canonical {s : State} (hc : s.canonical = true) (h : Home) (off : Nat) (bs : List Byte) (ho : off + bs.length ≤ 2 ^ 64) :
    (s.putBytes h off bs).canonical = true := by
  obtain ⟨h1, h2, h3, h4, h5⟩ := (canonical_iff s).1 hc
  obtain ⟨⟨m, lk, e, hm, hl⟩, -⟩ := putBytes_spec (s := s) h off bs h1 h4 ho
  rw [e]
  exact (canonical_iff _).2 ⟨hm, h2, h3, hl, h5⟩

/-- Pieces whose bytes all have an address. -/
def piecesFit (ps : List (Nat × List Byte)) : Prop := ∀ q ∈ ps, q.1 + q.2.length ≤ 2 ^ 64

/-- `t` is `s` but for bytes of the pieces, tag words, monitors, and what waits at banks. -/
structure Drained (s t : State) (h : Home) (ps : List (Nat × List Byte)) : Prop where
  canonical : t.canonical = true
  chunks : ∀ n, (t.getTile n).chunks = (s.getTile n).chunks
  scrub : ∀ n, (t.getTile n).scrub = (s.getTile n).scrub
  outside : ∀ (h' : Home) (a : Nat), a < 2 ^ 64 → (∀ q ∈ ps, h'.number ≠ h.number ∨ a < q.1 ∨ q.1 + q.2.length ≤ a) → t.byte h' a = s.byte h' a

theorem drained_refl {s : State} (hc : s.canonical = true) (h : Home) (ps : List (Nat × List Byte)) : Drained s s h ps :=
  ⟨hc, fun _ => rfl, fun _ => rfl, fun _ _ _ _ => rfl⟩

theorem drained_trans {s t u : State} {h : Home} {ps : List (Nat × List Byte)} (a : Drained s t h ps) (b : Drained t u h ps) : Drained s u h ps :=
  ⟨b.canonical, fun n => (b.chunks n).trans (a.chunks n), fun n => (b.scrub n).trans (a.scrub n),
    fun h' x hx ho => (b.outside h' x hx ho).trans (a.outside h' x hx ho)⟩

theorem drained_putBytes {s : State} (hc : s.canonical = true) (h : Home) {ps : List (Nat × List Byte)} (hf : piecesFit ps) {q : Nat × List Byte}
    (hq : q ∈ ps) : Drained s (s.putBytes h q.1 q.2) h ps := by
  obtain ⟨h1, -, -, h4, -⟩ := (canonical_iff s).1 hc
  obtain ⟨⟨m, lk, e, -⟩, -, hout⟩ := putBytes_spec (s := s) h q.1 q.2 h1 h4 (hf q hq)
  exact ⟨putBytes_canonical hc h q.1 q.2 (hf q hq), fun n => by rw [e]; rfl, fun n => by rw [e]; rfl, fun h' a ha ho => hout h' a ha (ho q hq)⟩

theorem drained_putPieces (h : Home) {ps qs : List (Nat × List Byte)} (hf : piecesFit ps) (hqs : ∀ q ∈ qs, q ∈ ps) {s : State} (hc : s.canonical = true) :
    Drained s (qs.foldl (fun (s : State) q => s.putBytes h q.1 q.2) s) h ps := by
  induction qs generalizing s with
  | nil => exact drained_refl hc h ps
  | cons q qs ih =>
    obtain ⟨hq, hr⟩ := List.forall_mem_cons.1 hqs
    have h1 := drained_putBytes hc h hf hq
    exact drained_trans h1 (ih hr h1.canonical)

/-- What follows the bytes of one granule: its tag word, the monitors that they meet, the bank operation. -/
theorem granule_tail {s : State} (hc : s.canonical = true) (h : Home) (g : Nat) (w : Word) (cs : List Src) :
    s.sameStore (((s.setTagWord h g w).wakeAll cs).useBanks h g 1)
    ∧ (((s.setTagWord h g w).wakeAll cs).useBanks h g 1).canonical = true
    ∧ (∀ n, ((((s.setTagWord h g w).wakeAll cs).useBanks h g 1).getTile n).chunks = (s.getTile n).chunks)
    ∧ (∀ n, ((((s.setTagWord h g w).wakeAll cs).useBanks h g 1).getTile n).scrub = (s.getTile n).scrub)
    ∧ ∀ a, (((s.setTagWord h g w).wakeAll cs).useBanks h g 1).tagWord h a = if a / 256 = g / 256 then w else s.tagWord h a := by
  obtain ⟨hg, ht, hs, hw⟩ := wakeAll_frame cs (s.setTagWord h g w)
  have hb := useBanks_keepsHomes ((s.setTagWord h g w).wakeAll cs) h g 1
  have htile (n : Nat) : ((s.setTagWord h g w).wakeAll cs).getTile n = s.getTile n := ht n
  refine ⟨sameStore_trans (setTagWord_sameStore s h g w) (sameStore_trans hs hb.store),
    hb.canonical (hw.canonical (setTagWord_canonical hc h g w)), fun n => ?_, fun n => ?_, fun a => ?_⟩
  · rw [useBanks_field Tile.chunks fun _ _ => rfl, htile]
  · rw [hb.tags.2, htile]
  · rw [sameTags_tagWord hb.tags, sameTags_tagWord ⟨hg, fun n => by rw [ht]⟩, tagWord_setTagWord ((canonical_iff s).1 hc).2.1]

section drain
variable {h : Home} {ps : List (Nat × List Byte)} (hf : piecesFit ps) (w : Word)
include hf

theorem drained_granule {s : State} (hc : s.canonical = true) (g : Nat) : Drained s (s.drainGranule h ps w g) h ps := by
  have hp := drained_putPieces h hf (qs := ps.filter fun q => q.1 / 256 = g / 256) (fun q hq => (List.mem_filter.1 hq).1) hc
  obtain ⟨hs, hc', hch, hsc, -⟩ := granule_tail hp.canonical h g w (State.watchers (State.setTagWord _ h g w) h g 1)
  exact drained_trans hp ⟨hc', hch, hsc, fun h' a _ _ => sameStore_byte hs h' a⟩

/-- The tag words of the granules drained. -/
theorem tagWord_drainGranule {s : State} (hc : s.canonical = true) (g a : Nat) :
    (s.drainGranule h ps w g).tagWord h a = if a / 256 = g / 256 then w else s.tagWord h a := by
  have hp := drained_putPieces h hf (qs := ps.filter fun q => q.1 / 256 = g / 256) (fun q hq => (List.mem_filter.1 hq).1) hc
  obtain ⟨-, -, -, -, ht⟩ := granule_tail hp.canonical h g w (State.watchers (State.setTagWord _ h g w) h g 1)
  have hfold (qs : List (Nat × List Byte)) (hq : ∀ q ∈ qs, q ∈ ps) (s : State) (hc : s.canonical = true) :
      (qs.foldl (fun (s : State) q => s.putBytes h q.1 q.2) s).gtags = s.gtags := by
    induction qs generalizing s with
    | nil => rfl
    | cons q qs ih =>
      obtain ⟨hq, hr⟩ := List.forall_mem_cons.1 hq
      obtain ⟨h1, -, -, h4, -⟩ := (canonical_iff s).1 hc
      obtain ⟨⟨m, lk, e, -⟩, -⟩ := putBytes_spec (s := s) h q.1 q.2 h1 h4 (hf q hq)
      rw [List.foldl_cons, ih hr _ (putBytes_canonical hc h q.1 q.2 (hf q hq)), e]
  have hsame := sameTags_tagWord ⟨hfold _ (fun q hq => (List.mem_filter.1 hq).1) s hc, hp.scrub⟩ h a
  exact (ht a).trans (by rw [hsame])

theorem drained_granules (gs : List Nat) {s : State} (hc : s.canonical = true) :
    Drained s (gs.foldl (fun s g => s.drainGranule h ps w g) s) h ps := by
  induction gs generalizing s with
  | nil => exact drained_refl hc h ps
  | cons g gs ih =>
    have h1 := drained_granule (h := h) hf w hc g
    exact drained_trans h1 (ih h1.canonical)

theorem tagWord_drainGranules (gs : List Nat) {s : State} (hc : s.canonical = true) (a : Nat) :
    (gs.foldl (fun s g => s.drainGranule h ps w g) s).tagWord h a = if ∃ g ∈ gs, a / 256 = g / 256 then w else s.tagWord h a := by
  induction gs generalizing s with
  | nil => simp
  | cons g gs ih =>
    rw [List.foldl_cons, ih (drained_granule hf w hc g).canonical, tagWord_drainGranule hf w hc]
    by_cases h1 : ∃ x ∈ gs, a / 256 = x / 256
    · simp [h1]
    · by_cases h2 : a / 256 = g / 256 <;> simp [h1, h2]

end drain

section one
variable {h : Home} {q : Nat × List Byte} (hf : piecesFit [q]) (w : Word)
include hf

/-- One piece is written with the granule that it begins in. -/
theorem bytes_drainGranule {s : State} (hc : s.canonical = true) (g : Nat) :
    (s.drainGranule h [q] w g).bytes h q.1 q.2.length = if q.1 / 256 = g / 256 then q.2 else s.bytes h q.1 q.2.length := by
  have hp := drained_putPieces h hf (qs := [q].filter fun q => q.1 / 256 = g / 256) (fun q hq => (List.mem_filter.1 hq).1) hc
  obtain ⟨hs, -⟩ := granule_tail hp.canonical h g w (State.watchers (State.setTagWord _ h g w) h g 1)
  refine (sameStore_bytes hs h _ _).trans ?_
  obtain ⟨h1, -, -, h4, -⟩ := (canonical_iff s).1 hc
  by_cases hq : q.1 / 256 = g / 256
  · rw [if_pos hq, List.filter_cons_of_pos (by simpa using hq)]
    exact bytes_of_byte (putBytes_spec (s := s) h q.1 q.2 h1 h4 (hf q (List.mem_singleton_self q))).2.1
  · rw [if_neg hq, List.filter_cons_of_neg (by simpa using hq)]
    rfl

theorem bytes_drainGranules (gs : List Nat) {s : State} (hc : s.canonical = true) :
    (gs.foldl (fun s g => s.drainGranule h [q] w g) s).bytes h q.1 q.2.length
      = if ∃ g ∈ gs, q.1 / 256 = g / 256 then q.2 else s.bytes h q.1 q.2.length := by
  induction gs generalizing s with
  | nil => simp
  | cons g gs ih =>
    rw [List.foldl_cons, ih (drained_granule hf w hc g).canonical, bytes_drainGranule hf w hc]
    by_cases h1 : ∃ x ∈ gs, q.1 / 256 = x / 256
    · simp [h1]
    · by_cases h2 : q.1 / 256 = g / 256 <;> simp [h1, h2]

end one

theorem modTile_canonical {s : State} (hc : s.canonical = true) (n : Nat) (f : Tile → Tile) : (s.modTile n f).canonical = true := by
  obtain ⟨t, l, e⟩ := modTile_eq s n f
  rw [e]; exact hc

/-- A committed chunk of fixed content drains. -/
theorem streamChunkDrain_drains {s : State} {c : Src} {p : Push} (hp : s.oldestChunk c = some p) (hc : s.canonical = true)
    (hd : p.due ≤ (s.getCtx c).sclk ∨ (s.getCtx c).frozen.isSome = true) (hfit : ∀ q ∈ p.pieces, q.1 + q.2.length ≤ 2 ^ 22) :
    ∃ t, exec (.streamChunkDrain c) s = .next t ∧ (t.getTile c.site).chunks = (s.getTile c.site).chunks.erase (c.cid, p)
      ∧ (∀ q, p.pieces = [q] → t.bytes c.pad q.1 q.2.length = q.2 ∧ s.sameBytesBut t c.pad q.1 q.2.length
        ∧ ∀ g ∈ granulesOf q.1 q.2.length,
          t.tagWord c.pad g = mkTagWord (s.getCtx c).part p.poison (BitVec.ofNat 10 c.site) p.ws p.tag)
      ∧ ∀ (h : Home) (a : Nat), a < 2 ^ 64 → (∀ q ∈ p.pieces, h.number ≠ c.pad.number ∨ a < q.1 ∨ q.1 + q.2.length ≤ a) →
        t.byte h a = s.byte h a := by
  have hfixed : s.chunkFixed c = true := by
    rcases hd with h | h <;> simp [State.chunkFixed, hp, h]
  have hx : exec (.streamChunkDrain c) s = execStreamChunkDrain c s := rfl
  simp only [execStreamChunkDrain, hp, hfixed, if_true] at hx
  have hf : piecesFit p.pieces := fun q hq => (hfit q hq).trans (by decide)
  have hc0 := modTile_canonical hc c.site fun t => { t with chunks := t.chunks.erase (c.cid, p) }
  have hs0 := modTile_sameStore s c.site fun t => { t with chunks := t.chunks.erase (c.cid, p) }
  have ht0 : ((s.modTile c.site fun t => { t with chunks := t.chunks.erase (c.cid, p) }).getTile c.site).chunks
      = (s.getTile c.site).chunks.erase (c.cid, p) := by rw [getTile_modTile, if_pos rfl]
  generalize (s.modTile c.site fun t => { t with chunks := t.chunks.erase (c.cid, p) }) = v at hx hc0 hs0 ht0
  generalize mkTagWord (s.getCtx c).part p.poison (BitVec.ofNat 10 c.site) p.ws p.tag = w at hx ⊢
  have hdr := drained_granules (h := c.pad) hf w (firstTouch (p.pieces.flatMap fun q => granulesOf q.1 q.2.length)) hc0
  have hout : ∀ (h : Home) (a : Nat), a < 2 ^ 64 → (∀ q ∈ p.pieces, h.number ≠ c.pad.number ∨ a < q.1 ∨ q.1 + q.2.length ≤ a) → _ :=
    fun h a ha hq => (hdr.outside h a ha hq).trans (sameStore_byte hs0 h a)
  refine ⟨_, hx, (hdr.chunks _).trans ht0, fun q hq => ?_, hout⟩
  rw [hq] at hf hout hdr ⊢
  rw [List.flatMap_singleton] at hout hdr ⊢
  refine ⟨?_, fun h a ha ho => hout h a ha fun q' hq' => by rw [List.mem_singleton.1 hq']; exact ho, fun g hg => ?_⟩
  · rw [bytes_drainGranules hf w _ hc0]
    rcases Nat.eq_zero_or_pos q.2.length with h0 | h0
    · rw [h0, List.eq_nil_of_length_eq_zero h0]
      split <;> rfl
    · rw [if_pos ((exists_firstTouch_granule ..).2 ⟨256 * (q.1 / 256), mem_granulesOf.2 ⟨h0, q.1 / 256, rfl, le_refl _, by omega⟩, by omega⟩)]
  · rw [tagWord_drainGranules hf w _ hc0, if_pos ((exists_firstTouch_granule ..).2 ⟨g, hg, rfl⟩)]

end Sys2Proof.Machine
end

section
/-! The sum of a block product and its issue (R46, R56, R57, R301, R302, R305). -/

namespace Sys2Proof.Machine

/-! ## Exact sums (R56) -/

/-- NaN, or the infinity of the sign: what an exact sum keeps of any of its terms. -/
def exReaches (neg : Bool) : Ex → Bool
  | .nan => true
  | .inf s => s == neg
  | .fin .. => false

theorem reaches_ofInt (neg : Bool) (v e : Int) (z : Bool) : exReaches neg (Ex.ofInt v e z) = false := by
  unfold Ex.ofInt
  split <;> rfl

theorem reaches_add (neg : Bool) (x y : Ex) : exReaches neg (Ex.add false x y).1 = (exReaches neg x || exReaches neg y) := by
  cases x with
  | nan => rfl
  | inf s => cases y with
    | nan => simp [Ex.add, exReaches]
    | inf t => cases s <;> cases t <;> cases neg <;> rfl
    | fin => simp [Ex.add, exReaches]
  | fin => cases y with
    | nan => rfl
    | inf t => rfl
    | fin => exact reaches_ofInt ..

theorem reaches_sum (neg : Bool) (r : List Ex) : ∀ p, exReaches neg (r.foldl (fun x q => (Ex.add false x q).1) p) = (p :: r).any (exReaches neg) := by
  induction r with
  | nil => intro p; simp
  | cons q r ih => intro p; rw [List.foldl_cons, ih]; simp [reaches_add, Bool.or_assoc]

theorem eq_nan_of_reaches {x : Ex} (h : ∀ neg, exReaches neg x = true) : x = .nan := by
  cases x with
  | nan => rfl
  | inf s => have := h (!s); cases s <;> exact absurd this (by decide)
  | fin => exact absurd (h false) (by simp [exReaches])

theorem eq_inf_of_reaches {x : Ex} {neg : Bool} (h : exReaches neg x = true) (h' : exReaches (!neg) x = false) : x = .inf neg := by
  cases x with
  | nan => exact absurd h' (by simp [exReaches])
  | inf s => simpa [exReaches] using h
  | fin => exact absurd h (by simp [exReaches])

/-- The exact products of two rows. -/
def exProducts (xs ys : List Ex) : List Ex := List.zipWith (fun a b => (Ex.mul a b).1) xs ys

section dot
variable {xs ys : List Ex} {p : Ex} {r : List Ex} (h : exProducts xs ys = p :: r)
include h

theorem products_split : ∃ q l, List.zipWith Ex.mul xs ys = q :: l ∧ q.1 = p ∧ l.map Prod.fst = r := by
  have hm : (List.zipWith Ex.mul xs ys).map Prod.fst = p :: r := by rw [List.map_zipWith]; exact h
  exact List.map_eq_cons_iff.1 hm |>.imp fun q ⟨l, h1, h2, h3⟩ => ⟨l, h1, h2, h3⟩

/-- A sum that is no number is the canonical NaN, with NV. -/
theorem floatDot_nan (hx : r.foldl (fun x q => (Ex.add false x q).1) p = .nan) : floatDot xs ys = (0x7FC00000, .NV) := by
  obtain ⟨q, l, hz, rfl, rfl⟩ := products_split h
  rw [List.foldl_map] at hx
  simp only [floatDot, hz, hx]
  decide

/-- Any other is rounded once to FP32 under RNE. -/
theorem floatDot_round (hx : r.foldl (fun x q => (Ex.add false x q).1) p ≠ .nan) :
    let x := r.foldl (fun x q => (Ex.add false x q).1) p
    floatDot xs ys = (BitVec.ofNat 40 (Fmt.f32.round .rne false false 0 0 x).1, (Fmt.f32.round .rne false false 0 0 x).2) := by
  obtain ⟨q, l, hz, rfl, rfl⟩ := products_split h
  rw [List.foldl_map] at hx ⊢
  simp only [floatDot, hz]

end dot

/-- A NaN among the products, or infinities of both signs. -/
theorem floatDot_invalid {xs ys : List Ex} (h : .nan ∈ exProducts xs ys ∨ (.inf true ∈ exProducts xs ys ∧ .inf false ∈ exProducts xs ys)) :
    floatDot xs ys = (0x7FC00000, .NV) := by
  obtain ⟨p, r, hp⟩ : ∃ p r, exProducts xs ys = p :: r := List.exists_cons_of_ne_nil (h.elim List.ne_nil_of_mem fun h => List.ne_nil_of_mem h.1)
  refine floatDot_nan hp (eq_nan_of_reaches fun neg => ?_)
  rw [reaches_sum, ← hp, List.any_eq_true]
  rcases h with h | ⟨h1, h2⟩
  · exact ⟨_, h, rfl⟩
  · cases neg
    · exact ⟨_, h2, rfl⟩
    · exact ⟨_, h1, rfl⟩

/-- Infinities of one sign alone. -/
theorem floatDot_inf {xs ys : List Ex} {neg : Bool} (hn : .nan ∉ exProducts xs ys) (hi : .inf neg ∈ exProducts xs ys)
    (ho : .inf (!neg) ∉ exProducts xs ys) : floatDot xs ys = (if neg then 0xFF800000 else 0x7F800000, 0) := by
  obtain ⟨p, r, hp⟩ := List.exists_cons_of_ne_nil (List.ne_nil_of_mem hi)
  have hx : r.foldl (fun x q => (Ex.add false x q).1) p = .inf neg := by
    refine eq_inf_of_reaches ?_ ?_
    · rw [reaches_sum, ← hp, List.any_eq_true]
      exact ⟨_, hi, by simp [exReaches]⟩
    · rw [reaches_sum, ← hp, List.any_eq_false]
      intro x hm
      cases x with
      | nan => exact absurd hm hn
      | inf s => simpa [exReaches] using fun e : s = !neg => ho (e ▸ hm)
      | fin => simp [exReaches]
  rw [floatDot_round hp (by rw [hx]; exact Ex.noConfusion), hx]
  cases neg <;> decide

/-- Finite products: their exact sum, rounded once. -/
theorem floatDot_finite {xs ys : List Ex} {p : Ex} {r : List Ex} (hp : exProducts xs ys = p :: r)
    (hf : ∀ x ∈ exProducts xs ys, ∃ neg m e, x = .fin neg m e) :
    let x := r.foldl (fun x q => (Ex.add false x q).1) p
    floatDot xs ys = (BitVec.ofNat 40 (Fmt.f32.round .rne false false 0 0 x).1, (Fmt.f32.round .rne false false 0 0 x).2) := by
  refine floatDot_round hp fun hx => ?_
  have h := reaches_sum false r p
  rw [hx, ← hp, eq_comm, exReaches, List.any_eq_true] at h
  obtain ⟨x, hm, hr⟩ := h
  obtain ⟨neg, m, e, rfl⟩ := hf x hm
  exact absurd hr (by simp [exReaches])

/-! ## The 4,096 elements (R302) -/

/-- Row i of an operand. -/
def operandRow (bs : List Byte) (i : Nat) : List Byte := (bs.drop (128 * i)).take 128

theorem operandRows_getD {α : Type} (f : List Byte → α) (bs : List Byte) (i : Fin 64) (z : α) :
    ((operandRows bs).map f).getD i.val z = f (operandRow bs i.val) := by
  simp [operandRows, operandRow, List.getD_eq_getElem?_getD]

/-- The elements of an integer product, none of which raises a flag. -/
theorem productSums_int {fmt : Prod} (h : fmt = .i8 ∨ fmt = .i4x) (as bs : List Byte) (i j : Fin 64) :
    (productSums fmt (operandRows as) (operandRows bs)).2 = 0
    ∧ (productSums fmt (operandRows as) (operandRows bs)).1[i][j] = intDot (intElems fmt (operandRow as i.val)) (intElems fmt (operandRow bs j.val)) := by
  have he : productSums fmt (operandRows as) (operandRows bs) = (Vector.ofFn fun i : Fin 64 => Vector.ofFn fun j : Fin 64 =>
      intDot (((operandRows as).map (intElems fmt)).getD i.val []) (((operandRows bs).map (intElems fmt)).getD j.val []), 0) := by
    rcases h with rfl | rfl <;> rfl
  rw [he]
  refine ⟨rfl, ?_⟩
  simp only [operandRows_getD, Fin.getElem_fin, Vector.getElem_ofFn]

theorem intDot_i8 (as bs : List Byte) :
    intDot (intElems .i8 as) (intElems .i8 bs) = BitVec.ofInt 40 (List.zipWith (fun (a b : Byte) => a.toInt * b.toInt) as bs).sum := by
  simp only [intDot, intElems, List.zipWith_map]

theorem intDot_i4x (as bs : List Byte) : intDot (intElems .i4x as) (intElems .i4x bs)
    = BitVec.ofInt 40 (List.zipWith (fun (a b : Byte) => (i4xPair a).1 * (i4xPair b).1 + (i4xPair a).2 * (i4xPair b).2) as bs).sum := by
  have hcons (b : Byte) (l : List Byte) : intElems .i4x (b :: l) = (i4xPair b).1 :: (i4xPair b).2 :: intElems .i4x l := rfl
  refine congrArg (BitVec.ofInt 40) ?_
  induction as generalizing bs with
  | nil => rfl
  | cons a as ih =>
    cases bs with
    | nil => simp [intElems]
    | cons b bs =>
      rw [hcons, hcons, List.zipWith_cons_cons, List.zipWith_cons_cons, List.zipWith_cons_cons, List.sum_cons, List.sum_cons, List.sum_cons, ih, add_assoc]

/-- The elements of a floating product with their flags. -/
def realGrid (fmt : Prod) (as bs : List (List Byte)) : Vector (Vector (BitVec 40 × Flags) 64) 64 :=
  Vector.ofFn fun i : Fin 64 => Vector.ofFn fun j : Fin 64 => floatDot ((as.map (floatElems fmt)).getD i.val []) ((bs.map (floatElems fmt)).getD j.val [])

theorem productSums_real {fmt : Prod} (h1 : fmt ≠ .i8) (h2 : fmt ≠ .i4x) (as bs : List (List Byte)) : productSums fmt as bs
    = ((realGrid fmt as bs).map fun r => r.map (·.1), (realGrid fmt as bs).foldl (fun f r => r.foldl (fun f x => f ||| x.2) f) 0) := by
  cases fmt with
  | i8 => exact absurd rfl h1
  | i4x => exact absurd rfl h2
  | bf16 | f8e5 | f8e4 => rfl

/-- Each step of a fold joining a bit, the fold joins them all. -/
theorem foldl_getLsbD {α : Type} {step : Flags → α → Flags} {f : α → Bool} {b : Nat} (h : ∀ z x, (step z x).getLsbD b = (z.getLsbD b || f x))
    (l : List α) : ∀ z, (l.foldl step z).getLsbD b = (z.getLsbD b || l.any f) := by
  induction l with
  | nil => intro z; simp
  | cons x l ih => intro z; rw [List.foldl_cons, ih, h, List.any_cons, Bool.or_assoc]

/-- A flag of a grid is a flag of one of its elements. -/
theorem grid_flags (g : Vector (Vector (BitVec 40 × Flags) 64) 64) (b : Nat) :
    (g.foldl (fun (f : Flags) (r : Vector (BitVec 40 × Flags) 64) => r.foldl (fun f x => f ||| x.2) f) 0).getLsbD b = true ↔ ∃ i j : Fin 64, (g[i][j]).2.getLsbD b = true := by
  have hrow (z : Flags) (r : Vector (BitVec 40 × Flags) 64) :
      (r.foldl (fun f x => f ||| x.2) z).getLsbD b = (z.getLsbD b || r.toList.any fun x => x.2.getLsbD b) := by
    rw [← Vector.foldl_toList, foldl_or_getLsbD]
  have hz : (0 : Flags).getLsbD b = false := BitVec.getLsbD_zero
  rw [← Vector.foldl_toList, foldl_getLsbD hrow, hz, Bool.false_or]
  simp only [List.any_eq_true, Vector.mem_toList_iff, Vector.mem_iff_getElem]
  constructor
  · rintro ⟨-, ⟨i, hi, rfl⟩, -, ⟨j, hj, rfl⟩, h⟩
    exact ⟨⟨i, hi⟩, ⟨j, hj⟩, h⟩
  · rintro ⟨i, j, h⟩
    exact ⟨_, ⟨i.val, i.isLt, rfl⟩, _, ⟨j.val, j.isLt, rfl⟩, h⟩

end Sys2Proof.Machine
end

section
/-! A block product as it issues, and the stream and array events together. -/

namespace Sys2Proof.Machine

/-! ## The sum of a product (R169, R302) -/

/-- The operand of a product at a base: committed bytes of the own scratchpad. -/
def State.operand (s : State) (base : Nat) (im sel : BitVec 2) : LocalRead :=
  s.bankRead s.who.pad (s.ctx.work.stamp sel) (operandPieces base im)

/-- The sum that a product delivers. -/
def State.productSum (s : State) (p : Product) : PSum :=
  let ra := s.operand p.alpha p.imA p.selA
  let rb := s.operand p.beta p.imB p.selB
  let v := productSums p.fmt (operandRows ra.bytes) (operandRows rb.bytes)
  ⟨p.fmt, v.1, p.idx, opConst .M p.op ^^^ ra.con.m.rotateLeft 1 ^^^ rb.con.m.rotateLeft 2, v.2, ra.poison || rb.poison⟩

/-- The sum in flight of a product that issues at the schedule clock. -/
def State.sumFlight (s : State) (p : Product) : Flight :=
  ⟨s.ctx.sclk + 70, .ps, .psum (s.productSum p), (s.productSum p).tag, (s.productSum p).poison, 0, s.ctx.cur.seq⟩

/-- A product issued at the schedule clock. -/
def State.productIssued (s : State) (p : Product) : State := s.issueProduct { p with due := s.ctx.sclk }

theorem issued_frame (s : State) (p : Product) : (s.productIssued p).ctx.flight = s.ctx.flight ++ [s.sumFlight p] ∧ (s.productIssued p).ctx.engine = s.ctx.engine
    ∧ (s.productIssued p).ctx.sclk = s.ctx.sclk ∧ (s.productIssued p).mem = s.mem := ⟨rfl, rfl, rfl, rfl⟩

/-- The context after the product of a nest has issued: its next block due 64 cycles later, or the nest at its end. -/
def Ctx.nestIssued (c : Ctx) (n : Nest) : Ctx :=
  let c' := { c with engine := { c.engine with run := some { n with pos := n.pos + 1, next := c.sclk + 64 }, last := some c.sclk } }
  if nestBlocks n.table ≤ n.pos + 1 then c'.nestEnds else c'

section issue
variable {s : State} (hih : s.ctx.ih = false)
include hih

theorem blockProductIssue_queued {p : Product} {rest : List Product} (hq : s.ctx.engine.queued = p :: rest) (hd : p.due ≤ s.ctx.sclk) :
    exec .blockProductIssue s = .next { s.productIssued p with ctx := { (s.productIssued p).ctx with
      engine := { (s.productIssued p).ctx.engine with queued := rest, last := some s.ctx.sclk } } } := by
  show Host.Outcome.next s.advanceEngine = _
  simp only [State.advanceEngine, hih, hq, hd, Bool.false_eq_true, if_false, if_true]
  rfl

theorem blockProductIssue_nest {n : Nest} (hq : s.ctx.engine.queued = []) (hr : s.ctx.engine.run = some n) (hn : n.next ≤ s.ctx.sclk) :
    exec .blockProductIssue s = .next { s.productIssued (n.product s.ctx.sclk) with ctx := (s.productIssued (n.product s.ctx.sclk)).ctx.nestIssued n } := by
  show Host.Outcome.next s.advanceEngine = _
  simp only [State.advanceEngine, hih, hq, hr, hn, Bool.false_eq_true, if_false, if_true]
  rfl

end issue

/-- The end of a nest keeps the results in flight and the products queued. -/
theorem nestEnds_keeps (c : Ctx) : c.nestEnds.flight = c.flight ∧ c.nestEnds.engine.last = c.engine.last := by
  unfold Ctx.nestEnds
  split
  · exact ⟨rfl, rfl⟩
  · exact ⟨rfl, rfl⟩

theorem nestEnds_idle {c : Ctx} (h : c.engine.after = none) : c.nestEnds.engine.run = none := by
  simp [Ctx.nestEnds, h]

/-- A shadow armed and committed runs next, its first block 64 cycles after the latest product. -/
theorem nestEnds_shadow {c : Ctx} {sh : Shadow} (h : c.engine.after = some sh) (hq : c.engine.queued = []) (hl : c.engine.last = some c.sclk) :
    c.nestEnds.engine.run = some ⟨sh.table, sh.fmt, sh.op, 0, c.sclk + 64⟩ ∧ c.nestEnds.comm.shadow.st = .empty := by
  simp [Ctx.nestEnds, h, Engine.startNest, Engine.slotFrom, Engine.horizon, hq, hl, Ctx.writeAll, Shadow.reset]

section nestIssued
variable (c : Ctx) (n : Nest)

theorem nestIssued_keeps : (c.nestIssued n).flight = c.flight ∧ (c.nestIssued n).engine.last = some c.sclk := by
  unfold Ctx.nestIssued
  dsimp only
  split
  · exact nestEnds_keeps _
  · exact ⟨rfl, rfl⟩

variable {c n}

theorem nestIssued_goesOn (h : n.pos + 1 < nestBlocks n.table) :
    (c.nestIssued n).engine.run = some { n with pos := n.pos + 1, next := c.sclk + 64 } := by
  simp only [Ctx.nestIssued, if_neg (Nat.not_le.2 h)]

theorem nestIssued_ends (h : nestBlocks n.table ≤ n.pos + 1) (ha : c.engine.after = none) : (c.nestIssued n).engine.run = none := by
  simp only [Ctx.nestIssued, if_pos h]
  exact nestEnds_idle ha

theorem nestIssued_follows {sh : Shadow} (h : nestBlocks n.table ≤ n.pos + 1) (ha : c.engine.after = some sh) (hq : c.engine.queued = []) :
    (c.nestIssued n).engine.run = some ⟨sh.table, sh.fmt, sh.op, 0, c.sclk + 64⟩ ∧ (c.nestIssued n).comm.shadow.st = .empty := by
  simp only [Ctx.nestIssued, if_pos h]
  exact nestEnds_shadow (c := { c with engine := { c.engine with run := _, last := some c.sclk } }) ha hq rfl

end nestIssued

/-! ## The elements of a sum -/

section sum
variable (s : State) (p : Product)

theorem productSum_i8 (h : p.fmt = .i8) : (s.productSum p).flags = 0 ∧ ∀ i j : Fin 64, (s.productSum p).vals[i][j] = BitVec.ofInt 40
    (List.zipWith (fun (a b : Byte) => a.toInt * b.toInt) (operandRow (s.operand p.alpha p.imA p.selA).bytes i.val)
      (operandRow (s.operand p.beta p.imB p.selB).bytes j.val)).sum := by
  have hv (i j : Fin 64) := productSums_int (.inl h) (s.operand p.alpha p.imA p.selA).bytes (s.operand p.beta p.imB p.selB).bytes i j
  refine ⟨(hv 0 0).1, fun i j => (hv i j).2.trans ?_⟩
  rw [h, intDot_i8]

theorem productSum_i4x (h : p.fmt = .i4x) : (s.productSum p).flags = 0 ∧ ∀ i j : Fin 64, (s.productSum p).vals[i][j] = BitVec.ofInt 40
    (List.zipWith (fun (a b : Byte) => (i4xPair a).1 * (i4xPair b).1 + (i4xPair a).2 * (i4xPair b).2)
      (operandRow (s.operand p.alpha p.imA p.selA).bytes i.val) (operandRow (s.operand p.beta p.imB p.selB).bytes j.val)).sum := by
  have hv (i j : Fin 64) := productSums_int (.inr h) (s.operand p.alpha p.imA p.selA).bytes (s.operand p.beta p.imB p.selB).bytes i j
  refine ⟨(hv 0 0).1, fun i j => (hv i j).2.trans ?_⟩
  rw [h, intDot_i4x]

/-- Element (i, j) of a floating product with its flags. -/
def State.realElement (i j : Fin 64) : BitVec 40 × Flags :=
  floatDot (floatElems p.fmt (operandRow (s.operand p.alpha p.imA p.selA).bytes i.val))
    (floatElems p.fmt (operandRow (s.operand p.beta p.imB p.selB).bytes j.val))

theorem productSum_real (h1 : p.fmt ≠ .i8) (h2 : p.fmt ≠ .i4x) : (∀ i j : Fin 64, (s.productSum p).vals[i][j] = (s.realElement p i j).1)
    ∧ ∀ b, (s.productSum p).flags.getLsbD b = true ↔ ∃ i j, (s.realElement p i j).2.getLsbD b = true := by
  generalize ha : (s.operand p.alpha p.imA p.selA).bytes = as
  generalize hb : (s.operand p.beta p.imB p.selB).bytes = bs
  have he := productSums_real h1 h2 (operandRows as) (operandRows bs)
  have hg (i j : Fin 64) : (realGrid p.fmt (operandRows as) (operandRows bs))[i][j] = s.realElement p i j := by
    simp only [realGrid, operandRows_getD, Fin.getElem_fin, Vector.getElem_ofFn, State.realElement, ha, hb]
  have hv : (s.productSum p).vals = (realGrid p.fmt (operandRows as) (operandRows bs)).map fun r => r.map (·.1) := by
    simp only [State.productSum, ha, hb, he]
  have hf : (s.productSum p).flags = (realGrid p.fmt (operandRows as) (operandRows bs)).foldl (fun f r => r.foldl (fun f x => f ||| x.2) f) 0 := by
    simp only [State.productSum, ha, hb, he]
  constructor
  · intro i j
    rw [hv, ← hg]
    simp only [Fin.getElem_fin, Vector.getElem_map]
  · intro b
    rw [hf, grid_flags]
    simp only [hg]

end sum

/-! ## The obligation -/

/-- A fault count holds at 255. -/
theorem satInc_saturates (c : BitVec 8) : satInc c = if c = 255 then 255 else c + 1 := by
  unfold satInc
  split
  · next h => exact h
  · rfl

/-- Settles O39: each event by its lemma, the elements of a sum through the rows of its operands (`operandRows_getD`), and what an exact sum
keeps of its terms by `reaches_sum`. -/
theorem streamAndArrayEvents : Obligations.StreamAndArrayEvents := by
  unfold Obligations.StreamAndArrayEvents
  refine ⟨fun c k s => ⟨fun b n r hb hw hn hr => streamChunkFetch_fetches hb hw hn hr, fun p hp hc hd hfit => streamChunkDrain_drains hp hc hd hfit,
      fun hih => ⟨fun p rest hq hd => ?_, fun n hq hr hn => ?_⟩, partialSumDelivery_halted, fun f p hh hf hp => partialSumDelivery_delivers hh hf hp,
      touchstoneCompare_agrees, fun f seed c v hf hd ht hp hv => ?_⟩,
    fun p rest s hih hq hd => ?_, fun xs ys => ⟨floatDot_invalid, fun neg hn hi ho => floatDot_inf hn hi ho, fun p r hp hf => floatDot_finite hp hf⟩⟩
  · exact ⟨_, blockProductIssue_queued hih hq hd, ⟨s.sumFlight p, s.productSum p, rfl, rfl, rfl, rfl, rfl, rfl, rfl⟩, rfl, rfl, rfl⟩
  · obtain ⟨hfl, hl⟩ := nestIssued_keeps (s.productIssued (n.product s.ctx.sclk)).ctx n
    exact ⟨_, blockProductIssue_nest hih hq hr hn,
      ⟨s.sumFlight (n.product s.ctx.sclk), s.productSum (n.product s.ctx.sclk), hfl, rfl, rfl, rfl, rfl, rfl, hl⟩, rfl,
      nestIssued_goesOn, fun h ha => nestIssued_ends (c := (s.productIssued _).ctx) h ha,
      fun h sh ha => nestIssued_follows (c := (s.productIssued _).ctx) h ha hq⟩
  · obtain ⟨h1, h2, h3, h4⟩ := touchFault_charges { s with ctx := { s.ctx with flight := [] } } seed c v
    exact ⟨_, touchstoneCompare_faults hf hd ht hp hv, h1, h2, h3.trans (satInc_saturates _), h4⟩
  · exact ⟨_, s.sumFlight p, s.productSum p, blockProductIssue_queued hih hq hd, rfl, rfl, rfl, rfl, rfl, rfl, rfl, rfl, rfl, rfl,
      productSum_i8 s p, productSum_i4x s p, productSum_real s p⟩

end Sys2Proof.Machine
end

section
/-! Encoding, the layers below the instructions: codes of the small fields, the six formats, syllables and their extensions. -/

namespace Sys2Proof

open BitVec (extractLsb'_append_eq_of_le extractLsb'_append_eq_right)

/-! ## Codes of the small fields (Tables 3.1, 3.5, 4.2 and 4.10 to 4.14) -/

@[simp] theorem Fmt.ofCode_code (c : Fmt) : Fmt.ofCode c.code = some c := by cases c <;> rfl

@[simp] theorem Rnd.ofCode_code (c : Rnd) : Rnd.ofCode c.code = some c := by cases c <;> rfl

@[simp] theorem Cond.ofCode_code (c : Cond) : Cond.ofCode c.code = some c := by cases c <;> rfl

@[simp] theorem Space.ofCode_code (c : Space) : Space.ofCode c.code = c := by cases c <;> rfl

@[simp] theorem Hint.ofCode_code (c : Hint) : Hint.ofCode c.code = some c := by cases c <;> rfl

@[simp] theorem Scope.ofCode_code (c : Scope) : Scope.ofCode c.code = some c := by cases c <;> rfl

@[simp] theorem RedOp.ofCode_code (c : RedOp) : RedOp.ofCode c.code = some c := by cases c <;> rfl

@[simp] theorem Slot.ofCode_code (c : Slot) : Slot.ofCode c.code = some c := by cases c <;> rfl

@[simp] theorem bit1_beq_one (b : Bool) : (bit1 b == 1#1) = b := by cases b <;> rfl

@[simp] theorem bit1_getLsbD_zero (b : Bool) : (bit1 b).getLsbD 0 = b := by cases b <;> rfl

@[simp] theorem bit1_false : bit1 false = 0#1 := rfl

@[simp] theorem bit1_true : bit1 true = 1#1 := rfl

/-- A flag in the lowest bit of a func field. -/
@[simp] theorem append_bit1_beq_one (b : Bool) : ((0#3 ++ bit1 b : BitVec 4) == 1#4) = b := by cases b <;> rfl

@[simp] theorem append_bit1_toNat (b : Bool) : (0#3 ++ bit1 b : BitVec 4).toNat = b.toNat := by cases b <;> rfl

/-- A value of a narrow type is within the limit of a wider field. -/
@[simp] theorem toNat_mod_lt {n : Nat} (x : BitVec n) (k m : Nat) (hk : 2 ^ n ≤ k) : x.toNat % m < k :=
  ((Nat.mod_le ..).trans_lt x.isLt).trans_le hk

/-- A narrow value in a wider field leaves the bits above it clear. -/
@[simp] theorem extractLsb'_setWidth_above {n w s l : Nat} (x : BitVec n) (hs : n ≤ s) : (x.setWidth w).extractLsb' s l = 0#l := by
  ext i hi
  simp [BitVec.getLsbD_of_ge x (s + i) (by omega)]

@[simp] theorem extractLsb'_setWidth_self {n w : Nat} (x : BitVec n) (hw : n ≤ w) : (x.setWidth w).extractLsb' 0 n = x := by
  ext i hi
  simp [hi, show i < w by omega]

@[simp] theorem pField_setWidth (p : BitVec 4) : pField (p.setWidth 6) = some p := by
  have hp : p.toNat < 16 := p.isLt
  simp [pField, Nat.mod_eq_of_lt (show p.toNat < 64 by omega), hp]

@[simp] theorem Rnd.code_rne : Rnd.code .rne = 0#3 := rfl

/-- The stamp selector is clear outside the local space. -/
theorem code_or_of_okSsel {sp : Space} {ssel : BitVec 2} (h : okSsel sp ssel = true) : sp.code = 0#2 ∨ ssel = 0#2 := by
  obtain h | h : sp = .loc ∨ ssel = 0 := by simpa [okSsel] using h
  · exact .inl (h ▸ rfl)
  · exact .inr h

/-- A form that does not use xs leaves it clear. -/
theorem Rmw.xs_of_ok {o : Rmw} {types : List Fmt} (h : o.ok types false = true) : o.xs = 0 := by
  obtain ⟨-, hx⟩ : o.ty ∈ types ∧ o.xs = 0 := by simpa [Rmw.ok] using h
  exact hx

/-- The xs field of a form that uses its two lowest bits. -/
theorem and_0x3C_of_lt {x : BitVec 6} (h : x.toNat < 4) : x &&& 0x3C = 0 := by
  obtain rfl | rfl | rfl | rfl : x = 0 ∨ x = 1 ∨ x = 2 ∨ x = 3 := by bv_omega
  all_goals rfl

/-! ### The modifier bits that a form leaves clear (Table 8.1) -/

section modifiers
variable {m : VMod}

theorem VMod.clear_of_okMinMax (h : m.okMinMax = true) : m.rnd = .rne ∧ m.fo = false ∧ m.sat = false := by
  obtain ⟨⟨⟨⟨-, hr⟩, hf⟩, hs⟩, -⟩ :
      (((m.fmt.isArith = true ∧ m.rnd = .rne) ∧ m.fo = false) ∧ m.sat = false) ∧ (m.fmt = .f32 ∨ m.fi = false) := by
    simpa [VMod.okMinMax] using h
  exact ⟨hr, hf, hs⟩

theorem VMod.clear_of_okRedmax (h : m.okRedmax = true) : m.rnd = .rne ∧ m.fo = false ∧ m.sat = false := by
  obtain ⟨⟨⟨-, hr⟩, hf⟩, hs⟩ :
      (((m.fmt = .f32 ∨ m.fmt = .i32 ∧ m.fi = false) ∧ m.rnd = .rne) ∧ m.fo = false) ∧ m.sat = false := by
    simpa [VMod.okRedmax] using h
  exact ⟨hr, hf, hs⟩

theorem VMod.clear_of_okAbs (h : m.okAbs = true) : m.rnd = .rne := by
  simp only [VMod.okAbs, Bool.and_eq_true, beq_iff_eq] at h
  exact h.1.2

theorem VMod.clear_of_okApprox (h : m.okApprox = true) : m.rnd = .rne ∧ m.sat = false := by
  obtain ⟨⟨-, hr⟩, hs⟩ : (m.fmt = .f32 ∧ m.rnd = .rne) ∧ m.sat = false := by simpa [VMod.okApprox] using h
  exact ⟨hr, hs⟩

end modifiers

/-! ## The formats (Tables 4.4 to 4.9) -/

@[simp] theorem RawR.of_pack (r : RawR) : RawR.of r.pack = r := by
  simp [-Nat.reduceAdd, RawR.of, RawR.pack, extractLsb'_append_eq_of_le, extractLsb'_append_eq_right]

@[simp] theorem RawI.of_pack (r : RawI) : RawI.of r.pack = r := by
  simp [-Nat.reduceAdd, RawI.of, RawI.pack, extractLsb'_append_eq_of_le, extractLsb'_append_eq_right]

@[simp] theorem RawB.of_pack (r : RawB) : RawB.of r.pack = r := by
  simp [-Nat.reduceAdd, RawB.of, RawB.pack, extractLsb'_append_eq_of_le, extractLsb'_append_eq_right]

@[simp] theorem RawM.of_pack (r : RawM) : RawM.of r.pack = r := by
  simp [-Nat.reduceAdd, RawM.of, RawM.pack, extractLsb'_append_eq_of_le, extractLsb'_append_eq_right]

@[simp] theorem RawV.of_pack (r : RawV) : RawV.of r.pack = r := by
  simp [-Nat.reduceAdd, RawV.of, RawV.pack, extractLsb'_append_eq_of_le, extractLsb'_append_eq_right]

@[simp] theorem RawE.of_pack (r : RawE) : RawE.of r.pack = r := by
  simp [-Nat.reduceAdd, RawE.of, RawE.pack, extractLsb'_append_eq_of_le, extractLsb'_append_eq_right]

/-- The bit that tells layout M1 from M0. -/
theorem RawM.pack_getLsbD_lay (r : RawM) : r.pack.getLsbD 32 = r.lay.getLsbD 0 := by
  simp [-Nat.reduceAdd, -BitVec.getLsbD_eq_getElem, RawM.pack, BitVec.getLsbD_append]

/-- The bit that asks for the extension of `copyc`. -/
theorem RawE.pack_getLsbD_flag (r : RawE) : r.pack.getLsbD 4 = (r.flag == 1) := by
  have hp : r.pack.getLsbD 4 = r.flag.getLsbD 0 := by
    simp [-Nat.reduceAdd, -BitVec.getLsbD_eq_getElem, RawE.pack, BitVec.getLsbD_append]
  obtain hf | hf : r.flag = 0 ∨ r.flag = 1 := by bv_omega
  all_goals rw [hp, hf]; rfl

@[simp] theorem RawV.mod_code (d s1 s2 s3 : BitVec 6) (m : VMod) (sfmt fn : BitVec 4) (lo : BitVec 5) :
    RawV.mod ⟨d, s1, s2, s3, m.fmt.code, m.rnd.code, bit1 m.fi, bit1 m.fo, bit1 m.sat, sfmt, fn, lo⟩ = some m := by
  simp [RawV.mod]

@[simp] theorem RawV.tail_zero (d s1 s2 s3 : BitVec 6) (fmt : BitVec 4) (rnd : BitVec 3) (fi fo sat : BitVec 1) :
    RawV.tail ⟨d, s1, s2, s3, fmt, rnd, fi, fo, sat, 0#4, 0#4, 0#5⟩ = true := rfl

@[simp] theorem RawV.bare_zero (d s1 s2 s3 : BitVec 6) (fmt : BitVec 4) :
    RawV.bare ⟨d, s1, s2, s3, fmt, 0#3, 0#1, 0#1, 0#1, 0#4, 0#4, 0#5⟩ = true := rfl

/-! ## Phaser references (R363) -/

section ref
variable (d s1 s2 s3 : BitVec 6) (unit scope : BitVec 3) (imm : BitVec 12) (mode : BitVec 4)

@[simp] theorem phRefOf_here : phRefOf ⟨d, s1, s2, s3, unit, imm, scope, 1#1, mode⟩ = .here imm := rfl

@[simp] theorem phRefOf_remote : phRefOf ⟨d, s1, s2, s3, unit, imm, scope, 0#1, mode⟩ = .remote s1 := rfl

@[simp] theorem phClean_here : phClean ⟨d, 0#6, s2, s3, unit, imm, scope, 1#1, mode⟩ = true := rfl

@[simp] theorem phClean_remote : phClean ⟨d, s1, s2, s3, unit, 0#12, scope, 0#1, mode⟩ = true := rfl

end ref

/-! ## Operands that may carry an extension (R75) -/

/-- The 16 bits of an immediate that stand in the syllable. -/
def Imm.low : Imm → BitVec 16
  | .short i | .long i _ => i

/-- The bits of an immediate that stand in the extension. -/
def Imm.payload : Imm → Option (BitVec 48)
  | .short _ => none
  | .long _ p => some p

theorem encI_eq (h : Hdr) (major : BitVec 8) (d s1 : BitVec 6) (ty : BitVec 4) (imm : Imm) (fn : BitVec 4) :
    encI h major d s1 ty imm fn = some ⟨h, major, RawI.pack ⟨d, s1, ty, imm.low, fn, 0⟩, imm.payload⟩ := by
  cases imm <;> rfl

@[simp] theorem immOf_low_payload (d s1 : BitVec 6) (ty : BitVec 4) (imm : Imm) (fn : BitVec 4) (lo : BitVec 11) :
    immOf ⟨d, s1, ty, imm.low, fn, lo⟩ imm.payload = imm := by cases imm <;> rfl

/-- The position and the width of a bit field in one immediate (R132). -/
@[simp] theorem bitField_parts (pos wm1 : BitVec 6) : (0#4 ++ wm1 ++ pos : BitVec 16).extractLsb' 0 6 = pos
    ∧ (0#4 ++ wm1 ++ pos : BitVec 16).extractLsb' 6 6 = wm1 ∧ (0#4 ++ wm1 ++ pos : BitVec 16).extractLsb' 12 4 = 0#4 := by
  simp [-Nat.reduceAdd, extractLsb'_append_eq_of_le, extractLsb'_append_eq_right]

/-- The selectors of `mblk` (Table 14.5). -/
@[simp] theorem mblkSelectors_parts (a b : BitVec 2) : (b ++ a : BitVec 4).extractLsb' 0 2 = a ∧ (b ++ a : BitVec 4).extractLsb' 2 2 = b := by
  simp [-Nat.reduceAdd, extractLsb'_append_eq_of_le, extractLsb'_append_eq_right]

@[simp] theorem mblkImages_parts (a b : BitVec 2) : (0#8 ++ b ++ a : BitVec 12).extractLsb' 0 2 = a
    ∧ (0#8 ++ b ++ a : BitVec 12).extractLsb' 2 2 = b ∧ (0#8 ++ b ++ a : BitVec 12).extractLsb' 4 8 = 0#8 := by
  simp [-Nat.reduceAdd, extractLsb'_append_eq_of_le, extractLsb'_append_eq_right]

/-- The first row and the number of rows of `mdrain` (R314). -/
@[simp] theorem mdrainRows_parts (r0 nm1 : BitVec 6) : (nm1 ++ r0 : BitVec 12).extractLsb' 0 6 = r0
    ∧ (nm1 ++ r0 : BitVec 12).extractLsb' 6 6 = nm1 := by
  simp [-Nat.reduceAdd, extractLsb'_append_eq_of_le, extractLsb'_append_eq_right]

/-- A deferral identifier in the fields sfmt and func (R286, Table 13.7). -/
@[simp] theorem deferId_fields (id : BitVec 8) : id.extractLsb' 4 4 ++ id.extractLsb' 0 4 = id :=
  BitVec.extractLsb'_append_extractLsb'

@[simp] theorem offset14_fields (off : BitVec 14) : off.extractLsb' 12 2 ++ off.extractLsb' 0 12 = off :=
  BitVec.extractLsb'_append_extractLsb'

/-- An offset of 20 bits in the three fields of layout M0. -/
theorem offset_fields (off : BitVec 20) : off.extractLsb' 14 6 ++ off.extractLsb' 12 2 ++ off.extractLsb' 0 12 = off := by
  have hh : off.extractLsb' 14 6 ++ off.extractLsb' 12 2 = off.extractLsb' 12 8 :=
    BitVec.extractLsb'_append_extractLsb'_eq_extractLsb' rfl
  have hl : off.extractLsb' 12 8 ++ off.extractLsb' 0 12 = off := BitVec.extractLsb'_append_extractLsb'
  exact (congrArg (· ++ off.extractLsb' 0 12) hh).trans hl

/-- The fields of a memory operand beside the outer ones (Table 4.7). -/
def MemOp.raw (m : MemOp) (rd : BitVec 6) (sp ssel : BitVec 2) (ty : BitVec 4) (hint : BitVec 2) : RawM :=
  match m with
  | .m0 xb off | .m0x xb off _ =>
    ⟨rd, sp, xb, 0, off.extractLsb' 14 6, off.extractLsb' 12 2, off.extractLsb' 0 12, ssel, ty, hint, 0⟩
  | .m1 xb xi sh => ⟨rd, sp, xb, 1, xi, sh, 0, ssel, ty, hint, 0⟩

/-- The bits of a memory operand that stand in the extension. -/
def MemOp.payload : MemOp → Option (BitVec 48)
  | .m0x _ _ p => some (p.setWidth 48)
  | _ => none

theorem encM_eq (h : Hdr) (major : BitVec 8) (rd : BitVec 6) (sp : BitVec 2) (m : MemOp) (ssel : BitVec 2) (ty : BitVec 4)
    (hint : BitVec 2) : encM h major rd sp m ssel ty hint = some ⟨h, major, (m.raw rd sp ssel ty hint).pack, m.payload⟩ := by
  cases m <;> rfl

section raw
variable (m : MemOp) (rd : BitVec 6) (sp ssel : BitVec 2) (ty : BitVec 4) (hint : BitVec 2)

@[simp] theorem MemOp.raw_rd : (m.raw rd sp ssel ty hint).rd = rd := by cases m <;> rfl

@[simp] theorem MemOp.raw_space : (m.raw rd sp ssel ty hint).space = sp := by cases m <;> rfl

@[simp] theorem MemOp.raw_ssel : (m.raw rd sp ssel ty hint).ssel = ssel := by cases m <;> rfl

@[simp] theorem MemOp.raw_ty : (m.raw rd sp ssel ty hint).ty = ty := by cases m <;> rfl

@[simp] theorem MemOp.raw_hint : (m.raw rd sp ssel ty hint).hint = hint := by cases m <;> rfl

@[simp] theorem MemOp.raw_lo : (m.raw rd sp ssel ty hint).lo = 0 := by cases m <;> rfl

@[simp] theorem MemOp.raw_clean : (m.raw rd sp ssel ty hint).clean = true := by cases m <;> rfl

@[simp] theorem memOf_raw : memOf (m.raw rd sp ssel ty hint) m.payload = m := by
  cases m with
  | m0 xb off => simp [memOf, MemOp.raw, MemOp.payload, offset_fields]
  | m0x xb off p => simp [memOf, MemOp.raw, MemOp.payload, offset_fields]
  | m1 xb xi sh => rfl

/-- Layout M1 has no extension, and that of M0x keeps to its 44 bits. -/
theorem MemOp.payload_admitted (x : BitVec 48) (hx : m.payload = some x) :
    (m.raw rd sp ssel ty hint).lay = 0 ∧ x.extractLsb' 44 4 = 0 := by
  cases m with
  | m0x xb off p =>
    obtain rfl : p.setWidth 48 = x := by simpa [MemOp.payload] using hx
    exact ⟨rfl, by ext i hi; simp⟩
  | m0 xb off | m1 xb xi sh => exact nomatch hx

end raw

/-! ## Syllables (Tables 4.1 and 4.15) -/

theorem Syl.of_word (p : Parts) (stop : Bool) : Syl.of (p.word stop) = .slot p.h p.major.toNat p.fields := by
  simp [-Nat.reduceAdd, -BitVec.getLsbD_eq_getElem, Syl.of, Parts.word, extractLsb'_append_eq_of_le, extractLsb'_append_eq_right,
    BitVec.getLsbD_append]

theorem Syl.of_extWord (stop : Bool) (c : Slot) (x : BitVec 48) : Syl.of (extWord stop c x) = .ext c.code 0 x := by
  have hc : (extWord stop c x).extractLsb' 60 3 = 5 := by
    simp [-Nat.reduceAdd, extWord, extractLsb'_append_eq_of_le, extractLsb'_append_eq_right]
  have hn : Slot.ofCode 5 = none := rfl
  simp only [Syl.of, hc, hn]
  simp [-Nat.reduceAdd, extWord, extractLsb'_append_eq_of_le, extractLsb'_append_eq_right]

theorem stopBit_word (p : Parts) (stop : Bool) : stopBit (p.word stop) = stop := by
  simp [-Nat.reduceAdd, -BitVec.getLsbD_eq_getElem, stopBit, Parts.word, BitVec.getLsbD_append]

theorem stopBit_extWord (stop : Bool) (c : Slot) (x : BitVec 48) : stopBit (extWord stop c x) = stop := by
  simp [-Nat.reduceAdd, -BitVec.getLsbD_eq_getElem, stopBit, extWord, BitVec.getLsbD_append]

/-- The opcode maps allow what follows a syllable of these parts: nothing, where no extension is required, or an extension with its
reserved bits clear, where one may stand (R74). -/
def Parts.Admitted (p : Parts) : Prop :=
  match p.ext with
  | none => extRule p.h.slot p.major.toNat p.fields ≠ .required
  | some x => extRule p.h.slot p.major.toNat p.fields ≠ .none ∧ extReserved p.h.slot p.major.toNat x = false

/-- The decoder reads an instruction back from its own parts. -/
def Instr.ReadsBack (i : Instr) : Prop :=
  ∃ p, i.parts = some p ∧ p.Admitted ∧ decodeForm p.h p.major.toNat p.fields p.ext = .ok i

/-- An instruction that reads back from its parts is decoded from its words. -/
theorem Instr.ReadsBack.decodeSyllable {i : Instr} (hi : i.ReadsBack) :
    (∃ w, encode i = [w] ∧ stopBit w = true ∧ decodeSyllable w none = .ok i)
    ∨ ∃ w x, encode i = [w, x] ∧ stopBit w = false ∧ stopBit x = true ∧ decodeSyllable w (some x) = .ok i := by
  obtain ⟨⟨h, major, f, x⟩, hp, ha, hd⟩ := hi
  cases x with
  | none =>
    have he : encode i = [Parts.word ⟨h, major, f, none⟩ true] := by simp only [encode, hp]
    refine .inl ⟨_, he, stopBit_word .., ?_⟩
    have hr : extRule h.slot major.toNat f ≠ .required := ha
    simp only [Sys2Proof.decodeSyllable, Syl.of_word, if_neg hr, hd]
  | some x =>
    have he : encode i = [Parts.word ⟨h, major, f, some x⟩ false, extWord true h.slot x] := by simp only [encode, hp]
    refine .inr ⟨_, _, he, stopBit_word .., stopBit_extWord .., ?_⟩
    obtain ⟨hr, hz⟩ : extRule h.slot major.toNat f ≠ .none ∧ extReserved h.slot major.toNat x = false := ha
    simp only [Sys2Proof.decodeSyllable, Syl.of_word, Syl.of_extWord, hd]
    simp [hr, hz]

end Sys2Proof
end

section
/-! Encoding: what the decoder reads in each slot class, and the instructions read back from their own words. -/

namespace Sys2Proof

open Bool (and_elim_left and_elim_right)

/-- A form whose reserved bits are clear and whose operands decode to a well-formed instruction. -/
theorem form_eq_ok {clean : Bool} {o : Option Instr} {i : Instr} (hc : clean = true) (ho : o = some i) (hw : i.wf = true) :
    form clean o = .ok i := by
  simp [form, hc, ho, hw]

/-- A read-modify-write form, whose unused bits of xs are clear. -/
theorem rmwForm_eq_ok {o : Rmw} {unused : BitVec 6} {mk : Rmw → Instr} (hu : o.xs &&& unused = 0) (hw : (mk o).wf = true) :
    rmwForm (RawM.of (RawM.pack ⟨o.rd, o.space.code, o.xb, bit1 o.ret, o.xs, o.off.extractLsb' 12 2, o.off.extractLsb' 0 12, 0,
      o.ty.code, o.hint.code, 0⟩)) unused mk = .ok (mk o) :=
  form_eq_ok (by simp [hu]) (by simp) hw

/-! ## Slots A and B, which share their opcode map -/

section AB
variable {h : Hdr} (hs : h.slot.isAB = true) (major : Nat) (f : BitVec 47)
include hs

theorem slot_AB : h.slot = .A ∨ h.slot = .B := by
  obtain ⟨slot, g, n⟩ := h
  cases slot with
  | A => exact .inl rfl
  | B => exact .inr rfl
  | S | V | M => exact nomatch hs

theorem decodeForm_AB (x : Option (BitVec 48)) : decodeForm h major f x = decodeAB h major f x := by
  obtain hs | hs := slot_AB hs <;> simp only [decodeForm, hs]

theorem extRule_AB : extRule h.slot major f = extRule .A major f := by
  obtain hs | hs := slot_AB hs
  · rw [hs]
  · rw [hs]; rfl

theorem extReserved_AB (p : BitVec 48) : extReserved h.slot major p = extReserved .A major p := by
  obtain hs | hs := slot_AB hs
  · rw [hs]
  · rw [hs]; rfl

end AB

theorem slot_SAB {h : Hdr} (hs : h.slot.isSAB = true) : h.slot = .S ∨ h.slot.isAB = true := by
  obtain ⟨slot, g, n⟩ := h
  cases slot with
  | S => exact .inl rfl
  | A | B => exact .inr rfl
  | V | M => exact nomatch hs

/-- An extension that the opcode map leaves open, with its reserved bits clear. -/
theorem Parts.admitted_of_optional {p : Parts} (ho : extRule p.h.slot p.major.toNat p.fields = .optional)
    (hr : ∀ x, p.ext = some x → extReserved p.h.slot p.major.toNat x = false) : p.Admitted := by
  obtain ⟨h, major, f, x⟩ := p
  cases x with
  | none => exact ho.trans_ne nofun
  | some x => exact ⟨ho.trans_ne nofun, hr x rfl⟩

/-- A row of slots A and B with a memory operand admits the extension of layout M0, whose upper four bits are reserved (Tables 4.16
and 4.20). -/
structure AdmitsM0 (major : Nat) : Prop where
  optional : ∀ f : BitVec 47, f.getLsbD 32 = false → extRule .A major f = .optional
  not_required : ∀ f : BitVec 47, extRule .A major f ≠ .required
  reserved : ∀ x : BitVec 48, extReserved .A major x = (x.extractLsb' 44 4 != 0)

theorem admitsM0 {major : Nat} (hm : major ∈ [0x30, 0x80, 0x81, 0x82, 0x83, 0x87]) : AdmitsM0 major := by
  have hr (f : BitVec 47) : extRule .A major f = if f.getLsbD 32 then .none else .optional := by fin_cases hm <;> rfl
  exact ⟨fun f hf => by rw [hr, hf]; rfl, fun f => by rw [hr]; split <;> nofun, by fin_cases hm <;> exact fun _ => rfl⟩

theorem admitsM0_mwait : AdmitsM0 (0x8C : BitVec 8).toNat := ⟨fun _ _ => rfl, fun _ => nofun, fun _ => rfl⟩

/-! ## A form of each class

An instruction with these parts reads back where its class decodes them. -/

namespace Instr.ReadsBack

variable {i : Instr} {h : Hdr} {major : BitVec 8} {f : BitVec 47}

theorem ofS (hs : h.slot = .S) (hp : i.parts = plain h major f) (hd : decodeS h major.toNat f none = .ok i) : i.ReadsBack := by
  refine ⟨_, hp, ?_, ?_⟩
  · simp only [Parts.Admitted, hs, extRule]
    split <;> nofun
  · simp only [decodeForm, hs, hd]

theorem ofV (hs : h.slot = .V) (hp : i.parts = plain h major f) (hd : decodeV h major.toNat f = .ok i) : i.ReadsBack := by
  refine ⟨_, hp, ?_, ?_⟩
  · simp [Parts.Admitted, hs, extRule]
  · simp only [decodeForm, hs, hd]

theorem ofM (hs : h.slot = .M) (hp : i.parts = plain h major f) (hr : major.toNat ≠ 0x10)
    (hd : decodeM h major.toNat f none = .ok i) : i.ReadsBack := by
  refine ⟨_, hp, ?_, ?_⟩
  · simp [Parts.Admitted, hs, extRule, hr]
  · simp only [decodeForm, hs, hd]

theorem ofAB (hs : h.slot.isAB = true) (hp : i.parts = plain h major f) (hr : (major.toNat == 0xA3 && f.getLsbD 4) = false)
    (hd : decodeAB h major.toNat f none = .ok i) : i.ReadsBack := by
  refine ⟨_, hp, ?_, ?_⟩
  · show extRule h.slot _ _ ≠ _
    rw [extRule_AB hs]
    simp only [extRule, hr, Bool.false_eq_true, if_false]
    split_ifs <;> nofun
  · simp only [decodeForm_AB hs, hd]

/-- A form of the slots S, A and B, whose rows agree. -/
theorem ofSAB (hs : h.slot.isSAB = true) (hp : i.parts = plain h major f) (hr : (major.toNat == 0xA3 && f.getLsbD 4) = false)
    (hd : decodeS h major.toNat f none = .ok i) (hd' : decodeAB h major.toNat f none = .ok i) : i.ReadsBack :=
  (slot_SAB hs).elim (fun hs => ofS hs hp hd) fun hs => ofAB hs hp hr hd'

section imm
variable {d s1 : BitVec 6} {ty fn : BitVec 4} {imm : Imm}

/-- A form of class S with an immediate. -/
theorem ofS_imm (hs : h.slot = .S) (hp : i.parts = encI h major d s1 ty imm fn) (hr : ∀ f, extRule .S major.toNat f = .optional)
    (hd : decodeS h major.toNat (RawI.pack ⟨d, s1, ty, imm.low, fn, 0⟩) imm.payload = .ok i) : i.ReadsBack := by
  refine ⟨_, hp.trans (encI_eq ..), Parts.admitted_of_optional ?_ fun x _ => ?_, ?_⟩
  · exact hs ▸ hr _
  · simp only [extReserved, hs]
  · simp only [decodeForm, hs, hd]

/-- `addi` in slots A and B. -/
theorem ofAB_imm (hs : h.slot.isAB = true) (hp : i.parts = encI h 0x20 d s1 ty imm fn)
    (hd : decodeAB h 0x20 (RawI.pack ⟨d, s1, ty, imm.low, fn, 0⟩) imm.payload = .ok i) : i.ReadsBack := by
  refine ⟨_, hp.trans (encI_eq ..), Parts.admitted_of_optional ?_ fun x _ => ?_, ?_⟩
  · exact extRule_AB hs ..
  · exact extReserved_AB hs ..
  · exact (decodeForm_AB hs ..).trans hd

end imm

/-- A form of slots A and B with a memory operand. -/
theorem ofAB_mem {rd : BitVec 6} {sp ssel hint : BitVec 2} {ty : BitVec 4} {m : MemOp} (hs : h.slot.isAB = true)
    (hp : i.parts = encM h major rd sp m ssel ty hint) (hm : AdmitsM0 major.toNat)
    (hd : decodeAB h major.toNat (m.raw rd sp ssel ty hint).pack m.payload = .ok i) : i.ReadsBack := by
  refine ⟨_, hp.trans (encM_eq ..), ?_, ?_⟩
  · cases hx : m.payload with
    | none => exact (extRule_AB hs ..).trans_ne (hm.not_required _)
    | some x =>
      obtain ⟨hl, hz⟩ := m.payload_admitted rd sp ssel ty hint x hx
      refine Parts.admitted_of_optional ((extRule_AB hs ..).trans (hm.optional _ ?_)) fun y hy => ?_
      · rw [RawM.pack_getLsbD_lay, hl]; rfl
      · obtain rfl : x = y := by simpa using hy
        exact (extReserved_AB hs ..).trans (by rw [hm.reserved, hz]; rfl)
  · simp only [decodeForm_AB hs, hd]

/-- `copyc` with the extension that its flag asks for (R243). -/
theorem copyc_last {s1 s2 s3 : BitVec 6} {ph : BitVec 12} {e : ChainEnd} (hs : h.slot.isAB = true) :
    (Instr.copyc h s1 s2 s3 ph (some e)).ReadsBack := by
  refine ⟨_, rfl, ⟨?_, ?_⟩, (decodeForm_AB hs ..).trans ?_⟩
  · have hr : extRule .A 0xA3 (RawE.pack ⟨0, s1, s2, s3, 0, ph, 0, 1, e.retries.setWidth 4⟩) = .required :=
      if_pos (by rw [RawE.pack_getLsbD_flag]; rfl)
    exact ((extRule_AB hs ..).trans hr).trans_ne nofun
  · exact (extReserved_AB hs ..).trans (by simp [extReserved])
  · unfold decodeAB
    simp [form, show (Instr.copyc h s1 s2 s3 ph (some e)).wf = true from hs]

/-- `touch`, whose constant stands in its extension (R388). -/
theorem touch {seed : BitVec 16} {const : BitVec 32} (hi : (Instr.touch h seed const).wf = true) : (Instr.touch h seed const).ReadsBack := by
  have hs : h.slot = .M := eq_of_beq hi
  refine ⟨_, rfl, ⟨?_, ?_⟩, ?_⟩
  · simp [extRule, hs]
  · simp [extReserved, hs]
  · simp only [decodeForm, hs]
    unfold decodeM
    exact form_eq_ok (by simp) (by simp) hi

end Instr.ReadsBack
end Sys2Proof
end

section
/-! Encoding: every well-formed instruction is read back, and the statement about the decoder and the encoder. -/

namespace Sys2Proof

open Bool (and_elim_left and_elim_right)

/-- Every well-formed instruction reads back from its own parts: the row of its class (Tables 4.19 to 4.22), with its reserved bits clear, gives
its operands. The well-formedness names the slot first. -/
theorem Instr.readsBack_of_wf (i : Instr) (hi : i.wf = true) : i.ReadsBack := by
  cases i with
  -- class S
  | nop h | tfence h | eret h => exact .ofS (eq_of_beq hi) rfl (by unfold decodeS; exact form_eq_ok rfl rfl hi)
  | and h d s1 s2 | or h d s1 s2 | xor h d s1 s2 | sel h d s1 s2 pn | trap h imm | br h tsel | jr h xr | call h xr tsel | ret h xr
  | loop h xr tsel | loopi h n tsel | swp h xr tsel stg | ltagG h d s1 imm | lfold h d | dgrd h g =>
    exact .ofS (eq_of_beq hi) rfl (by unfold decodeS; exact form_eq_ok (by simp) (by simp) hi)
  | mul h ty d s1 s2 | mulh h ty d s1 s2 | div h ty d s1 s2 | rem h ty d s1 s2 | min h ty d s1 s2 | max h ty d s1 s2 | shl h ty d s1 s2
  | shr h ty d s1 s2 | sra h ty d s1 s2 | clz h ty d s1 | ctz h ty d s1 | popc h ty d s1 | pand h pd p1 p2 | por h pd p1 p2
  | pxor h pd p1 p2 | pandn h pd p1 p2 | bfi h d s1 pos wm1 | mfc h d n | mtc h n s1 | lstamp h d s1 imm =>
    exact .ofS (eq_of_beq (and_elim_left hi)) rfl (by unfold decodeS; exact form_eq_ok (by simp) (by simp) hi)
  | shri h ty d s1 k | srai h ty d s1 k | bfx h ty d s1 pos wm1 =>
    exact .ofS (eq_of_beq (and_elim_left (and_elim_left hi))) rfl (by unfold decodeS; exact form_eq_ok (by simp) (by simp) hi)
  | cmp h c ty pd s1 s2 =>
    have hs : h.slot = .S := eq_of_beq (and_elim_left (and_elim_left (and_elim_left hi)))
    exact .ofS hs rfl (by unfold decodeS; exact form_eq_ok (by simp) (by simp) hi)
  | ltag h file d s1 =>
    have hs : h.slot = .S := eq_of_beq (and_elim_left hi)
    cases file with
    | x | v | p | a => exact .ofS hs rfl (by unfold decodeS; exact form_eq_ok (by simp) (by simp [TagFile.code]) hi)
  -- class S, with an immediate that may be extended
  | andi h d s1 imm | ori h d s1 imm | xori h d s1 imm | movi h d imm | mark h imm =>
    exact .ofS_imm (eq_of_beq hi) rfl (fun _ => rfl) (by unfold decodeS; exact form_eq_ok (by simp) (by simp) hi)
  | cmpi h c ty pd s1 imm =>
    have hs : h.slot = .S := eq_of_beq (and_elim_left (and_elim_left (and_elim_left hi)))
    exact .ofS_imm hs rfl (fun _ => rfl) (by unfold decodeS; exact form_eq_ok (by simp) (by simp) hi)
  | lseed h vec d imm =>
    exact .ofS_imm (eq_of_beq (and_elim_left hi)) rfl (fun _ => rfl)
      (by unfold decodeS; exact form_eq_ok (by simp) (by simp [Bool.toNat_le]) hi)
  -- slots S, A and B
  | add h ty sat d s1 s2 | sub h ty sat d s1 s2 =>
    exact .ofSAB (and_elim_left hi) rfl rfl (by unfold decodeS; exact form_eq_ok (by simp) (by simp [Bool.toNat_le]) hi)
      (by unfold decodeAB; exact form_eq_ok (by simp) (by simp [Bool.toNat_le]) hi)
  | shli h ty d s1 k =>
    exact .ofSAB (and_elim_left (and_elim_left hi)) rfl rfl (by unfold decodeS; exact form_eq_ok (by simp) (by simp) hi)
      (by unfold decodeAB; exact form_eq_ok (by simp) (by simp) hi)
  | addi h ty d s1 imm =>
    obtain hs | hs := slot_SAB (and_elim_left hi)
    · exact .ofS_imm hs rfl (fun _ => rfl) (by unfold decodeS; exact form_eq_ok (by simp) (by simp) hi)
    · exact .ofAB_imm hs rfl (by unfold decodeAB; exact form_eq_ok (by simp) (by simp) hi)
  -- slots A and B, with a memory operand that may be extended
  | lea h d m => exact .ofAB_mem hi rfl (admitsM0 (by decide)) (by unfold decodeAB; exact form_eq_ok (by simp) (by simp) hi)
  | ld h ty sp d m ssel hint | vld h ty sp d m ssel hint =>
    exact .ofAB_mem (and_elim_left (and_elim_left hi)) rfl (admitsM0 (by decide))
      (by unfold decodeAB; exact form_eq_ok (by simp [code_or_of_okSsel (and_elim_right hi)]) (by simp) hi)
  | st h ty sp xs m hint | vst h ty sp xs m hint | ldl h ty xs m hint =>
    exact .ofAB_mem (and_elim_left hi) rfl (admitsM0 (by decide)) (by unfold decodeAB; exact form_eq_ok (by simp) (by simp) hi)
  | mwait h ty xd m ssel hint =>
    have hl : (m.raw xd 0#2 ssel ty.code hint.code).lay = 0#1 := by
      cases m with
      | m0 xb off | m0x xb off p => rfl
      | m1 xb xi sh => exact nomatch and_elim_right hi
    exact .ofAB_mem (and_elim_left (and_elim_left hi)) rfl admitsM0_mwait
      (by unfold decodeAB; exact form_eq_ok (by simp [hl]) (by simp) hi)
  -- slots A and B, read-modify-write
  | bfins h o | plset h o | atomCas h o =>
    exact .ofAB (and_elim_left hi) rfl rfl (by unfold decodeAB; exact rmwForm_eq_ok (BitVec.and_zero ..) hi)
  | ffcs h o =>
    have hx : o.xs = 0 := Rmw.xs_of_ok (and_elim_right (and_elim_left hi))
    exact .ofAB (and_elim_left (and_elim_left hi)) rfl rfl (by unfold decodeAB; exact rmwForm_eq_ok (by simp [hx]) hi)
  | atomAdd h o | atomMin h o | atomMax h o | atomAnd h o | atomOr h o | atomXor h o | atomSwp h o =>
    have hx : o.xs = 0 := Rmw.xs_of_ok (and_elim_right hi)
    exact .ofAB (and_elim_left hi) rfl rfl (by unfold decodeAB; exact rmwForm_eq_ok (by simp [hx]) hi)
  | atomFadd h o =>
    have hx : o.xs.toNat < 4 := of_decide_eq_true (and_elim_right (and_elim_left hi))
    exact .ofAB (and_elim_left (and_elim_left (and_elim_left hi))) rfl rfl
      (by unfold decodeAB; exact rmwForm_eq_ok (and_0x3C_of_lt hx) hi)
  -- slots A and B, the other forms
  | tend h | yield h => exact .ofAB hi rfl rfl (by unfold decodeAB; exact form_eq_ok rfl rfl hi)
  | evblk h k | copyr h s1 s2 s3 ph | copyx h s1 s2 s3 ph | spawn h s1 | join h s1 | sbind h k s1 | sunbind h k | clrel h d s1 all
  | clqry h d s1 | rsend h vs t op | rrecv h vd xs t =>
    exact .ofAB hi rfl rfl (by unfold decodeAB; exact form_eq_ok (by simp) (by simp) hi)
  | vgath h ty vd xb vi off ssel hint | vscat h ty vs xb vi off hint | fence h sc | drain h sc | sadv h k n =>
    exact .ofAB (and_elim_left hi) rfl rfl (by unfold decodeAB; exact form_eq_ok (by simp) (by simp) hi)
  | cancel h s1 level | ccrd h d s1 level | clacq h d s1 mode | clupg h d s1 mode | cltry h d s1 mode =>
    exact .ofAB (and_elim_left (and_elim_left hi)) rfl rfl (by unfold decodeAB; exact form_eq_ok (by simp) (by simp) hi)
  | ldblk h s1 s2 k ph hint =>
    cases ph with
    | none | some idx => exact .ofAB hi rfl rfl (by unfold decodeAB; exact form_eq_ok (by simp) (by simp) hi)
  | copy h out slice s1 v2 s3 ph =>
    cases out <;> cases slice <;> exact .ofAB hi rfl rfl (by unfold decodeAB; exact form_eq_ok (by simp) (by simp) hi)
  | copyc h s1 s2 s3 ph last =>
    cases last with
    | none => exact .ofAB hi rfl ((RawE.pack_getLsbD_flag _).trans rfl) (by unfold decodeAB; simp [form, hi])
    | some e => exact .copyc_last hi
  | phreg h ref sc mode =>
    have hs : h.slot.isAB = true := and_elim_left (and_elim_left hi)
    cases ref with
    | here idx | remote xr => exact .ofAB hs rfl rfl (by unfold decodeAB; exact form_eq_ok (by simp) (by simp) hi)
  | phdrop h ref mode | phrd h d ref w =>
    have hs : h.slot.isAB = true := and_elim_left hi
    cases ref with
    | here idx | remote xr => exact .ofAB hs rfl rfl (by unfold decodeAB; exact form_eq_ok (by simp) (by simp) hi)
  | phsig h ref | phwait h d ref s2 | phsw h d ref s2 s3 | phexp h d ref s2 =>
    cases ref with
    | here idx | remote xr => exact .ofAB hi rfl rfl (by unfold decodeAB; exact form_eq_ok (by simp) (by simp) hi)
  -- class V
  | vsel h vd vs1 vs2 vs3 | vand h vd vs1 vs2 | vor h vd vs1 vs2 | vxor h vd vs1 vs2 | vnot h vd vs1 | vperm h vd vs1 vs2
  | vbcast h vd xs1 | vins h vd xs1 k | vlane h vd | setvl h xs1 | vmov h vd vs1 =>
    exact .ofV (eq_of_beq hi) rfl (by unfold decodeV; exact form_eq_ok (by simp) (by simp) hi)
  | vadd h m vd vs1 vs2 | vsub h m vd vs1 vs2 | vmul h m vd vs1 vs2 | vfma h m vd vs1 vs2 vs3 | vfms h m vd vs1 vs2 vs3
  | vredsum h m vd vs1 | vshl h fmt vd vs1 vs2 | vshr h fmt vd vs1 vs2 | vsra h fmt vd vs1 vs2 | vext h fmt xd vs1 k
  | vdefer h vm vs1 nm1 id | vdrain h vd vmap nm1 id =>
    exact .ofV (eq_of_beq (and_elim_left hi)) rfl (by unfold decodeV; exact form_eq_ok (by simp) (by simp) hi)
  | vmin h m vd vs1 vs2 | vmax h m vd vs1 vs2 =>
    obtain ⟨hr, hf, hs⟩ := VMod.clear_of_okMinMax (and_elim_right hi)
    exact .ofV (eq_of_beq (and_elim_left hi)) rfl (by unfold decodeV; exact form_eq_ok (by simp [hr, hf, hs]) (by simp) hi)
  | vabs h m vd vs1 | vneg h m vd vs1 =>
    have hr : m.rnd = .rne := VMod.clear_of_okAbs (and_elim_right hi)
    exact .ofV (eq_of_beq (and_elim_left hi)) rfl (by unfold decodeV; exact form_eq_ok (by simp [hr]) (by simp) hi)
  | vcmp h c m vd vs1 vs2 =>
    obtain ⟨hr, hf, hs⟩ := VMod.clear_of_okMinMax (and_elim_right (and_elim_left hi))
    exact .ofV (eq_of_beq (and_elim_left (and_elim_left hi))) rfl
      (by unfold decodeV; exact form_eq_ok (by simp [hr, hf, hs]) (by simp) hi)
  | vcvt h m sfmt vd vs1 =>
    have hs : h.slot = .V := eq_of_beq (and_elim_left (and_elim_left (and_elim_left hi)))
    exact .ofV hs rfl (by unfold decodeV; exact form_eq_ok (by simp) (by simp) hi)
  | vnarrow h m sfmt vd vs1 scale =>
    have hs : h.slot = .V := eq_of_beq (and_elim_left (and_elim_left hi))
    cases scale with
    | none | some v => exact .ofV hs rfl (by unfold decodeV; exact form_eq_ok (by simp) (by simp) hi)
  | vexp2 h m vd vs1 | vrcp h m vd vs1 =>
    obtain ⟨hr, hs⟩ := VMod.clear_of_okApprox (and_elim_right hi)
    exact .ofV (eq_of_beq (and_elim_left hi)) rfl (by unfold decodeV; exact form_eq_ok (by simp [hr, hs]) (by simp) hi)
  | vredmax h m vd vs1 =>
    obtain ⟨hr, hf, hs⟩ := VMod.clear_of_okRedmax (and_elim_right hi)
    exact .ofV (eq_of_beq (and_elim_left hi)) rfl (by unfold decodeV; exact form_eq_ok (by simp [hr, hf, hs]) (by simp) hi)
  | scacc h acc ver vec rnd sat =>
    have hs : h.slot = .V := eq_of_beq (and_elim_left hi)
    cases acc with
    | none | some k => exact .ofV hs rfl (by unfold decodeV; exact form_eq_ok (by simp) (by simp) hi)
  -- class M
  | mgoBf16 h | mgoF8e4 h | mgoF8e5 h | mgoI8 h | mgoI4x h =>
    exact .ofM (eq_of_beq hi) rfl (by decide) (by unfold decodeM; exact form_eq_ok rfl rfl hi)
  | mnest h s1 | mzero h acc | mstat h d | mblkBf16 h o | mblkF8e4 h o | mblkF8e5 h o | mblkI8 h o | mblkI4x h o =>
    exact .ofM (eq_of_beq hi) rfl (by decide) (by unfold decodeM; exact form_eq_ok (by simp) (by simp) hi)
  | mdrain h fmt rnd sat acc s1 s2 r0 nm1 =>
    have hs : h.slot = .M := eq_of_beq (and_elim_left (and_elim_left hi))
    exact .ofM hs rfl (by decide) (by unfold decodeM; exact form_eq_ok (by simp) (by simp) hi)
  | touch h seed const => exact .touch hi
  -- the events have no encoding
  | _ => exact nomatch hi

/-- Settles O52: an instruction reads back from its parts (`Instr.readsBack_of_wf`), and its words give its parts. -/
theorem decodeOfEncode : Obligations.DecodeOfEncode := by
  unfold Obligations.DecodeOfEncode
  exact fun i hi => (i.readsBack_of_wf hi).decodeSyllable

end Sys2Proof
end

section
/-! The words that the manual prints; the immediate and bit-field forms; a false guard. -/

namespace Sys2Proof.Machine

/-- Settles O51: the decoder evaluated on each of the ten words. -/
theorem printedWordsDecode : Obligations.PrintedWordsDecode := by
  unfold Obligations.PrintedWordsDecode
  exact ⟨by decide, by decide, by decide, by decide, by decide, by decide, by decide, by decide, by decide, by decide⟩

/-! ## Bit fields (R132) -/

/-- The integer of the low N bits, in 64 bits: the bits extended by the top one, or by zeros. -/
theorem ofInt_intOf (signed : Bool) (N : Nat) (x : BitVec N) :
    BitVec.ofInt 64 (intOf signed N x.toNat) = if signed then x.signExtend 64 else x.setWidth 64 := by
  have hm : x.toNat % 2 ^ N = x.toNat := Nat.mod_eq_of_lt x.isLt
  cases signed with
  | false => simp [intOf, hm]
  | true =>
    have hi : intOf true N x.toNat = x.toInt := by
      simp only [intOf, hm, BitVec.toInt_eq_toNat_cond]
      split <;> simp_all
    rw [hi, if_pos rfl, BitVec.signExtend]

theorem fieldOf_eq (a : Word) (pos width : Nat) : fieldOf a pos width = (a.extractLsb' pos width).toNat := by
  simp [fieldOf, BitVec.extractLsb'_toNat, Nat.shiftRight_eq_div_pow]

/-- Bit i of a field extended by its top bit. -/
theorem getLsbD_signExtend_field (a : Word) (pos k : Nat) {i : Nat} (hi : i < 64) :
    ((a.extractLsb' pos (k + 1)).signExtend 64).getLsbD i = a.getLsbD (pos + Min.min i k) := by
  rw [BitVec.getLsbD_signExtend, decide_eq_true hi, Bool.true_and]
  split
  · next h => rw [BitVec.getLsbD_extractLsb', decide_eq_true h, Bool.true_and, min_eq_left (Nat.lt_succ_iff.1 h)]
  · next h =>
    rw [BitVec.msb_eq_getLsbD_last, BitVec.getLsbD_extractLsb', min_eq_right (by omega)]
    simp

/-- Bit i of a field extended by zeros. -/
theorem getLsbD_setWidth_field (a : Word) (pos k : Nat) {i : Nat} (hi : i < 64) :
    ((a.extractLsb' pos (k + 1)).setWidth 64).getLsbD i = (decide (i ≤ k) && a.getLsbD (pos + i)) := by
  simp [hi]

/-- Bit i of a word with `width` bits from `pos` on replaced by the low bits of another. -/
theorem getLsbD_insertField (a b : Word) (pos width : Nat) {i : Nat} (hi : i < 64) :
    (insertField a b pos width).getLsbD i = if pos ≤ i ∧ i < pos + width then b.getLsbD (i - pos) else a.getLsbD i := by
  have hm : (BitVec.ofNat 64 ((2 ^ width - 1) * 2 ^ pos)).getLsbD i = decide (pos ≤ i ∧ i < pos + width) := by
    rw [BitVec.getLsbD_ofNat, Nat.testBit_mul_two_pow, Nat.testBit_two_pow_sub_one, ← Bool.decide_and, ← Bool.decide_and]
    exact decide_eq_decide.2 (by omega)
  simp only [insertField, BitVec.getLsbD_or, BitVec.getLsbD_and, BitVec.getLsbD_not, BitVec.getLsbD_shiftLeft, hm, hi]
  split
  · next h => simp [h, Nat.not_lt.2 h.1]
  · next h => simp [h]
/-! ## Immediate forms (R75, R129) -/

theorem shiftLeft_eq (ty : Fmt) (a : Word) (k : Nat) : shiftLeft ty a k = ty.fit (((a.toNat % 2 ^ ty.width : Nat) : Int) * 2 ^ k) := by
  rw [shiftLeft, lowBits]; push_cast; rfl

theorem shiftRight_eq (ty : Fmt) (a : Word) (k : Nat) : shiftRight ty a k = ty.fit (((a.toNat % 2 ^ ty.width : Nat) : Int) / 2 ^ k) := by
  rw [shiftRight, lowBits]; push_cast; rfl

section forms
variable {s : State} {h : Hdr} {d s1 : BitVec 6}

theorem movi_writes (hi : s.mayIssue h [.x d]) (imm : Imm) :
    exec (.movi h d imm) s = .next (s.writes h 0x28 1 (.x d) [] (.word (imm.value true)) 0) :=
  congrArg Host.Outcome.next (issue_one (rs := []) hi 1 _ 0)

/-- A form of one source. -/
theorem exec_issueXX {i : Instr} {major : BitVec 8} {f : Word → Word} {w : Word} (hi : s.mayIssue h [.x s1, .x d])
    (hx : exec i s = .next (s.issueXX h major d s1 f)) (hw : f (s.xval s1) = w) :
    exec i s = .next (s.writes h major 1 (.x d) [.x s1] (.word w) 0) := by
  rw [hx, issueXX_writes hi, hw]

/-- `bfx`: the field, extended as its type says. -/
theorem bfx_writes (hi : s.mayIssue h [.x s1, .x d]) (ty : Fmt) (pos wm1 : BitVec 6) : exec (.bfx h ty d s1 pos wm1) s
    = .next (s.writes h 0x29 1 (.x d) [.x s1] (.word (
        let field := (s.xval s1).extractLsb' pos.toNat (wm1.toNat + 1)
        if ty.isSignedInt then field.signExtend 64 else field.setWidth 64)) 0) :=
  exec_issueXX hi rfl (by rw [fieldOf_eq, ofInt_intOf])

/-- `bfi`: its destination with the field replaced. -/
theorem bfi_writes (hi : s.mayIssue h [.x s1, .x d, .x d]) (pos wm1 : BitVec 6) : exec (.bfi h d s1 pos wm1) s
    = .next (s.writes h 0x2A 1 (.x d) [.x s1, .x d] (.word (insertField (s.xval d) (s.xval s1) pos.toNat (wm1.toNat + 1))) 0) :=
  congrArg Host.Outcome.next (issue_one (rs := [.x s1, .x d]) hi 1 _ 0)

end forms

/-- Settles O5: the immediate forms write one result (`exec_issueXX`), and the bits of a field are those of `getLsbD_signExtend_field`,
`getLsbD_setWidth_field` and `getLsbD_insertField`. -/
theorem immediateAndBitFieldResults : Obligations.ImmediateAndBitFieldResults := by
  unfold Obligations.ImmediateAndBitFieldResults
  refine ⟨fun h ty d s1 i x k s => ⟨fun hi => ⟨movi_writes hi _, movi_writes hi _⟩, fun hi => ?_⟩,
    fun h d s1 pos wm1 s _ => ⟨fun hi => ⟨?_, ?_⟩, fun hi => ?_⟩⟩
  · exact ⟨exec_issueXX hi rfl rfl, exec_issueXX hi rfl rfl, exec_issueXX hi rfl rfl, exec_issueXX hi rfl rfl, exec_issueXX hi rfl rfl,
      exec_issueXX hi rfl rfl, exec_issueXX hi rfl rfl, exec_issueXX hi rfl rfl, exec_issueXX hi rfl (shiftLeft_eq ..),
      exec_issueXX hi rfl (shiftRight_eq ..), exec_issueXX hi rfl rfl⟩
  · exact ⟨_, bfx_writes hi .i64 pos wm1, fun i hb => getLsbD_signExtend_field _ _ _ hb⟩
  · exact ⟨_, bfx_writes hi .n64 pos wm1, fun i hb => getLsbD_setWidth_field _ _ _ hb⟩
  · refine ⟨_, bfi_writes hi pos wm1, fun i hb => (getLsbD_insertField _ _ _ _ hb).trans ?_⟩
    simp only [← Nat.add_assoc, Nat.lt_succ_iff]

/-! ## A false guard (R67, R175) -/

/-- State.reset with one accumulator, which an asynchronous result is awaited for. -/
def awaitedAcc : State :=
  { State.reset with ctx := { Ctx.reset with
      work := { Regs.reset with acc := [⟨Vector.replicate 64 (Vector.replicate 64 0), 0, false⟩] }
      pend := [⟨0, .none, [.acc 0], .word, false, 0, 0, true, none⟩] } }

/-- An `mzero` of the awaited accumulator freezes, although its guard gives it no effect (R35). -/
theorem mzero_awaitedAcc : exec (.mzero ⟨.M, 0, true⟩ 0) awaitedAcc = .next (awaitedAcc.freeze .pending) :=
  congrArg Host.Outcome.next (issue_awaited (s := awaitedAcc) (f := { h := ⟨.M, 0, true⟩, major := 0x04, dests := [.a 0] }) _ (by decide +kernel))

/-- Refutes O55: a pending accumulator freezes an `mzero` whose guard gives it no effect, and nothing is folded. The statement asks of every
other form that neither its guard nor its registers are pending, but of `mzero` it leaves out the accumulator that it names. -/
theorem not_guardFalseFoldsOnly : ¬Obligations.GuardFalseFoldsOnly := by
  unfold Obligations.GuardFalseFoldsOnly
  intro h
  obtain ⟨-, -, -, -, hfree, -⟩ := h ⟨.M, 0, true⟩ .i8 .eq false false 0 0 0 0 0 (.m0 0 0) .loc 0 .normal
    ⟨.i8, .rne, false, false, false⟩ 0 0 awaitedAcc (by decide)
  obtain ⟨-, -, -, -, -, hmzero⟩ := hfree (by decide)
  have hx := Host.Outcome.next.inj (mzero_awaitedAcc.symm.trans (hmzero (by decide)))
  rw [freeze_nil rfl] at hx
  exact absurd (congrArg (·.iss.fate) hx) (by decide)

end Sys2Proof.Machine
end

section
/-! Precise traps with a handler installed, and the statement about the system forms that take them. -/

namespace Sys2Proof.Machine

section raises
variable {s : State} {h : Hdr}

/-- `trap` raises its software trap (R136). -/
theorem trap_raises (imm : BitVec 16) (hi : s.mayIssue h []) :
    exec (.trap h imm) s = .next (s.raise 0x21 (imm.setWidth 8) (imm.setWidth 64) false) :=
  congrArg Host.Outcome.next (issue_none_error (rs := []) hi _)

/-- `tfence` with a delivered flag masked in raises the arithmetic trap (R135). -/
theorem tfence_raises (hi : s.mayIssue h []) (hv : s.ctx.work.flags &&& s.ctx.work.fmask ≠ 0) :
    exec (.tfence h) s = .next (s.raise 0x20 0x00 ((s.ctx.work.flags &&& s.ctx.work.fmask).setWidth 64) false) := by
  simp only [exec, execTfence, if_neg hv]
  exact congrArg Host.Outcome.next (issue_none_error (rs := []) hi _)

/-- `mfc` without access raises the privilege fault (R134). -/
theorem mfc_raises {d : BitVec 6} {n : BitVec 16} (hi : s.mayIssue h [.x d]) (hn : ctlAccess s.who.cid n = .none) :
    exec (.mfc h d n) s = .next (s.raise 0x04 0x01 s.iss.addr false) := by
  simp only [exec, execMfc, hn, if_true]
  exact congrArg Host.Outcome.next (issue_error _ hi.2 hi.1)

/-- `mtc` without access raises the privilege fault (R134). -/
theorem mtc_raises {n : BitVec 16} {s1 : BitVec 6} (hi : s.mayIssue h [.x s1]) (hn : ctlAccess s.who.cid n = .none) :
    exec (.mtc h n s1) s = .next (s.raise 0x04 0x01 s.iss.addr false) := by
  simp only [exec, execMtc, hn]
  exact congrArg Host.Outcome.next (issue_none_error hi _)

/-- `eret` outside a handler raises the privilege fault (R118). -/
theorem eret_raises (hi : s.mayIssue h []) (ho : s.ctx.ih = false) (hp : s.ctx.work.guardPoison h = false) :
    exec (.eret h) s = .next (s.raise 0x04 0x02 s.iss.addr false) := by
  have ha := hi.2
  simp only [exec, execEret, State.transfer, Form.regs, List.append_nil, Option.toList, ha, hp, ho, Bool.false_eq_true, if_false]
  exact congrArg Host.Outcome.next (issue_none_error (rs := []) hi _)

end raises

/-- Settles O8: each form raises its trap, which enters the handler (`raise_enters`). -/
theorem systemFormTraps : Obligations.SystemFormTraps := by
  unfold Obligations.SystemFormTraps
  refine ⟨fun h imm s hi hs => ⟨_, trap_raises imm hi, raise_enters hs ..⟩, fun h d s1 n s hs => ⟨fun hi hv => ?_, fun hi hn => ?_, fun hi hn => ?_,
    fun hi hp => ?_⟩⟩
  · exact ⟨_, tfence_raises hi hv, raise_enters hs ..⟩
  · exact ⟨_, mfc_raises hi hn, raise_enters hs ..⟩
  · exact ⟨_, mtc_raises hi hn, raise_enters hs ..⟩
  · exact ⟨_, eret_raises hi hs.2.2 hp, raise_enters hs ..⟩

end Sys2Proof.Machine
end

section
/-! Every meaning and every step answers a next state. -/

namespace Sys2Proof.Machine

/-- An outcome that is a next state. -/
def completes (o : Host.Outcome State Fault Refusal) : Prop := ∃ t, o = .next t

theorem completes_next (t : State) : completes (.next t) := ⟨t, rfl⟩

theorem completes_ite {c : Prop} [Decidable c] {a b : Host.Outcome State Fault Refusal} (ha : completes a) (hb : completes b) :
    completes (if c then a else b) := by
  split
  · exact ha
  · exact hb

/-- An event that is not due, or that names a unit outside the package, leaves the machine as it is (logs 56, 57). -/
theorem completes_guard {c : Prop} [Decidable c] {s : State} {b : Host.Outcome State Fault Refusal} (hb : completes b) :
    completes (if c then .next s else b) := completes_ite (completes_next s) hb

/-- One choice between two next states. -/
theorem completes_choice {c : Prop} [Decidable c] (s t : State) : completes (if c then .next s else .next t) :=
  completes_ite (completes_next s) (completes_next t)

/-! ## The meanings -/

theorem windowWrite_completes (s : State) (r : WindowReg) (v : Word) : completes (s.windowWrite r v) := by
  cases r with
  | queueBase | queuePasid | queueSize | queueReset | attestHead | collective | saveRequest | power | image | upset | upsetReg | peerGranule | peerLanded
  | flip | takeReport => exact completes_choice _ _
  | linkTrain => exact completes_guard (completes_choice _ _)
  | pasidTable | measured | ide | ats | store | iommu | distances => exact completes_next _

theorem claspRequestServe_completes (q : ClReq) (s : State) : completes (execClaspRequestServe q s) := by
  refine completes_guard (completes_ite (completes_next _) ?_)
  cases s.judge q <;> exact completes_next _

theorem copyBytesLand_completes (site id : Nat) (s : State) : completes (execCopyBytesLand site id s) := by
  refine completes_guard ?_
  split
  · exact completes_next _
  refine completes_ite ?_ (completes_next _)
  split
  · exact completes_next _
  dsimp only
  split
  · exact completes_choice _ _
  · exact completes_next _

theorem chainCompare_completes (c : Src) (s : State) : completes (execChainCompare c s) := by
  refine completes_guard ?_
  split
  · exact completes_next _
  dsimp only
  split
  · exact completes_next _
  · exact completes_guard (completes_ite (completes_next _) (completes_choice _ _))

theorem phaserByteAddition_completes (m : PhMsg) (n id : Nat) (s : State) : completes (execPhaserByteAddition m n id s) := by
  unfold execPhaserByteAddition
  dsimp only
  split
  · exact completes_next _
  · exact completes_next _
  · exact completes_next _
  · exact completes_next _

theorem claspReleaseServe_completes (q : ClReq) (s : State) : completes (execClaspReleaseServe q s) := by
  refine completes_guard ?_
  split
  · exact completes_next _
  · exact completes_ite (completes_next _) (completes_choice _ _)

theorem taskPop_completes (c : Src) (s : State) : completes (execTaskPop c s) := by
  refine completes_guard ?_
  dsimp only
  split
  · exact completes_next _
  split
  · exact completes_next _
  · exact completes_next _

theorem preemption_completes (c : Src) (s : State) : completes (execPreemption c s) := by
  refine completes_guard ?_
  dsimp only
  split
  · exact completes_next _
  · exact completes_choice _ _

theorem snapshotEntryEdit_completes (c : Src) (n : Nat) (e : SnapEdit) (s : State) : completes (execSnapshotEntryEdit c n e s) := by
  refine completes_guard (completes_guard ?_)
  split
  · exact completes_next _
  · exact completes_next _

/-- A packet that its queue starts, well-formed, with a place to go to or without. -/
theorem graph_completes (p q : Nat) (w : RecWords) (s : State) : completes (execGraph p q w s) := by
  refine completes_guard (completes_guard (completes_ite (completes_next _) ?_))
  split <;> exact completes_next _

theorem release_completes (p q : Nat) (w : RecWords) (s : State) : completes (execRelease p q w s) := by
  refine completes_guard (completes_guard (completes_ite (completes_next _) ?_))
  split <;> exact completes_next _

theorem copyFault_completes (site id : Nat) (detail : BitVec 8) (addr : Word) (s : State) : completes (execCopyFault site id detail addr s) := by
  refine completes_guard ?_
  split
  · exact completes_choice _ _
  · exact completes_next _

theorem streamChunkDrain_completes (c : Src) (s : State) : completes (execStreamChunkDrain c s) := by
  unfold execStreamChunkDrain
  split
  · exact completes_next _
  · exact completes_choice _ _

theorem phaserWaitArrival_completes (m : PhMsg) (v : BitVec 32) (id : Nat) (s : State) : completes (execPhaserWaitArrival m v id s) := by
  unfold execPhaserWaitArrival
  dsimp only
  split <;> exact completes_next _

theorem graceMessage_completes (p : BitVec 4) (rank : Nat) (n : Word) (s : State) : completes (execGraceMessage p rank n s) := by
  unfold execGraceMessage
  dsimp only
  split <;> exact completes_next _

theorem woundDelivery_completes (p : BitVec 4) (rank : Nat) (n : Word) (s : State) : completes (execWoundDelivery p rank n s) := by
  refine completes_ite ?_ (completes_next _)
  split <;> exact completes_next _

/-- Every meaning answers a next state, by the shape of its choices; where the last alternative stands for it, it is one next state. -/
theorem exec_completes (i : Instr) (s : State) : completes (exec i s) := by
  cases i with
  | mwait | rrecv => exact completes_choice _ _
  -- due or not
  | asyncResultArrival | contextResume | monitorWakeup | phswLimitExpiry | reductionRoundTimeout | treeEntryWrite | taskPush | cancelCounter | ccrdServe
  | abortTokenReceive | marginReplay | replayWindowClose | ageingSample | debugStepEnd | swallowedPulse | tdispAssignment =>
    exact completes_choice _ _
  -- due, and then one of two
  | custodianShareTurn | remoteAccessArrival | ldblkFillComplete | joinDecrement | injectedDetection | quarantineSite | meshMapMove
  | partitionDescriptorWrite | partitionReset | linkKeyingMessage | linkRekey | linkFailure | linkReset | debugStopRequest | debugResume | debugStep
  | debugRegisterWrite | linkTrainingComplete | frameOwnershipChange | waitConditionMet => exact completes_guard (completes_choice _ _)
  | tailRegisterWrite | wait | indirect | ckpt => exact completes_guard (completes_ite (completes_next _) (completes_choice _ _))
  | launch =>
    exact completes_guard (completes_ite (completes_next _) (completes_guard (completes_ite (completes_next _) (completes_choice _ _))))
  | signedTestKernelResult =>
    exact completes_guard (completes_ite (completes_ite (completes_next _) (completes_next _)) (completes_choice _ _))
  -- due, and then by what is found
  | pageWalkComplete | gangPlacement | reductionRootBufferEntry | patrolScrub =>
    refine completes_guard ?_
    dsimp only
    split <;> exact completes_next _
  | copyBytesLand site id => exact copyBytesLand_completes site id s
  | copyFault site id detail addr => exact copyFault_completes site id detail addr s
  | chainCompare c => exact chainCompare_completes c s
  | streamChunkDrain c => exact streamChunkDrain_completes c s
  | phaserByteAddition m n id => exact phaserByteAddition_completes m n id s
  | phaserWaitArrival m v id => exact phaserWaitArrival_completes m v id s
  | claspRequestServe q => exact claspRequestServe_completes q s
  | claspReleaseServe q => exact claspReleaseServe_completes q s
  | woundDelivery p rank n => exact woundDelivery_completes p rank n s
  | graceMessage p rank n => exact graceMessage_completes p rank n s
  | taskPop c => exact taskPop_completes c s
  | preemption c => exact preemption_completes c s
  | graph p q w => exact graph_completes p q w s
  | release p q w => exact release_completes p q w s
  | snapshotEntryEdit c n e => exact snapshotEntryEdit_completes c n e s
  | configWindowWrite r v => exact completes_ite (windowWrite_completes s r v) (completes_next _)
  | _ => exact completes_next _

/-! ## One step (R24, R28) -/

theorem thenNext_completes {o : Host.Outcome State Fault Refusal} (h : completes o) (k : State → State) : completes (thenNext o k) := by
  obtain ⟨t, rfl⟩ := h
  exact completes_next _

section meaning
variable {ex : Meaning} (hx : ∀ i s, completes (ex i s))
include hx

/-- A trial that ends early answers the state that the failed assay of the predecessor leaves. -/
theorem tryAll_completes {pc : Word} {base : State} {ps : List Placed} : ∀ {t o}, tryAll ex pc base ps t = .error o → completes o := by
  induction ps with
  | nil => intro t o h; cases h
  | cons p ps ih =>
    intro t o h
    obtain ⟨u, hu⟩ := hx p.instr (t.s.latch pc p)
    simp only [tryAll, hu] at h
    cases hf : u.iss.fate with
    | illegal | issued | fault => rw [hf] at h; exact ih h
    | moved => rw [hf] at h; cases h; exact completes_next u
    | frozen =>
      rw [hf] at h
      dsimp only at h
      split at h
      · exact ih h
      · cases h; exact completes_next u

theorem runAll_completes (pc : Word) (whole : State) (ps : List Placed) : ∀ s, completes (runAll ex pc whole ps s) := by
  induction ps with
  | nil => exact completes_next
  | cons p ps ih =>
    intro s
    obtain ⟨u, hu⟩ := hx p.instr (s.latch pc p)
    simp only [runAll, hu]
    cases u.iss.fate with
    | issued => exact ih u
    | frozen => exact completes_choice _ _
    | illegal | fault | moved => exact completes_next u

theorem issueBundle_completes (s : State) (b : Bundle) : completes (s.issueBundle ex b) := by
  unfold State.issueBundle
  dsimp only
  split
  · next h => exact tryAll_completes hx h
  split
  · exact completes_next _
  · exact completes_next _
  · exact thenNext_completes (runAll_completes hx ..) _

theorem decodeFails_completes (s u : State) (early : List Placed) : completes (s.decodeFails ex u early) := by
  unfold State.decodeFails
  split
  · next h => exact tryAll_completes hx h
  · exact completes_next _

theorem issueNext_completes (s : State) : completes (s.issueNext ex) := by
  refine thenNext_completes (completes_guard (completes_guard (completes_guard (completes_guard ?_)))) _
  extract_lets s1
  split
  · exact completes_next _
  refine completes_guard ?_
  split
  · exact decodeFails_completes hx ..
  · exact issueBundle_completes hx ..

theorem issueFirst_completes (cs : List Src) : ∀ s, completes (issueFirst ex cs s).1 := by
  induction cs with
  | nil => exact completes_next
  | cons c cs ih =>
    intro s
    obtain ⟨t, ht⟩ := issueNext_completes hx (s.focus c)
    simp only [issueFirst, ht]
    split
    · exact completes_next _
    split
    · exact ih t
    · exact completes_next _

theorem wallCycle_completes (site : Nat) (s : State) : completes (wallCycle ex site s).1 := by
  unfold wallCycle
  dsimp only
  split
  · exact completes_next _
  · exact thenNext_completes (issueFirst_completes hx ..) _

theorem issueAny_completes (sites : List Nat) : ∀ s, completes (issueAny ex sites s) := by
  induction sites with
  | nil => exact completes_next
  | cons site r ih =>
    intro s
    have h := wallCycle_completes hx site s
    unfold issueAny
    split
    · exact ih _
    · next o b _ e => rw [e] at h; exact h

theorem serve_completes (n : Nat) (s : State) : completes (serve ex n s) := by
  unfold serve
  split
  · exact hx ..
  · exact completes_next _

theorem moveNext_completes (s : State) : completes (moveNext ex s) := by
  unfold moveNext
  split
  · exact serve_completes hx ..
  split
  · exact completes_next _
  split
  · exact completes_next _
  split
  · exact hx ..
  · exact issueAny_completes hx ..

theorem outsideEvent_completes (s : State) (i : Instr) : completes (s.outsideEvent ex i) := by
  unfold State.outsideEvent
  split
  · exact completes_guard (hx ..)
  · exact hx ..

theorem takeTurn_completes (t : Turn) (s : State) : completes (takeTurn ex t s) := by
  cases t with
  | event i => exact completes_ite (outsideEvent_completes hx s i) (completes_next s)
  | work n => exact completes_ite (serve_completes hx n s) (completes_next s)
  | together ns =>
    simp only [takeTurn]
    split
    · exact completes_next _
    · exact serve_completes hx ..
  | bundle site =>
    refine completes_guard ?_
    split
    · exact completes_next _
    · exact wallCycle_completes hx site s
  | context c =>
    refine completes_guard ?_
    split
    · exact completes_next _
    · exact completes_ite (wallCycle_completes hx c.site s) (completes_next s)

end meaning

theorem step_completes (s : State) : completes (step s) := by
  unfold step
  split
  · exact takeTurn_completes exec_completes ..
  · exact moveNext_completes exec_completes s

/-- Settles O50: each meaning by the shape of its choices, and a step by the meanings that it runs. -/
theorem everyInstructionCompletes : Obligations.EveryInstructionCompletes := ⟨exec_completes, step_completes⟩

end Sys2Proof.Machine
end

section
/-! What the sequencer's own writes leave of contexts, images and queues: frames of tasks that end and of records requeued. -/

namespace Sys2Proof.Machine

/-! ## What stays as it is -/

/-- The contexts, the images and the mesh map. -/
def State.stage (s : State) : Src × Ctx × List (Src × Ctx) × List Image × Vector (BitVec 16) 288 := (s.who, s.ctx, s.parkedCtx, s.images, s.mesh)

/-- The stage and the launches, and of each partition the re-executions and the error log: what no change of the class queues touches. -/
def State.ledger (s : State) : (Src × Ctx × List (Src × Ctx) × List Image × Vector (BitVec 16) 288) × List Launch × (BitVec 4 → List Rerun × List ErrEnt) :=
  (s.stage, s.launches, fun p => ((s.part p).reruns, (s.part p).errlog))

theorem stage_of_ledger {s t : State} (h : t.ledger = s.ledger) : t.stage = s.stage := congrArg (·.1) h
theorem launches_of_ledger {s t : State} (h : t.ledger = s.ledger) : t.launches = s.launches := congrArg (·.2.1) h
theorem reruns_of_ledger {s t : State} (h : t.ledger = s.ledger) (p : BitVec 4) : (t.part p).reruns = (s.part p).reruns :=
  congrArg (fun l => (l.2.2 p).1) h
theorem errlog_of_ledger {s t : State} (h : t.ledger = s.ledger) (p : BitVec 4) : (t.part p).errlog = (s.part p).errlog :=
  congrArg (fun l => (l.2.2 p).2) h
theorem images_of_stage {s t : State} (h : t.stage = s.stage) : t.images = s.images := congrArg (·.2.2.2.1) h
theorem mesh_of_stage {s t : State} (h : t.stage = s.stage) : t.mesh = s.mesh := congrArg (·.2.2.2.2) h

theorem stage_of_fields {s t : State} (hw : t.who = s.who) (hc : t.ctx = s.ctx) (hk : t.parkedCtx = s.parkedCtx) (hi : t.images = s.images)
    (hm : t.mesh = s.mesh) : t.stage = s.stage := by
  simp only [State.stage, hw, hc, hk, hi, hm]

theorem getCtx_of_stage {s t : State} (h : t.stage = s.stage) (c : Src) : t.getCtx c = s.getCtx c := by
  simp only [State.stage, Prod.mk.injEq] at h
  obtain ⟨hw, hc, hk, -, -⟩ := h
  simp only [State.getCtx, hw, hc, hk]

theorem contexts_of_stage {s t : State} (h : t.stage = s.stage) : t.contexts = s.contexts := by
  simp only [State.stage, Prod.mk.injEq] at h
  obtain ⟨hw, -, hk, -, -⟩ := h
  simp only [State.contexts, hw, hk]

theorem ledger_setPart (s : State) (p : BitVec 4) {x : Partition} (hr : x.reruns = (s.part p).reruns) (he : x.errlog = (s.part p).errlog) :
    (s.setPart p x).ledger = s.ledger := by
  have h (r : BitVec 4) : ((s.setPart p x).part r).reruns = (s.part r).reruns ∧ ((s.setPart p x).part r).errlog = (s.part r).errlog := by
    by_cases e : r = p
    · rw [e, part_setPart]; exact ⟨hr, he⟩
    · rw [part_setPart_ne s x e]; exact ⟨rfl, rfl⟩
  simp only [State.ledger, fun r => (h r).1, fun r => (h r).2]
  rfl

theorem ledger_of_parts {s t : State} (hs : t.stage = s.stage) (hl : t.launches = s.launches) (hp : t.parts = s.parts) : t.ledger = s.ledger := by
  simp only [State.ledger, State.part, hs, hl, hp]

theorem stage_setTile (s : State) (n : Nat) (x : Tile) : (s.setTile n x).stage = s.stage := by unfold State.setTile; split <;> rfl

/-! ## Writes of the sequencer -/

theorem report_ledger (s : State) (c : Src) (k : Nat) (a b d : Word) : (s.report c k a b d).ledger = s.ledger := by
  unfold State.report State.modTile State.setTile
  split <;> rfl

theorem logUndo_ledger (s : State) (line : Nat) : (s.logUndo line).ledger = s.ledger := by
  unfold State.logUndo
  dsimp only
  split_ifs
  · rfl
  · exact ledger_setPart s _ rfl rfl
  · exact (report_ledger ..).trans (ledger_setPart s _ rfl rfl)
  · rfl

theorem rekeyLine_ledger (s : State) (line : Nat) : (s.rekeyLine line).ledger = s.ledger := by
  unfold State.rekeyLine
  dsimp only
  split
  · rfl
  · rw [setBytes_eq]; exact ledger_of_parts (stage_of_fields rfl rfl rfl rfl rfl) rfl rfl

theorem putBytes_ledger (s : State) (h : Home) (off : Nat) (bs : List Byte) : (s.putBytes h off bs).ledger = s.ledger := by
  unfold State.putBytes
  split
  · rw [setBytes_eq]; exact foldl_field State.ledger rekeyLine_ledger _ s
  · rw [setBytes_eq]; rfl

theorem markUnits_ledger (s : State) (h : Home) (off n : Nat) (p : Bool) : (s.markUnits h off n p).ledger = s.ledger := by
  refine foldl_field State.ledger (fun s u => ?_) _ s
  split_ifs <;> rfl

/-- A home that is no tile's: device memory, host memory, a peer's memory. -/
def isMemory : Home → Bool
  | .dram | .host | .peerMem _ => true
  | _ => false

/-- A write there meets no monitor. -/
theorem homeWrite_ledger (s : State) {h : Home} (hm : isMemory h = true) (off : Nat) (bs : List Byte) (w : Word) (p : Bool) :
    (s.homeWrite h off bs w p).ledger = s.ledger := by
  cases h with
  | dram => exact (markUnits_ledger ..).trans ((putBytes_ledger ..).trans (foldl_field State.ledger logUndo_ledger _ s))
  | host | peerMem => exact (markUnits_ledger ..).trans (putBytes_ledger ..)
  | slice | pool | custodian | peerPool => cases hm

theorem setCounter_ledger (s : State) (p : BitVec 4) (l i : Nat) (w : Word) : (s.setCounter p l i w).ledger = s.ledger := homeWrite_ledger s rfl ..

theorem spill_ledger (s : State) (p : BitVec 4) : (s.spill p).ledger = s.ledger := by
  unfold State.spill
  dsimp only
  split
  · rfl
  · exact homeWrite_ledger s rfl ..

theorem setQueues_ledger (s : State) (p : BitVec 4) (qs : Vector (List RecWords) 4) : (s.setQueues p qs).ledger = s.ledger :=
  (spill_ledger ..).trans (ledger_setPart s p rfl rfl)

theorem refill_ledger (s : State) (p : BitVec 4) : (s.refill p).ledger = s.ledger := by
  unfold State.refill
  dsimp only
  split
  · rfl
  · exact ledger_setPart s p rfl rfl

theorem refillAll_ledger (s : State) : s.refillAll.ledger = s.ledger := foldl_field State.ledger refill_ledger _ s

theorem ageQueues_ledger (s : State) (p : BitVec 4) (k : Nat) : (s.ageQueues p k).ledger = s.ledger := by
  unfold State.ageQueues
  dsimp only
  split
  · rfl
  refine foldl_field State.ledger (fun s c => ?_) _ s
  split
  · exact ledger_setPart s p rfl rfl
  split
  · exact ledger_setPart s p rfl rfl
  · exact (setQueues_ledger ..).trans ((setQueues_ledger ..).trans (ledger_setPart s p rfl rfl))

theorem addShares_ledger (s : State) : s.addShares.ledger = s.ledger := by
  refine foldl_field State.ledger (fun s p => ?_) _ s
  dsimp only
  split
  · rfl
  · exact ledger_setPart s p rfl rfl

/-! ## The end of a task's record (R257) -/

/-- `t` keeps the stage, the descriptors and the class queues of `s`, and its error logs but for lines behind. -/
structure State.settles (s t : State) : Prop where
  stage : t.stage = s.stage
  d : ∀ p, (t.part p).d = (s.part p).d
  queues : ∀ p, (t.part p).queues = (s.part p).queues
  log : ∀ p, (s.part p).errlog <+: (t.part p).errlog

theorem settles_refl (s : State) : s.settles s := ⟨rfl, fun _ => rfl, fun _ => rfl, fun _ => ⟨[], List.append_nil _⟩⟩

theorem settles_trans {s t u : State} (h : s.settles t) (g : t.settles u) : s.settles u :=
  ⟨g.stage.trans h.stage, fun p => (g.d p).trans (h.d p), fun p => (g.queues p).trans (h.queues p), fun p => (h.log p).trans (g.log p)⟩

theorem settles_foldl {α : Type} {f : State → α → State} (hf : ∀ (s : State) x, s.settles (f s x)) (l : List α) : ∀ s : State, s.settles (l.foldl f s) := by
  induction l with
  | nil => exact settles_refl
  | cons x l ih => exact fun s => settles_trans (hf s x) (ih _)

theorem settles_of_parts {s t : State} (hs : t.stage = s.stage) (hp : t.parts = s.parts) : s.settles t := by
  have h (p : BitVec 4) : t.part p = s.part p := by simp only [State.part, hp]
  exact ⟨hs, fun p => by rw [h], fun p => by rw [h], fun p => by rw [h]⟩

theorem settles_setPart (s : State) (p : BitVec 4) {x : Partition} (hd : x.d = (s.part p).d) (hq : x.queues = (s.part p).queues)
    (he : (s.part p).errlog <+: x.errlog) : s.settles (s.setPart p x) := by
  have h (r : BitVec 4) : ((s.setPart p x).part r).d = (s.part r).d ∧ ((s.setPart p x).part r).queues = (s.part r).queues
      ∧ (s.part r).errlog <+: ((s.setPart p x).part r).errlog := by
    by_cases e : r = p
    · rw [e, part_setPart]; exact ⟨hd, hq, he⟩
    · rw [part_setPart_ne s x e]; exact ⟨rfl, rfl, ⟨[], List.append_nil _⟩⟩
  exact ⟨rfl, fun r => (h r).1, fun r => (h r).2.1, fun r => (h r).2.2⟩

theorem settles_of_ledger {s t : State} (h : t.ledger = s.ledger) (g : s.keepsQueues t) : s.settles t :=
  ⟨stage_of_ledger h, g.d, g.queues, fun p => by rw [g.errlog p]⟩

theorem homeWrite_settles (s : State) {h : Home} (hm : isMemory h = true) (off : Nat) (bs : List Byte) (w : Word) (p : Bool) :
    s.settles (s.homeWrite h off bs w p) := settles_of_ledger (homeWrite_ledger s hm ..) (homeWrite_keepsQueues ..)

theorem logError_settles (s : State) (p : BitVec 4) (a : Word) (r : ErrReason) : s.settles (s.logError p a r) :=
  settles_setPart s p rfl rfl ⟨_, rfl⟩

theorem asked_settles (s : State) (h : Home) : s.settles (s.asked h) := by
  rw [asked_eq]
  exact settles_of_parts rfl rfl

/-- The sequencer's translation leads to memory. -/
theorem globalPlace_isMemory {s : State} {p : BitVec 4} {va : Word} {n : Need} {h : Home} {off : Nat} (e : s.globalPlace p va n = some (h, off)) :
    isMemory h = true := by
  have hp (leaf : Word) (b : Nat) : isMemory (placeOf leaf b va).home = true := by
    unfold placeOf
    dsimp only
    split <;> rfl
  have ht {pl : Place} (e : s.translate 288 p va n = .ok pl) : isMemory pl.home = true := by
    unfold State.translate State.translateUnder at e
    split at e
    · cases e
    · next leaf b _ =>
      split at e
      · dsimp only at e
        split at e
        · next hh =>
          split at e
          · cases e; exact hp leaf b
          · cases e
        · cases e; exact hp leaf b
      · cases e
  unfold State.globalPlace at e
  split at e
  · next pl hpl =>
    split at e
    · cases e
    · cases e; exact ht hpl
  · cases e

theorem globalRead_settles (s : State) (p : BitVec 4) (va : Word) : s.settles (s.globalRead p va).1 := by
  unfold State.globalRead
  split
  · exact asked_settles ..
  · exact logError_settles ..

theorem putGlobal_settles (s : State) (p : BitVec 4) (va w : Word) : s.settles (s.putGlobal p va w) := by
  unfold State.putGlobal
  split
  · next e => exact settles_trans (asked_settles ..) (homeWrite_settles _ (globalPlace_isMemory e) ..)
  · exact logError_settles ..

theorem putRing_settles (s : State) (base size pos : Nat) (bs : List Byte) : s.settles (s.putRing base size pos bs) := by
  unfold State.putRing
  dsimp only
  split
  · exact homeWrite_settles s rfl ..
  · exact settles_trans (homeWrite_settles s rfl ..) (homeWrite_settles _ rfl ..)

theorem launchDigest_settles (s : State) (l : Launch) : s.settles (s.launchDigest l).1 := by
  unfold State.launchDigest
  generalize List.range l.g = is
  suffices h : ∀ d : State × Word, s.settles d.1 → s.settles (is.foldl (fun d i =>
      let r := d.1.globalRead l.part (l.slots + BitVec.ofNat 64 (8 * i))
      (r.1, d.2.rotateLeft 3 ^^^ r.2)) d).1 from h _ (settles_refl s)
  induction is with
  | nil => exact fun d h => h
  | cons i is ih => exact fun d h => ih _ (settles_trans h (globalRead_settles ..))

theorem attest_settles {s t : State} {p : BitVec 4} {j : JobTally} (h : s.attest p j = some t) : s.settles t := by
  unfold State.attest at h
  dsimp only at h
  split at h
  · cases h
  · cases h
    refine settles_trans ?_ (settles_setPart _ p rfl rfl ⟨[], List.append_nil _⟩)
    refine settles_trans ?_ (putRing_settles ..)
    exact settles_of_parts rfl rfl

theorem settles_launches (s : State) (ls : List Launch) : s.settles { s with launches := ls } := settles_of_parts rfl rfl

theorem completeLaunch_settles (s : State) (p : BitVec 4) (cnt : Nat) : s.settles (s.completeLaunch p cnt) := by
  unfold State.completeLaunch
  dsimp only
  refine settles_trans ?_ (settles_setPart _ p rfl rfl ⟨[], List.append_nil _⟩)
  refine settles_trans ?_ (settles_launches _ _)
  refine settles_foldl (fun s l => ?_) _ s
  refine settles_trans ?_ (settles_setPart _ p rfl rfl ⟨[], List.append_nil _⟩)
  split
  · exact settles_trans (launchDigest_settles s l) (putGlobal_settles ..)
  · exact settles_refl s

theorem setCounter_settles (s : State) (p : BitVec 4) (l i : Nat) (w : Word) : s.settles (s.setCounter p l i w) := homeWrite_settles s rfl ..

theorem completeCounter_settles (s : State) (p : BitVec 4) (level i : Nat) (canc : Bool) : s.settles (s.completeCounter p level i canc) := by
  unfold State.completeCounter
  dsimp only
  split
  · exact settles_trans (completeLaunch_settles s p i) (setCounter_settles ..)
  split
  · split
    · exact setCounter_settles ..
    split
    · exact settles_refl s
    · next h =>
      refine settles_trans ?_ (setCounter_settles ..)
      exact settles_trans (attest_settles h) (settles_setPart _ p rfl rfl ⟨[], List.append_nil _⟩)
  · exact setCounter_settles ..

theorem endCount_settles (s : State) (p : BitVec 4) (r : RecWords) (failed : Bool) : s.settles (s.endCount p r failed) := by
  refine settles_foldl (fun s c => ?_) _ s
  unfold State.decCounter
  dsimp only
  split
  · exact settles_trans (setCounter_settles ..) (completeCounter_settles ..)
  · exact setCounter_settles ..

/-! ## Locks (R331) -/

theorem grant_settles (s : State) (p : BitVec 4) (rank : Nat) (n : Word) (t : BitVec 3) (acq : Bool) : s.settles (s.grant p rank n t acq) := by
  unfold State.grant
  split <;> exact settles_of_parts rfl rfl

theorem scanFrom_settles (p : BitVec 4) (n : Word) (ws : List Waiter) : ∀ (s : State) (ahead : List (BitVec 3)), s.settles (s.scanFrom p n ws ahead) := by
  induction ws with
  | nil => exact fun s _ => settles_refl s
  | cons w ws ih =>
    intro s ahead
    unfold State.scanFrom
    dsimp only
    split
    · refine settles_trans ?_ (ih _ ahead)
      exact settles_trans (grant_settles s p w.rank n w.target w.acq) (settles_of_parts rfl rfl)
    · exact ih s _

theorem scanAgain_settles (p : BitVec 4) (n : Word) (k : Nat) : ∀ s : State, s.settles (s.scanAgain p n k) := by
  induction k with
  | zero => exact settles_refl
  | succ k ih =>
    intro s
    have h := scanFrom_settles p n (s.queueOf p n) s []
    unfold State.scanAgain
    dsimp only
    split
    · exact settles_trans h (ih _)
    · exact h

theorem scan_settles (s : State) (p : BitVec 4) (n : Word) : s.settles (s.scan p n) := scanAgain_settles ..

theorem scanUnit_settles (s : State) (p : BitVec 4) (n : Word) : s.settles (s.scanUnit p n) :=
  settles_trans (scan_settles s p n) (settles_foldl (f := fun s (q : BitVec 4 × Word) => s.scan q.1 q.2) (fun s q => scan_settles s q.1 q.2) _ _)

theorem pruneWounds_settles (s : State) : s.settles s.pruneWounds := settles_of_parts rfl rfl

theorem endLocks_settles (s : State) (p : BitVec 4) (rank : Nat) : s.settles (s.endLocks p rank) := by
  unfold State.endLocks
  dsimp only
  refine settles_trans ?_ (pruneWounds_settles _)
  refine settles_trans ?_ (settles_foldl (fun s n => scanUnit_settles s p n) _ _)
  exact settles_of_parts rfl rfl

/-! ## A record that runs no more (R249, R257) -/

theorem endRecord_settles (s : State) (p : BitVec 4) (r : RecWords) (failed : Bool) : s.settles (s.endRecord p r failed) := by
  unfold State.endRecord
  dsimp only
  refine settles_trans ?_ (endCount_settles ..)
  refine settles_trans ?_ (endLocks_settles ..)
  refine settles_trans ?_ (settles_setPart _ p rfl rfl ⟨[], List.append_nil _⟩)
  split
  · exact settles_setPart s p rfl rfl ⟨[], List.append_nil _⟩
  · exact settles_refl s

end Sys2Proof.Machine
end

section
/-! Records given to contexts: the start of a task, one record popped, and gangs placed. -/

namespace Sys2Proof.Machine

/-! ## The start of a task (R109) -/

/-- Context `x` stands at the start of the task of record `w` under partition `p`, with `base` in x5. -/
def Ctx.starts (x : Ctx) (p : BitVec 4) (w : RecWords) (base : Nat) : Prop :=
  (∃ t, x.task = some t ∧ t.words = w) ∧ x.pc = w[0] &&& 0x01FFFFFFFFFFFFF8 ∧ x.sclk = 0 ∧ x.part = p ∧ x.flight = [] ∧ x.pend = []
    ∧ (x.comm.getX 1).val = w[1] ∧ (x.comm.getX 2).val = BitVec.ofNat 64 (recIndex w) ∧ (x.comm.getX 3).val = (w[3].extractLsb' 32 32).setWidth 64
    ∧ (x.comm.getX 4).val = w[2] ∧ (x.comm.getX 5).val = BitVec.ofNat 64 base ∧ (∀ n : BitVec 6, 6 ≤ n.toNat → (x.comm.getX n).val = 0)
    ∧ x.comm.stamp 0 = w[5].extractLsb' 0 8 ∧ x.comm.ws = w[5].extractLsb' 32 8 ∧ x.comm.tvec = 0 ∧ x.work = x.comm

/-- Tags set to their base leave the values of the x registers. -/
theorem getX_rebase_val (g : Regs) (n : BitVec 6) : (g.rebase.getX n).val = (g.getX n).val := by
  unfold Regs.getX
  split
  · rfl
  · simp [Regs.rebase]

/-- The value of an x register behind a write of one. -/
theorem getX_setX (g : Regs) {m : BitVec 6} (hm : m ≠ 0) (v : XReg) (n : BitVec 6) : (g.setX m v).getX n = if n = m then v else g.getX n := by
  have e : g.setX m v = { g with x := g.x.set m.toNat v m.isLt } := if_neg hm
  rw [e]
  unfold Regs.getX
  by_cases h : n = m
  · subst h; rw [if_neg hm, if_pos rfl]; exact Vector.getElem_set_self ..
  · have hn : m.toNat ≠ n.toNat := fun e => h (BitVec.eq_of_toNat_eq e.symm)
    rw [if_neg h]
    split
    · rfl
    · exact Vector.getElem_set_ne m.isLt n.isLt hn

/-- The x registers of a task as it starts. -/
theorem getX_start (r : RecWords) (gang allot : Nat) (n : BitVec 6) : ((Regs.start r gang allot).getX n).val =
    if n = 1 then r[1] else if n = 2 then BitVec.ofNat 64 (recIndex r) else if n = 3 then (r[3].extractLsb' 32 32).setWidth 64
    else if n = 4 then r[2] else if n = 5 then BitVec.ofNat 64 gang else 0 := by
  have h0 (g : Regs) (hx : g.x = Vector.replicate 64 XReg.reset) : (g.getX n).val = 0 := by
    unfold Regs.getX
    split
    · rfl
    · simp [hx, XReg.reset]
  rw [Regs.start, getX_rebase_val]
  simp only [getX_setX _ (show (1 : BitVec 6) ≠ 0 by decide), getX_setX _ (show (2 : BitVec 6) ≠ 0 by decide),
    getX_setX _ (show (3 : BitVec 6) ≠ 0 by decide), getX_setX _ (show (4 : BitVec 6) ≠ 0 by decide), getX_setX _ (show (5 : BitVec 6) ≠ 0 by decide)]
  split_ifs
  case neg => exact h0 _ rfl
  all_goals rfl

theorem begin_starts (c : Ctx) {t : Task} {p : BitVec 4} {r : RecWords} (hw : t.words = r) (hp : t.part = p) (base allot : Nat) :
    (c.begin t (Regs.start r base allot) (codeAddr r[0]) 0).starts p r base := by
  refine ⟨⟨t, rfl, hw⟩, rfl, rfl, hp, rfl, rfl, getX_start r base allot 1, getX_start r base allot 2, getX_start r base allot 3, getX_start r base allot 4,
    getX_start r base allot 5, fun n hn => ?_, rfl, rfl, rfl, rfl⟩
  have h (k : BitVec 6) (hk : k.toNat < 6) : n ≠ k := fun e => by rw [e] at hn; omega
  refine (getX_start r base allot n).trans ?_
  rw [if_neg (h 1 (by decide)), if_neg (h 2 (by decide)), if_neg (h 3 (by decide)), if_neg (h 4 (by decide)), if_neg (h 5 (by decide))]

/-- A tile change behind the start clears vector registers and accumulators, which hold nothing yet. -/
theorem starts_writeAll_cleared {x : Ctx} {p : BitVec 4} {w : RecWords} {base : Nat} (all : Bool) (h : x.starts p w base) :
    (x.writeAll (Regs.cleared · all)).starts p w base := by
  obtain ⟨ht, hpc, hc, hp, hf, hd, h1, h2, h3, h4, h5, h6, hs, hw, hv, he⟩ := h
  exact ⟨ht, hpc, hc, hp, hf, hd, h1, h2, h3, h4, h5, h6, hs, hw, hv, congrArg (Regs.cleared · all) he⟩

/-! ## A tile set up for a task (R190) -/

theorem countDown_stage (s : State) (m : PhMsg) (n : Nat) : (s.countDown m n).stage = s.stage := by
  unfold State.countDown State.completePhaser
  dsimp only
  split
  · split <;> rfl
  · rfl

theorem emptySlot_stage (s : State) (site k : Nat) : (s.emptySlot site k).stage = s.stage := by
  unfold State.emptySlot
  dsimp only
  split
  · split
    · exact (countDown_stage ..).trans ((stage_setTile ..).trans (stage_setTile ..))
    · exact (stage_setTile ..).trans (stage_setTile ..)
  · exact stage_setTile ..

theorem emptySlots_stage (s : State) (site lo n : Nat) : (s.emptySlots site lo n).stage = s.stage :=
  foldl_field State.stage (fun s k => emptySlot_stage s site (lo + k)) _ s

/-- `t` has the images of `s`, and every context that stands at the start of a task there does so here. -/
structure State.keepsStarts (s t : State) : Prop where
  images : t.images = s.images
  starts : ∀ d p w base, (s.getCtx d).starts p w base → (t.getCtx d).starts p w base

theorem keepsStarts_of_stage {s t : State} (h : t.stage = s.stage) : s.keepsStarts t :=
  ⟨images_of_stage h, fun d _ _ _ hd => by rw [getCtx_of_stage h]; exact hd⟩

theorem keepsStarts_trans {s t u : State} (h : s.keepsStarts t) (g : t.keepsStarts u) : s.keepsStarts u :=
  ⟨g.images.trans h.images, fun d p w b hd => g.starts d p w b (h.starts d p w b hd)⟩

theorem clearAreas_keepsStarts (s : State) (site : Nat) (all : Bool) : s.keepsStarts (s.clearAreas site all) := by
  unfold State.clearAreas
  generalize (s.contexts.filter fun c => c.site == site && c.cid < 3) = cs
  induction cs generalizing s with
  | nil => exact keepsStarts_of_stage rfl
  | cons c cs ih =>
    refine keepsStarts_trans ⟨by simp [State.modCtx], fun d p w b hd => ?_⟩ (ih _)
    by_cases h : d = c
    · subst h
      simp only [State.modCtx, getCtx_setCtx]
      exact starts_writeAll_cleared all hd
    · simp only [State.modCtx, getCtx_setCtx_ne s _ h]
      exact hd

theorem changeTile_keepsStarts (s : State) (site : Nat) (p : BitVec 4) (pool : Word) : s.keepsStarts (s.changeTile site p pool) := by
  have hc (all : Bool) (f : Tile → Tile) : s.keepsStarts (((s.emptySlots site 0 64).clearAreas site all).modTile site f) :=
    keepsStarts_trans (keepsStarts_of_stage (emptySlots_stage ..))
      (keepsStarts_trans (clearAreas_keepsStarts ..) (keepsStarts_of_stage (stage_setTile ..)))
  have hw (u : State) (h : Home) (lo hi : Nat) : u.keepsStarts (u.wipe h lo hi) := keepsStarts_of_stage rfl
  unfold State.changeTile
  dsimp only
  split
  · exact keepsStarts_trans (hc true _) (hw ..)
  split
  · split
    · exact keepsStarts_trans (hc false _) (hw ..)
    · exact hc false _
  · exact keepsStarts_of_stage rfl

/-! ## A record given to a context (R249, R254) -/

theorem recordBad_of_images {s t : State} (h : t.images = s.images) (p : BitVec 4) (r : RecWords) : t.recordBad p r = s.recordBad p r := by
  have e : t.listedEntry p r[0] = s.listedEntry p r[0] := by unfold State.listedEntry; rw [h]
  unfold State.recordBad
  rw [e]

theorem startTask_spec (s : State) (c : Src) (p : BitVec 4) (r : RecWords) (gang : Nat) : (s.startTask c p r gang).images = s.images
    ∧ ((s.startTask c p r gang).getCtx c).starts p r gang ∧ ∀ d, d ≠ c → (s.startTask c p r gang).getCtx d = s.getCtx d := by
  have hs := emptySlots_stage s c.site (16 * c.cid) 16
  refine ⟨?_, ?_, fun d hd => ?_⟩
  · exact (State.setCtx_images ..).trans (images_of_stage hs)
  · simp only [State.startTask, getCtx_setCtx]
    exact begin_starts _ rfl rfl ..
  · exact (getCtx_setCtx_ne _ _ hd).trans (getCtx_of_stage hs d)

/-- A record that passes its check, and is not saved, starts its task. -/
theorem give_starts {s : State} {p : BitVec 4} {r : RecWords} (c : Src) (gang : Nat) (hb : s.recordBad p r = none) (hs : recSaved r = false) :
    (s.give c p r gang).images = s.images ∧ ((s.give c p r gang).getCtx c).starts p r gang
      ∧ ∀ d q w base, d ≠ c → (s.getCtx d).starts q w base → ((s.give c p r gang).getCtx d).starts q w base := by
  have e : s.give c p r gang = (s.changeTile c.site p (s.poolWord r)).startTask c p r gang := by simp [State.give, hb, hs]
  have hk := changeTile_keepsStarts s c.site p (s.poolWord r)
  obtain ⟨hi, ht, ho⟩ := startTask_spec (s.changeTile c.site p (s.poolWord r)) c p r gang
  rw [e]
  exact ⟨hi.trans hk.images, ht, fun d q w b hd h => by rw [ho d hd]; exact hk.starts d q w b h⟩

theorem pruneLaunches_stage (s : State) : s.pruneLaunches.stage = s.stage := stage_of_fields rfl rfl rfl rfl rfl
theorem pruneLaunches_part (s : State) (p : BitVec 4) : s.pruneLaunches.part p = s.part p := rfl

/-- A record that fails its check never runs: no context changes, and the reason stands in the log of its partition. -/
theorem give_bad {s : State} {p : BitVec 4} {r : RecWords} {why : ErrReason} (c : Src) (gang : Nat) (hb : s.recordBad p r = some why) :
    (s.give c p r gang).stage = s.stage ∧ ∃ rest, ((s.give c p r gang).part p).errlog = (s.part p).errlog ++ ⟨r[0], why⟩ :: rest := by
  have e : s.give c p r gang = ((s.logError p r[0] why).endRecord p r true).pruneLaunches := by simp [State.give, hb, State.failRecord]
  have h := endRecord_settles (s.logError p r[0] why) p r true
  obtain ⟨rest, hr⟩ := h.log p
  rw [e, pruneLaunches_stage, pruneLaunches_part, ← hr, part_logError]
  exact ⟨h.stage, rest, List.append_assoc ..⟩

/-! ## One record popped (R254) -/

theorem loneBase_of_ledger {s t : State} (h : t.ledger = s.ledger) (p : BitVec 4) (r : RecWords) : t.loneBase p r = s.loneBase p r := by
  have hr : (t.part p).rerun? r = (s.part p).rerun? r := by simp only [Partition.rerun?, reruns_of_ledger h]
  have hg : t.gangSize r = s.gangSize r := by simp only [State.gangSize, State.launch?, launches_of_ledger h]
  have hl (site : Nat) : t.logicalOf site = s.logicalOf site := by
    unfold State.logicalOf State.meshAt
    rw [mesh_of_stage (stage_of_ledger h)]
  unfold State.loneBase
  rw [hr, hg]
  split
  · rw [hl]
  · rfl

/-- What the choice of a record changes: deficits alone. Its context holds no task. -/
theorem popChoice_spec {s u : State} {c : Src} {p : BitVec 4} {k n : Nat} (h : s.popChoice c = some (u, p, k, n)) :
    u.ledger = s.ledger ∧ (s.getCtx c).task = none := by
  unfold State.popChoice at h
  dsimp only at h
  split at h
  · next hi =>
    split at h
    · cases h
    · obtain ⟨q, -, hq⟩ := Option.bind_eq_some_iff.1 h
      obtain ⟨e, -, he⟩ := Option.map_eq_some_iff.1 hq
      cases he
      refine ⟨?_, ?_⟩
      · split
        · rfl
        · exact addShares_ledger s
      · simp only [Ctx.idle, Bool.and_eq_true, Option.isNone_iff_eq_none] at hi
        exact hi.2.1
  · cases h

/-- A pop gives the record chosen to its context, in a state that differs from the one before in queues and what counts them. -/
theorem taskPop_gives {s u : State} {c : Src} {p : BitVec 4} {k n : Nat} {r : RecWords} (hc : c.site < 288) (hd : c.cid < 4)
    (h : s.refillAll.popChoice c = some (u, p, k, n)) (hr : ((u.part p).queue k)[n]? = some r) :
    ∃ v : State, v.ledger = u.ledger ∧ exec (.taskPop c) s = .next (v.give c p r (u.loneBase p r)) := by
  let x := u.part p
  let v := ((u.setPart p { x with deficit := x.deficit - 1 }).setQueue p k ((x.queue k).eraseIdx n)).ageQueues p k
  have hv : v.ledger = u.ledger := (ageQueues_ledger ..).trans ((setQueues_ledger ..).trans (ledger_setPart u p rfl rfl))
  refine ⟨v, hv, ?_⟩
  rw [← loneBase_of_ledger hv]
  have hg : (decide (288 ≤ c.site) || decide (4 ≤ c.cid)) = false := by simp [hc, hd]
  simp only [exec, execTaskPop, hg, h, hr, Bool.false_eq_true, if_false]
  rfl

/-! ## Gangs (R264) -/

/-- Records given one after another to contexts of their own each start their task. -/
theorem give_all {p : BitVec 4} {b : Nat} (ms : List (Src × RecWords)) : ∀ s : State, (ms.map (·.1)).Nodup →
    (∀ m ∈ ms, s.recordBad p m.2 = none ∧ recSaved m.2 = false) →
    (∀ m ∈ ms, ((ms.foldl (fun s m => s.give m.1 p m.2 b) s).getCtx m.1).starts p m.2 b)
      ∧ ∀ d q w base, d ∉ ms.map (·.1) → (s.getCtx d).starts q w base → ((ms.foldl (fun s m => s.give m.1 p m.2 b) s).getCtx d).starts q w base := by
  induction ms with
  | nil => exact fun s _ _ => ⟨by simp, fun _ _ _ _ _ h => h⟩
  | cons m ms ih =>
    intro s hn hg
    obtain ⟨hm, hn⟩ := List.nodup_cons.1 hn
    obtain ⟨hb, hs⟩ := hg m (by simp)
    obtain ⟨hi, ht, ho⟩ := give_starts m.1 b hb hs
    obtain ⟨h1, h2⟩ := ih (s.give m.1 p m.2 b) hn fun e he => by
      rw [recordBad_of_images hi]; exact hg e (by simp [he])
    simp only [List.foldl_cons]
    refine ⟨fun e he => ?_, fun d q w base hd h => ?_⟩
    · rcases List.mem_cons.1 he with rfl | he
      · exact h2 _ _ _ _ hm ht
      · exact h1 e he
    · simp only [List.map_cons, List.mem_cons, not_or] at hd
      exact h2 d q w base hd.2 (ho d q w base hd.1 h)

/-- The deficit of a partition and its class queues rewritten. -/
def State.requeued (s : State) (p : BitVec 4) (n : Nat) (qs : Vector (List RecWords) 4) : State :=
  (s.setPart p { s.part p with deficit := n }).setQueues p qs

theorem requeued_ledger (s : State) (p : BitVec 4) (n : Nat) (qs : Vector (List RecWords) 4) : (s.requeued p n qs).ledger = s.ledger :=
  (setQueues_ledger ..).trans (ledger_setPart s p rfl rfl)

theorem ageAll_ledger (p : BitVec 4) (ms : List (Src × RecWords)) (s : State) : (ms.foldl (fun s m => s.ageQueues p (recClass m.2)) s).ledger = s.ledger := by
  induction ms generalizing s with
  | nil => rfl
  | cons m ms ih => exact (ih _).trans (ageQueues_ledger s p (recClass m.2))

theorem gangPlacement_starts {s : State} {p : BitVec 4} {i : Nat} {ms : List (Src × RecWords)} (hi : i < 272) (h : (s.refill p).gangAt p i = some ms)
    (hn : (ms.map (·.1)).Nodup) (hg : ∀ m ∈ ms, s.recordBad p m.2 = none ∧ recSaved m.2 = false) :
    ∃ t, exec (.gangPlacement p i) s = .next t ∧ ∀ m ∈ ms, (t.getCtx m.1).starts p m.2 i := by
  let x := (s.refill p).part p
  let u := (s.refill p).requeued p (x.deficit - ms.length) (x.queues.map fun q => q.filter fun r => !(ms.any fun m => m.2 == r))
  have hu : u.ledger = s.ledger := (requeued_ledger ..).trans (refill_ledger s p)
  have e : exec (.gangPlacement p i) s =
      .next (ms.foldl (fun s m => s.give m.1 p m.2 i) (ms.foldl (fun s m => s.ageQueues p (recClass m.2)) u)) := by
    simp only [exec, execGangPlacement, Nat.not_le.2 hi, h, if_false]
    rfl
  have hv := images_of_stage (stage_of_ledger ((ageAll_ledger p ms u).trans hu))
  refine ⟨_, e, (give_all ms _ hn fun m hm => ?_).1⟩
  rw [recordBad_of_images hv]
  exact hg m hm

end Sys2Proof.Machine
end

section
/-! Pushes: the rank of a record, a push refused and one entered. -/

namespace Sys2Proof.Machine

/-! ## The rank of a push (R250) -/

/-- The record as its pusher's launch ranks it: the launch's ordinal and number n in AGE (R250). -/
def ranked (r : RecWords) (n : Nat) : RecWords := r.set 4 ((r[4] &&& 0xFFFF000000000000) ||| BitVec.ofNat 64 (recOrd r * 2 ^ 24 + n % 2 ^ 24))

/-- The rank that a launch gives its next push; with no launch none is left. -/
def State.nextRank (s : State) (r : RecWords) : Nat := ((s.launch? (recOrd r)).map (·.n)).getD (2 ^ 24)

theorem getElem_ranked (r : RecWords) (n : Nat) {k : Nat} (hk : k < 8) (h : 4 ≠ k) : (ranked r n)[k] = r[k] := Vector.getElem_set_ne (by decide) hk h

theorem ranked_four (r : RecWords) (n : Nat) :
    (ranked r n)[4] = (r[4] &&& 0xFFFF000000000000) ||| BitVec.ofNat 64 (recOrd r * 2 ^ 24 + n % 2 ^ 24) := Vector.getElem_set_self ..

theorem recCounter_ranked (r : RecWords) (n l : Nat) : recCounter (ranked r n) l = recCounter r l := by
  simp only [recCounter, getElem_ranked r n (show 6 < 8 by decide) (by decide)]

theorem recCounters_ranked (r : RecWords) (n : Nat) : recCounters (ranked r n) = recCounters r := by simp only [recCounters, recCounter_ranked]

theorem cancelling_ranked (s : State) (p : BitVec 4) (r : RecWords) (n : Nat) : s.cancelling p (ranked r n) = s.cancelling p r := by
  unfold State.cancelling
  rw [recCounters_ranked]

/-- An age has 48 bits. -/
theorem age_lt (r : RecWords) (n : Nat) : recOrd r * 2 ^ 24 + n % 2 ^ 24 < 2 ^ 48 := by
  have ho : recOrd r < 2 ^ 24 := BitVec.isLt _
  omega

/-- AGE behind its write. -/
theorem age_bits (a : Word) {x : Nat} (h : x < 2 ^ 48) : (((a &&& 0xFFFF000000000000) ||| BitVec.ofNat 64 x).extractLsb' 0 48).toNat = x := by
  rw [BitVec.extractLsb'_or, BitVec.extractLsb'_and, show BitVec.extractLsb' 0 48 (0xFFFF000000000000 : Word) = 0#48 from by decide,
    BitVec.and_zero, BitVec.zero_or, BitVec.extractLsb'_toNat, BitVec.toNat_ofNat, Nat.shiftRight_zero]
  omega

/-- CLASS behind a write of AGE. -/
theorem class_bits (a : Word) {x : Nat} (h : x < 2 ^ 48) :
    ((a &&& 0xFFFF000000000000) ||| BitVec.ofNat 64 x).extractLsb' 48 4 = a.extractLsb' 48 4 := by
  have h0 : BitVec.extractLsb' 48 4 (BitVec.ofNat 64 x) = 0#4 := by
    refine BitVec.eq_of_toNat_eq ?_
    rw [BitVec.extractLsb'_toNat, BitVec.toNat_ofNat, Nat.shiftRight_eq_div_pow, BitVec.toNat_ofNat]
    omega
  rw [BitVec.extractLsb'_or, BitVec.extractLsb'_and, h0, show BitVec.extractLsb' 48 4 (0xFFFF000000000000 : Word) = BitVec.allOnes 4 from by decide,
    BitVec.and_allOnes, BitVec.or_zero]

theorem recAge_ranked (r : RecWords) {n : Nat} (hn : n < 2 ^ 24) : recAge (ranked r n) = recOrd r * 2 ^ 24 + n := by
  rw [recAge, ranked_four, age_bits _ (age_lt r n), Nat.mod_eq_of_lt hn]

theorem recClass_ranked (r : RecWords) (n : Nat) : recClass (ranked r n) = recClass r := by
  rw [recClass, ranked_four, class_bits _ (age_lt r n), recClass]

/-! ## Pushes (R251, R253) -/

/-- With every class queue within its head cache nothing overflows. -/
theorem overflow_nil {x : Partition} (h : ∀ k, (x.queue k).length ≤ 256) : x.overflow = [] := by
  have hl := overflow_length x
  simp only [fun j => Nat.sub_eq_zero_of_le (h j), List.map_const', List.sum_replicate, smul_zero] at hl
  exact List.length_eq_zero_iff.1 hl

theorem spill_fits {s : State} {p : BitVec 4} (h : ∀ k, ((s.part p).queue k).length ≤ 256) : s.spill p = s := by
  simp [State.spill, overflow_nil h]

theorem refill_fits {s : State} {p : BitVec 4} (h : ∀ k, ((s.part p).queue k).length ≤ 256) : s.refill p = s := by
  simp [State.refill, overflow_nil h]

/-- A partition written back with its descriptor keeps its counters. -/
theorem counter_setPart (s : State) (p : BitVec 4) {x : Partition} (hd : x.d = (s.part p).d) (l i : Nat) :
    (s.setPart p x).counter p l i = s.counter p l i := by
  have hs : s.sameStore (s.setPart p x) := ⟨rfl, rfl, rfl, rfl⟩
  have he : ((s.setPart p x).part p).d = (s.part p).d := by rw [part_setPart, hd]
  generalize s.setPart p x = t at hs he ⊢
  exact counter_sameStore hs he l i

theorem counter_logError (s : State) (p : BitVec 4) (a : Word) (why : ErrReason) (l i : Nat) :
    (s.logError p a why).counter p l i = s.counter p l i := by
  have hs : s.sameStore (s.logError p a why) := ⟨rfl, rfl, rfl, rfl⟩
  have he : ((s.logError p a why).part p).d = (s.part p).d := by rw [part_logError]
  generalize s.logError p a why = t at hs he ⊢
  exact counter_sameStore hs he l i

/-- A refused push enters nothing: its reason stands in the log, and its launch counter counts it as failed (R253). -/
theorem refusePush_spec (s : State) (p : BitVec 4) (r : RecWords) : (s.refusePush p r).launches = s.launches
    ∧ (∀ j, ((s.refusePush p r).part p).queue j = (s.part p).queue j) ∧ ((s.refusePush p r).part p).errlog = (s.part p).errlog ++ [⟨r[0], 9⟩]
    ∧ (s.canonical = true → (s.part p).countersFit → let f := s.counter p 1 (recCounter r 1)
      (s.refusePush p r).counter p 1 (recCounter r 1) = ccWord (ccState f) (f.getLsbD 61) (ccFailed f + 1) (ccOut f)) := by
  let f := s.counter p 1 (recCounter r 1)
  let w := ccWord (ccState f) (f.getLsbD 61) (ccFailed f + 1) (ccOut f)
  have hw : s.canonical = true → (s.part p).countersFit → (s.setCounter p 1 (recCounter r 1) w).counter p 1 (recCounter r 1) = w :=
    fun hs hf => (setCounter_spec (c := (1, recCounter r 1)) hs hf ⟨Nat.le_refl 1, (by decide : 1 ≤ 4), BitVec.isLt _⟩ w).2.1
  have hk := setCounter_keepsQueues s p 1 (recCounter r 1) w
  have e : s.refusePush p r = (s.setCounter p 1 (recCounter r 1) w).logError p r[0] 9 := rfl
  rw [e]
  generalize s.setCounter p 1 (recCounter r 1) w = t at hk hw ⊢
  refine ⟨hk.launches, fun j => ?_, ?_, fun hs hf => ?_⟩
  · rw [part_logError]; exact queue_of_queues (hk.queues p) j
  · rw [part_logError]; exact congrArg (· ++ _) (hk.errlog p)
  · exact (counter_logError ..).trans (hw hs hf)

/-- A record put behind a class queue reaches its queue alone. -/
theorem setQueue_pushedBehind (s : State) (p : BitVec 4) {k : Nat} (hk : k < 4) (r : RecWords) :
    s.pushedBehind (s.setQueue p k ((s.part p).queue k ++ [r])) p k [r] := by
  let y : Partition := { s.part p with queues := (s.part p).queues.setIfInBounds k ((s.part p).queue k ++ [r]) }
  have hy : s.pushedBehind (s.setPart p y) p k [r] := by
    refine ⟨by rw [part_setPart], rfl, rfl, ?_, fun j hj => ?_⟩
    · rw [part_setPart, queue_setIfInBounds _ hk, if_pos rfl]
    · rw [part_setPart, queue_setIfInBounds _ hk, if_neg hj]
  have hp := pushedBehind_trans hy (pushedBehind_of_keepsQueues (spill_keepsQueues (s.setPart p y) p) p k)
  rwa [List.append_nil] at hp

/-- Where every class queue has room in its head cache, a record put behind one reaches no counter. -/
theorem counter_setQueue {s : State} {p : BitVec 4} {k : Nat} (hk : k < 4) (r : RecWords) (h : ∀ j, ((s.part p).queue j).length < 256) (l i : Nat) :
    (s.setQueue p k ((s.part p).queue k ++ [r])).counter p l i = s.counter p l i := by
  have e : s.setQueue p k ((s.part p).queue k ++ [r])
      = s.setPart p { s.part p with queues := (s.part p).queues.setIfInBounds k ((s.part p).queue k ++ [r]) } := by
    refine spill_fits fun j => ?_
    rw [part_setPart, queue_setIfInBounds _ hk]
    split
    · next e => subst e; rw [List.length_append]; exact h _
    · exact Nat.le_of_lt (h j)
  rw [e, counter_setPart]
  rfl

/-- A record that a push enters: behind its class queue, and with it one task more under each of its counters. -/
theorem pushRecord_entered {s : State} {p : BitVec 4} {r : RecWords} (hc : s.cancelling p r = false) (hk : recClass r < 4)
    (hroom : (s.part p).full (recClass r) = false) : (s.pushRecord p r false).2 = true ∧ s.pushedBehind (s.pushRecord p r false).1 p (recClass r) [r]
      ∧ (s.canonical = true → (s.part p).countersFit → (∀ j, ((s.part p).queue j).length < 256) →
        ∀ d ∈ recCounters r, (s.pushRecord p r false).1.counter p d.1 d.2 = ccMore (s.counter p d.1 d.2)) := by
  have hq : s.keepsQueues ((recCounters r).foldl (fun s c => s.incCounter p c) s) := incCounters_keepsQueues _ s p
  have hm (hs : s.canonical = true) (hf : (s.part p).countersFit) :=
    (incCounters_spec (recCounters r) hs hf isCounter_recCounters (recCounters_nodup r)).2.1
  have e : s.pushRecord p r false = (((recCounters r).foldl (fun s c => s.incCounter p c) s).setQueue p (recClass r)
      ((((recCounters r).foldl (fun s c => s.incCounter p c) s).part p).queue (recClass r) ++ [r]), true) := by
    have hk3 : ¬3 < recClass r := by omega
    simp only [State.pushRecord, hc, hk3, hroom, decide_false, Bool.or_false, Bool.false_eq_true, if_false]
  rw [e]
  generalize (recCounters r).foldl (fun s c => s.incCounter p c) s = t at hq hm ⊢
  refine ⟨rfl, ?_, fun hs hf hl d hd => ?_⟩
  · simpa using pushedBehind_trans (pushedBehind_of_keepsQueues hq p (recClass r)) (setQueue_pushedBehind t p hk r)
  · have hl' (j : Nat) : ((t.part p).queue j).length < 256 := by rw [queue_of_queues (hq.queues p)]; exact hl j
    exact (counter_setQueue hk r hl' ..).trans (hm hs hf d hd)

/-- The launch that has given a rank gives the one behind it next. -/
theorem nextRank_pushed {s t : State} {r : RecWords} (hn : s.nextRank r < 2 ^ 24)
    (ht : t.launches = s.launches.map fun l => if l.ord = recOrd r then { l with n := s.nextRank r + 1 } else l) : t.nextRank r = s.nextRank r + 1 := by
  have hf (n : Nat) : ∀ ls : List Launch, (ls.map fun l => if l.ord = recOrd r then { l with n := n } else l).find? (·.ord = recOrd r)
      = (ls.find? (·.ord = recOrd r)).map fun l => { l with n := n } := by
    intro ls
    induction ls with
    | nil => rfl
    | cons l ls ih => by_cases h : l.ord = recOrd r <;> simp [h, ih]
  have hs : ((s.launch? (recOrd r)).map (·.n)).getD (2 ^ 24) < 2 ^ 24 := hn
  unfold State.nextRank State.launch? at *
  rw [ht, hf]
  cases h : s.launches.find? (·.ord = recOrd r) with
  | none => rw [h] at hs; exact absurd hs (by decide)
  | some l => rfl

section push
variable {c : Src} (hc : c.site < 288) {r : RecWords} {s : State}
include hc

/-- A record pushed under a counter that is being cancelled is dropped. -/
theorem taskPush_cancelling (h : s.cancelling (recPart r) r = true) : exec (.taskPush c r) s = .next s := by
  have hr := cancelling_ranked s (recPart r) r (s.nextRank r)
  rw [h] at hr
  unfold ranked State.nextRank at hr
  simp only [exec, execTaskPush, Nat.not_le.2 hc, if_false, State.pushRecord, hr, if_true, Bool.false_eq_true]

theorem taskPush_eq : exec (.taskPush c r) s =
    let x := s.pushRecord (recPart r) (ranked r (s.nextRank r)) (decide (2 ^ 24 ≤ s.nextRank r))
    .next (if x.2 then { x.1 with launches := x.1.launches.map fun l => if l.ord = recOrd r then { l with n := s.nextRank r + 1 } else l } else x.1) := by
  simp only [exec, execTaskPush, Nat.not_le.2 hc, if_false]
  rfl

theorem taskPush_refused (h : s.cancelling (recPart r) r = false)
    (hb : ¬(recClass r < 4 ∧ s.nextRank r < 2 ^ 24 ∧ (s.part (recPart r)).full (recClass r) = false)) :
    exec (.taskPush c r) s = .next (s.refusePush (recPart r) (ranked r (s.nextRank r))) := by
  have hx : (decide (3 < recClass r) || decide (2 ^ 24 ≤ s.nextRank r) || (s.part (recPart r)).full (recClass r)) = true := by
    by_contra hn
    simp only [Bool.or_eq_true, decide_eq_true_eq, not_or, Bool.not_eq_true, not_lt, not_le] at hn
    exact hb ⟨by omega, hn.1.2, hn.2⟩
  simp only [taskPush_eq hc, State.pushRecord, cancelling_ranked, h, recClass_ranked, hx, if_true, Bool.false_eq_true, if_false]

theorem taskPush_entered (h : s.cancelling (recPart r) r = false) (hk : recClass r < 4) (hn : s.nextRank r < 2 ^ 24)
    (hroom : (s.part (recPart r)).full (recClass r) = false) : ∃ t, exec (.taskPush c r) s = .next t ∧ t.nextRank r = s.nextRank r + 1
      ∧ (t.part (recPart r)).queue (recClass r) = (s.part (recPart r)).queue (recClass r) ++ [ranked r (s.nextRank r)]
      ∧ (∀ j, j ≠ recClass r → (t.part (recPart r)).queue j = (s.part (recPart r)).queue j)
      ∧ (s.canonical = true → (s.part (recPart r)).countersFit → (∀ j, ((s.part (recPart r)).queue j).length < 256) →
        ∀ d ∈ recCounters r, t.counter (recPart r) d.1 d.2 = ccMore (s.counter (recPart r) d.1 d.2)) := by
  have hs : decide (2 ^ 24 ≤ s.nextRank r) = false := decide_eq_false (Nat.not_le.2 hn)
  have hp := pushRecord_entered (r := ranked r (s.nextRank r)) (by rw [cancelling_ranked]; exact h) (by rw [recClass_ranked]; exact hk)
    (by rw [recClass_ranked]; exact hroom)
  rw [taskPush_eq hc, hs]
  generalize s.pushRecord (recPart r) (ranked r (s.nextRank r)) false = x at hp ⊢
  obtain ⟨ok, hb, hm⟩ := hp
  rw [recClass_ranked] at hb
  rw [recCounters_ranked] at hm
  refine ⟨_, congrArg _ (if_pos ok), nextRank_pushed hn (by rw [hb.launches]), hb.queue, hb.others, hm⟩

end push

end Sys2Proof.Machine
end

section
/-! Joins: the count of a join at its home falls by one, or refuses (R262). -/

namespace Sys2Proof.Machine

/-! ## Joins (R262) -/

theorem word_lt (s : State) (h : Home) (off : Nat) : s.word h off 8 < 2 ^ 64 := by
  have hl := leNat_lt (s.bytes h off 8)
  rw [bytes_length] at hl
  exact hl

/-- A refused effect changes no memory and sends nothing; its context learns of it. -/
theorem refuse_spec (s : State) {c : Src} (hc : c.site < 288) (p : BitVec 4) (addr : Word) (sc : Scope) (why : ErrReason) :
    (s.refuse c p addr sc why).mem = s.mem ∧ (s.refuse c p addr sc why).work = s.work
      ∧ ((s.refuse c p addr sc why).getCtx c).refusals = (s.getCtx c).refusals ++ [⟨sc, addr⟩] := by
  have e : s.refuse c p addr sc why
      = (s.logError p addr why).modCtx c fun x => { x with refusals := x.refusals ++ [⟨sc, addr⟩] } := if_neg (Nat.not_le.2 hc)
  rw [e, State.modCtx]
  refine ⟨(State.setCtx_mem ..).trans rfl, (State.setCtx_work ..).trans rfl, ?_⟩
  rw [getCtx_setCtx, getCtx_of_stage (logError_settles s p addr why).stage]

/-- A record that shares no byte with a write reads as before it. -/
theorem recordAt_sameBytesBut {s t : State} {h : Home} {off n : Nat} (hs : s.sameBytesBut t h off n) {a : Nat} (ha : a + 64 ≤ 2 ^ 64) (hd : off + n ≤ a) :
    t.recordAt h a = s.recordAt h a := by
  refine congrArg Vector.ofFn (funext fun i => ?_)
  rw [word_sameBytesBut hs (by omega) (.inr (by omega))]

/-- The push of the continuation behind a join. -/
def continuation (c : Src) (q : Req) (r : RecWords) : Work :=
  ⟨c, .seq, false, false, false, .taskPush c (stampRecord (match q.body with | .rmw _ _ d _ _ _ _ _ _ _ => d.toNat | _ => 0) q.part r)⟩

section join
variable {c : Src} (hc : c.site < 288) {q : Req} {s : State}
include hc

theorem joinDecrement_refused (h : s.word q.home q.off 8 = 0 ∨ (q.home = .dram ∧ s.frameRefuses q.off q.part q.src.cid q.expE = true)
    ∨ s.reaches q.part q.home = false) : ∃ t, exec (.joinDecrement c q) s = .next t ∧ t.mem = s.mem ∧ t.work = s.work ++ [ackWork c]
      ∧ (t.getCtx c).refusals = (s.getCtx c).refusals ++ [⟨homeScope c q.home, q.addr⟩] := by
  have hr : ((q.home == .dram && s.frameRefuses q.off q.part q.src.cid q.expE) || !s.reaches q.part q.home || s.word q.home q.off 8 == 0) = true := by
    rcases h with h | ⟨h, g⟩ | h <;> simp [*]
  have e : exec (.joinDecrement c q) s
      = .next (((if s.reaches q.part q.home then s.asked q.home else s).refuse c q.part q.addr (homeScope c q.home) 1).send (ackWork c)) := by
    simp only [exec, execJoinDecrement, Nat.not_le.2 hc, hr, if_false, if_true]
  have hu : ∃ u, (if s.reaches q.part q.home then s.asked q.home else s) = u ∧ u.mem = s.mem ∧ u.work = s.work ∧ u.stage = s.stage := by
    split
    · exact ⟨_, rfl, by rw [asked_eq], by rw [asked_eq], (asked_settles s q.home).stage⟩
    · exact ⟨_, rfl, rfl, rfl, rfl⟩
  obtain ⟨u, eu, hm, hw, hs⟩ := hu
  obtain ⟨gm, gw, gr⟩ := refuse_spec u hc q.part q.addr (homeScope c q.home) 1
  rw [eu] at e
  refine ⟨_, e, gm.trans hm, congrArg (· ++ _) (gw.trans hw), ?_⟩
  exact gr.trans (by rw [getCtx_of_stage hs])

theorem joinDecrement_served (h : ¬(s.word q.home q.off 8 = 0 ∨ (q.home = .dram ∧ s.frameRefuses q.off q.part q.src.cid q.expE = true)
    ∨ s.reaches q.part q.home = false)) (hs : s.canonical = true) (ho : q.off + 128 ≤ 2 ^ 64) : ∃ t, exec (.joinDecrement c q) s = .next t
      ∧ t.word q.home q.off 8 = s.word q.home q.off 8 - 1 ∧ s.sameBytesBut t q.home q.off 8 ∧ ackWork c ∈ t.work
      ∧ (s.word q.home q.off 8 = 1 → continuation c q (s.recordAt q.home (q.off + 64)) ∈ t.work) := by
  have hr : ((q.home == .dram && s.frameRefuses q.off q.part q.src.cid q.expE) || !s.reaches q.part q.home || s.word q.home q.off 8 == 0) = false := by
    simp only [not_or, not_and, Bool.not_eq_true, Bool.not_eq_false] at h
    obtain ⟨h0, hf, hr⟩ := h
    by_cases hd : q.home = .dram
    · simp [h0, hf hd, hr]
    · simp [h0, hd, hr]
  have hn := word_lt s q.home q.off
  have hv : (BitVec.ofNat 64 (s.word q.home q.off 8 - 1)).toNat = s.word q.home q.off 8 - 1 := by
    rw [BitVec.toNat_ofNat, Nat.mod_eq_of_lt (by omega)]
  have hu := (asked_keepsHomes s q.home).canonical hs
  have ho' : q.off + 8 ≤ 2 ^ 64 := by omega
  have hb := (homeWrite_spec q.home q.off (leBytes 8 (s.word q.home q.off 8 - 1)) 0 (s.homePoison q.home q.off 8) hu (by rw [leBytes_length]; exact ho')).2.1
  have hw := word_homeWrite q.home q.off (BitVec.ofNat 64 (s.word q.home q.off 8 - 1)) 0 (s.homePoison q.home q.off 8) hu ho'
  rw [leBytes_length] at hb
  rw [hv] at hw
  have e : exec (.joinDecrement c q) s =
      let v := (s.asked q.home).homeWrite q.home q.off (leBytes 8 (s.word q.home q.off 8 - 1)) 0 (s.homePoison q.home q.off 8)
      .next ((if s.word q.home q.off 8 = 1 then v.send (continuation c q (v.recordAt q.home (q.off + 64))) else v).send (ackWork c)) := by
    simp only [exec, execJoinDecrement, Nat.not_le.2 hc, hr, if_false, Bool.false_eq_true]
    rfl
  rw [e]
  generalize (s.asked q.home).homeWrite q.home q.off (leBytes 8 (s.word q.home q.off 8 - 1)) 0 (s.homePoison q.home q.off 8) = v at hb hw ⊢
  have hb : s.sameBytesBut v q.home q.off 8 := sameBytesBut_sameStore (asked_keepsHomes s q.home).store hb ⟨rfl, rfl, rfl, rfl⟩
  dsimp only
  rw [recordAt_sameBytesBut hb (by omega) (by omega)]
  refine ⟨_, rfl, ?_⟩
  split
  · exact ⟨hw, hb, by simp [State.send], fun _ => by simp [State.send]⟩
  · next hn => exact ⟨hw, hb, by simp [State.send], fun h1 => absurd h1 hn⟩

end join

/-- A read of a counter is answered with its entry (R263). -/
theorem ccrdServe_answers {c : Src} {level i : Nat} (hc : c.site < 288) (hl : 1 ≤ level) (hh : level ≤ 4) (hi : i < 4096) (id : Nat) (p : BitVec 4)
    (s : State) : exec (.ccrdServe c id p level i) s = .next (s.send (answerWork ⟨c, id, [s.counter p level i], false, 0⟩)) := by
  have hg : (decide (288 ≤ c.site) || level = 0 || decide (4 < level) || decide (4096 ≤ i)) = false := by
    simp only [Bool.or_eq_false_iff, decide_eq_false_iff_not]
    omega
  simp only [exec, execCcrdServe, hg, Bool.false_eq_true, if_false]

end Sys2Proof.Machine
end

section
/-! Counters cancelled: what names them is let go and has its trap (R258). -/

namespace Sys2Proof.Machine

/-! ## Cancellation (R258) -/

/-- A counter entry as a cancellation leaves it. -/
def ccCancelled (w : Word) : Word :=
  if ccState w = 1 || ccState w = 2 then ccWord 2 (w.getLsbD 61) (ccFailed w) (ccOut w) else ccWord 3 true (ccFailed w) 0

theorem ccCancelled_open {w : Word} (h : ccState w = 1 ∨ ccState w = 2) : ccState (ccCancelled w) = 2 ∧ ccOut (ccCancelled w) = ccOut w := by
  have e : ccCancelled w = ccWord 2 (w.getLsbD 61) (ccFailed w) (ccOut w) := if_pos (by simpa using h)
  rw [e, ccOut_ccWord]
  exact ⟨ccState_ccWord (by decide) _ _ _, Nat.mod_eq_of_lt (BitVec.isLt _)⟩

theorem ccCancelled_closed {w : Word} (h : ccState w = 0 ∨ ccState w = 3) :
    ccState (ccCancelled w) = 3 ∧ (ccCancelled w).getLsbD 61 = true ∧ ccOut (ccCancelled w) = 0 := by
  have e : ccCancelled w = ccWord 3 true (ccFailed w) 0 := if_neg (by simp; omega)
  have hb (z : BitVec 29) (o : BitVec 32) : (BitVec.ofNat 2 3 ++ BitVec.ofBool true ++ z ++ o).getLsbD 61 = true := by
    rw [BitVec.getLsbD_append, BitVec.getLsbD_append, BitVec.getLsbD_append]
    rfl
  rw [e, ccOut_ccWord]
  exact ⟨ccState_ccWord (by decide) _ _ _, hb _ _, rfl⟩

/-- The record names the counter. -/
def namesCounter (level i : Nat) (r : RecWords) : Bool := recCounter r level == i

/-- The counter's entry written, and the class queues read again from device memory. -/
def State.counterMarked (s : State) (p : BitVec 4) (level i : Nat) : State :=
  (s.setCounter p level i (ccCancelled (s.counter p level i))).refill p

/-- The class queues without the records that name the counter. -/
def State.letGo (s : State) (p : BitVec 4) (level i : Nat) : State := s.setQueues p ((s.part p).queues.map fun q => q.filter fun r => !namesCounter level i r)

/-- The records that name the counter, which run no more. -/
def State.recordsEnded (s : State) (p : BitVec 4) (rs : List RecWords) : State := rs.foldl (fun s r => s.endRecord p r false) s

/-- The counter marked, and the records that name it ended. -/
def State.counterEnded (s : State) (p : BitVec 4) (level i : Nat) : State :=
  ((s.counterMarked p level i).letGo p level i).recordsEnded p
    (((s.counterMarked p level i).part p).queues.toList.flatMap fun q => q.filter (namesCounter level i))

/-- The contexts whose tasks name the counter. -/
def State.cancelTargets (s : State) (p : BitVec 4) (level i : Nat) : List Src := s.contexts.filter fun c =>
  match (s.getCtx c).task with
  | some t => t.part == p && namesCounter level i t.words && (s.getCtx c).ending.isNone && c.cid != 3
  | none => false

/-- The cancel traps of contexts. -/
def State.cancelTraps (s : State) (level : Nat) (cs : List Src) : State := cs.foldl (fun s c => s.postTrap c (.cancel level)) s

theorem cancelCounter_eq {level i : Nat} (hl : 1 ≤ level) (hh : level ≤ 4) (hi : i < 4096) (p : BitVec 4) (s : State) :
    exec (.cancelCounter p level i) s =
      .next ((s.counterEnded p level i).cancelTraps level ((s.counterEnded p level i).cancelTargets p level i)).pruneLaunches := by
  have hg : (level = 0 || decide (4 < level) || decide (4096 ≤ i)) = false := by
    simp only [Bool.or_eq_false_iff, decide_eq_false_iff_not]
    omega
  have hw (q : Prop) [Decidable q] (a b : Word) : (if q then s.setCounter p level i a else s.setCounter p level i b)
      = s.setCounter p level i (if q then a else b) := by
    split <;> rfl
  simp only [exec, execCancelCounter, hg, Bool.false_eq_true, if_false, hw, State.counterEnded, State.counterMarked, ccCancelled]
  generalize (s.setCounter p level i _).refill p = u
  rfl

theorem recordsEnded_nil (s : State) (p : BitVec 4) : s.recordsEnded p [] = s := rfl

theorem recordsEnded_settles (s : State) (p : BitVec 4) (rs : List RecWords) : s.settles (s.recordsEnded p rs) :=
  settles_foldl (fun s r => endRecord_settles s p r false) rs s

theorem counterMarked_ledger (s : State) (p : BitVec 4) (level i : Nat) : (s.counterMarked p level i).ledger = s.ledger :=
  (refill_ledger ..).trans (setCounter_ledger ..)

theorem counterMarked_fits {s : State} {p : BitVec 4} (h : ∀ k, ((s.part p).queue k).length ≤ 256) (level i : Nat) :
    s.counterMarked p level i = s.setCounter p level i (ccCancelled (s.counter p level i)) :=
  refill_fits fun k => by rw [queue_of_queues ((setCounter_keepsQueues ..).queues p)]; exact h k

theorem queue_map {x : Partition} {f : List RecWords → List RecWords} (hf : f [] = []) (k : Nat) :
    ({ x with queues := x.queues.map f } : Partition).queue k = f (x.queue k) := by
  simp only [Partition.queue, Array.getD_eq_getD_getElem?, Vector.toArray_map, Array.getElem?_map]
  cases x.queues.toArray[k]? <;> simp [hf]

theorem queue_letGo (s : State) (p : BitVec 4) (level i k : Nat) :
    ((s.letGo p level i).part p).queue k = ((s.part p).queue k).filter fun r => !namesCounter level i r := by
  refine (queue_of_queues ((spill_keepsQueues ..).queues p) k).trans ?_
  rw [part_setPart]
  exact queue_map rfl k

/-- Within the head caches a queue without some of its records reaches no memory. -/
theorem counter_letGo {s : State} {p : BitVec 4} (h : ∀ k, ((s.part p).queue k).length ≤ 256) (level i l j : Nat) :
    (s.letGo p level i).counter p l j = s.counter p l j := by
  have e : s.letGo p level i = s.setPart p { s.part p with queues := (s.part p).queues.map fun q => q.filter fun r => !namesCounter level i r } := by
    refine spill_fits fun k => ?_
    rw [part_setPart, queue_map rfl]
    exact (List.length_filter_le ..).trans (h k)
  rw [e, counter_setPart]
  rfl

/-! ## Cancel traps -/

theorem postTrap_parts (s : State) (c : Src) (x : ATrap) : (s.postTrap c x).parts = s.parts := by
  unfold State.postTrap
  dsimp only
  split <;> simp

theorem postTrap_sameStore (s : State) (c : Src) (x : ATrap) : s.sameStore (s.postTrap c x) := by
  unfold State.postTrap
  dsimp only
  split <;> exact ⟨by simp, by simp, by simp, by simp⟩

theorem traps_postTrap (s : State) (c d : Src) (x : ATrap) :
    ((s.postTrap c x).getCtx d).traps = if d = c then (s.getCtx d).traps ++ [x] else (s.getCtx d).traps := by
  have hs (u : State) (w : Work) : (u.send w).getCtx d = u.getCtx d := rfl
  have e : ((s.postTrap c x).getCtx d)
      = (s.setCtx c { s.getCtx c with traps := (s.getCtx c).traps ++ [x], heldBit := (s.getCtx c).heldBit || (s.getCtx c).ih }).getCtx d := by
    unfold State.postTrap
    dsimp only
    split
    · exact hs ..
    · rfl
  rw [e]
  split
  · next h => subst h; rw [getCtx_setCtx]
  · next h => rw [getCtx_setCtx_ne _ _ h]

theorem cancelTraps_parts (level : Nat) (cs : List Src) (s : State) : (s.cancelTraps level cs).parts = s.parts :=
  foldl_field State.parts (fun s c => postTrap_parts s c _) cs s

theorem cancelTraps_sameStore (level : Nat) (cs : List Src) : ∀ s : State, s.sameStore (s.cancelTraps level cs) := by
  induction cs with
  | nil => exact fun _ => ⟨rfl, rfl, rfl, rfl⟩
  | cons c cs ih => exact fun s => sameStore_trans (postTrap_sameStore s c _) (ih _)

/-- Every target has its cancel trap, whatever traps it had. -/
theorem mem_traps_cancelTraps {level : Nat} {d : Src} (cs : List Src) : ∀ s : State, d ∈ cs ∨ .cancel level ∈ (s.getCtx d).traps →
    .cancel level ∈ ((s.cancelTraps level cs).getCtx d).traps := by
  induction cs with
  | nil => exact fun s h => h.resolve_left (by simp)
  | cons c cs ih =>
    intro s h
    refine ih (s.postTrap c (.cancel level)) ?_
    rw [traps_postTrap]
    split
    · exact .inr (by simp)
    · next hn => exact h.imp_left fun h => (List.mem_cons.1 h).resolve_left hn

/-- Once its counter is cancelled, no queued record names it; within the head caches nothing else leaves a queue. -/
theorem queue_counterEnded (s : State) (p : BitVec 4) (level i : Nat) (k : Nat) :
    ((s.counterEnded p level i).part p).queue k = (((s.counterMarked p level i).part p).queue k).filter fun r => !namesCounter level i r :=
  (queue_of_queues ((recordsEnded_settles ..).queues p) k).trans (queue_letGo ..)

theorem counterEnded_stage (s : State) (p : BitVec 4) (level i : Nat) : (s.counterEnded p level i).stage = s.stage :=
  (recordsEnded_settles ..).stage.trans (stage_of_ledger ((setQueues_ledger ..).trans (counterMarked_ledger ..)))

theorem mem_cancelTargets {s : State} {p : BitVec 4} {level i : Nat} {d : Src} {t : Task} (hd : d ∈ s.contexts) (ht : (s.getCtx d).task = some t)
    (hp : t.part = p) (hn : recCounter t.words level = i) (he : (s.getCtx d).ending = none) (hc : d.cid < 3) : d ∈ s.cancelTargets p level i := by
  have h3 : d.cid ≠ 3 := by omega
  refine List.mem_filter.2 ⟨hd, ?_⟩
  simp [ht, hp, hn, he, h3, namesCounter]

theorem cancelTargets_of_stage {s t : State} (h : t.stage = s.stage) (p : BitVec 4) (level i : Nat) :
    t.cancelTargets p level i = s.cancelTargets p level i := by
  simp only [State.cancelTargets, contexts_of_stage h, getCtx_of_stage h]

theorem counter_cancelled {s : State} {p : BitVec 4} {level i : Nat} (hs : s.canonical = true) (ha : s.counterAddr p level i + 8 ≤ 2 ^ 64)
    (hl : ∀ k, ((s.part p).queue k).length ≤ 256) :
    ((s.counterMarked p level i).letGo p level i).counter p level i = ccCancelled (s.counter p level i) := by
  have hk := setCounter_keepsQueues s p level i (ccCancelled (s.counter p level i))
  rw [counterMarked_fits hl, counter_letGo fun k => by rw [queue_of_queues (hk.queues p)]; exact hl k, State.counter, counterAddr_of_d (hk.d p)]
  unfold State.setCounter
  rw [word_homeWrite _ _ _ 0 false hs ha]
  simp

/-- A queue whose records do not name the counter gives none. -/
theorem flatMap_namesCounter_nil {x : Partition} {level i : Nat} (h : ∀ k, ∀ r ∈ x.queue k, recCounter r level ≠ i) :
    (x.queues.toList.flatMap fun q => q.filter (namesCounter level i)) = [] := by
  refine List.flatMap_eq_nil_iff.2 fun q hq => List.filter_eq_nil_iff.2 fun r hr => ?_
  obtain ⟨k, hk, e⟩ := List.getElem_of_mem hq
  have : r ∈ x.queue k := by
    have hk' : k < x.queues.toArray.size := by simpa using hk
    rw [Partition.queue, Array.getD_eq_getD_getElem?, Array.getElem?_eq_getElem hk', Option.getD_some]
    rw [← e] at hr
    exact hr
  simpa [namesCounter] using h k r this

/-- Where no record within the head caches names the counter, no more than the entry is written. -/
theorem counter_counterEnded {s : State} {p : BitVec 4} {level i : Nat} (hs : s.canonical = true) (ha : s.counterAddr p level i + 8 ≤ 2 ^ 64)
    (hl : ∀ k, ((s.part p).queue k).length ≤ 256) (hn : ∀ k, ∀ r ∈ (s.part p).queue k, recCounter r level ≠ i) :
    (s.counterEnded p level i).counter p level i = ccCancelled (s.counter p level i) := by
  have hr := flatMap_namesCounter_nil (x := (s.counterMarked p level i).part p) (level := level) (i := i) fun k => by
    rw [counterMarked_fits hl, queue_of_queues ((setCounter_keepsQueues ..).queues p)]; exact hn k
  rw [State.counterEnded, hr, recordsEnded_nil]
  exact counter_cancelled hs ha hl

/-- The traps of a cancellation change no queue and no counter. -/
theorem cancelTraps_spec (s : State) (level : Nat) (cs : List Src) (p : BitVec 4) :
    (∀ k, (((s.cancelTraps level cs).pruneLaunches.part p).queue k) = (s.part p).queue k)
    ∧ (∀ d ∈ cs, .cancel level ∈ ((s.cancelTraps level cs).pruneLaunches.getCtx d).traps)
    ∧ ∀ l i, (s.cancelTraps level cs).pruneLaunches.counter p l i = s.counter p l i := by
  have hp : (s.cancelTraps level cs).part p = s.part p := by simp only [State.part, cancelTraps_parts]
  have hs := cancelTraps_sameStore level cs s
  have ht (d : Src) (hd : d ∈ cs) := mem_traps_cancelTraps (level := level) cs s (.inl hd)
  generalize s.cancelTraps level cs = t at hp hs ht ⊢
  have hs' : s.sameStore t.pruneLaunches := hs
  have hp' : t.pruneLaunches.part p = s.part p := hp
  exact ⟨fun k => by rw [hp'], ht, fun l i => counter_sameStore hs' (by rw [hp']) l i⟩

/-- A counter cancelled: the records that name it are let go, the tasks that name it have the cancel trap, and the entry says so. -/
theorem cancelCounter_spec {level i : Nat} (hl : 1 ≤ level) (hh : level ≤ 4) (hi : i < 4096) (s : State) (p : BitVec 4) :
    ∃ t, exec (.cancelCounter p level i) s = .next t
    ∧ (∀ k, (t.part p).queue k = (((s.counterMarked p level i).part p).queue k).filter fun r => !namesCounter level i r)
    ∧ (∀ d ∈ s.cancelTargets p level i, .cancel level ∈ (t.getCtx d).traps)
    ∧ (s.canonical = true → s.counterAddr p level i + 8 ≤ 2 ^ 64 → (∀ k, ((s.part p).queue k).length ≤ 256) →
      (∀ k, ∀ r ∈ (s.part p).queue k, recCounter r level ≠ i) → t.counter p level i = ccCancelled (s.counter p level i)) := by
  have e := cancelCounter_eq hl hh hi p s
  rw [cancelTargets_of_stage (counterEnded_stage s p level i)] at e
  obtain ⟨hq, ht, hc⟩ := cancelTraps_spec (s.counterEnded p level i) level (s.cancelTargets p level i) p
  exact ⟨_, e, fun k => (hq k).trans (queue_counterEnded ..), ht,
    fun hs ha hf hn => (hc ..).trans (counter_counterEnded hs ha hf hn)⟩

end Sys2Proof.Machine
end

section
/-! The statement about tasks. -/

namespace Sys2Proof.Machine

theorem taskPop_starts {s u : State} {c : Src} {p : BitVec 4} {k n : Nat} {r : RecWords} (hc : c.site < 288) (hd : c.cid < 4)
    (h : s.refillAll.popChoice c = some (u, p, k, n)) (hr : ((u.part p).queue k)[n]? = some r) (hb : u.recordBad p r = none) (hs : recSaved r = false) :
    ∃ t, exec (.taskPop c) s = .next t ∧ (t.getCtx c).starts p r (u.loneBase p r) := by
  obtain ⟨v, hv, e⟩ := taskPop_gives hc hd h hr
  have hb' : v.recordBad p r = none := (recordBad_of_images (images_of_stage (stage_of_ledger hv)) p r).trans hb
  exact ⟨_, e, (give_starts c (u.loneBase p r) hb' hs).2.1⟩

theorem taskPop_fails {s u : State} {c : Src} {p : BitVec 4} {k n : Nat} {r : RecWords} (hc : c.site < 288) (hd : c.cid < 4)
    (h : s.refillAll.popChoice c = some (u, p, k, n)) (hr : ((u.part p).queue k)[n]? = some r) (hb : u.recordBad p r ≠ none) :
    ∃ t, exec (.taskPop c) s = .next t ∧ (t.getCtx c).task = none
      ∧ ∃ why rest, u.recordBad p r = some why ∧ (t.part p).errlog = (s.part p).errlog ++ ⟨r[0], why⟩ :: rest := by
  obtain ⟨why, hw⟩ := Option.ne_none_iff_exists'.1 hb
  obtain ⟨v, hv, e⟩ := taskPop_gives hc hd h hr
  obtain ⟨hu, ht⟩ := popChoice_spec h
  have hs : v.ledger = s.ledger := hv.trans (hu.trans (refillAll_ledger s))
  have hw' : v.recordBad p r = some why := (recordBad_of_images (images_of_stage (stage_of_ledger hv)) p r).trans hw
  obtain ⟨hg, rest, hl⟩ := give_bad c (u.loneBase p r) hw'
  refine ⟨_, e, ?_, why, rest, hw, hl.trans (by rw [errlog_of_ledger hs])⟩
  rw [getCtx_of_stage (hg.trans (stage_of_ledger hs)), ← getCtx_of_stage (stage_of_ledger (refillAll_ledger s))]
  exact ht

/-- Settles O43: each event changes queues, counters and contexts through the lemmas of its own above. -/
theorem taskEvents : Obligations.TaskEvents := by
  unfold Obligations.TaskEvents
  intro c id level i p r q s hc hd
  refine ⟨fun u k n h hr => ⟨fun hb hs => taskPop_starts hc hd h hr hb hs, fun hb _ => taskPop_fails hc hd h hr hb⟩,
    fun ms hi h hn hg => gangPlacement_starts hi h hn hg, ⟨taskPush_cancelling hc, fun h hb => ?_, fun h hk hn hr hs hf => ?_⟩,
    ⟨joinDecrement_refused hc, joinDecrement_served hc⟩, fun hl hh hi => ⟨?_, ccrdServe_answers hc hl hh hi id p s⟩⟩
  · obtain ⟨gl, gq, ge, gc⟩ := refusePush_spec s (recPart r) (ranked r (s.nextRank r))
    rw [getElem_ranked r _ (by decide) (by decide)] at ge
    rw [recCounter_ranked] at gc
    exact ⟨_, taskPush_refused hc h hb, gl, gq, ge, gc⟩
  · obtain ⟨t, e, gn, gq, go, gc⟩ := taskPush_entered hc h hk hn hr
    refine ⟨t, e, gn, ⟨_, gq, recAge_ranked r hn, recClass_ranked r _, getElem_ranked r _ (by decide) (by decide), getElem_ranked r _ (by decide) (by decide),
      getElem_ranked r _ (by decide) (by decide)⟩, go, fun hl d hd => ?_⟩
    rw [gc hs hf hl d hd]
    exact ⟨ccState_ccMore _, ccOut_ccMore _⟩
  · obtain ⟨t, e, gq, gt, gc⟩ := cancelCounter_spec hl hh hi s p
    refine ⟨t, e, fun k r hr => ?_, fun hf k => ?_, fun d t' hd ht hp hn he hc => gt d (mem_cancelTargets hd ht hp hn he hc), fun hs ha hf hn => ?_⟩
    · rw [gq] at hr
      simpa [namesCounter] using (List.mem_filter.1 hr).2
    · rw [gq, counterMarked_fits hf, queue_of_queues ((setCounter_keepsQueues ..).queues p)]
      exact List.filter_congr fun r _ => by simp [namesCounter, beq_eq_decide]
    · rw [gc hs ha hf hn]
      exact ⟨ccCancelled_open, ccCancelled_closed⟩

end Sys2Proof.Machine
end

section
/-! The scalar forms of two registers: their values, and the statements about arithmetic, division, logic, shifts, counts and compares. -/

namespace Sys2Proof.Machine

/-! ## Values (R126, R127) -/

/-- A saturating operation delivers its exact value saturated to the format (R126). -/
theorem arith_saturates (ty : Fmt) (op : Int → Int → Int) (a b : Word) :
    arith ty true op a b = saturated ty (op (ty.opnd a) (ty.opnd b)) := by
  simp only [arith, Fmt.satInt, Fmt.outside, Fmt.clamp, saturated, Bool.true_and, Bool.or_eq_true, decide_eq_true_eq]
  generalize op (ty.opnd a) (ty.opnd b) = v
  by_cases hl : v < ty.lo
  · simp [hl]
  · by_cases hh : ty.hi < v <;> simp [hl, hh]

theorem divide_zero (ty : Fmt) (a : Int) : divide ty a 0 = (-1, a, .DZ) := rfl

/-- The one overflow: the least signed dividend by −1 (R127). -/
theorem divide_overflow {ty : Fmt} {a : Int} (hs : ty.isSignedInt = true) (ha : a = -(2 ^ (ty.width - 1))) : divide ty a (-1) = (a, 0, 0) := by
  have hlo : a = ty.lo := by rw [ha, Fmt.lo, if_pos hs]
  simp [divide, hs, hlo]

theorem divide_exact {ty : Fmt} {a b : Int} (hb : b ≠ 0) (ho : ¬(ty.isSignedInt = true ∧ a = -(2 ^ (ty.width - 1)) ∧ b = -1)) :
    divide ty a b = (a.tdiv b, a - a.tdiv b * b, 0) := by
  have hc : ¬(ty.isSignedInt && a = ty.lo && b = -1) = true := fun h => by
    obtain ⟨⟨hs, ha⟩, hb⟩ : (ty.isSignedInt = true ∧ a = ty.lo) ∧ b = -1 := by simpa using h
    exact ho ⟨hs, by rw [ha, Fmt.lo, if_pos hs], hb⟩
  rw [divide, if_neg hb, if_neg hc, Int.tmod_def, Int.mul_comm b]

/-! ## Counts (R128) -/

theorem clzN_zero (N : Nat) : clzN N 0 = N := rfl

/-- The count of zero bits above the highest set bit says between which powers of two a number lies. -/
theorem clzN_bounds {N n : Nat} (hn : n ≠ 0) (h : n < 2 ^ N) :
    clzN N n < N ∧ 2 ^ (N - 1 - clzN N n) ≤ n ∧ n < 2 ^ (N - clzN N n) := by
  have hl : n.log2 < N := (Nat.log2_lt hn).2 h
  rw [clzN, if_neg hn, show N - 1 - (N - 1 - n.log2) = n.log2 by omega, show N - (N - 1 - n.log2) = n.log2 + 1 by omega]
  exact ⟨by omega, Nat.log2_self_le hn, Nat.lt_log2_self⟩

theorem ctzN_zero (N : Nat) : ctzN N 0 = N := by
  obtain ⟨hle, -, hset⟩ := ctzN_spec N 0
  exact hle.eq_of_not_lt fun hlt => by simpa using hset hlt

/-- The count of zero bits below the lowest set bit names that bit. -/
theorem ctzN_lowest {N n : Nat} (hn : n ≠ 0) (h : n < 2 ^ N) : n.testBit (ctzN N n) = true ∧ ∀ j < ctzN N n, n.testBit j = false := by
  obtain ⟨hle, hclear, hset⟩ := ctzN_spec N n
  refine ⟨hset (hle.lt_of_ne fun he => hn ?_), hclear⟩
  refine Nat.eq_of_testBit_eq fun i => ?_
  rw [Nat.zero_testBit]
  by_cases hi : i < N
  · exact hclear i (by omega)
  · exact Nat.testBit_lt_two_pow (h.trans_le (Nat.pow_le_pow_right (by decide) (by omega)))

/-! ## The forms -/

/-- p0 reads 1 (R106, R131). -/
theorem getP_val (r : Regs) (p : BitVec 4) : (r.getP p).val = decide (p = 0 ∨ (r.getP p).val = true) := by
  by_cases hp : p = 0
  · simp [hp, Regs.getP]
  · simp only [hp, false_or, Bool.decide_eq_true]

section forms
variable {i : Instr} {s : State} {h : Hdr} {major : BitVec 8}

/-- A form of two x sources. -/
theorem exec_issueXXX {d s1 s2 : BitVec 6} {lat : Nat} {f : Word → Word → Word × Flags} {w : Word} {fl : Flags}
    (hi : s.mayIssue h [.x s1, .x s2, .x d]) (hx : exec i s = .next (s.issueXXX h major lat d s1 s2 f))
    (hr : f (s.xval s1) (s.xval s2) = (w, fl)) :
    exec i s = .next (s.writes h major lat (.x d) [.x s1, .x s2] (.word w) fl) := by
  rw [hx, issueXXX_writes hi, hr]

/-- A predicate form. -/
theorem exec_issuePPP {pd p1 p2 : BitVec 4} {f : Bool → Bool → Bool} {b : Bool} (hi : s.mayIssue h [.p p1, .p p2, .p pd])
    (hx : exec i s = .next (s.issuePPP h major pd p1 p2 f)) (hb : f (s.ctx.work.getP p1).val (s.ctx.work.getP p2).val = b) :
    exec i s = .next (s.writes h major 1 (.p pd) [.p p1, .p p2] (.bit b) 0) := by
  rw [hx, issuePPP_writes hi, hb]

theorem sel_writes {d s1 s2 : BitVec 6} {pn : BitVec 4} (hi : s.mayIssue h [.x s1, .x s2, .p pn, .x d]) :
    exec (.sel h d s1 s2 pn) s = .next (s.writes h 0x0F 1 (.x d) [.x s1, .x s2, .p pn]
      (.word (if (s.ctx.work.getP pn).val then s.xval s1 else s.xval s2)) 0) :=
  congrArg Host.Outcome.next (issue_one (rs := [.x s1, .x s2, .p pn]) hi ..)

theorem cmp_writes {pd : BitVec 4} {s1 s2 : BitVec 6} (hi : s.mayIssue h [.x s1, .x s2, .p pd]) (c : Cond) (ty : Fmt) :
    exec (.cmp h c ty pd s1 s2) s
      = .next (s.writes h 0x13 2 (.p pd) [.x s1, .x s2] (.bit (c.int (ty.opnd (s.xval s1)) (ty.opnd (s.xval s2)))) 0) :=
  congrArg Host.Outcome.next (issue_one (rs := [.x s1, .x s2]) hi ..)

theorem cmpi_writes {pd : BitVec 4} {s1 : BitVec 6} (hi : s.mayIssue h [.x s1, .p pd]) (c : Cond) (ty : Fmt) (imm : Imm) :
    exec (.cmpi h c ty pd s1 imm) s
      = .next (s.writes h 0x27 2 (.p pd) [.x s1] (.bit (c.int (ty.opnd (s.xval s1)) (ty.opnd (imm.value true)))) 0) :=
  congrArg Host.Outcome.next (issue_one (rs := [.x s1]) hi ..)

/-- A quotient form and its remainder form, by the one division that both make. -/
theorem div_rem_writes {ty : Fmt} {d s1 s2 : BitVec 6} (hi : s.mayIssue h [.x s1, .x s2, .x d]) {q r : Int} {fl : Flags}
    (hd : divide ty (ty.opnd (s.xval s1)) (ty.opnd (s.xval s2)) = (q, r, fl)) :
    exec (.div h ty d s1 s2) s = .next (s.writes h 0x05 20 (.x d) [.x s1, .x s2] (.word (ty.fit q)) fl)
      ∧ exec (.rem h ty d s1 s2) s = .next (s.writes h 0x06 20 (.x d) [.x s1, .x s2] (.word (ty.fit r)) fl) :=
  ⟨exec_issueXXX hi rfl (by rw [hd]), exec_issueXXX hi rfl (by rw [hd])⟩

end forms

/-! ## The statements -/

/-- Settles O1: each form writes one result (`exec_issueXXX`), the saturating ones by `arith_saturates`. -/
theorem arithmeticResults : Obligations.ArithmeticResults := by
  unfold Obligations.ArithmeticResults
  refine ⟨fun h ty d s1 s2 s hi => ?_, fun h ty d s1 s2 s hi => ?_⟩
  · exact ⟨exec_issueXXX hi rfl rfl, exec_issueXXX hi rfl (arith_saturates ..), exec_issueXXX hi rfl rfl,
      exec_issueXXX hi rfl (arith_saturates ..)⟩
  · refine ⟨exec_issueXXX hi rfl rfl, exec_issueXXX hi rfl rfl, ?_, ?_⟩
    · rw [min_def_lt]; exact exec_issueXXX hi rfl rfl
    · rw [max_def_lt]; exact exec_issueXXX hi rfl rfl

/-- Settles O2: both forms make one division (`div_rem_writes`), in the three cases of `divide`. -/
theorem divRemResults : Obligations.DivRemResults := by
  unfold Obligations.DivRemResults
  intro h ty d s1 s2 s hi a b leaves
  refine ⟨fun hb => ?_, fun hs ha hb => ?_, fun hb ho => ?_⟩
  · exact div_rem_writes hi ((congrArg (divide ty a) hb).trans (divide_zero ..))
  · exact div_rem_writes hi ((congrArg (divide ty a) hb).trans (divide_overflow hs ha))
  · exact div_rem_writes hi (divide_exact hb ho)

/-- Settles O3: the two-register forms by `exec_issueXXX`, the counts by `clzN_bounds`, `ctzN_lowest` and `popcN_eq`. -/
theorem logicShiftCountResults : Obligations.LogicShiftCountResults := by
  unfold Obligations.LogicShiftCountResults
  refine ⟨fun h ty d s1 s2 s hi => ?_, fun h ty d s1 s2 pn s => ⟨sel_writes, fun hi => ?_⟩⟩
  · exact ⟨exec_issueXXX hi rfl rfl, exec_issueXXX hi rfl rfl, exec_issueXXX hi rfl rfl,
      exec_issueXXX hi rfl (congrArg (·, 0) (shiftLeft_eq ..)), exec_issueXXX hi rfl (congrArg (·, 0) (shiftRight_eq ..)),
      exec_issueXXX hi rfl rfl⟩
  · intro n
    have hn : n < 2 ^ ty.width := Nat.mod_lt _ (Nat.two_pow_pos _)
    refine ⟨⟨clzN ty.width n, exec_issueXX hi rfl rfl, fun h0 => ?_, fun h0 => clzN_bounds h0 hn⟩,
      ⟨ctzN ty.width n, exec_issueXX hi rfl rfl, fun h0 => ?_, fun h0 => ctzN_lowest h0 hn⟩, exec_issueXX hi rfl ?_⟩
    · rw [h0, clzN_zero]
    · rw [h0, ctzN_zero]
    · exact congrArg (BitVec.ofNat 64) (popcN_eq ..)

/-- Settles O4: a compare writes the truth of its condition, a predicate form that of its sources, each read by `getP_val`. -/
theorem compareAndPredicateResults : Obligations.CompareAndPredicateResults := by
  unfold Obligations.CompareAndPredicateResults
  refine ⟨fun h ty pd s1 s2 imm s => ?_, fun h pd p1 p2 s hi => ?_⟩
  · intro truth
    have ht (c : Cond) (a b : Int) : c.int a b = truth c a b := by
      cases c <;> simp [truth, Cond.int, beq_eq_decide, bne]
    exact ⟨fun hi c => by rw [cmp_writes hi, ht], fun hi c => by rw [cmpi_writes hi, ht]⟩
  · intro reads
    have hr (p : BitVec 4) : (s.ctx.work.getP p).val = reads p := getP_val ..
    refine ⟨exec_issuePPP hi rfl ?_, exec_issuePPP hi rfl ?_, exec_issuePPP hi rfl ?_, exec_issuePPP hi rfl ?_⟩ <;> rw [hr, hr]

end Sys2Proof.Machine
end

section
/-! Address values and control registers; fences and drains. -/

namespace Sys2Proof.Machine

/-! ## Address values and control registers (R133, R134) -/

/-- A scaled index is its product with the power of two (R221). -/
theorem shiftLeft_eq_mul (w : Word) (n : Nat) : w <<< n = w * BitVec.ofNat 64 (2 ^ n) := by
  apply BitVec.eq_of_toNat_eq
  simp [BitVec.toNat_mul, Nat.shiftLeft_eq]

section forms
variable {s : State} {h : Hdr}

theorem lea_writes {d : BitVec 6} {m : MemOp} {w : Word} (hi : s.mayIssue h (MemOp.srcs m ++ [.x d])) (hw : m.addr s.xval = w) :
    exec (.lea h d m) s = .next (s.writes h 0x30 1 (.x d) (MemOp.srcs m) (.word w) 0) := by
  rw [← hw]
  exact congrArg Host.Outcome.next (issue_one hi ..)

theorem mfc_writes {d : BitVec 6} {n : BitVec 16} (hi : s.mayIssue h [.x d]) (hn : ctlAccess s.who.cid n ≠ .none) :
    exec (.mfc h d n) s = .next (s.writesClean h 0x2B 1 (.x d) [] (.word (s.readCtl n)) 0) := by
  simp only [exec, execMfc, if_neg hn]
  exact congrArg Host.Outcome.next (issue_one_clean (rs := []) hi ..)

/-- `mtc` of a register that the context may write: the operand is on its way to the working copy. -/
theorem mtc_delivers {n : BitVec 16} {s1 : BitVec 6} (hi : s.mayIssue h [.x s1]) (hn : ctlAccess s.who.cid n = .rw) :
    exec (.mtc h n s1) s = .next (s.inFlight 1 (.ctl n) (.word (s.xval s1)) 0 false 0) := by
  simp only [exec, execMtc, hn]
  exact congrArg Host.Outcome.next (issue_none hi _)

/-- `mtc` of a register that the context may only read. -/
theorem mtc_ignored {n : BitVec 16} {s1 : BitVec 6} (hi : s.mayIssue h [.x s1]) (hn : ctlAccess s.who.cid n = .ro) :
    exec (.mtc h n s1) s = .next s := by
  simp only [exec, execMtc, hn]
  exact congrArg Host.Outcome.next (issue_none hi _)

theorem nop_next (hi : s.mayIssue h []) : exec (.nop h) s = .next s := congrArg Host.Outcome.next (issue_none (rs := []) hi s)

theorem tfence_next (hi : s.mayIssue h []) (hv : s.ctx.work.flags &&& s.ctx.work.fmask = 0) : exec (.tfence h) s = .next s := by
  simp only [exec, execTfence, if_pos hv]
  exact congrArg Host.Outcome.next (issue_none (rs := []) hi s)

end forms

/-- Settles O6: `lea` by its address value, `mfc` and `mtc` by the access that the context has. -/
theorem leaAndControlRegisterResults : Obligations.LeaAndControlRegisterResults := by
  unfold Obligations.LeaAndControlRegisterResults
  refine ⟨fun h d xb xi off p sh s => ⟨fun hi => ⟨?_, ?_⟩, fun hi => ?_⟩, fun h d s1 n s => ⟨mfc_writes, mtc_delivers, mtc_ignored⟩⟩
  · exact lea_writes (m := .m0 xb off) hi rfl
  · exact lea_writes (m := .m0x xb off p) hi rfl
  · exact lea_writes (m := .m1 xb xi sh) hi (congrArg (s.xval xb + ·) (shiftLeft_eq_mul ..))

/-! ## Fences and drains (R209, R215, R246) -/

theorem undrained_eq_true_iff (s : State) : s.undrained = true ↔ ¬∀ w ∈ s.work, w.src = s.who → w.write = false := by
  simp [State.undrained]

theorem loadsOut_eq_true_iff (s : State) :
    s.loadsOut = true ↔ ¬∀ p ∈ s.ctx.pend, p.isLoad = true → p.held = none → s.iss.ids ≤ p.id := by
  simp [State.loadsOut, and_assoc]

section fence
variable {s : State} {h : Hdr} (hi : s.mayIssue h []) (hc : s.ctx.closings = []) (major : BitVec 8) {sc : Scope} {loads : Bool}
include hi hc

/-- While a write of the context is undrained, or for a `fence` an earlier load is to come, it waits. -/
theorem fenceForm_waits (hw : (s.undrained || loads && s.loadsOut) = true) : s.fenceForm h major sc loads = s.waitsFor .drain := by
  have ha : s.ctx.awaited (Form.regs { h := h, major := major }) = none := hi.2
  simp only [State.fenceForm, hi.1, ha, Option.isNone_none, Bool.and_self, if_true, behindCommit_nil hc, hw]
  rw [issue_error _ ha hi.1]
  exact freeze_nil hc _

variable (hq : (s.undrained || loads && s.loadsOut) = false)
include hq

/-- With no recorded refusal in its scope it completes. -/
theorem fenceForm_completes (hr : ∀ r ∈ s.ctx.refusals, ¬scopeRank r.scope ≤ scopeRank sc) : s.fenceForm h major sc loads = s := by
  have ha : s.ctx.awaited (Form.regs { h := h, major := major }) = none := hi.2
  have hf : s.ctx.refusals.find? (fun r => scopeRank r.scope ≤ scopeRank sc) = none := by simpa using hr
  simp only [State.fenceForm, hi.1, ha, Option.isNone_none, Bool.and_self, if_true, behindCommit_nil hc, hq, Bool.false_eq_true, if_false, hf]
  exact issue_plain s ha hi.1 rfl rfl

/-- The oldest recorded refusal that its scope covers is reported, and is recorded no more. -/
theorem fenceForm_reports {before after : List Refusal_} {r : Refusal_} (hr : s.ctx.refusals = before ++ r :: after)
    (hb : ∀ q ∈ before, ¬scopeRank q.scope ≤ scopeRank sc) (hs : scopeRank r.scope ≤ scopeRank sc) :
    s.fenceForm h major sc loads
      = ({ s with ctx := { s.ctx with refusals := before ++ after } } : State).raise 0x0A 0x02 r.addr false := by
  have ha : s.ctx.awaited (Form.regs { h := h, major := major }) = none := hi.2
  have hf : s.ctx.refusals.find? (fun r => scopeRank r.scope ≤ scopeRank sc) = some r :=
    List.find?_eq_some_iff_append.2 ⟨by simpa using hs, before, after, hr, by simpa using hb⟩
  have he : s.ctx.refusals.erase r = before ++ after := by
    rw [hr, List.erase_append_right _ fun hm => hb r hm hs, List.erase_cons_head]
  simp only [State.fenceForm, hi.1, ha, Option.isNone_none, Bool.and_self, if_true, behindCommit_nil hc, hq, Bool.false_eq_true, if_false, hf, he]
  exact issue_error _ ha hi.1

end fence

/-- Settles O7: a fence or drain by the three outcomes of State.fenceForm. -/
theorem nopFencesAndDrains : Obligations.NopFencesAndDrains := by
  unfold Obligations.NopFencesAndDrains
  refine ⟨fun h s hi => ⟨nop_next hi, tfence_next hi⟩, fun h sc s hi hc => ?_⟩
  intro quiet loaded covered
  have hu : s.undrained = true ↔ ¬quiet := undrained_eq_true_iff s
  have hl : s.loadsOut = true ↔ ¬loaded := loadsOut_eq_true_iff s
  have drains : quiet → (s.undrained || false && s.loadsOut) = false := fun hq => by simpa using (not_congr hu).2 (not_not_intro hq)
  have fences : quiet → loaded → (s.undrained || true && s.loadsOut) = false := fun hq hk =>
    Bool.or_eq_false_iff.2 ⟨by simpa using drains hq, by simpa using (not_congr hl).2 (not_not_intro hk)⟩
  refine ⟨fun hq hr => ⟨?_, fun hk => ?_⟩, fun hq => ⟨?_, ?_⟩, fun hk => ?_, fun before r after hq hr hb hs ht => ?_⟩
  · exact congrArg Host.Outcome.next (fenceForm_completes hi hc 0xA5 (drains hq) hr)
  · exact congrArg Host.Outcome.next (fenceForm_completes hi hc 0xA4 (fences hq hk) hr)
  · exact congrArg Host.Outcome.next (fenceForm_waits hi hc 0xA5 (by rw [hu.2 hq, Bool.true_or]))
  · exact congrArg Host.Outcome.next (fenceForm_waits hi hc 0xA4 (by rw [hu.2 hq, Bool.true_or]))
  · exact congrArg Host.Outcome.next (fenceForm_waits hi hc 0xA4 (by rw [hl.2 hk, Bool.true_and, Bool.or_true]))
  · intro u
    have hx : u.trapsEnter := ht
    exact ⟨⟨_, congrArg Host.Outcome.next (fenceForm_reports hi hc 0xA5 (drains hq) hr hb hs), raise_enters hx ..⟩,
      fun hk => ⟨_, congrArg Host.Outcome.next (fenceForm_reports hi hc 0xA4 (fences hq hk) hr hb hs), raise_enters hx ..⟩⟩

end Sys2Proof.Machine
end

section
/-! Control transfers and loop forms, and the loop step as a block closes. -/

namespace Sys2Proof.Machine

/-! ## A transfer that is made, stopped or contained (R124, R139) -/

/-- `t` is `s` with its block kept from committing: no transfer made, and no result or level put in flight (R124, R387). -/
def State.contains (s t : State) : Prop :=
  t.ctx.cur.taint.isSome = true ∧ t.ctx.cur.xfer = s.ctx.cur.xfer ∧ t.ctx.flight = s.ctx.flight ∧ t.ctx.work = s.ctx.work ∧ t.mem = s.mem

theorem tainted_isSome (s : State) : s.tainted.ctx.cur.taint.isSome = true := by
  simp only [State.tainted, State.modCur]
  split
  · assumption
  · rfl

/-- A syllable whose guard is poisoned folds, and its block will not commit. -/
theorem transfer_guardPoisoned {s : State} {f : Form} (ha : s.ctx.awaited f.regs = none) (hp : s.ctx.work.guardPoison f.h = true)
    (q : Bool) (body : Except Halt Out) : s.contains (s.transfer f q body) := by
  simp only [State.transfer, ha, hp, if_true]
  exact ⟨tainted_isSome _, rfl, rfl, rfl, rfl⟩

/-- Such a transfer, as an instruction. -/
theorem exec_guardPoisoned {i : Instr} {s : State} {f : Form} {q : Bool} {body : Except Halt Out} (hx : exec i s = .next (s.transfer f q body))
    (ha : s.ctx.awaited f.regs = none) (hp : s.ctx.work.guardPoison f.h = true) : ∃ t, exec i s = .next t ∧ s.contains t :=
  ⟨_, hx, transfer_guardPoisoned ha hp ..⟩

section transfer
variable {s : State} {h : Hdr} {rs : List Reg} (hi : s.mayIssue h rs) (major : BitVec 8) {q : Bool} {body : Except Halt Out}
include hi

/-- So it is where the register that steers it is poisoned. -/
theorem transfer_registerPoisoned (hq : q = true) : s.contains (s.transfer { h := h, major := major, also := rs } q body) := by
  have ha : s.ctx.awaited (Form.regs { h := h, major := major, also := rs }) = none := by simpa [Form.regs] using hi.2
  by_cases hp : s.ctx.work.guardPoison h = true
  · exact transfer_guardPoisoned ha hp ..
  · simp only [State.transfer, ha, if_neg hp, if_pos hq, issue_none hi]
    exact ⟨tainted_isSome _, rfl, rfl, rfl, rfl⟩

variable (hp : s.ctx.work.guardPoison h = false) (hq : q = false)
include hp hq

theorem transfer_issues : s.transfer { h := h, major := major, also := rs } q body = s.issue { h := h, major := major, also := rs } false body := by
  have ha : s.ctx.awaited (Form.regs { h := h, major := major, also := rs }) = none := by simpa [Form.regs] using hi.2
  simp only [State.transfer, ha, hp, hq, Bool.false_eq_true, if_false]

/-- Without poison it does what its body does. -/
theorem transfer_acts {t : State} (hb : body = .ok { s := t }) : s.transfer { h := h, major := major, also := rs } q body = t := by
  rw [transfer_issues hi major hp hq, hb, issue_none hi]

theorem transfer_stops {e : Halt} (hb : body = .error e) : s.transfer { h := h, major := major, also := rs } q body = s.halted e := by
  rw [transfer_issues hi major hp hq, hb, issue_none_error hi]

end transfer

/-- `call`: it transfers, and its link is in flight without tag source and poison (R141). -/
theorem call_writes {s : State} {h : Hdr} {xr : BitVec 6} (hi : s.mayIssue h [.x xr]) (hp : s.ctx.work.guardPoison h = false) (tsel : Bool) :
    exec (.call h xr tsel) s
      = .next ((s.steersTo (.label tsel)).writesClean h 0x42 1 (.x xr) [] (.word (s.iss.after + 16)) 0) := by
  have ha : s.ctx.awaited (Form.regs { h := h, major := 0x42, dests := [.x xr], clean := true }) = none := hi.2
  have hw := (issue_ok _ (s := s.steersTo (.label tsel)) ha hi.1).symm.trans
    (issue_one_clean (s := s.steersTo (.label tsel)) (rs := []) (major := 0x42) hi 1 (.word (s.iss.after + 16)) 0)
  simp only [exec, execCall, State.transfer, ha, hp, Bool.false_eq_true, if_false, State.gives]
  rw [issue_ok _ ha hi.1]
  exact congrArg Host.Outcome.next hw

/-- Settles O10: a transfer acts (`transfer_acts`), or is contained where its guard or its register is poisoned. -/
theorem controlTransfers : Obligations.ControlTransfers := by
  unfold Obligations.ControlTransfers
  refine ⟨fun h tsel xr s hp => ⟨fun hi => ?_, fun hi => ⟨call_writes hi hp tsel, fun hq => ⟨?_, ?_⟩⟩⟩, fun h xr n tsel stg s => ?_⟩
  · exact congrArg Host.Outcome.next (transfer_acts hi 0x40 hp rfl rfl)
  · exact congrArg Host.Outcome.next (transfer_acts hi 0x41 hp hq rfl)
  · exact congrArg Host.Outcome.next (transfer_acts hi 0x43 hp hq rfl)
  · refine ⟨fun ha hp => ?_, fun ha hp => ?_, fun hi hq => ?_⟩
    · exact ⟨exec_guardPoisoned rfl ha hp, exec_guardPoisoned rfl ha hp, exec_guardPoisoned rfl ha hp⟩
    · exact ⟨exec_guardPoisoned rfl ha hp, exec_guardPoisoned rfl ha hp, exec_guardPoisoned rfl ha hp, exec_guardPoisoned rfl ha hp,
        exec_guardPoisoned rfl ha hp⟩
    · exact ⟨⟨_, rfl, transfer_registerPoisoned hi 0x41 hq⟩, ⟨_, rfl, transfer_registerPoisoned hi 0x43 hq⟩,
        ⟨_, rfl, transfer_registerPoisoned hi 0x44 hq⟩, ⟨_, rfl, transfer_registerPoisoned hi 0x46 hq⟩⟩

/-! ## The loop forms (R142, R143, R146) -/

theorem setWidth_ne_zero {i : BitVec 16} (h : i ≠ 0) : i.setWidth 32 ≠ (0 : BitVec 32) := by
  bv_omega

section loopForm
variable {s : State} {n : BitVec 32} (tsel : Bool) {stg : BitVec 3} (kind : BitVec 2)

theorem loopForm_zero (hn : n = 0) : s.loopForm n tsel stg kind = .ok { s := s.steersTo (.label tsel) } := if_pos hn

theorem loopForm_pushes (hn : n ≠ 0) (hl : s.ctx.work.levels < 4) (hb : n.toNat + stg.toNat < 2 ^ 32) : s.loopForm n tsel stg kind
    = .ok { s := s.inFlight 1 .loop (.push ⟨n + stg.setWidth 32, stg, kind, s.iss.after + 16⟩) 0 false 0 } := by
  have hc : ¬(s.ctx.work.levels = 4 || 2 ^ 32 ≤ n.toNat + stg.toNat) = true := by
    simp only [Bool.or_eq_true, decide_eq_true_eq]; omega
  rw [State.loopForm, if_neg hn, if_neg hc]
  rfl

/-- Without stages the level's count is the form's. -/
theorem loopForm_pushes_count (hn : n ≠ 0) (hl : s.ctx.work.levels < 4) :
    s.loopForm n tsel 0 kind = .ok { s := s.inFlight 1 .loop (.push ⟨n, 0, kind, s.iss.after + 16⟩) 0 false 0 } := by
  rw [loopForm_pushes tsel kind hn hl (by simpa using n.isLt), show n + (0 : BitVec 3).setWidth 32 = n from BitVec.add_zero n]

/-- A fifth level, or a count that passes 32 bits. -/
theorem loopForm_illegal (hn : n ≠ 0) (hb : s.ctx.work.levels = 4 ∨ 2 ^ 32 ≤ n.toNat + stg.toNat) :
    s.loopForm n tsel stg kind = .error .illegal := by
  rw [State.loopForm, if_neg hn, if_pos (by simpa using hb)]

end loopForm

/-! ## The loop step (R144, R146) -/

theorem physP_8_ne_zero (r : Regs) : r.physP 8 ≠ 0 := by
  have h : ∀ b : BitVec 3, (1 : BitVec 1) ++ b ≠ (0 : BitVec 4) := by decide
  exact h _

/-- What a loop step leaves: the count one less, or the level popped, and p8 set by an `swp` level while its count is above its stages. -/
theorem loopStep_spec (r : Regs) : ∃ p,
    (r.loops[0].kind = 2 → (p[(r.physP 8).toNat]'(r.physP 8).isLt).val = decide (r.loops[0].stg.toNat < (r.loops[0].count - 1).toNat))
    ∧ r.loopStep = if r.loops[0].count = 1 then ({ r with p := p, loops := #v[r.loops[1], r.loops[2], r.loops[3], Level.reset] }, false)
        else ({ r with p := p, loops := r.loops.set 0 { r.loops[0] with count := r.loops[0].count - 1 } }, true) := by
  have hz : r.loops[0].count - 1 = 0 ↔ r.loops[0].count = 1 := sub_eq_zero
  by_cases hk : r.loops[0].kind = 2
  · refine ⟨r.p.set (r.physP 8).toNat ⟨decide (r.loops[0].stg.toNat < (r.loops[0].count - 1).toNat), baseP 8, false⟩ (r.physP 8).isLt, fun _ => ?_, ?_⟩
    · rw [Vector.getElem_set_self]
    · have hs : ∀ l : Vector Level 4, ({ r with loops := l } : Regs).physP 8 = r.physP 8 := fun _ => rfl
      simp only [Regs.loopStep, if_pos hk, hz, Regs.setPhysP, hs, if_neg (physP_8_ne_zero r)]
      simp [Regs.popLevel]
  · refine ⟨r.p, fun h => absurd h hk, ?_⟩
    simp only [Regs.loopStep, if_neg hk, hz]
    simp [Regs.popLevel]

theorem loopStep_frame (r : Regs) : r.loopStep.1.x = r.x ∧ r.loopStep.1.v = r.v ∧ r.loopStep.1.vb = r.vb ∧ r.loopStep.1.pb = r.pb := by
  obtain ⟨p, -, e⟩ := loopStep_spec r
  rw [e]
  split <;> exact ⟨rfl, rfl, rfl, rfl⟩

/-- A count that stays above 0: the body runs again. -/
theorem loopStep_again {r : Regs} (h : r.loops[0].count ≠ 1) :
    r.loopStep.2 = true ∧ r.loopStep.1.loops = r.loops.set 0 { r.loops[0] with count := r.loops[0].count - 1 } := by
  obtain ⟨p, -, e⟩ := loopStep_spec r
  rw [e, if_neg h]
  exact ⟨rfl, rfl⟩

/-- A count that reaches 0: the level is popped. -/
theorem loopStep_pops {r : Regs} (h : r.loops[0].count = 1) :
    r.loopStep.2 = false ∧ r.loopStep.1.loops = #v[r.loops[1], r.loops[2], r.loops[3], Level.reset] := by
  obtain ⟨p, -, e⟩ := loopStep_spec r
  rw [e, if_pos h]
  exact ⟨rfl, rfl⟩

theorem loopStep_p8 {r : Regs} (h : r.loops[0].kind = 2) :
    (r.loopStep.1.getP 8).val = decide (r.loops[0].stg.toNat < (r.loops[0].count - 1).toNat) := by
  obtain ⟨p, hp, e⟩ := loopStep_spec r
  rw [e]
  split <;> exact hp h

/-- The registers of a block that falls through, as its last bundle begins: an `swp` step has rotated them (R146). -/
def Regs.rotated (r : Regs) (e : Word) : Regs :=
  if r.loops[0].kind ≠ 0 ∧ r.loops[0].body = e ∧ r.loops[0].kind = 2 then r.rotate else r

theorem steps_iff (r : Regs) (e : Word) : r.steps e = true ↔ r.loops[0].kind ≠ 0 ∧ r.loops[0].body = e := by
  simp [Regs.steps]

theorem rotated_eq (r : Regs) (e : Word) : r.rotated e = if (r.steps e && r.loops[0].kind == 2) = true then r.rotate else r := by
  simp only [Regs.rotated, Regs.steps, Bool.and_eq_true, bne_iff_ne, beq_iff_eq, and_assoc]

/-- The end of the last bundle of a block that falls through. -/
def State.fallEnds (s : State) : State :=
  ({ s with ctx := { s.ctx with work := (s.ctx.work.rotated s.ctx.cur.entry).rebase } } : State).endBundle

section close
variable {s : State} (hx : s.ctx.cur.xfer = .fall) (hu : s.fallEnds.intact s = true) (a hall : Word) (m : Hallmark)
include hx hu

/-- A block that is no loop body falls through. -/
theorem closeBlock_falls (hb : s.ctx.work.steps s.ctx.cur.entry = false) :
    (s.closeBlock a hall m).ctx.work = s.fallEnds.ctx.work ∧ (s.closeBlock a hall m).ctx.pc = a + 16 := by
  rw [State.fallEnds, rotated_eq, hb, Bool.false_and] at hu ⊢
  simp only [State.closeBlock, State.closeWith, hx, hb, Bool.false_and, Bool.false_eq_true, if_false] at hu ⊢
  simp only [hu, Bool.not_true, Bool.false_eq_true, if_false, and_self]

/-- The body of level 0 makes the loop step, and goes on where that says (R144). -/
theorem closeBlock_steps (hb : s.ctx.work.steps s.ctx.cur.entry = true) :
    (s.closeBlock a hall m).ctx.work = s.fallEnds.ctx.work.loopStep.1
      ∧ (s.closeBlock a hall m).ctx.pc = if s.fallEnds.ctx.work.loopStep.2 then s.ctx.cur.entry else a + 16 := by
  rw [State.fallEnds, rotated_eq, hb, Bool.true_and] at hu ⊢
  simp only [State.closeBlock, State.closeWith, hx, hb, Bool.true_and, if_true] at hu ⊢
  simp only [hu, Bool.not_true, Bool.false_eq_true, if_false, and_self]

end close

/-- Settles O11: the forms by State.loopForm, the close by the loop step of the registers that its last bundle leaves. -/
theorem loopForms : Obligations.LoopForms := by
  unfold Obligations.LoopForms
  refine ⟨fun h xr i tsel stg s hp => ⟨fun hi => ⟨fun h0 => ?_, fun h0 hl => ?_, fun h0 hl => ?_⟩, fun hi hq => ?_⟩, fun a hall m s hx => ?_⟩
  · exact congrArg Host.Outcome.next (transfer_acts hi 0x45 hp rfl (loopForm_zero tsel 1 (by rw [h0]; rfl)))
  · exact congrArg Host.Outcome.next (transfer_acts hi 0x45 hp rfl (loopForm_pushes_count tsel 1 (setWidth_ne_zero h0) hl))
  · exact congrArg Host.Outcome.next (transfer_stops hi 0x45 hp rfl (loopForm_illegal tsel 1 (setWidth_ne_zero h0) (.inl hl)))
  · intro n
    refine ⟨fun h0 => ⟨?_, ?_⟩, fun h0 hl => ?_, fun h0 hl hb => ?_, fun h0 hl => ⟨?_, ?_⟩, fun h0 hb => ?_⟩
    · exact congrArg Host.Outcome.next (transfer_acts hi 0x44 hp hq (loopForm_zero tsel 1 h0))
    · exact congrArg Host.Outcome.next (transfer_acts hi 0x46 hp hq (loopForm_zero tsel 2 h0))
    · exact congrArg Host.Outcome.next (transfer_acts hi 0x44 hp hq (loopForm_pushes_count tsel 1 h0 hl))
    · exact congrArg Host.Outcome.next (transfer_acts hi 0x46 hp hq (loopForm_pushes tsel 2 h0 hl hb))
    · exact congrArg Host.Outcome.next (transfer_stops hi 0x44 hp hq (loopForm_illegal tsel 1 h0 (.inl hl)))
    · exact congrArg Host.Outcome.next (transfer_stops hi 0x46 hp hq (loopForm_illegal tsel 2 h0 (.inl hl)))
    · exact congrArg Host.Outcome.next (transfer_stops hi 0x46 hp hq (loopForm_illegal tsel 2 h0 (.inr hb)))
  · intro e r body w0 u l t hu _
    have hb : r.steps e = true ↔ body := steps_iff r e
    refine ⟨fun hn => closeBlock_falls hx hu a hall m (Bool.eq_false_iff.2 (mt hb.1 hn)), fun hy => ?_⟩
    obtain ⟨hw, hpc⟩ : t.ctx.work = u.ctx.work.loopStep.1 ∧ t.ctx.pc = if u.ctx.work.loopStep.2 then e else a + 16 :=
      closeBlock_steps hx hu a hall m (hb.2 hy)
    rw [hw, hpc]
    refine ⟨fun h1 => ?_, fun h1 => ?_, loopStep_p8, loopStep_frame _⟩
    · obtain ⟨hagain, hloops⟩ := loopStep_again h1
      exact ⟨if_pos hagain, hloops⟩
    · obtain ⟨hagain, hloops⟩ := loopStep_pops h1
      exact ⟨if_neg (Bool.eq_false_iff.1 hagain), hloops⟩

end Sys2Proof.Machine
end

section
/-! Forms whose v fields denote registers, and vector compares, selects, logic, shifts and permutation. -/

namespace Sys2Proof.Machine

/-! ## Forms whose fields denote registers (R274) -/

/-- Where no field denotes a port, a form that could read or write one issues as any form does. -/
theorem issueV_eq_issue {s : State} {f : Form} (hf : ∀ g ∈ f.regs, s.ctx.work.portOf g = none) (body : Regs → List Res) :
    s.issueV f body = s.issue f false (.ok { s := s, res := body s.ctx.work }) := by
  have hsrc : f.srcs.filterMap s.ctx.work.portOf = [] := List.filterMap_eq_nil_iff.2 fun g hg => hf g (by simp [Form.regs, hg])
  have hdst : f.dests.filterMap s.ctx.work.portOf = [] := List.filterMap_eq_nil_iff.2 fun g hg => hf g (by simp [Form.regs, hg])
  have hregs : f.regs.filter (fun g => (s.ctx.work.portOf g).isNone) = f.regs :=
    List.filter_eq_self.2 fun g hg => Option.isNone_iff_eq_none.2 (hf g hg)
  have hm : f.portMisuse s.ctx.work = false := by simp [Form.portMisuse, hsrc, hdst]
  simp only [State.issueV, hm, hregs, hsrc, hdst, Bool.false_eq_true, if_false, List.head?_nil]
  cases ha : s.ctx.awaited f.regs with
  | some c => exact (issue_awaited _ ha).symm
  | none =>
    cases hg : s.ctx.work.admits f.h with
    | false => exact (issue_guarded _ ha hg).symm
    | true =>
      rw [issue_ok _ ha hg]
      simp only [Bool.not_true, Bool.false_eq_true, if_false, State.deliver, Bool.or_self, Bool.false_or]

section registers
variable {s : State} {h : Hdr} {rs : List Reg} {d : Reg}

/-- A form whose fields denote registers writes its one result. -/
theorem issueV_writes (major : BitVec 8) {body : Regs → List Res} {lat : Nat} {pay : Payload} {fl : Flags}
    (hf : ∀ g ∈ rs ++ [d], s.ctx.work.portOf g = none) (hi : s.mayIssue h (rs ++ [d])) (hb : body s.ctx.work = [⟨lat, pay, fl⟩]) :
    s.issueV { h := h, major := major, srcs := rs, dests := [d] } body = s.writes h major lat d rs pay fl := by
  refine (issueV_eq_issue (fun g hg => ?_) body).trans ?_
  · have hg' : g = .p h.guard ∨ g ∈ rs ++ [d] := by simpa [Form.regs] using hg
    rcases hg' with rfl | hg'
    · rfl
    · exact hf g hg'
  · rw [hb]
    exact issue_one hi lat pay fl

/-- The results in flight tell the values of two results apart. -/
theorem writes_inj {major : BitVec 8} {lat : Nat} {p q : Payload} {fl fl' : Flags}
    (he : s.writes h major lat d rs p fl = s.writes h major lat d rs q fl') : p = q := by
  have hf := List.append_cancel_left (congrArg (·.ctx.flight) he)
  exact congrArg Flight.pay (List.singleton_inj.1 hf)

end registers

/-! ## Compares, logic and shifts (R156 to R158) -/

theorem put_shl (ty : Fmt) (w : Lane) (k : Nat) :
    ty.put ((lowBits ty.width w.toNat * 2 ^ k : Nat) : Int) = ty.put (((w.toNat % 2 ^ ty.width : Nat) : Int) * 2 ^ k) := by
  rw [lowBits]; push_cast; rfl

theorem put_shr (ty : Fmt) (w : Lane) (k : Nat) :
    ty.put ((lowBits ty.width w.toNat / 2 ^ k : Nat) : Int) = ty.put (((w.toNat % 2 ^ ty.width : Nat) : Int) / 2 ^ k) := by
  rw [lowBits]; push_cast; rfl

/-- The lane that the low six bits of another name. -/
theorem getElem_lane (l : Lanes) (w : Lane) : l[(w.setWidth 6).toNat]'((w.setWidth 6).isLt) = l.toArray.getD (w.toNat % 64) 0 := by
  have hlt : w.toNat % 64 < 64 := Nat.mod_lt _ (by decide)
  simp [Array.getD, hlt]

/-- Settles O32: each form by the lanes that it gives (`lanewise_laneResult`). -/
theorem vectorLogic : Obligations.VectorLogic := by
  unfold Obligations.VectorLogic
  intro h m fmt vd v1 v2 v3 s hp
  have hp1 : s.noPorts [vd, v1] := fun v hv => hp v (by simp at hv ⊢; tauto)
  have hp2 : s.noPorts [vd, v1, v2] := fun v hv => hp v (by simp at hv ⊢; tauto)
  intro a b inn num n low all
  refine ⟨fun hi => ⟨fun c => ⟨fun hm => ?_, fun hm => ?_⟩, ?_, ?_, ?_, ?_, ?_, ?_, ?_⟩, fun hi => ?_, fun hi => ?_⟩
  · exact lanewise_laneResult hp2 hi rfl fun k => by simp only [cmpLane, hm, if_true]; rfl
  · exact lanewise_laneResult hp2 hi rfl fun k => by simp only [cmpLane, hm, if_false]; rfl
  · exact lanewise_laneResult hp2 hi rfl fun k => rfl
  · exact lanewise_laneResult hp2 hi rfl fun k => rfl
  · exact lanewise_laneResult hp2 hi rfl fun k => rfl
  · exact lanewise_laneResult hp2 hi rfl fun k => congrArg (·, 0) (put_shl fmt (a k) _)
  · exact lanewise_laneResult hp2 hi rfl fun k => congrArg (·, 0) (put_shr fmt (a k) _)
  · exact lanewise_laneResult hp2 hi rfl fun k => rfl
  · exact lanewise_laneResult hp2 hi rfl fun k => congrArg (·, 0) (getElem_lane (s.vval v1) (b k))
  · refine lanewise_laneResult hp hi rfl fun k => congrArg (·, 0) ?_
    simp only [bne_iff_ne, ne_eq, ite_not]
    rfl
  · exact lanewise_laneResult hp1 hi rfl fun k => rfl

end Sys2Proof.Machine
end

section
/-! Vector reductions, moves between lanes and registers, and `setvl`. -/

namespace Sys2Proof.Machine

/-- The integer of all bits of a vector of bits is its signed value. -/
theorem intOf_toNat {N : Nat} (x : BitVec N) : intOf true N x.toNat = x.toInt := by
  have hcast : ((2 ^ N : Nat) : Int) = 2 ^ N := by push_cast; rfl
  simp only [intOf, Nat.mod_eq_of_lt x.isLt, BitVec.toInt_eq_toNat_cond, Bool.true_and, decide_eq_true_eq, hcast]
  split <;> split <;> omega

theorem put_i32 (v : Int) : Fmt.i32.put v = BitVec.ofInt 32 v := by
  have hv : (v % 2 ^ Fmt.i32.width).toNat = (BitVec.ofInt 32 v).toNat := (BitVec.toNat_ofInt ..).symm
  rw [Fmt.put, hv]
  exact (congrArg _ (intOf_toNat (BitVec.ofInt 32 v))).trans BitVec.ofInt_toInt

/-- Without saturation the sum of .i32 wraps (R163). -/
theorem redsumStep_wraps {m : VMod} (hm : m.fmt = .i32) (hs : m.sat = false) (q y : Lane) : redsumStep m q y = (q + y, 0) := by
  have hq : Fmt.i32.laneOpnd q = q.toInt := intOf_toNat q
  have hy : Fmt.i32.laneOpnd y = y.toInt := intOf_toNat y
  simp only [redsumStep, hm, VMod.wrapped, Fmt.satInt, hs, reduceCtorEq, if_false, Bool.false_and, Bool.false_eq_true, put_i32, hq, hy, BitVec.ofInt_add,
    BitVec.ofInt_toInt]

theorem lane0_get (w : Lane) (j : Fin 64) : (lane0 w)[j] = if j.val = 0 then w else 0 := Vector.getElem_ofFn j.isLt

/-- Lanes without flags give none. -/
theorem active_noFlags (vl : Nat) (f : Fin 64 → Lane) : (active vl fun k => (f k, 0)).2 = 0 := by
  refine BitVec.eq_of_getLsbD_eq fun c _ => Bool.eq_iff_iff.2 ?_
  rw [active_flag]
  simp

/-- Two v fields that denote registers. -/
theorem plain_v_v {s : State} {vd v1 : BitVec 6} (hp : s.noPorts [vd, v1]) : ∀ g ∈ [Reg.v v1, .v vd], s.ctx.work.portOf g = none := by
  simpa [State.noPorts, Regs.portOf, and_comm] using hp

section moves
variable {s : State} {h : Hdr} {vd v1 x k : BitVec 6}

theorem vmov_writes (hp : s.noPorts [vd, v1]) (hi : s.mayIssue h [.v v1, .v vd]) :
    exec (.vmov h vd v1) s = .next (s.writes h 0x3E 2 (.v vd) [.v v1] (.lanes (s.vval v1)) 0) :=
  congrArg Host.Outcome.next (issueV_writes (rs := [.v v1]) 0x3E (plain_v_v hp) hi rfl)

theorem vins_writes (hp : s.noPorts [vd]) (hi : s.mayIssue h [.x x, .v vd, .v vd]) : exec (.vins h vd x k) s
    = .next (s.writes h 0x3B 2 (.v vd) [.x x, .v vd] (.lanes ((s.vval vd).set k.toNat ((s.xval x).setWidth 32) k.isLt)) 0) :=
  congrArg Host.Outcome.next (issueV_writes (rs := [.x x, .v vd]) 0x3B (by simpa [State.noPorts, Regs.portOf] using hp) hi rfl)

theorem vext_writes (hp : s.noPorts [v1]) (hi : s.mayIssue h [.v v1, .x x]) (fmt : Fmt) : exec (.vext h fmt x v1 k) s
    = .next (s.writes h 0x3A 2 (.x x) [.v v1] (.word (BitVec.ofInt 64 (fmt.laneOpnd ((s.vval v1)[k.toNat]'(k.isLt))))) 0) :=
  congrArg Host.Outcome.next (issueV_writes (rs := [.v v1]) 0x3A (by simpa [State.noPorts, Regs.portOf] using hp) hi rfl)

theorem vbcast_writes (hp : s.noPorts [vd]) (hi : s.mayIssue h [.x x, .v vd]) : exec (.vbcast h vd x) s
    = .next (s.writes h 0x39 2 (.v vd) [.x x] (.lanes (active s.vl fun _ => ((s.xval x).setWidth 32, 0)).1) 0) := by
  have hw := issueV_writes (rs := [.x x]) (d := .v vd) 0x39 (by simpa [State.noPorts, Regs.portOf] using hp) hi
    (body := fun r => laneRes 2 (active r.vl.toNat fun _ => ((r.getX x).val.setWidth 32, 0))) rfl
  rw [active_noFlags] at hw
  exact congrArg Host.Outcome.next hw

/-- A count clamped to 1 to 64. -/
theorem vlOf_eq (v : Word) : vlOf v = BitVec.ofNat 64 (max 1 (min 64 v.toNat)) := by
  unfold vlOf
  split
  · next h => subst h; rfl
  · next h =>
    have hpos : 0 < v.toNat := Nat.pos_of_ne_zero fun h0 => h (BitVec.eq_of_toNat_eq h0)
    split
    · next h64 => rw [min_eq_left h64.le]; rfl
    · next h64 => rw [min_eq_right (not_lt.1 h64), max_eq_right hpos, BitVec.ofNat_toNat, BitVec.setWidth_eq]

theorem setvl_flies (hi : s.mayIssue h [.x x]) : exec (.setvl h x) s
    = .next (s.inFlight 1 .vl (.word (BitVec.ofNat 64 (max 1 (min 64 (s.xval x).toNat)))) 0 false 0) := by
  rw [← vlOf_eq]
  exact congrArg Host.Outcome.next (issue_none (rs := [.x x]) hi _)

/-- A reduction writes its fold over the active lanes, in lane 0. -/
theorem reduction_writes {i : Instr} {major : BitVec 8} {op : RedOp} {id0 : Lane} {f : Lane → Lane → Lane × Flags} (hp : s.noPorts [vd, v1])
    (hi : s.mayIssue h [.v v1, .v vd]) (hid : redIdentity op = id0)
    (hx : exec i s = .next (s.issueV (formV h major vd [v1]) fun r =>
      let q := reduceLanes r.vl.toNat (r.lanes v1) (redIdentity op) f
      laneRes 12 (lane0 q.1, q.2))) :
    let r := ((s.vval v1).toList.take s.vl).foldl (fun q y => ((f q.1 y).1, q.2 ||| (f q.1 y).2)) (id0, (0 : Flags))
    ∃ l : Lanes, exec i s = .next (s.writes h major 12 (.v vd) [.v v1] (.lanes l) r.2) ∧ ∀ j : Fin 64, l[j] = if j.val = 0 then r.1 else 0 := by
  subst hid
  exact ⟨_, hx.trans (congrArg Host.Outcome.next (issueV_writes (rs := [.v v1]) major (plain_v_v hp) hi rfl)), fun j => lane0_get _ j⟩

end moves

/-- Settles O34: each form writes its one result (`issueV_writes`), the reductions by their fold. -/
theorem vectorMoves : Obligations.VectorMoves := by
  unfold Obligations.VectorMoves
  intro h m fmt vd v1 x k s w ls reduced
  refine ⟨fun hp hi => ⟨?_, ?_, redsumStep_wraps, fun hm q y => if_neg hm, vmov_writes hp hi⟩,
    fun hp => ⟨fun hi => ⟨_, vbcast_writes hp hi, fun j => active_lane j⟩, vins_writes hp, fun hi => lanewise_laneResult (vs := []) hp hi rfl fun j => rfl⟩,
    fun hp hi => vext_writes hp hi fmt, setvl_flies⟩
  · exact reduction_writes hp hi (apply_ite redIdentity (m.fmt = .f32) .fadd .iadd) rfl
  · exact reduction_writes hp hi (apply_ite redIdentity (m.fmt = .f32) .fmax .imax) rfl

end Sys2Proof.Machine
end

section
/-! Narrowing with more lanes active than there are, against the statement about vector conversions. -/

namespace Sys2Proof.Machine

/-- Lanes behind the bytes packed are zero. -/
theorem packLanes_behind {bs : List Byte} {i : Fin 64} (h : bs.length ≤ 4 * i.val) : (packLanes bs)[i] = 0 := by
  simp only [packLanes, Fin.getElem_fin, Vector.getElem_ofFn, List.drop_eq_nil_of_le h, List.take_nil]
  rfl

/-- The elements that an unscaled `vnarrow` makes of the active ones of the 64 lanes. -/
def narrowed (m : VMod) (sf : Fmt) (vl : Nat) (l : Lanes) : List (Lane × Flags) :=
  ((List.finRange 64).take vl).map fun k => narrowElem m sf k.val l[k] none

/-- The bytes of such elements. -/
def narrowedBytes (m : VMod) (es : List (Lane × Flags)) : List Byte := es.flatMap fun e => leBytes (m.fmt.width / 8) e.1.toNat

theorem narrowedBytes_length (m : VMod) (sf : Fmt) (vl : Nat) (l : Lanes) :
    (narrowedBytes m (narrowed m sf vl l)).length = min vl 64 * (m.fmt.width / 8) := by
  rw [narrowedBytes, flatMap_length _ _ fun e _ => leBytes_length _ _, narrowed, List.length_map, List.length_take, List.length_finRange]

theorem vnarrow_writes {s : State} {h : Hdr} {vd v1 : BitVec 6} (hp : s.noPorts [vd, v1]) (hi : s.mayIssue h [.v v1, .v vd]) (m : VMod) (sf : Fmt) :
    let es := narrowed m sf s.vl (s.vval v1)
    exec (.vnarrow h m sf vd v1 none) s
      = .next (s.writes h 0x21 4 (.v vd) [.v v1] (.lanes (packLanes (narrowedBytes m es))) (Flags.all (es.map (·.2)))) :=
  congrArg Host.Outcome.next (issueV_writes (rs := [.v v1]) 0x21 (plain_v_v hp) hi rfl)

/-- Narrowing to bytes. -/
def toBytes : VMod := ⟨.i8, .rne, false, false, false⟩

/-- State.reset with vl = 65 and the lanes of v1 all 1. -/
def overlong : State :=
  { State.reset with ctx := { Ctx.reset with
      work := { Regs.reset with v := Regs.reset.v.set 1 ⟨Vector.replicate 64 1, 0, false⟩, vl := 65 } } }

theorem overlong_noPorts : overlong.noPorts [2, 1, 0] := by
  simp only [State.noPorts, List.forall_mem_cons]
  decide

/-- Its v1 narrowed to bytes fills 16 lanes; the next is zero. -/
theorem overlong_narrowed : (packLanes (narrowedBytes toBytes (narrowed toBytes .i32 overlong.vl (overlong.vval 1))))[(16 : Fin 64)] = 0 :=
  packLanes_behind (narrowedBytes_length ..).le

/-- Refutes O33: with vl = 65, which the seven bits of vl can hold, `vnarrow` to bytes packs the 64 lanes that there are, and byte 64 is zero.
The statement bounds the bytes by vl × b ≤ 256 alone, and has lane 0 once more there (`Fin.ofNat 64 64`). -/
theorem not_vectorConversions : ¬Obligations.VectorConversions := by
  unfold Obligations.VectorConversions
  intro h
  have hi : overlong.mayIssue ⟨.V, 0, false⟩ [.v 1, .v 2] := ⟨rfl, rfl⟩
  obtain ⟨hone, -⟩ := h ⟨.V, 0, false⟩ toBytes .i32 2 1 0 overlong overlong_noPorts
  obtain ⟨-, -, -, hnarrow⟩ := hone hi
  obtain ⟨l, fl, hx, hbytes, -⟩ := hnarrow (by decide) (by decide) (by decide)
  have hw := vnarrow_writes (fun v hv => overlong_noPorts v (by simp at hv ⊢; tauto)) hi toBytes .i32
  have hl := Payload.lanes.inj (writes_inj (Host.Outcome.next.inj (hx.symm.trans hw)))
  have hzero : l.toArray.getD (64 / 4) 0 = 0 := by
    rw [hl]
    exact (getElem_lane _ 16).symm.trans overlong_narrowed
  have hbyte := hbytes 64 (by decide)
  rw [hzero] at hbyte
  exact absurd hbyte (by decide +kernel)

end Sys2Proof.Machine
end

section
/-! The lineage forms (R184 to R187). -/

namespace Sys2Proof.Machine

theorem and_lowByte (w : Word) : w &&& 0xFF = (w.setWidth 8).setWidth 64 := by
  refine BitVec.eq_of_toNat_eq ?_
  rw [BitVec.toNat_and, BitVec.toNat_setWidth, BitVec.toNat_setWidth, show (0xFF : Word).toNat = 2 ^ 8 - 1 from rfl, Nat.and_two_pow_sub_one_eq_mod]
  omega

/-- `ltag` names a register of its file: an accumulator, if one, of the allotment (R68, R185). -/
theorem ltag_lacks {file : TagFile} {s1 : BitVec 6} {r : Regs} (hf : file = .a → s1.toNat < r.acc.length) : (file == .a && r.lacksAcc s1.toNat) = false := by
  cases file
  case a => simpa [Regs.lacksAcc] using hf rfl
  all_goals rfl

/-- `lseed` writes a tag alone and folds the seed itself (R186). -/
theorem lseed_gives {h : Hdr} {vec : Bool} {d : BitVec 6} (i : Imm) {s : State} (hi : s.mayIssue h [if vec then .v d else .x d]) :
    exec (.lseed h vec d i) s = .next ((s.foldedBy ((i.value false).setWidth 32)).inFlight 1 (if vec then .tagV (s.ctx.work.physV d) else .tagX d) .tagOnly
      ((i.value false).setWidth 32) false 0) := by
  refine congrArg Host.Outcome.next ?_
  simp only [hi.2, Option.isSome_none, Bool.false_eq_true, if_false, issue_none hi, folded_one]
  rfl

/-- A form whose effect leaves `t`, with the context as it was, writes its one result on `t`. -/
theorem issue_one_clean_of {s t : State} (ht : t.ctx = s.ctx) {h : Hdr} {major : BitVec 8} {rs : List Reg} {d : Reg} (hi : s.mayIssue h (rs ++ [d]))
    (lat : Nat) (pay : Payload) (fl : Flags) :
    s.issue { h := h, major := major, srcs := rs, dests := [d], clean := true } false (t.gives lat pay fl) = t.writesClean h major lat d rs pay fl := by
  have hi' : t.mayIssue h (rs ++ [d]) := by rwa [State.mayIssue, ht]
  rw [← issue_one_clean hi' lat pay fl]
  rw [State.gives, issue_ok _ (by simpa [Form.regs] using hi.2) hi.1, issue_ok _ (by simpa [Form.regs] using hi'.2) hi'.1, ht]

/-- `ltag.g` reads the tag word of a granule of the pool, in which no copy is under way (R185). -/
theorem ltagG_gives {h : Hdr} {d s1 : BitVec 6} {off : BitVec 16} {s : State} {o : Nat} (ho : ((s.xval s1).setWidth 22 + off.signExtend 22).toNat = o)
    (hi : s.mayIssue h [.x s1, .x d]) (hp : s.inPad o 1 = true) (hr : s.readHeld [(o, 1)] = false) :
    exec (.ltagG h d s1 off) s
      = .next ((s.loadsGranules o 1).writesClean h 0x62 5 (.x d) [.x s1] (.word (s.tagWord s.who.pad o)) 0) := by
  refine congrArg Host.Outcome.next ?_
  simp only [ho, hp, hr, Bool.not_true, Bool.false_eq_true, if_false]
  exact issue_one_clean_of (s := s) (t := s.loadsGranules o 1) rfl hi ..

/-- Settles O13: each form writes one result (`issue_one_clean`, `issue_none`), `ltag.g` behind the granule that it reads. -/
theorem lineageForms : Obligations.LineageForms := by
  unfold Obligations.LineageForms
  refine fun h d3 d s1 imm i file off s => ⟨fun hi => ?_, lseed_gives (vec := false) i, lseed_gives (vec := true) i, fun hi hf => ?_,
    ?_, fun hi => ?_⟩
  · refine congrArg Host.Outcome.next ((issue_none hi _).trans ?_)
    rw [and_lowByte]
    rfl
  · refine congrArg Host.Outcome.next ?_
    rw [ltag_lacks hf]
    exact issue_one_clean hi ..
  · intro o hi hp hr
    exact ltagG_gives rfl hi hp hr
  · exact congrArg Host.Outcome.next (issue_one_clean (rs := []) hi ..)

end Sys2Proof.Machine
end

section
/-! The read-modify-write forms. -/

namespace Sys2Proof.Machine

theorem rmwForms_exec {e : (Hdr → Rmw → Instr) × BitVec 8 × RmwOp} (he : e ∈ rmwForms) (h : Hdr) (o : Rmw) (s : State) :
    exec (e.1 h o) s = .next (s.rmw h e.2.1 e.2.2 o) := by
  simp only [rmwForms, List.mem_cons, List.not_mem_nil, or_false] at he
  rcases he with rfl | rfl | rfl | rfl | rfl | rfl | rfl | rfl | rfl | rfl | rfl | rfl <;> rfl

theorem readsXs_iff (op : RmwOp) : readsXs op = true ↔ RmwOp.takesXs op := by
  cases op <;> simp [readsXs, RmwOp.takesXs]

/-- The tag sources of a read-modify-write form (R171). -/
def rmwSources (o : Rmw) (op : RmwOp) : List Reg := if readsXs op then [.x o.rd, .x o.xs] else [.x o.rd]

/-- The tag that such a form writes at its home: that of R168 with a contribution of 0. -/
def State.rmwTag (s : State) (h : Hdr) (major : BitVec 8) (op : RmwOp) (o : Rmw) : Tag :=
  destTag h major 0 (s.ctx.work.tagOf (.x o.rd)) (if readsXs op then s.ctx.work.tagOf (.x o.xs) else 0) 0

/-- What such a form performs at its home. -/
def State.rmwAsks (s : State) (h : Hdr) (major : BitVec 8) (op : RmwOp) (o : Rmw) : Access :=
  .rmw op o.ty (s.xval o.rd) (if readsXs op then s.xval o.xs else 0) (op == .fadd && o.xs.getLsbD 1) (op == .fadd && o.xs.getLsbD 0) o.ret
    (s.rmwTag h major op o) s.ctx.work.ws (s.poisonFrom h (rmwSources o op ++ [.x o.xb]))

theorem rmwShape_poison (s : State) (h : Hdr) (major : BitVec 8) (op : RmwOp) (o : Rmw) :
    (rmwShape h major op o).poison s.ctx.work = s.poisonFrom h (rmwSources o op ++ [.x o.xb]) := by
  simp only [Form.poison, rmwShape, Option.toList, List.append_nil, rmwSources]
  rfl

theorem rmwShape_tag (s : State) (h : Hdr) (major : BitVec 8) (op : RmwOp) (o : Rmw) :
    (rmwShape h major op o).tag s.ctx.work 0 0 = s.rmwTag h major op o := by
  cases hx : readsXs op <;> simp [Form.tag, rmwShape, State.rmwTag, destTag, hx]

theorem rmwAccess_eq (s : State) (h : Hdr) (major : BitVec 8) (op : RmwOp) (o : Rmw) :
    s.rmwAccess (rmwShape h major op o) op o = s.rmwAsks h major op o := by
  rw [State.rmwAccess, rmwShape_tag, rmwShape_poison, State.rmwAsks]

/-- The command of such a form, entered in the list of its block; a returning one awaits the old value from the commit on (R232, R35). -/
theorem rmwCommand_eq (s : State) (o : Rmw) (l : Leg) (here : Bool) (a : Access) (p : Bool) :
    s.rmwCommand o l here a p = { s with
      nextId := s.nextId + 1
      ctx := { s.ctx with cur := { s.ctx.cur with
        cmds := s.ctx.cur.cmds ++ [⟨s.iss.addr, .send ⟨s.who, if here then .bank s.who.site else dstOf l.home l.off, true, false, !here && !o.ret,
          s.asking l (if here && !o.ret then 0 else s.nextId) a⟩⟩]
        ncmds := s.ctx.cur.ncmds + 1
        rets := s.ctx.cur.rets ++ if o.ret then [⟨s.nextId, if here then .none else .msg, [.x o.rd], .word, p, 0, s.ctx.cur.seq, false, none⟩] else [] } } } := by
  cases hr : o.ret <;> cases here <;> simp [State.rmwCommand, hr] <;> rfl

/-- Its one fold step on what it leaves (R171). -/
theorem rmw_folds {s : State} {h : Hdr} {op : RmwOp} {o : Rmw} (hi : s.mayIssue h (rmwSources o op ++ [.x o.xb, .x o.rd])) (major : BitVec 8) (t : State) :
    s.issue (rmwShape h major op o) false (.ok { s := t }) = t.foldedBy (s.rmwTag h major op o) := by
  refine (away_of (rs := rmwSources o op) (also := [.x o.xb]) (by simpa using hi) t false).trans ?_
  cases hx : readsXs op <;> simp [rmwSources, State.rmwTag, hx]

/-- A read-modify-write form of the tile's own pool (R232). -/
theorem rmw_here {s : State} {h : Hdr} {op : RmwOp} {o : Rmw} {ea : Word} {n : Nat} (he : s.xval o.xb + o.off.signExtend 64 = ea) (hb : o.ty.width / 8 = n)
    (hi : s.mayIssue h (rmwSources o op ++ [.x o.xb, .x o.rd])) (hn : s.ctx.cur.ncmds < 32) (major : BitVec 8)
    (hs : o.space = .loc) (hl : s.localOk ea n n) (hw : s.writeHeld [(localOff ea, n)] = false) :
    s.rmw h major op o = ((s.rmwCommand o ⟨0, n, s.who.pad, localOff ea, false, false, ea, none⟩ true (s.rmwAsks h major op o)
      (s.poisonFrom h (rmwSources o op ++ [.x o.xb]))).digests o.space ea (leBytes n (s.xval o.rd).toNat)).foldedBy (s.rmwTag h major op o) := by
  simp only [State.rmw, he, hb, hs, locate_loc _ hl, checked, cmdFull_none hn, hw, Bool.false_eq_true, if_false, List.findSome?, id_eq]
  rw [rmw_folds hi, rmwAccess_eq, rmwShape_poison]

/-- One that leaves the tile (R232, R207, R227). -/
theorem rmw_leaves {s : State} {h : Hdr} {op : RmwOp} {o : Rmw} {ea : Word} {n : Nat} (he : s.xval o.xb + o.off.signExtend 64 = ea) (hb : o.ty.width / 8 = n)
    (hi : s.mayIssue h (rmwSources o op ++ [.x o.xb, .x o.rd])) (hn : s.ctx.cur.ncmds < 32) (major : BitVec 8)
    {l : Leg} (hm : s.msgs < 32) (hl : s.locate o.space ea n n .both = .ok (.away [l])) :
    let p := s.poisonFrom h (rmwSources o op ++ [.x o.xb])
    s.rmw h major op o = (((((if p && l.crosses then s.tainted else s).walks [l]).rmwCommand o l false (s.rmwAsks h major op o) p).digests o.space ea
      (leBytes n (s.xval o.rd).toNat))).foldedBy (s.rmwTag h major op o) := by
  simp only [State.rmw, he, hb, hl, checked, cmdFull_none hn, msgFull_none hm, List.findSome?, id_eq]
  rw [rmw_folds hi, rmwAccess_eq, rmwShape_poison]

/-- Settles O20: each form lists one command (`rmwCommand_eq`) and folds one step (`rmw_folds`), in its tile (`rmw_here`) or out of it (`rmw_leaves`). -/
theorem readModifyWriteForms : Obligations.ReadModifyWriteForms := by
  unfold Obligations.ReadModifyWriteForms
  intro e he h o s n ea xs rs e3 t3 hrs
  obtain ⟨rfl, rfl, rfl⟩ : rs = rmwSources o e.2.2 ∧ e3 = (if readsXs e.2.2 then s.xval o.xs else 0)
      ∧ t3 = (if readsXs e.2.2 then s.ctx.work.tagOf (.x o.xs) else 0) := by
    have hx : readsXs e.2.2 = true ↔ xs := readsXs_iff e.2.2
    rcases hrs with ⟨hy, hr⟩ | ⟨hy, hr⟩ <;> simpa [rmwSources, hx, hy] using hr
  intro tag p asks leaves hi hn
  rw [rmwForms_exec he]
  refine ⟨fun hs hl hw => congrArg Host.Outcome.next ?_, fun l hm hl => congrArg Host.Outcome.next ?_⟩
  · rw [rmw_here rfl rfl hi hn _ hs hl hw, rmwCommand_eq]
    cases hr : o.ret <;> simp only [leaves, hr, List.append_nil] <;> rfl
  · rw [rmw_leaves rfl rfl hi hn _ hm hl, taintIf_eq, walks_eq, rmwCommand_eq]
    simp only [List.flatMap_singleton]
    rfl

end Sys2Proof.Machine
end

section
/-! The lineage trap of a block that fails its assay twice (R179, R180). -/

namespace Sys2Proof.Machine

/-! ## What a charge leaves of the context in focus (R181, R182) -/

/-- `t` has the context of `s` in focus, which may have been asked to leave at its next safe point. -/
def State.asksOnly (s t : State) : Prop := ∃ p, t.ctx = { s.ctx with preempt := p }

theorem asksOnly_of_ctx {s t : State} (h : t.ctx = s.ctx) : s.asksOnly t := ⟨s.ctx.preempt, h⟩

theorem asksOnly_trans {s t u : State} : s.asksOnly t → t.asksOnly u → s.asksOnly u := by
  rintro ⟨p, hp⟩ ⟨q, hq⟩
  exact ⟨q, by rw [hq, hp]⟩

theorem askLeave_asksOnly (s : State) (c : Src) : s.asksOnly (s.askLeave c) := by
  have h : s.asksOnly (s.setCtx c { s.getCtx c with preempt := true }) := by
    by_cases hc : c = s.who
    · subst hc
      exact ⟨true, by simp [State.setCtx, State.getCtx]⟩
    · exact asksOnly_of_ctx (by simp [State.setCtx, hc])
  unfold State.askLeave
  simp only
  split
  · split
    · exact h
    · exact h
  · exact asksOnly_of_ctx rfl

theorem vacate_asksOnly (s : State) (site : Nat) : s.asksOnly (s.vacate site) :=
  asksOnly_trans (asksOnly_trans (askLeave_asksOnly ..) (askLeave_asksOnly ..)) (askLeave_asksOnly ..)

theorem charge_asksOnly (s : State) (site : Nat) (transfer : Bool) : s.asksOnly (s.charge site transfer) := by
  have hretire (u : State) : u.asksOnly (u.checkRetire site) := by
    unfold State.checkRetire
    simp only
    split
    · exact asksOnly_trans (asksOnly_of_ctx (by rw [report_ctx, State.setTile_ctx])) (vacate_asksOnly _ site)
    · exact asksOnly_of_ctx rfl
  unfold State.charge
  split
  · exact asksOnly_of_ctx rfl
  · exact asksOnly_trans (asksOnly_of_ctx (State.setTile_ctx ..)) (hretire _)

theorem tallyJob_ctx (s : State) (c : Src) (f : JobTally → JobTally) : (s.tallyJob c f).ctx = s.ctx := by
  unfold State.tallyJob
  split
  · rfl
  · split <;> rfl

/-! ## The lineage trap (R179, R180) -/

/-- A trap of a context outside a handler that is installed records its cause and value (R116). -/
theorem takeTrap_records {s u : State} (hu : s.asksOnly u) (hv : s.ctx.comm.tvec.getLsbD 0 = true) (hi : s.ctx.ih = false) (b : Block) (t : Trap) :
    (u.takeTrap b t).ctx.cause = t.word ∧ (u.takeTrap b t).ctx.tval = t.tval := by
  obtain ⟨p, hp⟩ := hu
  have hf : u.ctx.isFatal t = false := by simp [Ctx.isFatal, Ctx.hasHandler, hp, hv, hi]
  have hih : u.ctx.ih = false := by rw [hp, hi]
  simp only [State.takeTrap, hf, hih, Bool.false_eq_true, if_false]
  exact ⟨rfl, rfl⟩

/-- A block that fails its assay at its second run, its successor listed, traps with cause 0x18 (R179, R180). -/
theorem failAssay_lineage {s : State} {x : Closing} (hr : x.blk.rerun = true) (hv : s.ctx.comm.tvec.getLsbD 0 = true) (hi : s.ctx.ih = false)
    (next : Word) :
    let u := s.failAssay x next true
    (∀ off w, x.blk.stale = some (off, w) → u.ctx.cause = (Trap.mk false 0x18 0x01 0 0).word ∧ u.ctx.tval = w ++ BitVec.ofNat 22 off ++ x.blk.lf)
    ∧ (x.blk.stale = none → u.ctx.cause = (Trap.mk false 0x18 0x02 0 0).word
      ∧ u.ctx.tval = BitVec.ofNat 10 s.who.site ++ (0 : BitVec 22) ++ x.blk.lf) := by
  refine ⟨fun off w hs => ?_, fun hs => ?_⟩
  · simp only [State.failAssay, hr, hs, Bool.not_true, Bool.false_eq_true, if_false]
    exact takeTrap_records (asksOnly_of_ctx (by rw [tallyJob_ctx, State.send_ctx])) hv hi ..
  · simp only [State.failAssay, hr, hs, Bool.not_true, Bool.false_eq_true, if_false]
    exact takeTrap_records (asksOnly_trans (asksOnly_of_ctx (tallyJob_ctx ..)) (charge_asksOnly ..)) hv hi ..

/-- The assay of a block without taint that leaves otherwise than through an `eret` (R178). -/
theorem assay_moves {s : State} {x : Closing} {rest : List Closing} (hc : s.ctx.closings = x :: rest) (ht : x.blk.taint = none) (hx : x.blk.xfer ≠ .eret) :
    s.assay = if x.listed && x.blk.lf == x.hall.setWidth 32 then s.commitBlock x rest (x.work.landAll x.inflight) else s.failAssay x x.next x.listed := by
  simp only [State.assay, hc, ht]

/-- BLOCK_COMMIT, where no translation and no replay holds it, assays a block that does not return (R33). -/
theorem blockCommit_assays {s : State} {x : Closing} {rest : List Closing} (hc : s.ctx.closings = x :: rest) (hw : s.walking = false)
    (hp : s.tile.replayLeft = 0) (hx : x.blk.xfer ≠ .eret) : exec .blockCommit s = .next s.assay := by
  have hr : s.ctx.returning = false := by
    cases rest <;> simp [Ctx.returning, hc, hx]
  refine congrArg Host.Outcome.next ?_
  simp [hw, hp, hr]

/-- The fields of a value of the layout of R180. -/
theorem lineageValue_fields (site : BitVec 10) (off : BitVec 22) (lf : BitVec 32) :
    (site ++ off ++ lf).extractLsb' 0 32 = lf ∧ (site ++ off ++ lf).extractLsb' 32 22 = off ∧ (site ++ off ++ lf).extractLsb' 54 10 = site := by
  refine ⟨?_, ?_, ?_⟩
  · ext i hi
    rw [BitVec.getElem_extractLsb', BitVec.getLsbD_append]
    simp [hi]
  · ext i hi
    rw [BitVec.getElem_extractLsb', BitVec.getLsbD_append, BitVec.getLsbD_append]
    simp [hi]
  · ext i hi
    rw [BitVec.getElem_extractLsb', BitVec.getLsbD_append, BitVec.getLsbD_append]
    rw [if_neg (by omega), if_neg (by omega), show 54 + i - 32 - 22 = i by omega, BitVec.getLsbD_eq_getElem hi]

/-- Settles O58: the assay fails at the second run, and the trap records what `failAssay_lineage` says. -/
theorem lineageTrapValue : Obligations.LineageTrapValue := by
  unfold Obligations.LineageTrapValue
  intro x rest s hc hw hp ht hx hr hl hf hv hi
  have hassay : s.assay = s.failAssay x x.next true := by
    rw [assay_moves hc ht hx, hl, if_neg (by simpa using hf)]
  obtain ⟨hstale, hfresh⟩ := failAssay_lineage hr hv hi x.next
  refine ⟨_, blockCommit_assays hc hw hp hx, ?_⟩
  rw [hassay]
  cases hs : x.blk.stale with
  | some y =>
    obtain ⟨hcause, htval⟩ := hstale y.1 y.2 hs
    obtain ⟨hlf, hoff, hsite⟩ := lineageValue_fields y.2 (BitVec.ofNat 22 y.1) x.blk.lf
    rw [hcause, htval]
    refine ⟨by decide, hlf, ?_, nofun⟩
    rintro off w ⟨⟩
    exact ⟨by decide, hsite, hoff⟩
  | none =>
    obtain ⟨hcause, htval⟩ := hfresh hs
    obtain ⟨hlf, hoff, hsite⟩ := lineageValue_fields (BitVec.ofNat 10 s.who.site) 0 x.blk.lf
    rw [hcause, htval]
    exact ⟨by decide, hlf, nofun, fun _ => ⟨by decide, hsite, hoff⟩⟩

end Sys2Proof.Machine
end

section
/-! Copies: what an operation leaves of the copies at work, and copies that are suspended, fail or are compared (R208, R229, R242 to R244). -/

namespace Sys2Proof.Machine

/-! ## What leaves the copies at work as they are -/

/-- `t` has the phasers, the mesh map and the copies of `s`, and its work but for messages behind. -/
structure State.sameCopies (s t : State) : Prop where
  phasers : t.phasers = s.phasers
  mesh : t.mesh = s.mesh
  jobs : ∀ n, (t.getTile n).jobs = (s.getTile n).jobs
  work : ∀ w ∈ s.work, w ∈ t.work

theorem sameCopies_refl (s : State) : s.sameCopies s := ⟨rfl, rfl, fun _ => rfl, fun _ h => h⟩

theorem sameCopies_trans {s t u : State} (h : s.sameCopies t) (g : t.sameCopies u) : s.sameCopies u :=
  ⟨g.phasers.trans h.phasers, g.mesh.trans h.mesh, fun n => (g.jobs n).trans (h.jobs n), fun w m => g.work w (h.work w m)⟩

theorem foldl_sameCopies {α : Type} {f : State → α → State} (hf : ∀ (s : State) x, s.sameCopies (f s x)) (l : List α) :
    ∀ s : State, s.sameCopies (l.foldl f s) := by
  induction l with
  | nil => exact sameCopies_refl
  | cons x l ih => exact fun s => sameCopies_trans (hf s x) (ih _)

theorem job?_congr {s t : State} {site : Nat} (h : (t.getTile site).jobs = (s.getTile site).jobs) (id : Nat) : t.job? site id = s.job? site id := by
  rw [State.job?, h, State.job?]

theorem send_sameCopies (s : State) (w : Work) : s.sameCopies (s.send w) := ⟨rfl, rfl, fun _ => rfl, fun _ h => List.mem_append_left _ h⟩

theorem modCtx_sameCopies (s : State) (c : Src) (f : Ctx → Ctx) : s.sameCopies (s.modCtx c f) :=
  ⟨State.setCtx_phasers .., State.setCtx_mesh .., fun _ => by rw [State.modCtx, getTile_setCtx], fun w h => by rw [State.modCtx, State.setCtx_work]; exact h⟩

theorem modTile_sameCopies {f : Tile → Tile} (hf : ∀ t, (f t).jobs = t.jobs) (s : State) (n : Nat) : s.sameCopies (s.modTile n f) :=
  ⟨State.setTile_phasers .., State.setTile_mesh .., modTile_field Tile.jobs hf s n, fun w h => by rw [State.modTile, State.setTile_work]; exact h⟩

theorem useBanks_sameCopies (s : State) (h : Home) (off n : Nat) : s.sameCopies (s.useBanks h off n) := by
  unfold State.useBanks
  split
  · exact modTile_sameCopies (by exact fun _ => rfl) s _
  · exact sameCopies_refl s

theorem postTrap_sameCopies (s : State) (c : Src) (x : ATrap) : s.sameCopies (s.postTrap c x) := by
  have h := modCtx_sameCopies s c fun y => { y with traps := y.traps ++ [x], heldBit := y.heldBit || y.ih }
  unfold State.postTrap
  dsimp only
  split
  · exact sameCopies_trans h (send_sameCopies ..)
  · exact h

theorem carried_eq (s : State) (h : Home) : s.carried h = { s with links := (s.carried h).links } := by
  cases h <;> rfl

theorem carried_sameCopies (s : State) (h : Home) : s.sameCopies (s.carried h) := by
  rw [carried_eq]
  exact ⟨rfl, rfl, fun _ => rfl, fun _ h => h⟩

theorem asked_sameCopies (s : State) (h : Home) : s.sameCopies (s.asked h) := by
  rw [asked_eq]
  exact ⟨rfl, rfl, fun _ => rfl, fun _ h => h⟩

/-! ## Updates of copies (R216) -/

theorem modJob_jobs (s : State) (site id : Nat) (f : Job → Job) :
    ((s.modJob site id f).getTile site).jobs = (s.getTile site).jobs.map fun j => if j.id = id then f j else j := by
  rw [State.modJob, getTile_modTile, if_pos rfl]

theorem retireJob_jobs (s : State) (site id : Nat) :
    ((s.retireJob site id).getTile site).jobs = (s.getTile site).jobs.filter (·.id != id) := by
  rw [State.retireJob, getTile_modTile, if_pos rfl]

theorem job?_id {s : State} {site id : Nat} {j : Job} (h : s.job? site id = some j) : j.id = id := by
  simpa using List.find?_some h

/-- Copies dropped one after another are gone, and no other comes in. -/
theorem foldl_drops {site : Nat} {f : State → Job → State}
    (hf : ∀ (s : State) j, ((f s j).getTile site).jobs = (s.getTile site).jobs.filter (·.id != j.id)) (js : List Job) :
    ∀ s : State, ∀ x ∈ ((js.foldl f s).getTile site).jobs, x ∈ (s.getTile site).jobs ∧ ∀ j ∈ js, x.id ≠ j.id := by
  induction js with
  | nil => exact fun s x hx => ⟨hx, by simp⟩
  | cons j js ih =>
    intro s x hx
    obtain ⟨hin, hne⟩ := ih _ x hx
    rw [hf, List.mem_filter] at hin
    exact ⟨hin.1, List.forall_mem_cons.2 ⟨by simpa using hin.2, hne⟩⟩

/-- A command of a chain that runs again (R244). -/
def Job.restart (j : Job) : Job := { j with pos := 0, sum := (0, 0) }

theorem foldl_restart_jobs (site : Nat) (js : List Job) : ∀ s : State,
    ((js.foldl (fun s j => s.modJob site j.id Job.restart) s).getTile site).jobs
      = (s.getTile site).jobs.map fun x => if ∃ j ∈ js, j.id = x.id then x.restart else x := by
  induction js with
  | nil => intro s; simp
  | cons j js ih =>
    intro s
    rw [List.foldl_cons, ih, modJob_jobs, List.map_map]
    refine List.map_congr_left fun x _ => ?_
    by_cases h1 : x.id = j.id
    · simp only [Function.comp_apply, h1, if_true, List.mem_cons, exists_eq_or_imp, true_or]
      split <;> rfl
    · simp only [Function.comp_apply, h1, if_false, List.mem_cons, exists_eq_or_imp, Ne.symm h1, false_or]

/-! ## Bytes counted down (R239, R355) -/

theorem countDown_eq (s : State) (m : PhMsg) (n : Nat) : ∃ ps ws, s.countDown m n = { s with phasers := ps, work := s.work ++ ws } := by
  unfold State.countDown
  dsimp only
  split
  · unfold State.completePhaser
    split
    · exact ⟨_, _, rfl⟩
    · exact ⟨_, [], by rw [List.append_nil]; rfl⟩
  · exact ⟨s.phasers, [], by simp⟩

/-- The phasers after a countdown are said by the phasers and the mesh map. -/
theorem countDown_phasers {s t : State} (hp : t.phasers = s.phasers) (hm : t.mesh = s.mesh) (m : PhMsg) (n : Nat) :
    (t.countDown m n).phasers = (s.countDown m n).phasers := by
  have hat (k : Nat) : t.meshAt k = s.meshAt k := by rw [State.meshAt, hm, State.meshAt]
  have hsite (l : Nat) : t.siteOf l = s.siteOf l := by simp only [State.siteOf, hat]
  have hnow : t.phNow m = s.phNow m := by simp only [State.phNow, hsite]
  have hlog (k : Nat) : t.logicalOf k = s.logicalOf k := by rw [State.logicalOf, hat, State.logicalOf]
  have hph (k i : Nat) : t.phaser k i = s.phaser k i := by simp only [State.phaser, hp]
  simp only [State.countDown, hnow, hlog, hph]
  split
  · simp only [State.completePhaser]
    split <;> simp [State.setPhaser, hp, State.sendAll]
  · exact hp

/-! ## Error arrivals (R239, R244) -/

theorem depart_errorWork (s : State) (m : PhMsg) (n : Nat) : s.depart (errorWork m n) = s.send (errorWork (s.phNow m) n) := by
  have hsrc : (s.phNow m).src = m.src := by
    unfold State.phNow
    split
    · split <;> rfl
    · rfl
  simp only [State.depart, State.routed, errorWork, hsrc]

/-- Error arrivals for some phasers, one after another. -/
theorem foldl_depart_errors (n : PhMsg → Nat) (ms : List PhMsg) : ∀ s : State,
    ms.foldl (fun s m => s.depart (errorWork m (n m))) s = s.sendAll (ms.map fun m => errorWork (s.phNow m) (n m)) := by
  induction ms with
  | nil => intro s; simp [State.sendAll]
  | cons m ms ih =>
    intro s
    rw [List.foldl_cons, ih, depart_errorWork]
    simp only [State.sendAll, State.send, List.map_cons, List.append_assoc, List.singleton_append]
    rfl

end Sys2Proof.Machine
end

section
/-! Copies that are suspended or fail, and the word of a chain compared (R208, R229, R242 to R244). -/

namespace Sys2Proof.Machine

theorem setCtx_eq (s : State) (c : Src) (x : Ctx) : ∃ y l, s.setCtx c x = { s with ctx := y, parkedCtx := l } := by
  unfold State.setCtx
  split
  · exact ⟨x, s.parkedCtx, rfl⟩
  · exact ⟨s.ctx, _, rfl⟩

/-- A trap posted changes its context, and sends at most a wake-up. -/
theorem postTrap_eq (s : State) (c : Src) (x : ATrap) : ∃ y l ws, s.postTrap c x = { s with ctx := y, parkedCtx := l, work := s.work ++ ws } := by
  obtain ⟨y, l, e⟩ := setCtx_eq s c { s.getCtx c with traps := (s.getCtx c).traps ++ [x], heldBit := (s.getCtx c).heldBit || (s.getCtx c).ih }
  unfold State.postTrap
  dsimp only
  rw [e]
  split
  · exact ⟨y, l, [wakeWork c], rfl⟩
  · exact ⟨y, l, [], by rw [List.append_nil]⟩

theorem chain_postTrap (s : State) (c : Src) (x : ATrap) : ((s.postTrap c x).getCtx c).chain = (s.getCtx c).chain := by
  unfold State.postTrap
  dsimp only
  split
  · rw [getCtx_send, getCtx_setCtx]
  · rw [getCtx_setCtx]

/-! ## A fill completes (R229) -/

theorem ldblkFillComplete_ready {s : State} {site k : Nat} (hs : site < 288) (hk : k < 64) (hf : (s.slot site k).st = .filling)
    (hd : (s.slot site k).data.length = 128 * (s.slot site k).lines) :
    exec (.ldblkFillComplete site k) s = .next (s.setSlot site k { s.slot site k with st := .ready }) := by
  show execLdblkFillComplete site k s = _
  rw [execLdblkFillComplete, if_neg (by simp; omega)]
  exact if_pos (by simp [hf, hd])

/-! ## One copy is suspended (R208, R242) -/

/-- The slot of a fill that is suspended becomes empty. -/
def State.dropFill (s : State) (site id : Nat) (j : Job) : State :=
  match j.cmd.form with
  | .fill k _ _ => if (s.slot site k).job = id then s.setSlot site k { s.slot site k with st := .empty } else s
  | _ => s

theorem dropFill_eq (s : State) (site id : Nat) (j : Job) : ∃ t l, s.dropFill site id j = { s with tile := t, parkedTile := l } := by
  have same : ∃ t l, s = { s with tile := t, parkedTile := l } := ⟨s.tile, s.parkedTile, rfl⟩
  unfold State.dropFill
  split
  · split
    · exact modTile_eq ..
    · exact same
  · exact same

theorem dropFill_sameCopies (s : State) (site id : Nat) (j : Job) : s.sameCopies (s.dropFill site id j) := by
  unfold State.dropFill
  split
  · split
    · exact modTile_sameCopies (by exact fun _ => rfl) s site
    · exact sameCopies_refl s
  · exact sameCopies_refl s

theorem suspend_single {s : State} {site id : Nat} {j : Job} (hj : s.job? site id = some j) (hc : j.chained = false) (detail : BitVec 8) (addr : Word) :
    s.suspend site id detail addr =
      let u := ((s.logError j.ph.part addr 3).modJob site id fun j => { j with suspended := true }).dropFill site id j
      (if j.refused || !j.cmd.counts then u else u.send (errorWork (u.phNow j.ph) 0)).postTrap (j.src site) (.copyFault id detail addr) := by
  simp only [State.suspend, hj, hc, Bool.false_eq_true, if_false, depart_errorWork]
  rfl

theorem copyFault_suspends {s : State} {site id : Nat} {j : Job} (hs : site < 288) (hj : s.job? site id = some j) (hr : j.suspended = false)
    (detail : BitVec 8) (addr : Word) : exec (.copyFault site id detail addr) s = .next (s.suspend site id detail addr) := by
  show execCopyFault site id detail addr s = _
  rw [execCopyFault, if_neg (by omega), hj]
  exact if_neg (by simp [hr])

/-- What a fault leaves of a copy that belongs to no chain. -/
theorem suspend_single_spec {s : State} {site id : Nat} {j : Job} (hj : s.job? site id = some j) (hc : j.chained = false) (detail : BitVec 8) (addr : Word) :
    let t := s.suspend site id detail addr
    t.job? site id = some { j with suspended := true }
      ∧ (t.getCtx (j.src site)).traps = (s.getCtx (j.src site)).traps ++ [.copyFault id detail addr]
      ∧ (t.part j.ph.part).errlog = (s.part j.ph.part).errlog ++ [⟨addr, 3⟩]
      ∧ (j.refused = false → j.cmd.counts = true → errorWork (s.phNow j.ph) 0 ∈ t.work) ∧ t.mem = s.mem ∧ t.gtags = s.gtags := by
  rw [suspend_single hj hc]
  have ha : (s.logError j.ph.part addr 3).job? site id = some j := hj
  have hb := job?_modJob ha (fun j => { j with suspended := true }) fun _ => rfl
  obtain ⟨t1, l1, eb⟩ : ∃ t l, (s.logError j.ph.part addr 3).modJob site id (fun j => { j with suspended := true })
      = { s.logError j.ph.part addr 3 with tile := t, parkedTile := l } := modTile_eq ..
  generalize (s.logError j.ph.part addr 3).modJob site id (fun j => { j with suspended := true }) = b at hb eb
  have hu := job?_congr ((dropFill_sameCopies b site id j).jobs site) id
  obtain ⟨t2, l2, eu⟩ := dropFill_eq b site id j
  generalize b.dropFill site id j = u at hu eu
  obtain ⟨ws, ev, hws⟩ : ∃ ws, (if (j.refused || !j.cmd.counts) = true then u else u.send (errorWork (u.phNow j.ph) 0)) = { u with work := u.work ++ ws }
      ∧ (j.refused = false → j.cmd.counts = true → errorWork (s.phNow j.ph) 0 ∈ ws) := by
    split
    · next h => exact ⟨[], by rw [List.append_nil], fun h1 h2 => by simp [h1, h2] at h⟩
    · exact ⟨[errorWork (u.phNow j.ph) 0], rfl, fun _ _ => by rw [eu, eb]; exact List.mem_singleton_self _⟩
  obtain ⟨x, l, wk, et⟩ := postTrap_eq { u with work := u.work ++ ws } (j.src site) (.copyFault id detail addr)
  have htraps := traps_postTrap { u with work := u.work ++ ws } (j.src site) (j.src site) (.copyFault id detail addr)
  have hjobs := job?_congr ((postTrap_sameCopies { u with work := u.work ++ ws } (j.src site) (.copyFault id detail addr)).jobs site) id
  dsimp only
  rw [ev]
  refine ⟨(hjobs.trans hu).trans hb, ?_, ?_, fun h1 h2 => ?_, ?_, ?_⟩
  · rw [htraps, if_pos rfl, eu, eb]
    rfl
  · rw [et, eu, eb]
    exact congrArg Partition.errlog (part_setPart ..)
  · rw [et]
    simp [hws h1 h2]
  · rw [et, eu, eb]
    rfl
  · rw [et, eu, eb]
    rfl

end Sys2Proof.Machine
end

section
/-! Chains of copies: one that fails, and the word of one compared (R243, R244). -/

namespace Sys2Proof.Machine

/-- The commands of a chain that are at work on a tile. -/
def State.chainJobs (s : State) (site : Nat) (ch : Chain) : List Job := (s.getTile site).jobs.filter fun j => ch.jobs.contains j.id

theorem mem_chainJobs {s : State} {site : Nat} {ch : Chain} {j : Job} : j ∈ s.chainJobs site ch ↔ j ∈ (s.getTile site).jobs ∧ j.id ∈ ch.jobs := by
  rw [State.chainJobs, List.mem_filter, List.contains_iff_mem]

/-- The bytes that the commands of a chain have added to a phaser (log 60). -/
def State.chainBytes (s : State) (site : Nat) (ch : Chain) (m : PhMsg) : Nat :=
  (((s.getTile site).jobs.filter fun i => ch.jobs.contains i.id && i.added && i.ph == m).map (·.bytes)).sum

/-- The error arrivals of a chain that fails, one for each of its phasers (log 60). -/
def State.chainErrors (s : State) (site : Nat) (ch : Chain) : List Work :=
  (((s.chainJobs site ch).filter (·.added)).map (·.ph)).eraseDups.map fun m => errorWork (s.phNow m) (s.chainBytes site ch m)

theorem foldl_retireJob_eq (site : Nat) (js : List Job) : ∀ s : State,
    ∃ t l, js.foldl (fun s j => s.retireJob site j.id) s = { s with tile := t, parkedTile := l } := by
  induction js with
  | nil => exact fun s => ⟨s.tile, s.parkedTile, rfl⟩
  | cons j js ih =>
    intro s
    obtain ⟨t, l, e⟩ : ∃ t l, s.retireJob site j.id = { s with tile := t, parkedTile := l } := modTile_eq ..
    obtain ⟨t', l', e'⟩ := ih (s.retireJob site j.id)
    exact ⟨t', l', by rw [List.foldl_cons, e', e]⟩

/-! ## A chain that fails (R244) -/

section fails
variable {s : State} {c : Src} {ch : Chain} (hch : (s.getCtx c).chain = some ch) (detail : BitVec 8) (addr : Word)
include hch

theorem failChain_eq : s.failChain c detail addr
    = (((s.chainJobs c.site ch).foldl (fun s j => s.retireJob c.site j.id) (s.sendAll (s.chainErrors c.site ch))).modCtx c
        fun x => { x with chain := none }).postTrap c (.copyFault (ch.jobs.headD 0) detail addr) := by
  have hbytes (m : PhMsg) : (((s.chainJobs c.site ch).filter (·.added)).filter fun j => j.ph == m).foldl (fun n j => n + j.bytes) 0
      = s.chainBytes c.site ch m := by
    rw [State.chainBytes, List.sum_eq_foldl, List.foldl_map, State.chainJobs, List.filter_filter, List.filter_filter]
    simp only [Bool.and_comm, Bool.and_left_comm, Bool.and_assoc]
  simp only [State.failChain, hch]
  rw [foldl_depart_errors]
  simp only [State.chainErrors, ← hbytes]
  rfl

theorem failChain_spec :
    let t := s.failChain c detail addr
    (t.getCtx c).chain = none ∧ (t.getCtx c).traps = (s.getCtx c).traps ++ [.copyFault (ch.jobs.headD 0) detail addr]
      ∧ (∀ x ∈ (t.getTile c.site).jobs, x.id ∉ ch.jobs) ∧ t.parts = s.parts
      ∧ (∀ x ∈ (s.getTile c.site).jobs, x.id ∈ ch.jobs → x.added = true → errorWork (s.phNow x.ph) (s.chainBytes c.site ch x.ph) ∈ t.work)
      ∧ t.phasers = s.phasers ∧ t.mem = s.mem := by
  dsimp only
  rw [failChain_eq hch]
  have hdrop := foldl_drops (site := c.site) (f := fun s j => s.retireJob c.site j.id) (fun s j => retireJob_jobs s c.site j.id) (s.chainJobs c.site ch)
    (s.sendAll (s.chainErrors c.site ch))
  obtain ⟨t1, l1, e1⟩ := foldl_retireJob_eq c.site (s.chainJobs c.site ch) (s.sendAll (s.chainErrors c.site ch))
  generalize (s.chainJobs c.site ch).foldl (fun s j => s.retireJob c.site j.id) (s.sendAll (s.chainErrors c.site ch)) = u at hdrop e1
  have hset := modCtx_sets c (fun x => { x with chain := none }) u
  have hsame := modCtx_sameCopies u c fun x => { x with chain := none }
  obtain ⟨x2, l2, e2⟩ : ∃ y l, u.modCtx c (fun x => { x with chain := none }) = { u with ctx := y, parkedCtx := l } := setCtx_eq ..
  generalize u.modCtx c (fun x => { x with chain := none }) = v at hset hsame e2
  obtain ⟨hv, -, hvm, hvw⟩ := hset
  have hpost := postTrap_sameCopies v c (.copyFault (ch.jobs.headD 0) detail addr)
  obtain ⟨x3, l3, w3, e3⟩ := postTrap_eq v c (.copyFault (ch.jobs.headD 0) detail addr)
  have huc : u.getCtx c = s.getCtx c := by rw [e1]; rfl
  refine ⟨?_, ?_, fun x hx hin => ?_, ?_, fun x hx hin hadd => ?_, ?_, ?_⟩
  · rw [chain_postTrap, hv]
  · rw [traps_postTrap, if_pos rfl, hv, huc]
  · rw [hpost.jobs, hsame.jobs] at hx
    obtain ⟨hs, hne⟩ := hdrop x hx
    exact hne x (mem_chainJobs.2 ⟨hs, hin⟩) rfl
  · rw [e3, e2, e1]
    rfl
  · refine hpost.work _ ?_
    rw [hvw, e1]
    refine List.mem_append_right _ (List.mem_map.2 ⟨x.ph, List.mem_eraseDups.2 (List.mem_map.2 ⟨x, ?_, rfl⟩), rfl⟩)
    exact List.mem_filter.2 ⟨mem_chainJobs.2 ⟨hx, hin⟩, hadd⟩
  · rw [e3, e2, e1]
    rfl
  · rw [e3, e2, e1]
    rfl

end fails

/-! ## The word of a chain compared (R244) -/

/-- A chain whose word agrees: its bytes count down, and its commands retire. -/
def State.chainCloses (s : State) (c : Src) (ch : Chain) : State :=
  ((s.chainJobs c.site ch).foldl (fun s j => (s.countDown j.ph j.bytes).retireJob c.site j.id) s).modCtx c fun x => { x with chain := none }

/-- A chain whose word does not agree, and that has retries: its commands run again. -/
def State.chainRestarts (s : State) (c : Src) (ch : Chain) : State :=
  (((s.chainJobs c.site ch).foldl (fun s j => s.modJob c.site j.id Job.restart) (s.modTile c.site fun t => t.count 0x040 c.cid 1)).modCtx c
    fun x => { x with chain := some { ch with a := 0, b := 0, tries := ch.tries + 1 } }).sendAll ((s.chainJobs c.site ch).map fun j => landWork c j.id)

theorem countDown_retire_eq (s : State) (m : PhMsg) (n site id : Nat) :
    ∃ ps ws t l, (s.countDown m n).retireJob site id = { s with phasers := ps, work := s.work ++ ws, tile := t, parkedTile := l } := by
  obtain ⟨ps, ws, e⟩ := countDown_eq s m n
  obtain ⟨t, l, e'⟩ : ∃ t l, (s.countDown m n).retireJob site id = { s.countDown m n with tile := t, parkedTile := l } := modTile_eq ..
  exact ⟨ps, ws, t, l, by rw [e', e]⟩

theorem chainCloses_spec (s : State) (c : Src) (ch : Chain) :
    let t := s.chainCloses c ch
    (t.getCtx c).chain = none ∧ (t.getCtx c).traps = (s.getCtx c).traps ∧ (∀ x ∈ (t.getTile c.site).jobs, x.id ∉ ch.jobs) ∧ t.mem = s.mem := by
  have hjobs (s : State) (j : Job) : (((s.countDown j.ph j.bytes).retireJob c.site j.id).getTile c.site).jobs
      = (s.getTile c.site).jobs.filter (·.id != j.id) := by
    obtain ⟨ps, ws, e⟩ := countDown_eq s j.ph j.bytes
    rw [retireJob_jobs, e]
    rfl
  have hdrop := foldl_drops (f := fun s j => (s.countDown j.ph j.bytes).retireJob c.site j.id) hjobs (s.chainJobs c.site ch) s
  have hfield {β : Type} (g : State → β) (hg : ∀ (s : State) ps ws t l, g { s with phasers := ps, work := ws, tile := t, parkedTile := l } = g s) :=
    foldl_field g (f := fun s (j : Job) => (s.countDown j.ph j.bytes).retireJob c.site j.id) (fun s j => by
      obtain ⟨ps, ws, t, l, e⟩ := countDown_retire_eq s j.ph j.bytes c.site j.id
      rw [e, hg]) (s.chainJobs c.site ch) s
  have hctx := hfield (fun s => s.getCtx c) fun _ _ _ _ _ => rfl
  have hmem := hfield State.mem fun _ _ _ _ _ => rfl
  dsimp only [State.chainCloses]
  generalize (s.chainJobs c.site ch).foldl (fun s j => (s.countDown j.ph j.bytes).retireJob c.site j.id) s = u at hdrop hctx hmem
  obtain ⟨hset, -, hm, -⟩ := modCtx_sets c (fun x => { x with chain := none }) u
  have hsame := modCtx_sameCopies u c fun x => { x with chain := none }
  refine ⟨by rw [hset], by rw [hset, ← hctx], fun x hx hin => ?_, hm.trans hmem⟩
  rw [hsame.jobs] at hx
  obtain ⟨hx, hne⟩ := hdrop x hx
  exact hne x (mem_chainJobs.2 ⟨hx, hin⟩) rfl

theorem chainRestarts_spec (s : State) (c : Src) (ch : Chain) :
    let t := s.chainRestarts c ch
    (t.getCtx c).chain = some { ch with a := 0, b := 0, tries := ch.tries + 1 }
      ∧ (∀ x ∈ (t.getTile c.site).jobs, x.id ∈ ch.jobs → x.pos = 0 ∧ x.sum = (0, 0) ∧ landWork c x.id ∈ t.work)
      ∧ t.phasers = s.phasers ∧ t.mem = s.mem := by
  have hcount := modTile_sameCopies (f := fun t => t.count 0x040 c.cid 1) (fun _ => rfl) s c.site
  have hjobs := foldl_restart_jobs c.site (s.chainJobs c.site ch) (s.modTile c.site fun t => t.count 0x040 c.cid 1)
  have hfield {β : Type} (g : State → β) (hg : ∀ (s : State) n f, g (s.modTile n f) = g s) :=
    (foldl_field g (f := fun s (j : Job) => s.modJob c.site j.id Job.restart) (fun s j => hg ..) (s.chainJobs c.site ch)
      (s.modTile c.site fun t => t.count 0x040 c.cid 1)).trans (hg ..)
  have hph := hfield State.phasers fun s n f => State.setTile_phasers ..
  have hmem := hfield State.mem fun s n f => State.setTile_mem ..
  rw [hcount.jobs] at hjobs
  dsimp only [State.chainRestarts]
  generalize (s.chainJobs c.site ch).foldl (fun s j => s.modJob c.site j.id Job.restart) (s.modTile c.site fun t => t.count 0x040 c.cid 1) = u at hjobs hph hmem
  obtain ⟨hset, -, hm, -⟩ := modCtx_sets c (fun x => { x with chain := some { ch with a := 0, b := 0, tries := ch.tries + 1 } }) u
  have hsame := modCtx_sameCopies u c fun x => { x with chain := some { ch with a := 0, b := 0, tries := ch.tries + 1 } }
  refine ⟨by rw [getCtx_sendAll, hset], fun x hx hin => ?_, ?_, ?_⟩
  · rw [getTile_sendAll, hsame.jobs, hjobs] at hx
    obtain ⟨y, hy, rfl⟩ := List.mem_map.1 hx
    have hid : (if ∃ j ∈ s.chainJobs c.site ch, j.id = y.id then y.restart else y).id = y.id := by split <;> rfl
    rw [hid] at hin ⊢
    have hy' : y ∈ s.chainJobs c.site ch := mem_chainJobs.2 ⟨hy, hin⟩
    rw [if_pos ⟨y, hy', rfl⟩]
    exact ⟨rfl, rfl, List.mem_append_right _ (List.mem_map.2 ⟨y, hy', rfl⟩)⟩
  · exact hsame.phasers.trans hph
  · exact hm.trans hmem

section compare
variable {s : State} {c : Src} {ch : Chain} {e : ChainEnd} (hs : c.site < 288) (hc : c.cid < 4) (hch : (s.getCtx c).chain = some ch) (he : ch.last = some e)
  (hl : ∀ j ∈ (s.getTile c.site).jobs, j.id ∈ ch.jobs → j.units ≤ j.pos)
include hs hc hch he hl

/-- A comparison is made once every command of the chain has landed. -/
theorem chainCompare_compares : ∃ a, exec (.chainCompare c) s = .next (
    if ch.b * 65536 + ch.a = e.word.toNat then s.chainCloses c ch else if ch.tries < e.retries.toNat then s.chainRestarts c ch else s.failChain c 5 a) := by
  have hany : ((s.getTile c.site).jobs.filter fun j => ch.jobs.contains j.id).any (fun j => decide (j.pos < j.units)) = false := by
    simpa using hl
  have hexec : exec (.chainCompare c) s = execChainCompare c s := rfl
  simp only [execChainCompare, hs.not_ge, hc.not_ge, decide_false, Bool.or_self, hch, he, hany, Bool.false_eq_true, if_false] at hexec
  rw [hexec]
  split
  · exact ⟨0, rfl⟩
  · split
    · exact ⟨0, by rw [← he]; rfl⟩
    · exact ⟨_, rfl⟩

end compare

end Sys2Proof.Machine
end

section
/-! The landing of one step of a copy, and of a granule with its tag word (R173, R239, R241, R243). -/

namespace Sys2Proof.Machine

/-! ## What follows a landing step (R216, R239) -/

/-- A form whose copy retires with its last bytes, and counts them down as they land. -/
def CopyForm.single : CopyForm → Prop
  | .weave | .tensor _ _ => True
  | _ => False

/-- What a landing step of `n` bytes of job `j` leaves of state `u`, but for the next step. -/
def State.stepped (u : State) (site : Nat) (j : Job) (n : Nat) : State :=
  let v := (u.modJob site j.id fun i => { i with pos := i.pos + 1 }).sumChain site j
  if j.chained || !j.cmd.counts then v else v.countDown j.ph n

theorem sumChain_sameCopies (s : State) (site : Nat) (j : Job) : s.sameCopies (s.sumChain site j) := by
  unfold State.sumChain
  split
  · exact modCtx_sameCopies ..
  · exact sameCopies_refl s

theorem stepped_job? {u : State} {site : Nat} {j i : Job} (hu : u.job? site j.id = some i) (n : Nat) :
    (u.stepped site j n).job? site j.id = some { i with pos := i.pos + 1 } := by
  have hv := (job?_congr ((sumChain_sameCopies _ site j).jobs site) j.id).trans (job?_modJob hu (fun i => { i with pos := i.pos + 1 }) fun _ => rfl)
  unfold State.stepped
  dsimp only
  split
  · exact hv
  · obtain ⟨ps, ws, e⟩ := countDown_eq ((u.modJob site j.id fun i => { i with pos := i.pos + 1 }).sumChain site j) j.ph n
    rw [e]
    exact hv

/-- COPY_BYTES_LAND of a copy other than a fill. -/
theorem copyBytesLand_lands {s u : State} {site : Nat} {j i : Job} {n : Nat} (hs : site < 288) (hj : s.job? site j.id = some j) (hm : s.mayLand site j = true)
    (hl : s.landStep site j = .ok (u, n)) (hf : ∀ k h c, j.cmd.form ≠ .fill k h c) (hu : u.job? site j.id = some i) :
    exec (.copyBytesLand site j.id) s = .next (if i.pos + 1 < i.units then (u.stepped site j n).send (landWork (i.src site) j.id)
      else (u.stepped site j n).landed site { i with pos := i.pos + 1 }) := by
  have hstep := stepped_job? hu n
  have hexec : exec (.copyBytesLand site j.id) s = execCopyBytesLand site j.id s := rfl
  rw [hexec, execCopyBytesLand, if_neg hs.not_ge]
  simp only [hj, hm, hl, if_true]
  cases hform : j.cmd.form with
  | fill k h c => exact absurd hform (hf k h c)
  | _ =>
    simp only [Bool.false_eq_true, if_false]
    rw [State.stepped] at hstep ⊢
    simp only [hstep]
    split <;> rfl

theorem modJob_keepsHomes (s : State) (site id : Nat) (f : Job → Job) : s.keepsHomes (s.modJob site id f) :=
  modTile_keepsHomes (by exact fun _ => rfl) s site

theorem retireJob_keepsHomes (s : State) (site id : Nat) : s.keepsHomes (s.retireJob site id) :=
  modTile_keepsHomes (by exact fun _ => rfl) s site

theorem landed_single {s : State} {site : Nat} {j : Job} (hf : j.cmd.form.single) : s.landed site j = s.retireJob site j.id := by
  unfold State.landed
  revert hf
  cases j.cmd.form <;> simp [CopyForm.single]

/-- A landing step of a copy that is no command of a chain. -/
theorem copyBytesLand_single {s u : State} {site : Nat} {j i : Job} {n : Nat} (hs : site < 288) (hj : s.job? site j.id = some j) (hm : s.mayLand site j = true)
    (hl : s.landStep site j = .ok (u, n)) (hf : j.cmd.form.single) (hc : j.chained = false) (hu : u.job? site j.id = some i)
    (hi : i.pos = j.pos ∧ i.units = j.units ∧ i.cmd = j.cmd ∧ i.cid = j.cid ∧ i.id = j.id) :
    ∃ t, exec (.copyBytesLand site j.id) s = .next t ∧ u.sameStore t ∧ u.sameTags t ∧ t.phasers = (u.countDown j.ph n).phasers
      ∧ (j.pos + 1 < j.units → t.job? site j.id = some { i with pos := i.pos + 1 } ∧ landWork (j.src site) j.id ∈ t.work)
      ∧ (j.pos + 1 = j.units → t.job? site j.id = none) := by
  obtain ⟨hpos, hunits, hcmd, hcid, hid⟩ := hi
  have hnext := copyBytesLand_lands hs hj hm hl (fun k h c e => by rw [e] at hf; exact hf) hu
  have hjob := stepped_job? hu n
  have hcounts : j.cmd.counts = true := by
    unfold CopyCmd.counts
    revert hf
    cases j.cmd.form <;> simp [CopyForm.single]
  obtain ⟨hstore, htags, hph⟩ : u.sameStore (u.stepped site j n) ∧ u.sameTags (u.stepped site j n)
      ∧ (u.stepped site j n).phasers = (u.countDown j.ph n).phasers := by
    have hstep : u.stepped site j n = (u.modJob site j.id fun i => { i with pos := i.pos + 1 }).countDown j.ph n := by
      simp [State.stepped, State.sumChain, hc, hcounts]
    have hkeeps := modJob_keepsHomes u site j.id fun i => { i with pos := i.pos + 1 }
    have hph := countDown_phasers (s := u) (t := u.modJob site j.id fun i => { i with pos := i.pos + 1 }) (State.setTile_phasers ..) (State.setTile_mesh ..) j.ph n
    rw [hstep]
    obtain ⟨ps, ws, e⟩ := countDown_eq (u.modJob site j.id fun i => { i with pos := i.pos + 1 }) j.ph n
    rw [e] at hph ⊢
    exact ⟨sameStore_trans hkeeps.store ⟨rfl, rfl, rfl, rfl⟩, sameTags_trans hkeeps.tags ⟨rfl, fun _ => rfl⟩, hph⟩
  by_cases hlast : j.pos + 1 < j.units
  · rw [if_pos (by rw [hpos, hunits]; exact hlast)] at hnext
    refine ⟨_, hnext, hstore, htags, hph, fun _ => ⟨hjob, ?_⟩, fun h => absurd hlast (by omega)⟩
    rw [State.send_work, Job.src, hcid]
    exact List.mem_append_right _ (List.mem_singleton_self _)
  · rw [if_neg (by rw [hpos, hunits]; exact hlast), landed_single (by rw [hcmd]; exact hf)] at hnext
    have hkeeps := retireJob_keepsHomes (u.stepped site j n) site i.id
    refine ⟨_, hnext, sameStore_trans hstore hkeeps.store, sameTags_trans htags hkeeps.tags, ?_, fun h => absurd h hlast, fun _ => ?_⟩
    · exact (State.setTile_phasers ..).trans hph
    · rw [hid]
      exact job?_retireJob ..

end Sys2Proof.Machine
end

section
/-! The landing of a granule with its tag word, at a tile and at a peer device (R173, R241, R243). -/

namespace Sys2Proof.Machine

theorem flipped_eq (bs : List Byte) : ∀ ms : List Byte, flipped bs ms = bs.mapIdx fun i b => b ^^^ ms.getD i 0 := by
  induction bs with
  | nil => intro ms; rfl
  | cons b bs ih =>
    intro ms
    cases ms with
    | nil => simp [flipped, List.mapIdx_eq_zipIdx_map]
    | cons m ms => simp [flipped, ih, List.mapIdx_cons]

theorem self_mem_granulesOf {off n : Nat} (ho : off % 256 = 0) (hn : 0 < n) : off ∈ granulesOf off n :=
  mem_granulesOf.2 ⟨hn, off / 256, by omega, le_refl _, by omega⟩

theorem wakeAll_sameCopies (s : State) (cs : List Src) : s.sameCopies (s.wakeAll cs) :=
  foldl_sameCopies (fun s c => sameCopies_trans (modCtx_sameCopies s c Ctx.monitorHit) (send_sameCopies ..)) cs s

section write
variable {s : State} (hc : s.canonical = true) (h : Home) (off : Nat) (bs : List Byte) (w : Word) (ho : off + bs.length ≤ 2 ^ 64)
include hc ho

theorem putGranules_sameCopies : s.sameCopies (s.putGranules h off bs w) := by
  obtain ⟨m, lk, l, e⟩ := putGranules_eq hc h off bs w ho
  rw [e]
  exact ⟨rfl, rfl, fun _ => rfl, fun _ h => h⟩

theorem bankWrite_sameCopies : s.sameCopies (s.bankWrite h off bs w) :=
  sameCopies_trans (putGranules_sameCopies hc h off bs w ho) (wakeAll_sameCopies ..)

end write

/-- The bytes that a granule lands with (log 81). -/
def State.landing (s : State) (site : Nat) (j : Job) : List Byte :=
  (s.bytes (j.src site).pad (j.cmd.s2.toNat + 256 * j.pos) 256).mapIdx fun i b => b ^^^ j.flip.getD i 0

theorem landing_length (s : State) (site : Nat) (j : Job) : (s.landing site j).length = 256 := by
  rw [State.landing, List.length_mapIdx, bytes_length]

/-! ## At a tile of this package (R173, R241) -/

section weave
variable {s : State} {site n dst : Nat} {j : Job} {w : Word} (hj : s.job? site j.id = some j) (hf : j.cmd.form = .weave) (hc : j.chained = false)
  (hl : s.siteOf (j.cmd.s1.extractLsb' 22 12).toNat = some n) (hn : n < 288) (hd : (j.cmd.s1.extractLsb' 0 22).toNat + 256 * j.pos = dst)
  (hp : tagPart (s.tagWord (.pool n) dst) = j.ph.part)

/-- The state behind the landing of a granule at a tile. -/
def State.weaved (s : State) (site n dst : Nat) (j : Job) : State :=
  let src := j.cmd.s2.toNat + 256 * j.pos
  (((s.bankWrite (.pool n) dst (s.landing site j) (s.tagWord (j.src site).pad src)).useBanks (j.src site).pad src 256).useBanks (.pool n) dst 256).modJob
    site j.id fun i => { i with flip := [] }

include hf hc hl hn hd hp in
theorem landStep_weave : s.landStep site j = .ok (s.weaved site n dst j, 256) := by
  have hpart : (288 ≤ n || tagPart (s.tagWord (.pool n) dst) != j.ph.part) = false := by simp [hp]; omega
  simp only [State.landStep, hf, State.landGranule, copyTarget, Bool.false_eq_true, if_false, if_true, hl, Option.getD_some, hd, hpart, State.summed, hc,
    flipped_eq]
  rfl

include hj in
theorem weaved_spec (hcan : s.canonical = true) (h0 : dst % 256 = 0) (h22 : dst < 2 ^ 22) :
    let u := s.weaved site n dst j
    u.bytes (.pool n) dst 256 = s.landing site j ∧ s.sameBytesBut u (.pool n) dst 256
      ∧ u.tagWord (.pool n) dst = s.tagWord (j.src site).pad (j.cmd.s2.toNat + 256 * j.pos) ∧ u.phasers = s.phasers ∧ u.mesh = s.mesh
      ∧ u.job? site j.id = some { j with flip := [] } := by
  have hlen := landing_length s site j
  have ho : dst + (s.landing site j).length ≤ 2 ^ 64 := by rw [hlen]; omega
  obtain ⟨hbytes, hothers, -⟩ := homeWrite_spec (s := s) (.pool n) dst (s.landing site j) (s.tagWord (j.src site).pad (j.cmd.s2.toNat + 256 * j.pos)) false hcan ho
  have htag := tagWord_bankWrite hcan (.pool n) dst (s.landing site j) (s.tagWord (j.src site).pad (j.cmd.s2.toNat + 256 * j.pos)) ho dst
  have hcopies := bankWrite_sameCopies hcan (.pool n) dst (s.landing site j) (s.tagWord (j.src site).pad (j.cmd.s2.toNat + 256 * j.pos)) ho
  rw [hlen] at hbytes hothers htag
  rw [if_pos ⟨dst, self_mem_granulesOf h0 (by decide), rfl⟩] at htag
  dsimp only [State.weaved]
  change State.bytes (s.bankWrite _ _ _ _) _ _ _ = _ at hbytes
  change s.sameBytesBut (s.bankWrite _ _ _ _) _ _ _ at hothers
  generalize s.bankWrite (.pool n) dst (s.landing site j) (s.tagWord (j.src site).pad (j.cmd.s2.toNat + 256 * j.pos)) = b at hbytes hothers htag hcopies
  have hbanks := sameCopies_trans (useBanks_sameCopies b (j.src site).pad (j.cmd.s2.toNat + 256 * j.pos) 256)
    (useBanks_sameCopies (b.useBanks (j.src site).pad (j.cmd.s2.toNat + 256 * j.pos) 256) (.pool n) dst 256)
  have hkeeps := keepsHomes_trans (useBanks_keepsHomes b (j.src site).pad (j.cmd.s2.toNat + 256 * j.pos) 256)
    (useBanks_keepsHomes (b.useBanks (j.src site).pad (j.cmd.s2.toNat + 256 * j.pos) 256) (.pool n) dst 256)
  generalize (b.useBanks (j.src site).pad (j.cmd.s2.toNat + 256 * j.pos) 256).useBanks (.pool n) dst 256 = v at hbanks hkeeps
  have hall := sameCopies_trans hcopies hbanks
  have hmod := keepsHomes_trans hkeeps (modJob_keepsHomes v site j.id fun i => { i with flip := [] })
  refine ⟨(sameStore_bytes hmod.store ..).trans hbytes, sameBytesBut_sameStore ⟨rfl, rfl, rfl, rfl⟩ hothers hmod.store,
    (sameTags_tagWord hmod.tags ..).trans htag, ?_, ?_, ?_⟩
  · exact (State.setTile_phasers ..).trans hall.phasers
  · exact (State.setTile_mesh ..).trans hall.mesh
  · exact job?_modJob ((job?_congr (hall.jobs site) _).trans hj) _ fun _ => rfl

end weave

end Sys2Proof.Machine
end

section
/-! Granules that land at a tile or at a peer device, and poison met on the way (R21, R173, R241, R243). -/

namespace Sys2Proof.Machine

/-- A granule lands at a tile (R241). -/
theorem copyBytesLand_weave {s : State} {site n dst : Nat} {j : Job} (hs : site < 288) (hj : s.job? site j.id = some j) (hf : j.cmd.form = .weave)
    (hc : j.chained = false) (hm : s.mayLand site j = true) (hcan : s.canonical = true) (hl : s.siteOf (j.cmd.s1.extractLsb' 22 12).toNat = some n)
    (hn : n < 288) (hd : (j.cmd.s1.extractLsb' 0 22).toNat + 256 * j.pos = dst) (h0 : dst % 256 = 0) (h22 : dst < 2 ^ 22)
    (hp : tagPart (s.tagWord (.pool n) dst) = j.ph.part) :
    ∃ t, exec (.copyBytesLand site j.id) s = .next t ∧ t.bytes (.pool n) dst 256 = s.landing site j ∧ s.sameBytesBut t (.pool n) dst 256
      ∧ t.tagWord (.pool n) dst = s.tagWord (j.src site).pad (j.cmd.s2.toNat + 256 * j.pos) ∧ t.phasers = (s.countDown j.ph 256).phasers
      ∧ (j.pos + 1 < j.units → t.job? site j.id = some { j with pos := j.pos + 1, flip := [] }) ∧ (j.pos + 1 = j.units → t.job? site j.id = none) := by
  obtain ⟨hbytes, hothers, htag, hph, hmesh, hjob⟩ := weaved_spec (n := n) hj hcan h0 h22
  obtain ⟨t, hnext, hstore, htags, hcount, hmore, hlast⟩ := copyBytesLand_single hs hj hm (landStep_weave hf hc hl hn hd hp) (by rw [hf]; trivial) hc hjob
    ⟨rfl, rfl, rfl, rfl, rfl⟩
  exact ⟨t, hnext, (sameStore_bytes hstore ..).trans hbytes, sameBytesBut_sameStore ⟨rfl, rfl, rfl, rfl⟩ hothers hstore, (sameTags_tagWord htags ..).trans htag,
    hcount.trans (countDown_phasers hph hmesh ..), fun h => (hmore h).1, hlast⟩

end Sys2Proof.Machine
end

section
/-! Commands of a chain: granules that land at a peer device, poison met on the way, and faults (R21, R173, R243, R244). -/

namespace Sys2Proof.Machine

/-! ## A granule lands at a peer device (R173, R243) -/

/-- The scratchpad at a peer device that a command of a chain names (R243). -/
def Job.peerHome (j : Job) : Home := .peerPool (j.cmd.s1.extractLsb' 34 6).toNat (j.cmd.s1.extractLsb' 22 12).toNat

/-- The offset there of the next granule. -/
def Job.peerOff (j : Job) : Nat := (j.cmd.s1.extractLsb' 0 22).toNat + 256 * j.pos

/-- The tag word of the next granule at its source. -/
def State.landingWord (s : State) (site : Nat) (j : Job) : Word := s.tagWord (j.src site).pad (j.cmd.s2.toNat + 256 * j.pos)

/-- The tag word with which it lands at a peer device (R173). -/
def State.peerWord (s : State) (site : Nat) (j : Job) : Word :=
  mkTagWord j.ph.part false 0x3FF (tagStamp (s.landingWord site j)) (tagTag (s.landingWord site j))

/-- The state behind the landing of a granule at a peer device, with the Fletcher pair of the command. -/
def State.linked (s : State) (site : Nat) (j : Job) : State :=
  ((s.carried j.peerHome).putGranules j.peerHome j.peerOff (s.landing site j) (s.peerWord site j)).modJob site j.id fun i =>
    { i with sum := fletcher (s.landing site j) i.sum, flip := [] }

section peer
variable {s : State} {site : Nat} {j : Job} {last : Option ChainEnd} (hf : j.cmd.form = .chain last)
  (hdev : (j.cmd.s1.extractLsb' 34 6).toNat ≠ Config.device)
include hf hdev

theorem landStep_linked (hc : j.chained = true) (hl : (s.peerLink (j.cmd.s1.extractLsb' 34 6).toNat).st = 3) (hw : (s.landingWord site j).getLsbD 50 = false) :
    s.landStep site j = .ok (s.linked site j, 256) := by
  have hpoison : tagPoison (s.tagWord (j.src site).pad (j.cmd.s2.toNat + 256 * j.pos)) = false := hw
  simp only [State.landStep, hf, State.landGranule, copyTarget, if_true, hdev, if_false, hpoison, Bool.false_eq_true, State.reaches, hl, State.summed, hc, flipped_eq]
  rfl

theorem landStep_poisoned (hw : (s.landingWord site j).getLsbD 50 = true) : s.landStep site j = .error .poison := by
  have hpoison : tagPoison (s.tagWord (j.src site).pad (j.cmd.s2.toNat + 256 * j.pos)) = true := hw
  simp only [State.landStep, hf, State.landGranule, copyTarget, if_true, hdev, if_false, hpoison]

end peer

theorem linked_spec {s : State} {site : Nat} {j : Job} (hj : s.job? site j.id = some j) (hcan : s.canonical = true) (ho : j.peerOff + 256 ≤ 2 ^ 64) :
    let u := s.linked site j
    u.bytes j.peerHome j.peerOff 256 = s.landing site j ∧ s.sameBytesBut u j.peerHome j.peerOff 256
      ∧ (j.peerOff % 256 = 0 → u.tagWord j.peerHome j.peerOff = s.peerWord site j) ∧ u.phasers = s.phasers ∧ (∀ c, u.getCtx c = s.getCtx c)
      ∧ u.job? site j.id = some { j with sum := fletcher (s.landing site j) j.sum, flip := [] } := by
  have hlen := landing_length s site j
  have hcar : s.keepsHomes (s.carried j.peerHome) := by rw [carried_eq]; exact keepsHomes_links ..
  have hcar' := carried_sameCopies s j.peerHome
  dsimp only [State.linked]
  generalize hv : s.carried j.peerHome = v at hcar hcar'
  have hcanv := hcar.canonical hcan
  have ho' : j.peerOff + (s.landing site j).length ≤ 2 ^ 64 := by rw [hlen]; exact ho
  obtain ⟨hbytes, hothers, -⟩ : (v.putGranules j.peerHome j.peerOff (s.landing site j) (s.peerWord site j)).bytes j.peerHome j.peerOff (s.landing site j).length
        = s.landing site j
      ∧ v.sameBytesBut (v.putGranules j.peerHome j.peerOff (s.landing site j) (s.peerWord site j)) j.peerHome j.peerOff (s.landing site j).length ∧ _ :=
    homeWrite_spec (s := v) j.peerHome j.peerOff (s.landing site j) (s.peerWord site j) false hcanv ho'
  have htag := tagWord_putGranules hcanv j.peerHome j.peerOff (s.landing site j) (s.peerWord site j) ho' j.peerOff
  have hcopies := sameCopies_trans hcar' (putGranules_sameCopies hcanv j.peerHome j.peerOff (s.landing site j) (s.peerWord site j) ho')
  have hctx (c : Src) : (v.putGranules j.peerHome j.peerOff (s.landing site j) (s.peerWord site j)).getCtx c = s.getCtx c := by
    obtain ⟨m, lk, l, e⟩ := putGranules_eq hcanv j.peerHome j.peerOff (s.landing site j) (s.peerWord site j) ho'
    rw [e, ← hcar.ctxs c]
    rfl
  rw [hlen] at hbytes hothers htag
  generalize v.putGranules j.peerHome j.peerOff (s.landing site j) (s.peerWord site j) = b at hbytes hothers htag hcopies hctx
  have hmod := modJob_keepsHomes b site j.id fun i => { i with sum := fletcher (s.landing site j) i.sum, flip := [] }
  refine ⟨(sameStore_bytes hmod.store ..).trans hbytes, sameBytesBut_sameStore hcar.store hothers hmod.store, fun h0 => ?_, ?_, fun c => ?_, ?_⟩
  · exact (sameTags_tagWord hmod.tags ..).trans (htag.trans (if_pos ⟨_, self_mem_granulesOf h0 (by decide), rfl⟩))
  · exact (State.setTile_phasers ..).trans hcopies.phasers
  · exact (hmod.ctxs c).trans (hctx c)
  · exact job?_modJob ((job?_congr (hcopies.jobs site) _).trans hj) _ fun _ => rfl

theorem modCtx_keepsStore (s : State) (c : Src) (f : Ctx → Ctx) : s.sameStore (s.modCtx c f) ∧ s.sameTags (s.modCtx c f) := by
  obtain ⟨y, l, e⟩ : ∃ y l, s.modCtx c f = { s with ctx := y, parkedCtx := l } := setCtx_eq ..
  rw [e]
  exact ⟨⟨rfl, rfl, rfl, rfl⟩, rfl, fun _ => rfl⟩

/-- A landing step of a command of a chain counts nothing down: the pair of the chain follows. -/
theorem copyBytesLand_chain {s u : State} {site : Nat} {j i : Job} {n : Nat} {last : Option ChainEnd} {ch : Chain} (hs : site < 288)
    (hj : s.job? site j.id = some j) (hm : s.mayLand site j = true) (hl : s.landStep site j = .ok (u, n)) (hf : j.cmd.form = .chain last)
    (hc : j.chained = true) (hu : u.job? site j.id = some i) (hi : i.cmd = j.cmd) (hch : (u.getCtx (j.src site)).chain = some ch) :
    ∃ t, exec (.copyBytesLand site j.id) s = .next t ∧ u.sameStore t ∧ u.sameTags t ∧ t.phasers = u.phasers
      ∧ t.job? site j.id = some { i with pos := i.pos + 1 }
      ∧ ∃ p, p = chainSum ((t.getTile site).jobs.filter fun x => ch.jobs.contains x.id) ∧ (t.getCtx (j.src site)).chain = some { ch with a := p.1, b := p.2 } := by
  have hnext := copyBytesLand_lands hs hj hm hl (fun k h c e => by rw [hf] at e; cases e) hu
  have hjob := stepped_job? hu n
  have hlanded (v : State) : ∃ ws, v.landed site { i with pos := i.pos + 1 } = v.sendAll ws := by
    simp only [State.landed, hi, hf]
    split
    · exact ⟨[_], rfl⟩
    · exact ⟨[], by simp [State.sendAll]⟩
  obtain ⟨ws, hws⟩ : ∃ ws, exec (.copyBytesLand site j.id) s = .next ((u.stepped site j n).sendAll ws) := by
    split at hnext
    · exact ⟨[_], hnext⟩
    · obtain ⟨ws, e⟩ := hlanded (u.stepped site j n)
      exact ⟨ws, by rw [hnext, e]⟩
  have hmod := modJob_keepsHomes u site j.id fun i => { i with pos := i.pos + 1 }
  have hph : (u.modJob site j.id fun i => { i with pos := i.pos + 1 }).phasers = u.phasers := State.setTile_phasers ..
  have hstep : u.stepped site j n = (u.modJob site j.id fun i => { i with pos := i.pos + 1 }).sumChain site j := by simp [State.stepped, hc]
  have hcopies := sumChain_sameCopies (u.modJob site j.id fun i => { i with pos := i.pos + 1 }) site j
  rw [hstep] at hws hjob
  rw [← hmod.ctxs] at hch
  generalize u.modJob site j.id (fun i => { i with pos := i.pos + 1 }) = v at hmod hph hcopies hws hjob hch
  have hsum : v.sumChain site j = v.modCtx (j.src site) fun x => { x with chain := x.chain.map fun ch =>
    { ch with a := (chainSum ((v.getTile site).jobs.filter fun x => ch.jobs.contains x.id)).1
              b := (chainSum ((v.getTile site).jobs.filter fun x => ch.jobs.contains x.id)).2 } } := by rw [State.sumChain, if_pos hc]
  have hkeeps : v.sameStore (v.sumChain site j) ∧ v.sameTags (v.sumChain site j) := by rw [hsum]; exact modCtx_keepsStore ..
  refine ⟨_, hws, sameStore_trans hmod.store ⟨hkeeps.1.1, hkeeps.1.2⟩, sameTags_trans hmod.tags hkeeps.2, hcopies.phasers.trans hph, hjob,
    _, rfl, ?_⟩
  rw [getCtx_sendAll, getTile_sendAll, hcopies.jobs, hsum, (modCtx_sets ..).1, hch]
  rfl

theorem copyBytesLand_peer {s : State} {site : Nat} {j : Job} {last : Option ChainEnd} {ch : Chain} (hs : site < 288) (hj : s.job? site j.id = some j)
    (hc : j.chained = true) (hf : j.cmd.form = .chain last) (hdev : (j.cmd.s1.extractLsb' 34 6).toNat ≠ Config.device)
    (hl : (s.peerLink (j.cmd.s1.extractLsb' 34 6).toNat).st = 3) (hw : (s.landingWord site j).getLsbD 50 = false) (hm : s.mayLand site j = true)
    (hcan : s.canonical = true) (ho : j.peerOff + 256 ≤ 2 ^ 64) (hch : (s.getCtx (j.src site)).chain = some ch) :
    ∃ t, exec (.copyBytesLand site j.id) s = .next t ∧ t.bytes j.peerHome j.peerOff 256 = s.landing site j ∧ s.sameBytesBut t j.peerHome j.peerOff 256
      ∧ t.phasers = s.phasers ∧ (j.peerOff % 256 = 0 → t.tagWord j.peerHome j.peerOff = s.peerWord site j)
      ∧ t.job? site j.id = some { j with pos := j.pos + 1, sum := fletcher (s.landing site j) j.sum, flip := [] }
      ∧ ∃ p, p = chainSum ((t.getTile site).jobs.filter fun x => ch.jobs.contains x.id) ∧ (t.getCtx (j.src site)).chain = some { ch with a := p.1, b := p.2 } := by
  obtain ⟨hbytes, hothers, htag, hph, hctx, hjob⟩ := linked_spec hj hcan ho
  have hstep := landStep_linked hf hdev hc hl hw
  generalize s.linked site j = u at hbytes hothers htag hph hctx hjob hstep
  obtain ⟨t, hnext, hstore, htags, hphs, hjobs, hchain⟩ := copyBytesLand_chain hs hj hm hstep hf hc hjob rfl (by rw [hctx]; exact hch)
  exact ⟨t, hnext, (sameStore_bytes hstore ..).trans hbytes, sameBytesBut_sameStore ⟨rfl, rfl, rfl, rfl⟩ hothers hstore, hphs.trans hph,
    fun h0 => (sameTags_tagWord htags ..).trans (htag h0), by simpa only using hjobs, hchain⟩

/-! ## Poison on the way to a peer device (R21, R243) -/

theorem contain_stops (s : State) (c : Src) (p : BitVec 4) (syl : Word) :
    ((s.contain c p syl).part p).stopped = true ∧ (s.contain c p syl).mem = s.mem := by
  have hstop : ∀ u : State, ((u.stopPartition p).part p).stopped = true ∧ (u.stopPartition p).mem = u.mem :=
    fun u => ⟨congrArg Partition.stopped (part_setPart ..), rfl⟩
  have hcontain (kind : Word) : let u := (s.report c 0x04 (p.setWidth 64) kind syl).stopPartition p
      ((u.part p).stopped = true ∧ u.mem = s.mem) ∧ ((u.sendTokens p).part p).stopped = true ∧ (u.sendTokens p).mem = s.mem := by
    have hu := hstop (s.report c 0x04 (p.setWidth 64) kind syl)
    rw [report_mem] at hu
    obtain ⟨hm, ts, es, -, hp⟩ := sendTokens_spec ((s.report c 0x04 (p.setWidth 64) kind syl).stopPartition p) p
    exact ⟨hu, by rw [hp]; exact hu.1, hm.trans hu.2⟩
  unfold State.contain
  dsimp only
  split
  · exact (hcontain 1).2
  · exact (hcontain 0).1

theorem copyBytesLand_poisoned {s : State} {site : Nat} {j : Job} {last : Option ChainEnd} (hs : site < 288) (hj : s.job? site j.id = some j)
    (hf : j.cmd.form = .chain last) (hdev : (j.cmd.s1.extractLsb' 34 6).toNat ≠ Config.device) (hw : (s.landingWord site j).getLsbD 50 = true)
    (hm : s.mayLand site j = true) :
    ∃ t, exec (.copyBytesLand site j.id) s = .next t ∧ (t.part j.ph.part).stopped = true ∧ t.job? site j.id = none ∧ t.mem = s.mem := by
  have hexec : exec (.copyBytesLand site j.id) s = execCopyBytesLand site j.id s := rfl
  simp only [execCopyBytesLand, hs.not_ge, if_false, hj, hm, if_true, landStep_poisoned hf hdev hw, State.stopCopy] at hexec
  obtain ⟨hstop, hmem⟩ := contain_stops s (j.src site) j.ph.part j.cmd.syl
  generalize s.contain (j.src site) j.ph.part j.cmd.syl = u at hexec hstop hmem
  obtain ⟨x, l, e⟩ : ∃ x l, u.retireJob site j.id = { u with tile := x, parkedTile := l } := modTile_eq ..
  refine ⟨_, hexec, ?_, job?_retireJob .., ?_⟩
  · rw [e]; exact hstop
  · rw [e]; exact hmem

/-! ## A fault of a command, and the comparison of a chain of one (R244) -/

theorem copyFault_chain {s : State} {site : Nat} {j : Job} {ch : Chain} (hs : site < 288) (hj : s.job? site j.id = some j) (hc : j.chained = true)
    (hch : (s.getCtx (j.src site)).chain = some ch) (hr : j.suspended = false) (detail : BitVec 8) (addr : Word) :
    let t := s.suspend site j.id detail addr
    exec (.copyFault site j.id detail addr) s = .next t ∧ (t.getCtx (j.src site)).chain = none
      ∧ (t.getCtx (j.src site)).traps = (s.getCtx (j.src site)).traps ++ [.copyFault (ch.jobs.headD 0) detail addr]
      ∧ (∀ x ∈ (t.getTile site).jobs, x.id ∉ ch.jobs) ∧ (t.part j.ph.part).errlog = (s.part j.ph.part).errlog ++ [⟨addr, 3⟩]
      ∧ (∀ x ∈ (s.getTile site).jobs, x.id ∈ ch.jobs → x.added = true → errorWork (s.phNow x.ph) (s.chainBytes site ch x.ph) ∈ t.work)
      ∧ t.phasers = s.phasers ∧ t.mem = s.mem := by
  have hsus : s.suspend site j.id detail addr = (s.logError j.ph.part addr 3).failChain (j.src site) detail addr := by
    simp only [State.suspend, hj, hc, if_true]
  obtain ⟨hnone, htraps, hgone, hparts, herrs, hph, hmem⟩ := failChain_spec (s := s.logError j.ph.part addr 3) (c := j.src site) hch detail addr
  dsimp only
  rw [copyFault_suspends hs hj hr, hsus]
  refine ⟨rfl, hnone, htraps, hgone, ?_, herrs, hph, hmem⟩
  rw [show ((s.logError j.ph.part addr 3).failChain (j.src site) detail addr).part j.ph.part = (s.logError j.ph.part addr 3).part j.ph.part by
    simp only [State.part, hparts]]
  exact congrArg Partition.errlog (part_setPart ..)

theorem chainCompare_one {s : State} {c : Src} {j : Job} {ch : Chain} {e : ChainEnd} (hs : c.site < 288) (hc : c.cid < 4) (hch : (s.getCtx c).chain = some ch)
    (he : ch.last = some e) (hone : s.chainJobs c.site ch = [j]) (hl : j.units ≤ j.pos) (hw : ch.b * 65536 + ch.a = e.word.toNat) :
    ∃ t, exec (.chainCompare c) s = .next t ∧ t.phasers = (s.countDown j.ph j.bytes).phasers ∧ t.job? c.site j.id = none := by
  have hall : ∀ x ∈ (s.getTile c.site).jobs, x.id ∈ ch.jobs → x.units ≤ x.pos := fun x hx hin => by
    have hx' := mem_chainJobs.2 ⟨hx, hin⟩
    rw [hone, List.mem_singleton] at hx'
    rw [hx']
    exact hl
  obtain ⟨a, hexec⟩ := chainCompare_compares hs hc hch he hall
  rw [if_pos hw, State.chainCloses, hone] at hexec
  have hret := job?_retireJob (s.countDown j.ph j.bytes) c.site j.id
  have hph : ((s.countDown j.ph j.bytes).retireJob c.site j.id).phasers = (s.countDown j.ph j.bytes).phasers := State.setTile_phasers ..
  have hkeep := modCtx_sameCopies ((s.countDown j.ph j.bytes).retireJob c.site j.id) c fun x => { x with chain := none }
  exact ⟨_, hexec, hkeep.phasers.trans hph, (job?_congr (hkeep.jobs c.site) _).trans hret⟩

end Sys2Proof.Machine
end

section
/-! The window of a `copy`: the coordinates and places of its bytes, and the granules of its dense side (R192, R297 to R299). -/

namespace Sys2Proof.Machine

/-! ## Coordinates and places (R297, R298) -/

/-- Dimension d of a record. -/
def Layout.dim (l : Layout) (d : Nat) : Dim := l.dims.getD d ⟨1, 0, 1⟩

/-- The coordinate in dimension d of the element that holds byte p of the window. -/
def Layout.coordAt (l : Layout) (os : List Int) (p d : Nat) : Int :=
  os.getD d 0 + (p / l.b / ((l.dims.take d).map (·.win)).prod % (l.dim d).win : Nat)

/-- That coordinate clamped to the tensor. -/
def Layout.edgeAt (l : Layout) (os : List Int) (p d : Nat) : Int := Max.max 0 (Min.min (l.coordAt os p d) ((l.dim d).extent - 1))

/-- The element that holds byte p of the window is inside the tensor. -/
def Layout.within (l : Layout) (os : List Int) (p : Nat) : Prop := ∀ d < l.dims.length, 0 ≤ l.coordAt os p d ∧ l.coordAt os p d < (l.dim d).extent

/-- The far address of byte p of the window at the coordinates x. -/
def Layout.placeAt (l : Layout) (x : Nat → Int) (p : Nat) : Nat :=
  ((((l.base.toNat : Int) + l.b * ((List.range l.dims.length).map fun d => x d * (l.dim d).stride).sum) % 2 ^ 57).toNat + p % l.b) % 2 ^ 57

theorem winCoords_eq (ds : List Dim) : ∀ (os : List Int) (e : Nat), winCoords ds os e =
    (List.range ds.length).map fun d => (ds.getD d ⟨1, 0, 1⟩, os.getD d 0 + (e / ((ds.take d).map (·.win)).prod % (ds.getD d ⟨1, 0, 1⟩).win : Nat)) := by
  induction ds with
  | nil => intro os e; rfl
  | cons d ds ih =>
    intro os e
    have hhead : os.headD 0 = os.getD 0 0 := by cases os <;> rfl
    rw [winCoords, ih, List.length_cons, List.range_succ_eq_map, List.map_cons, List.map_map, hhead]
    refine congrArg₂ List.cons (by simp) (List.map_congr_left fun k _ => ?_)
    simp [Nat.div_div_eq_div_mul]

theorem winCoords_coordAt (l : Layout) (os : List Int) (p : Nat) :
    winCoords l.dims os (p / l.b) = (List.range l.dims.length).map fun d => (l.dim d, l.coordAt os p d) := winCoords_eq ..

theorem winCoords_within (l : Layout) (os : List Int) (p : Nat) :
    ((winCoords l.dims os (p / l.b)).all fun c => decide (0 ≤ c.2 ∧ c.2 < c.1.extent)) = true ↔ l.within os p := by
  simp [winCoords_coordAt, Layout.within]

theorem far_placeAt (l : Layout) (x : Nat → Int) (p : Nat) :
    (l.far ((List.range l.dims.length).map fun d => (l.dim d, x d)) + p % l.b) % 2 ^ 57 = l.placeAt x p := by
  simp only [Layout.far, List.map_map, Layout.placeAt]
  rfl

section byteAt
variable {l : Layout} {os : List Int} {out : Bool} {p : Nat}

theorem byteAt_within (h : l.within os p) : l.byteAt os out p = .far (l.placeAt (l.coordAt os p) p) := by
  rw [Layout.byteAt, if_pos ((winCoords_within ..).2 h), winCoords_coordAt, far_placeAt]

theorem byteAt_out (h : ¬l.within os p) : l.byteAt os true p = .skip := by
  rw [Layout.byteAt, if_neg (fun e => h ((winCoords_within ..).1 e)), if_pos rfl]

theorem byteAt_in (h : ¬l.within os p) : l.byteAt os false p =
    if l.fill = 1 then .fill ((l.pattern >>> (8 * (p % l.b))).setWidth 8) else if l.fill = 2 then .edge (l.placeAt (l.edgeAt os p) p) else .fill 0 := by
  have hedge : (winCoords l.dims os (p / l.b)).map (fun c : Dim × Int => (c.1, max 0 (min c.2 (c.1.extent - 1))))
      = (List.range l.dims.length).map fun d => (l.dim d, l.edgeAt os p d) := by
    rw [winCoords_coordAt, List.map_map]
    rfl
  rw [Layout.byteAt, if_neg (fun e => h ((winCoords_within ..).1 e)), if_neg (by decide), hedge, far_placeAt]
  generalize l.fill = f
  revert f
  have hf : ∀ f : BitVec 2, f = 0 ∨ f = 1 ∨ f = 2 ∨ f = 3 := by decide
  intro f
  obtain rfl | rfl | rfl | rfl := hf f <;> rfl

end byteAt

/-! ## The granules of the dense side (R192, R299) -/

/-- The granule of the dense side at which a landing step is. -/
theorem granulesOf_getD {off n k : Nat} (hn : 0 < n) (h : 256 * (off / 256 + k) < off + n) : (granulesOf off n).getD k 0 = 256 * (off / 256 + k) := by
  have hk : k < (off + n - 1) / 256 + 1 - off / 256 := by omega
  rw [granulesOf, if_neg (by omega), List.getD_eq_getElem?_getD]
  simp [hk]

theorem interleave_range (m : BitVec 2) (a : Nat) : interleave m a % 256 = a % 256 ∧ interleave m a / 256 < 2 ^ 14 := by
  unfold interleave
  dsimp only
  generalize BitVec.ofNat 14 (a / 256) ^^^ _ = x
  have := x.isLt
  omega

/-- The bytes of a landing step lie in one granule, wherever it stands. -/
theorem interleave_fits {m : BitVec 2} {lo g n : Nat} (hg : g % 256 = 0) (hlo : g ≤ lo) (hn : lo + n ≤ g + 256) : interleave m lo + n ≤ 2 ^ 22 := by
  obtain ⟨h1, h2⟩ := interleave_range m lo
  omega

end Sys2Proof.Machine
end

section
/-! The landing of a `copy` into the scratchpad (R173, R297 to R299). -/

namespace Sys2Proof.Machine

/-! ## What a job of a `copy` names -/

/-- The record of a `copy`. -/
def Job.layout (j : Job) : Layout := Layout.of j.rec_

/-- The origin of each dimension of its window. -/
def Job.origins (j : Job) : List Int := j.layout.origin (recFmt (j.rec_.getD 0 0) == some .i4x) j.cmd.origin

/-- The offset of its dense side. -/
def Job.loc (j : Job) : Nat := (j.cmd.s3.extractLsb' 0 22).toNat

/-- The granule of its next landing step. -/
def Job.granule (j : Job) : Nat := 256 * (j.loc / 256 + j.pos)

/-- The offset of the first byte of its next landing step. -/
def Job.lo (j : Job) : Nat := Max.max j.loc j.granule

/-- The number of bytes of its next landing step. -/
def Job.count (j : Job) : Nat := Min.min (j.loc + j.layout.bytes) (j.granule + 256) - j.lo

/-- Where the first of them stands. -/
def Job.place (j : Job) : Nat := interleave j.layout.imode j.lo

/-- The window position of the i-th byte of its next landing step. -/
def Job.winPos (j : Job) (i : Nat) : Nat := j.lo - j.loc + i

/-- The window positions of its next landing step. -/
def Job.winPoss (j : Job) : List Nat := (List.range j.count).map j.winPos

theorem winPoss_length (j : Job) : j.winPoss.length = j.count := by rw [Job.winPoss, List.length_map, List.length_range]

section dense
variable {j : Job} (hn : j.count ≠ 0)
include hn

theorem granule_getD : (granulesOf j.loc j.layout.bytes).getD j.pos 0 = j.granule := by
  have hlo := le_max_left j.loc j.granule
  have hg := le_max_right j.loc j.granule
  unfold Job.count Job.lo at hn
  exact granulesOf_getD (by omega) (show j.granule < _ by omega)

theorem place_fits : j.place + j.count ≤ 2 ^ 22 := by
  have hg := le_max_right j.loc j.granule
  have h256 : j.granule % 256 = 0 := by rw [Job.granule]; omega
  exact interleave_fits h256 hg (by unfold Job.count Job.lo at *; omega)

end dense

/-! ## Bytes gathered -/

theorem mapM_ok {α β ε : Type} {f : α → Except ε β} (l : List α) (h : ∀ x ∈ l, ∃ b, f x = .ok b) :
    ∃ bs, l.mapM f = .ok bs ∧ List.Forall₂ (fun x b => f x = .ok b) l bs := by
  induction l with
  | nil => exact ⟨[], rfl, .nil⟩
  | cons x l ih =>
    rw [List.forall_mem_cons] at h
    obtain ⟨⟨b, hb⟩, hl⟩ := h
    obtain ⟨bs, hbs, hall⟩ := ih hl
    refine ⟨b :: bs, ?_, .cons hb hall⟩
    rw [List.mapM_cons, hb, hbs]
    rfl

/-- Bytes that are all found are gathered, each as it is found. -/
theorem gatherWindow_ok {s : State} {c : Src} {part : BitVec 4} {slice : Bool} {l : Layout} {os : List Int} {ps : List Nat}
    (h : ∀ p ∈ ps, ∃ v, s.winByte c part slice (l.byteAt os false p) = .ok v) :
    ∃ bs bad, s.gatherWindow c part slice l os ps = .ok (bs, bad) ∧ bs.length = ps.length
      ∧ ∀ i (hi : i < ps.length) v, s.winByte c part slice (l.byteAt os false ps[i]) = .ok v → bs.getD i 0 = v.1 := by
  obtain ⟨bs, hbs, hall⟩ := mapM_ok (f := s.winByte c part slice) (ps.map (l.byteAt os false)) (List.forall_mem_map.2 h)
  obtain ⟨hlen, hget⟩ := List.forall₂_iff_get.1 hall
  rw [List.length_map] at hlen
  refine ⟨bs.map (·.1), _, by rw [State.gatherWindow, hbs]; rfl, by rw [List.length_map, hlen], fun i hi v hv => ?_⟩
  have hb := hget i (by rw [List.length_map]; exact hi) (by rw [← hlen]; exact hi)
  rw [List.get_eq_getElem, List.getElem_map, hv, List.get_eq_getElem, Except.ok.injEq] at hb
  rw [hb, List.getD_eq_getElem?_getD, List.getElem?_map, List.getElem?_eq_getElem (by rw [← hlen]; exact hi)]
  rfl

/-! ## The landing step -/

/-- The state behind a landing step into the scratchpad. -/
def State.gathered (s : State) (site : Nat) (j : Job) (slice : Bool) (bs : List Byte) (bad : Bool) : State :=
  let u := (s.gatherRuns (j.src site) j.ph.part slice j.layout j.origins j.winPoss).foldl (fun s r => s.asked r.1) s
  (u.bankWrite (j.src site).pad j.place bs (mkTagWord j.ph.part bad (BitVec.ofNat 10 site) j.layout.wstamp j.layout.seed)).useBanks (j.src site).pad j.place
    j.count

theorem landStep_gathered {s : State} {site : Nat} {j : Job} {slice : Bool} (hf : j.cmd.form = .tensor false slice) (hn : j.count ≠ 0) {bs : List Byte}
    {bad : Bool} (h : s.gatherWindow (j.src site) j.ph.part slice j.layout j.origins j.winPoss = .ok (bs, bad)) :
    s.landStep site j = .ok (s.gathered site j slice bs bad, j.count) := by
  have hg : (granulesOf (j.cmd.s3.extractLsb' 0 22).toNat (Layout.of j.rec_).bytes).getD j.pos 0 = j.granule := granule_getD hn
  have h' : s.gatherWindow (j.src site) j.ph.part slice (Layout.of j.rec_)
      ((Layout.of j.rec_).origin (recFmt (j.rec_.getD 0 0) == some .i4x) j.cmd.origin)
      ((List.range (min ((j.cmd.s3.extractLsb' 0 22).toNat + (Layout.of j.rec_).bytes) (j.granule + 256) - max (j.cmd.s3.extractLsb' 0 22).toNat j.granule)).map
        fun i => max (j.cmd.s3.extractLsb' 0 22).toNat j.granule - (j.cmd.s3.extractLsb' 0 22).toNat + i) = .ok (bs, bad) := h
  simp only [State.landStep, hf, State.landTensor, hg, h', Bool.false_eq_true, if_false, List.length_map, List.length_range]
  rfl

theorem gathered_spec {s : State} {site : Nat} {j : Job} (slice : Bool) {bs : List Byte} (bad : Bool) (hj : s.job? site j.id = some j)
    (hcan : s.canonical = true) (hn : j.count ≠ 0) (hlen : bs.length = j.count) :
    let u := s.gathered site j slice bs bad
    (∀ i < j.count, u.byte (j.src site).pad (j.place + i) = bs.getD i 0) ∧ s.sameBytesBut u (j.src site).pad j.place j.count
      ∧ u.tagWord (j.src site).pad j.place = mkTagWord j.ph.part bad (BitVec.ofNat 10 site) j.layout.wstamp j.layout.seed
      ∧ u.phasers = s.phasers ∧ u.mesh = s.mesh ∧ u.job? site j.id = some j := by
  have hfit := place_fits hn
  have hfold : ∀ (rs : List (Home × Nat × List Byte)) (v : State), v.keepsHomes (rs.foldl (fun s r => s.asked r.1) v) := fun rs => by
    induction rs with
    | nil => exact fun v => keepsHomes_links v v.links
    | cons r rs ih => exact fun v => keepsHomes_trans (asked_keepsHomes v r.1) (ih _)
  have hasked := hfold (s.gatherRuns (j.src site) j.ph.part slice j.layout j.origins j.winPoss) s
  have hcopies := foldl_sameCopies (f := fun s (r : Home × Nat × List Byte) => s.asked r.1) (fun s r => asked_sameCopies s r.1)
    (s.gatherRuns (j.src site) j.ph.part slice j.layout j.origins j.winPoss) s
  dsimp only [State.gathered]
  generalize (s.gatherRuns (j.src site) j.ph.part slice j.layout j.origins j.winPoss).foldl (fun s r => s.asked r.1) s = v at hasked hcopies
  have hcanv := hasked.canonical hcan
  have ho : j.place + bs.length ≤ 2 ^ 64 := by rw [hlen]; omega
  generalize mkTagWord j.ph.part bad (BitVec.ofNat 10 site) j.layout.wstamp j.layout.seed = w
  have hwrite : v.homeWrite (j.src site).pad j.place bs w false = v.bankWrite (j.src site).pad j.place bs w := by
    unfold Src.pad
    split <;> rfl
  obtain ⟨hbytes, hothers, -⟩ := homeWrite_spec (s := v) (j.src site).pad j.place bs w false hcanv ho
  have htag := tagWord_bankWrite hcanv (j.src site).pad j.place bs w ho j.place
  have hbank := sameCopies_trans hcopies (bankWrite_sameCopies hcanv (j.src site).pad j.place bs w ho)
  rw [hwrite, hlen] at hbytes hothers
  rw [hlen, if_pos ⟨256 * (j.place / 256), mem_granulesOf.2 ⟨by omega, _, rfl, le_refl _, by omega⟩, by omega⟩] at htag
  generalize v.bankWrite (j.src site).pad j.place bs w = b at hbytes hothers htag hbank
  have hkeeps := useBanks_keepsHomes b (j.src site).pad j.place j.count
  have hall := sameCopies_trans hbank (useBanks_sameCopies b (j.src site).pad j.place j.count)
  refine ⟨fun i hi => ?_, sameBytesBut_sameStore hasked.store hothers hkeeps.store, (sameTags_tagWord hkeeps.tags ..).trans htag, hall.phasers, hall.mesh,
    (job?_congr (hall.jobs site) _).trans hj⟩
  rw [sameStore_byte hkeeps.store, ← bytes_getD b _ j.count j.place i hi, hbytes]

section land
variable {s : State} {site : Nat} {j : Job} {slice : Bool}

section winByte
variable {c : Src} {part : BitVec 4} {l : Layout} {os : List Int} {p : Nat}

theorem winByte_within (hw : l.within os p) {h : Home} {a : Nat} (hr : s.farPlace c part slice (l.placeAt (l.coordAt os p) p) .read = .ok (h, a)) :
    s.winByte c part slice (l.byteAt os false p) = .ok (s.byte h a, s.homePoison h a 1) := by
  rw [byteAt_within hw, State.winByte, hr]
  rfl

theorem winByte_edge (hw : ¬l.within os p) (hf : l.fill = 2) {h : Home} {a : Nat}
    (hr : s.farPlace c part slice (l.placeAt (l.edgeAt os p) p) .read = .ok (h, a)) :
    s.winByte c part slice (l.byteAt os false p) = .ok (s.byte h a, s.homePoison h a 1) := by
  rw [byteAt_in hw, if_neg (by rw [hf]; decide), if_pos hf, State.winByte, hr]
  rfl

theorem winByte_pattern (hw : ¬l.within os p) (hf : l.fill = 1) :
    s.winByte c part slice (l.byteAt os false p) = .ok ((l.pattern >>> (8 * (p % l.b))).setWidth 8, false) := by
  rw [byteAt_in hw, if_pos hf]
  rfl

theorem winByte_zero (hw : ¬l.within os p) (h1 : l.fill ≠ 1) (h2 : l.fill ≠ 2) : s.winByte c part slice (l.byteAt os false p) = .ok (0, false) := by
  rw [byteAt_in hw, if_neg h1, if_neg h2]
  rfl

end winByte

/-- What byte i of a landing step into the scratchpad is, where it is found. -/
theorem winByte_ok (hfound : ∀ i < j.count,
      (j.layout.within j.origins (j.winPos i) → ∃ h a, s.farPlace (j.src site) j.ph.part slice
        (j.layout.placeAt (j.layout.coordAt j.origins (j.winPos i)) (j.winPos i)) .read = .ok (h, a))
      ∧ (¬j.layout.within j.origins (j.winPos i) → j.layout.fill = 2 → ∃ h a, s.farPlace (j.src site) j.ph.part slice
        (j.layout.placeAt (j.layout.edgeAt j.origins (j.winPos i)) (j.winPos i)) .read = .ok (h, a))) :
    ∀ p ∈ j.winPoss, ∃ v, s.winByte (j.src site) j.ph.part slice (j.layout.byteAt j.origins false p) = .ok v := by
  intro p hp
  obtain ⟨i, hi, rfl⟩ := List.mem_map.1 hp
  obtain ⟨hin, hedge⟩ := hfound i (List.mem_range.1 hi)
  by_cases hw : j.layout.within j.origins (j.winPos i)
  · obtain ⟨h, a, hr⟩ := hin hw
    exact ⟨_, winByte_within hw hr⟩
  · by_cases h1 : j.layout.fill = 1
    · exact ⟨_, winByte_pattern hw h1⟩
    · by_cases h2 : j.layout.fill = 2
      · obtain ⟨h, a, hr⟩ := hedge hw h2
        exact ⟨_, winByte_edge hw h2 hr⟩
      · exact ⟨_, winByte_zero hw h1 h2⟩

/-- A landing step of a `copy` into the scratchpad (R173, R299). -/
theorem copyBytesLand_gathers (hs : site < 288) (hj : s.job? site j.id = some j) (hf : j.cmd.form = .tensor false slice) (hc : j.chained = false)
    (hm : s.mayLand site j = true) (hcan : s.canonical = true) (hn : j.count ≠ 0)
    (hfound : ∀ p ∈ j.winPoss, ∃ v, s.winByte (j.src site) j.ph.part slice (j.layout.byteAt j.origins false p) = .ok v) :
    ∃ t, exec (.copyBytesLand site j.id) s = .next t ∧ s.sameBytesBut t (j.src site).pad j.place j.count
      ∧ t.phasers = (s.countDown j.ph j.count).phasers ∧ (j.pos + 1 = j.units → t.job? site j.id = none)
      ∧ (j.pos + 1 < j.units → t.job? site j.id = some { j with pos := j.pos + 1 } ∧ landWork (j.src site) j.id ∈ t.work)
      ∧ (∃ bad, t.tagWord (j.src site).pad j.place = mkTagWord j.ph.part bad (BitVec.ofNat 10 site) j.layout.wstamp j.layout.seed)
      ∧ ∀ i < j.count, ∀ v, s.winByte (j.src site) j.ph.part slice (j.layout.byteAt j.origins false (j.winPos i)) = .ok v →
        t.byte (j.src site).pad (j.place + i) = v.1 := by
  obtain ⟨bs, bad, hgather, hlen, hget⟩ := gatherWindow_ok hfound
  rw [winPoss_length] at hlen
  obtain ⟨hbytes, hothers, htag, hph, hmesh, hjob⟩ := gathered_spec slice bad hj hcan hn hlen
  have hstep := landStep_gathered hf hn hgather
  generalize s.gathered site j slice bs bad = u at hbytes hothers htag hph hmesh hjob hstep
  obtain ⟨t, hnext, hstore, htags, hcount, hmore, hlast⟩ := copyBytesLand_single hs hj hm hstep (by rw [hf]; trivial) hc hjob ⟨rfl, rfl, rfl, rfl, rfl⟩
  refine ⟨t, hnext, sameBytesBut_sameStore ⟨rfl, rfl, rfl, rfl⟩ hothers hstore, hcount.trans (countDown_phasers hph hmesh ..), hlast, hmore,
    ⟨bad, (sameTags_tagWord htags ..).trans htag⟩, fun i hi v hv => ?_⟩
  rw [sameStore_byte hstore, hbytes i hi]
  refine hget i (by rw [winPoss_length]; exact hi) v ?_
  simpa [Job.winPoss] using hv

end land

end Sys2Proof.Machine
end

section
/-! The landing of a `copy` out of the scratchpad (R173, R199, R203, R297 to R299). -/

namespace Sys2Proof.Machine

/-! ## What a write at a home leaves of the copies -/

theorem report_sameCopies (s : State) (c : Src) (k : Nat) (a b d : Word) : s.sameCopies (s.report c k a b d) := by
  refine modTile_sameCopies (fun t => ?_) s _
  unfold Tile.report
  split_ifs <;> rfl

theorem setPart_sameCopies (s : State) (p : BitVec 4) (x : Partition) : s.sameCopies (s.setPart p x) := ⟨rfl, rfl, fun _ => rfl, fun _ h => h⟩

theorem logUndo_sameCopies (s : State) (line : Nat) : s.sameCopies (s.logUndo line) := by
  unfold State.logUndo
  simp only
  split_ifs
  · exact sameCopies_refl s
  · exact setPart_sameCopies ..
  · exact sameCopies_trans (setPart_sameCopies ..) (report_sameCopies ..)
  · exact sameCopies_refl s

theorem markUnits_sameCopies (s : State) (h : Home) (off n : Nat) (p : Bool) : s.sameCopies (s.markUnits h off n p) := by
  refine foldl_sameCopies (fun s u => ?_) _ s
  split_ifs
  · exact ⟨rfl, rfl, fun _ => rfl, fun _ h => h⟩
  · exact ⟨rfl, rfl, fun _ => rfl, fun _ h => h⟩
  · exact sameCopies_refl s

theorem putBytes_sameCopies {s : State} (hc : s.canonical = true) (h : Home) (off : Nat) (bs : List Byte) (ho : off + bs.length ≤ 2 ^ 64) :
    s.sameCopies (s.putBytes h off bs) := by
  obtain ⟨h1, -, -, h4, -⟩ := (canonical_iff s).1 hc
  obtain ⟨⟨m, lk, e, -⟩, -⟩ := putBytes_spec (s := s) h off bs h1 h4 ho
  rw [e]
  exact ⟨rfl, rfl, fun _ => rfl, fun _ h => h⟩

theorem homeWrite_sameCopies {s : State} (hc : s.canonical = true) (h : Home) (off : Nat) (bs : List Byte) (w : Word) (p : Bool)
    (ho : off + bs.length ≤ 2 ^ 64) : s.sameCopies (s.homeWrite h off bs w p) := by
  have plain {v : State} (hv : v.canonical = true) : v.sameCopies ((v.putBytes h off bs).markUnits h off bs.length p) :=
    sameCopies_trans (putBytes_sameCopies hv h off bs ho) (markUnits_sameCopies ..)
  have logged := foldl_sameCopies logUndo_sameCopies (linesOf off bs.length) s
  have hcan := (fold_keeps _ (fun s l => (logUndo_keeps s l).1) (fun s l => (logUndo_keeps s l).2) (linesOf off bs.length) s).2.canonical hc
  cases h with
  | pool | custodian => exact bankWrite_sameCopies hc _ off bs w ho
  | peerPool => exact putGranules_sameCopies hc _ off bs w ho
  | dram => exact sameCopies_trans logged (plain hcan)
  | host | slice | peerMem => exact plain hc

/-! ## Runs of bytes -/

/-- A byte with its home and its offset there. -/
abbrev Placed := Home × Nat × Byte

/-- The bytes of a run. -/
def runBytes (h : Home) : Nat → List Byte → List Placed
  | _, [] => []
  | a, b :: bs => (h, a, b) :: runBytes h (a + 1) bs

/-- The bytes of some runs. -/
def runsBytes (rs : List (Home × Nat × List Byte)) : List Placed := rs.flatMap fun r => runBytes r.1 r.2.1 r.2.2

theorem runBytes_snoc (h : Home) (b : Byte) (bs : List Byte) : ∀ a, runBytes h a (bs ++ [b]) = runBytes h a bs ++ [(h, a + bs.length, b)] := by
  induction bs with
  | nil => intro a; rfl
  | cons x bs ih =>
    intro a
    simp only [List.cons_append, runBytes, ih, List.length_cons]
    rw [Nat.add_right_comm, Nat.add_assoc]

/-- A byte joined to runs: it lengthens the last one, or begins one of its own. -/
def joinRun (acc : List (Home × Nat × List Byte)) (x : Placed) : List (Home × Nat × List Byte) :=
  match acc.reverse with
  | (h, off, bs) :: r => if h = x.1 && off + bs.length = x.2.1 then r.reverse ++ [(h, off, bs ++ [x.2.2])] else acc ++ [(x.1, x.2.1, [x.2.2])]
  | [] => [(x.1, x.2.1, [x.2.2])]

theorem joinRuns_eq (l : List Placed) : joinRuns l = l.foldl joinRun [] := rfl

theorem joinRun_spec (acc : List (Home × Nat × List Byte)) (x : Placed) (hne : ∀ r ∈ acc, r.2.2 ≠ []) :
    runsBytes (joinRun acc x) = runsBytes acc ++ [x] ∧ ∀ r ∈ joinRun acc x, r.2.2 ≠ [] := by
  have fresh : runsBytes (acc ++ [(x.1, x.2.1, [x.2.2])]) = runsBytes acc ++ [x] ∧ ∀ r ∈ acc ++ [(x.1, x.2.1, [x.2.2])], r.2.2 ≠ [] := by
    refine ⟨by simp [runsBytes, runBytes], fun r hr => ?_⟩
    obtain h | h := List.mem_append.1 hr
    · exact hne r h
    · rw [List.mem_singleton.1 h]
      exact List.cons_ne_nil _ _
  unfold joinRun
  split
  · next h off bs r e =>
    rw [← List.reverse_reverse acc, e] at hne ⊢
    split
    · next hx =>
      obtain ⟨rfl, hoff⟩ : h = x.1 ∧ off + bs.length = x.2.1 := by simpa using hx
      refine ⟨?_, fun q hq => ?_⟩
      · simp [runsBytes, runBytes_snoc, hoff]
      · obtain hq | hq := List.mem_append.1 hq
        · exact hne q (by simp [List.mem_reverse.1 hq])
        · rw [List.mem_singleton.1 hq]
          simp
    · rw [← e, List.reverse_reverse]
      exact fresh
  · next e =>
    rw [List.reverse_eq_nil_iff.1 e] at fresh ⊢
    exact fresh

/-- Runs hold the bytes that were joined, in their order, and none is empty. -/
theorem joinRuns_spec (l : List Placed) : runsBytes (joinRuns l) = l ∧ ∀ r ∈ joinRuns l, r.2.2 ≠ [] := by
  have general : ∀ (l : List Placed) acc, (∀ r ∈ acc, r.2.2 ≠ []) →
      runsBytes (l.foldl joinRun acc) = runsBytes acc ++ l ∧ ∀ r ∈ l.foldl joinRun acc, r.2.2 ≠ [] := by
    intro l
    induction l with
    | nil => exact fun acc hne => ⟨(List.append_nil _).symm, hne⟩
    | cons x l ih =>
      intro acc hne
      obtain ⟨hx, hne'⟩ := joinRun_spec acc x hne
      obtain ⟨hl, hall⟩ := ih _ hne'
      exact ⟨by rw [List.foldl_cons, hl, hx, List.append_assoc, List.singleton_append], hall⟩
  rw [joinRuns_eq]
  exact general l [] (by simp)

/-! ## The byte written last -/

/-- The byte at an offset of a home after some bytes are written, one after another; `v` is what it held. -/
def latest (h : Home) (a : Nat) (ws : List Placed) (v : Byte) : Byte := ws.foldl (fun v w => if w.1 = h ∧ w.2.1 = a then w.2.2 else v) v

theorem latest_append (h : Home) (a : Nat) (xs ys : List Placed) (v : Byte) : latest h a (xs ++ ys) v = latest h a ys (latest h a xs v) := List.foldl_append ..

theorem latest_runBytes (h g : Home) (a : Nat) (bs : List Byte) : ∀ off v,
    latest h a (runBytes g off bs) v = if g = h ∧ off ≤ a ∧ a < off + bs.length then bs.getD (a - off) 0 else v := by
  induction bs with
  | nil => intro off v; rw [if_neg (by simp)]; rfl
  | cons b bs ih =>
    intro off v
    have hstep : latest h a (runBytes g off (b :: bs)) v = latest h a (runBytes g (off + 1) bs) (if g = h ∧ off = a then b else v) := rfl
    rw [hstep, List.length_cons]
    by_cases ha : g = h ∧ off = a
    · obtain ⟨rfl, rfl⟩ := ha
      rw [if_pos ⟨rfl, rfl⟩, ih, if_neg (by omega), if_pos ⟨rfl, by omega, by omega⟩, Nat.sub_self]
      rfl
    · rw [if_neg ha, ih]
      by_cases hin : g = h ∧ off + 1 ≤ a ∧ a < off + 1 + bs.length
      · obtain ⟨hg, h1, h2⟩ := hin
        rw [if_pos ⟨hg, h1, h2⟩, if_pos ⟨hg, by omega, by omega⟩, show a - off = a - (off + 1) + 1 by omega, List.getD_cons_succ]
      · rw [if_neg hin, if_neg (fun ⟨hg, h1, h2⟩ => hin ⟨hg, by have hne : off ≠ a := fun e => ha ⟨hg, e⟩; omega, by omega⟩)]

/-- Of the steps that give a value, the last one counts. -/
theorem foldl_range_latest {W : Nat → Prop} [DecidablePred W] (f : Nat → Byte) (v : Byte) (n : Nat) :
    ((∀ k < n, ¬W k) → (List.range n).foldl (fun v k => if W k then f k else v) v = v)
    ∧ ∀ i < n, W i → (∀ k < n, i < k → ¬W k) → (List.range n).foldl (fun v k => if W k then f k else v) v = f i := by
  induction n with
  | zero => exact ⟨fun _ => rfl, fun i hi => absurd hi (Nat.not_lt_zero i)⟩
  | succ n ih =>
    obtain ⟨hnone, hlast⟩ := ih
    rw [List.range_succ, List.foldl_append]
    refine ⟨fun h => ?_, fun i hi hw h => ?_⟩
    · exact (if_neg (h n (by omega))).trans (hnone fun k hk => h k (by omega))
    · obtain rfl | hi : i = n ∨ i < n := by omega
      · exact if_pos hw
      · exact (if_neg (h n (by omega) hi)).trans (hlast i hi hw fun k hk => h k (by omega))

/-! ## Runs written at their homes -/

/-- A home of this package that a `copy` writes: device memory or a slice. -/
def farHome (h : Home) : Prop := h = .dram ∨ ∃ k < 24, h = .slice k

/-- The number of such a home is its own. -/
theorem number_farHome {h g : Home} (hh : farHome h) (e : g.number = h.number) : g = h := by
  obtain rfl | ⟨k, hk, rfl⟩ := hh
  · cases g <;> simp [Home.number] at e ⊢
  · cases g <;> simp [Home.number] at e ⊢ <;> omega

theorem placeOf_home (leaf : Word) (b : Nat) (va : Word) : (placeOf leaf b va).home = .dram ∨ Home.outside (placeOf leaf b va).home = true := by
  unfold placeOf
  dsimp only
  split
  · exact .inl rfl
  · exact .inr rfl
  · exact .inr rfl

theorem translate_home {s : State} {site : Nat} {part : BitVec 4} {va : Word} {n : Need} {p : Place} (h : s.translate site part va n = .ok p) :
    p.home = .dram ∨ Home.outside p.home = true := by
  unfold State.translate State.translateUnder at h
  split at h
  · cases h
  · next leaf b _ =>
    have hplace := placeOf_home leaf b va
    split at h
    · dsimp only at h
      split at h
      · split at h
        · cases h
          exact hplace
        · cases h
      · cases h
        exact hplace
    · cases h

theorem farPlace_farHome {s : State} {c : Src} {part : BitVec 4} {slice : Bool} {addr a : Nat} {n : Need} {h : Home}
    (hp : s.farPlace c part slice addr n = .ok (h, a)) (ho : Home.outside h = false) : farHome h := by
  unfold State.farPlace at hp
  split at hp
  · dsimp only at hp
    split at hp
    · cases hp
    · next hk =>
      cases hp
      exact .inr ⟨addr / 2 ^ 23, by simp at hk; omega, rfl⟩
  · dsimp only at hp
    split at hp
    · cases hp
    · cases hp
    · next p e =>
      split at hp
      · cases hp
      · cases hp
        obtain hd | hd := translate_home e
        · exact .inl hd
        · rw [ho] at hd
          cases hd

end Sys2Proof.Machine
end

section
/-! A landing step of a `copy` out of the scratchpad: the bytes inside the tensor are written, in window order (R199, R297 to R299). -/

namespace Sys2Proof.Machine

/-! ## Runs written -/

/-- The runs of a landing step written at their homes, under the poison of what was read. -/
def State.putRuns (s : State) (poison : Bool) (rs : List (Home × Nat × List Byte)) : State :=
  rs.foldl (fun s r => (s.carried r.1).homeWrite r.1 r.2.1 r.2.2 0 poison) s

theorem byte_carried_homeWrite {s : State} (hc : s.canonical = true) {h : Home} (hh : farHome h) {off : Nat} {bs : List Byte} (ho : off + bs.length ≤ 2 ^ 64)
    (poison : Bool) : let t := (s.carried h).homeWrite h off bs 0 poison
    t.canonical = true ∧ s.sameCopies t ∧ ∀ g a, a < 2 ^ 64 → t.byte g a = latest g a (runBytes h off bs) (s.byte g a) := by
  have hcar : s.keepsHomes (s.carried h) := by rw [carried_eq]; exact keepsHomes_links ..
  obtain ⟨hbytes, hothers, hw⟩ := homeWrite_spec (s := s.carried h) h off bs 0 poison (hcar.canonical hc) ho
  have hcopies := sameCopies_trans (carried_sameCopies s h) (homeWrite_sameCopies (hcar.canonical hc) h off bs 0 poison ho)
  refine ⟨hw.canonical (hcar.canonical hc), hcopies, fun g a ha => ?_⟩
  rw [latest_runBytes]
  split
  · next hin =>
    obtain ⟨rfl, h1, h2⟩ := hin
    rw [← congrArg (fun l => l.getD (a - off) 0) hbytes, bytes_getD _ _ _ _ _ (by omega), Nat.add_sub_cancel' h1]
  · next hin =>
    rw [hothers g a ha ?_, sameStore_byte hcar.store]
    by_contra hne
    simp only [ne_eq, not_or, not_not, Nat.not_lt, Nat.not_le] at hne
    obtain ⟨hnum, h1, h2⟩ := hne
    exact hin ⟨(number_farHome hh hnum).symm, h1, h2⟩

theorem putRuns_spec (poison : Bool) (rs : List (Home × Nat × List Byte)) : ∀ {s : State}, s.canonical = true →
    (∀ r ∈ rs, farHome r.1 ∧ r.2.1 + r.2.2.length ≤ 2 ^ 64) →
    s.sameCopies (s.putRuns poison rs) ∧ ∀ g a, a < 2 ^ 64 → (s.putRuns poison rs).byte g a = latest g a (runsBytes rs) (s.byte g a) := by
  induction rs with
  | nil => exact fun {s} _ _ => ⟨sameCopies_refl s, fun _ _ _ => rfl⟩
  | cons r rs ih =>
    intro s hc hall
    obtain ⟨⟨hh, ho⟩, hrest⟩ := List.forall_mem_cons.1 hall
    obtain ⟨hcan, hcopies, hbyte⟩ := byte_carried_homeWrite hc hh ho poison
    obtain ⟨hcopies', hbyte'⟩ := ih hcan hrest
    refine ⟨sameCopies_trans hcopies hcopies', fun g a ha => ?_⟩
    rw [runsBytes, List.flatMap_cons, latest_append, ← hbyte g a ha]
    exact hbyte' g a ha

/-- The runs of bytes that fit their homes fit them. -/
theorem joinRuns_fit {ws : List Placed} (hall : ∀ w ∈ ws, farHome w.1 ∧ w.2.1 < 2 ^ 64) :
    ∀ r ∈ joinRuns ws, farHome r.1 ∧ r.2.1 + r.2.2.length ≤ 2 ^ 64 := by
  intro r hr
  obtain ⟨hbytes, hne⟩ := joinRuns_spec ws
  obtain ⟨bs, b, e⟩ := List.eq_nil_or_concat'  r.2.2 |>.resolve_left (hne r hr)
  have hmem : (r.1, r.2.1 + bs.length, b) ∈ ws := by
    rw [← hbytes, runsBytes, List.mem_flatMap]
    exact ⟨r, hr, by rw [e, runBytes_snoc]; simp⟩
  obtain ⟨hh, ha⟩ := hall _ hmem
  exact ⟨hh, by rw [e, List.length_append, List.length_singleton]; dsimp only at ha; omega⟩

/-! ## Bytes scattered -/

/-- The far place to which byte p of the window goes, where it is written. -/
def State.farWrite (s : State) (c : Src) (part : BitVec 4) (slice : Bool) (l : Layout) (os : List Int) (p : Nat) : Option (Home × Nat) :=
  match l.byteAt os true p with
  | .far a => (s.farPlace c part slice a .write).toOption
  | _ => none

section scatter
variable {s : State} {c : Src} {part : BitVec 4} {slice : Bool} {l : Layout} {os : List Int}

theorem farWrite_iff {p : Nat} {h : Home} {a : Nat} : s.farWrite c part slice l os p = some (h, a) ↔
    l.within os p ∧ s.farPlace c part slice (l.placeAt (l.coordAt os p) p) .write = .ok (h, a) := by
  unfold State.farWrite
  by_cases hw : l.within os p
  · rw [byteAt_within hw]
    dsimp only
    cases s.farPlace c part slice (l.placeAt (l.coordAt os p) p) .write <;> simp [Except.toOption, hw]
  · simp [byteAt_out hw, hw]

/-- The bytes inside the tensor are scattered, in their order, where each finds its place. -/
theorem scatterWindow_ok (qs : List (Nat × Byte)) (h : ∀ q ∈ qs, l.within os q.1 → ∃ x, s.farWrite c part slice l os q.1 = some x) :
    s.scatterWindow c part slice l os qs = .ok (qs.filterMap fun q => (s.farWrite c part slice l os q.1).map fun x => (x.1, x.2, q.2)) := by
  induction qs with
  | nil => rfl
  | cons q qs ih =>
    obtain ⟨p, v⟩ := q
    obtain ⟨hq, hqs⟩ := List.forall_mem_cons.1 h
    by_cases hw : l.within os p
    · obtain ⟨⟨x, a⟩, hx⟩ := hq hw
      have hplace := (farWrite_iff.1 hx).2
      rw [State.scatterWindow, byteAt_within hw]
      simp only [hplace, ih hqs]
      rw [List.filterMap_cons_some (by rw [hx]; rfl)]
    · have hnone : s.farWrite c part slice l os p = none := by rw [State.farWrite, byteAt_out hw]
      rw [State.scatterWindow, byteAt_out hw]
      dsimp only
      rw [ih hqs, List.filterMap_cons_none (by rw [hnone]; rfl)]

end scatter

/-! ## The landing step -/

section land
variable {s : State} {site : Nat} {j : Job} {slice : Bool}

/-- The far place to which byte i of a landing step goes. -/
def State.stepWrite (s : State) (site : Nat) (j : Job) (slice : Bool) (i : Nat) : Option (Home × Nat) :=
  s.farWrite (j.src site) j.ph.part slice j.layout j.origins (j.winPos i)

/-- The bytes that a landing step out of the scratchpad writes, in window order. -/
def State.scattered (s : State) (site : Nat) (j : Job) (slice : Bool) : List Placed :=
  (List.range j.count).filterMap fun i => (s.stepWrite site j slice i).map fun x => (x.1, x.2, s.byte (j.src site).pad (j.place + i))

/-- The state behind a landing step out of the scratchpad. -/
def State.scatter (s : State) (site : Nat) (j : Job) (slice : Bool) : State :=
  (s.useBanks (j.src site).pad j.place j.count).putRuns (s.homePoison (j.src site).pad j.place j.count) (joinRuns (s.scattered site j slice))

theorem bytes_eq_map (s : State) (h : Home) (off n : Nat) : s.bytes h off n = (List.range n).map fun i => s.byte h (off + i) := by
  refine List.ext_getElem (by rw [bytes_length, List.length_map, List.length_range]) fun i h1 h2 => ?_
  have hi : i < n := by simpa using h2
  have hb := bytes_getD s h n off i hi
  rw [List.getD_eq_getElem?_getD, List.getElem?_eq_getElem h1, Option.getD_some] at hb
  rw [hb, List.getElem_map, List.getElem_range]

/-- Every byte inside the tensor finds its place, inside the package. -/
def State.writesFind (s : State) (site : Nat) (j : Job) (slice : Bool) : Prop :=
  ∀ i < j.count, j.layout.within j.origins (j.winPos i) → ∃ h a, s.stepWrite site j slice i = some (h, a) ∧ Home.outside h = false ∧ a < 2 ^ 64

theorem scattered_fits (hfind : s.writesFind site j slice) : ∀ w ∈ s.scattered site j slice, Home.outside w.1 = false ∧ farHome w.1 ∧ w.2.1 < 2 ^ 64 := by
  intro w hw
  obtain ⟨i, hi, e⟩ := List.mem_filterMap.1 hw
  obtain ⟨⟨h, a⟩, hx, rfl⟩ := Option.map_eq_some_iff.1 e
  obtain ⟨hin, hplace⟩ := farWrite_iff.1 hx
  obtain ⟨h', a', hx', hout, ha⟩ := hfind i (List.mem_range.1 hi) hin
  rw [hx, Option.some.injEq, Prod.mk.injEq] at hx'
  obtain ⟨rfl, rfl⟩ := hx'
  exact ⟨hout, farPlace_farHome hplace hout, ha⟩

theorem landStep_scattered (hf : j.cmd.form = .tensor true slice) (hn : j.count ≠ 0) (hfind : s.writesFind site j slice) :
    s.landStep site j = .ok (s.scatter site j slice, j.count) := by
  have hg : (granulesOf (j.cmd.s3.extractLsb' 0 22).toNat (Layout.of j.rec_).bytes).getD j.pos 0 = j.granule := granule_getD hn
  have hzip : j.winPoss.zip (s.bytes (j.src site).pad j.place j.count) = (List.range j.count).map fun i => (j.winPos i, s.byte (j.src site).pad (j.place + i)) := by
    rw [Job.winPoss, bytes_eq_map, List.zip_map']
  have hscatter : s.scatterWindow (j.src site) j.ph.part slice j.layout j.origins (j.winPoss.zip (s.bytes (j.src site).pad j.place j.winPoss.length))
      = .ok (s.scattered site j slice) := by
    rw [winPoss_length, hzip, scatterWindow_ok, List.filterMap_map]
    · rfl
    · intro q hq hw
      obtain ⟨i, hi, rfl⟩ := List.mem_map.1 hq
      obtain ⟨h, a, hx, -⟩ := hfind i (List.mem_range.1 hi) hw
      exact ⟨_, hx⟩
  have hany : (s.scattered site j slice).any (fun w => Home.outside w.1) = false := by
    rw [List.any_eq_false]
    exact fun w hw => by simp [(scattered_fits hfind w hw).1]
  have hland : s.landTensor site j true slice = .ok (s.scatter site j slice, j.winPoss.length) := by
    unfold State.landTensor
    dsimp only
    rw [hg, if_pos rfl]
    change (match s.scatterWindow (j.src site) j.ph.part slice j.layout j.origins (j.winPoss.zip (s.bytes (j.src site).pad j.place j.winPoss.length)) with
      | .error e => _ | .ok ws => _) = _
    rw [hscatter]
    dsimp only
    rw [hany, Bool.and_false, if_neg Bool.false_ne_true, State.scatter, State.putRuns, ← winPoss_length]
    rfl
  rw [State.landStep, hf]
  dsimp only
  rw [hland, winPoss_length]

/-- What a byte holds behind a landing step out of the scratchpad. -/
theorem scatter_spec (hfind : s.writesFind site j slice) (hcan : s.canonical = true) :
    s.sameCopies (s.scatter site j slice)
    ∧ ∀ (h : Home) (a : Nat), a < 2 ^ 64 → ((∀ i < j.count, s.stepWrite site j slice i ≠ some (h, a)) → (s.scatter site j slice).byte h a = s.byte h a)
      ∧ ∀ i < j.count, s.stepWrite site j slice i = some (h, a) → (∀ k < j.count, i < k → s.stepWrite site j slice k ≠ some (h, a)) →
        (s.scatter site j slice).byte h a = s.byte (j.src site).pad (j.place + i) := by
  have hkeeps := useBanks_keepsHomes s (j.src site).pad j.place j.count
  obtain ⟨hcopies, hbyte⟩ := putRuns_spec (s.homePoison (j.src site).pad j.place j.count) (joinRuns (s.scattered site j slice)) (hkeeps.canonical hcan)
    (joinRuns_fit fun w hw => (scattered_fits hfind w hw).2)
  refine ⟨sameCopies_trans (useBanks_sameCopies ..) hcopies, fun h a ha => ?_⟩
  have hlatest : (s.scatter site j slice).byte h a = (List.range j.count).foldl
      (fun v i => if s.stepWrite site j slice i = some (h, a) then s.byte (j.src site).pad (j.place + i) else v) (s.byte h a) := by
    rw [State.scatter, hbyte h a ha, (joinRuns_spec _).1, sameStore_byte hkeeps.store, latest, State.scattered, List.foldl_filterMap]
    congr 1
    funext v i
    cases s.stepWrite site j slice i with
    | none => simp
    | some x => simp [Prod.ext_iff]
  rw [hlatest]
  exact foldl_range_latest _ _ _

/-- A landing step of a `copy` out of the scratchpad (R299). -/
theorem copyBytesLand_scatters (hs : site < 288) (hj : s.job? site j.id = some j) (hf : j.cmd.form = .tensor true slice) (hc : j.chained = false)
    (hm : s.mayLand site j = true) (hcan : s.canonical = true) (hn : j.count ≠ 0) (hfind : s.writesFind site j slice) :
    ∃ t, exec (.copyBytesLand site j.id) s = .next t
      ∧ t.phasers = (s.countDown j.ph j.count).phasers ∧ (j.pos + 1 = j.units → t.job? site j.id = none)
      ∧ (j.pos + 1 < j.units → t.job? site j.id = some { j with pos := j.pos + 1 } ∧ landWork (j.src site) j.id ∈ t.work)
      ∧ ∀ (h : Home) (a : Nat), a < 2 ^ 64 → ((∀ i < j.count, s.stepWrite site j slice i ≠ some (h, a)) → t.byte h a = s.byte h a)
        ∧ ∀ i < j.count, s.stepWrite site j slice i = some (h, a) → (∀ k < j.count, i < k → s.stepWrite site j slice k ≠ some (h, a)) →
          t.byte h a = s.byte (j.src site).pad (j.place + i) := by
  obtain ⟨hcopies, hbyte⟩ := scatter_spec hfind hcan
  obtain ⟨t, hnext, hstore, -, hcount, hmore, hlast⟩ := copyBytesLand_single hs hj hm (landStep_scattered hf hn hfind) (by rw [hf]; trivial) hc
    ((job?_congr (hcopies.jobs site) _).trans hj) ⟨rfl, rfl, rfl, rfl, rfl⟩
  refine ⟨t, hnext, hcount.trans (countDown_phasers hcopies.phasers hcopies.mesh ..), hlast, hmore, fun h a ha => ?_⟩
  rw [sameStore_byte hstore]
  exact hbyte h a ha

end land

end Sys2Proof.Machine
end

section
/-! Copies: the events of single copies, of chains and of tensors (O38). -/

namespace Sys2Proof.Machine

/-- Settles O38: bytes of single copies, of chains and of tensors land, and copies and chains end, as the clauses say. -/
theorem copyEvents : Obligations.CopyEvents := by
  unfold Obligations.CopyEvents
  refine ⟨⟨fun site k id detail addr c s hs hcs hcc => ⟨fun hk hf hd => ?fill, fun j hj hf hc hm hcan => ?weave,
    fun j hj hr hc _ => ?fault, fun ch e hch he hl => ?compare⟩,
    fun site id j detail addr s hs hj hc hcid => ⟨fun last ch hf hdev hl hw hm hcan ho hch => ?peer, fun last hf hdev hw hm => ?poison,
      fun ch hch hr => ?fails, fun ch e hch he hone hl hw => ?closes⟩⟩,
    fun site id j out slice s hs _ hj hf hc hm hcan => ?tensor⟩
  case fill =>
    exact ⟨_, ldblkFillComplete_ready hs hk hf hd, (slot_setSlot s site k _ hk k).trans (if_pos rfl),
      fun j hj => (slot_setSlot s site k _ hk j).trans (if_neg hj), State.setTile_mem .., State.setTile_work ..⟩
  case weave =>
    obtain rfl := job?_id hj
    intro src dst from_ n hn hn' to_ h0 h22 hp
    exact copyBytesLand_weave hs hj hf hc hm hcan hn hn' rfl h0 h22 hp
  case fault =>
    exact ⟨_, copyFault_suspends hs hj hr detail addr, suspend_single_spec hj hc detail addr⟩
  case compare =>
    obtain ⟨a, hexec⟩ := chainCompare_compares hcs hcc hch he hl
    refine ⟨fun hagree => ?_, fun hagree htries => ?_, fun hagree htries => ?_⟩
    · rw [if_pos hagree] at hexec
      exact ⟨_, hexec, chainCloses_spec s c ch⟩
    · rw [if_neg hagree, if_pos htries] at hexec
      exact ⟨_, hexec, chainRestarts_spec s c ch⟩
    · rw [if_neg hagree, if_neg htries.not_gt] at hexec
      obtain ⟨hnone, htraps, hgone, -, herrs, hph, hmem⟩ := failChain_spec hch 5 a
      exact ⟨_, a, hexec, hnone, htraps, hgone, herrs, hph, hmem⟩
  case peer =>
    obtain rfl := job?_id hj
    exact copyBytesLand_peer hs hj hc hf hdev hl hw hm hcan ho hch
  case poison =>
    obtain rfl := job?_id hj
    exact copyBytesLand_poisoned hs hj hf hdev hw hm
  case fails =>
    obtain rfl := job?_id hj
    obtain ⟨hexec, hnone, htraps, hgone, hlog, herrs, hph, hmem⟩ := copyFault_chain hs hj hc hch hr detail addr
    exact ⟨_, hexec, hnone, htraps, hgone, hlog, fun x hx hin hadd => herrs x hx (List.contains_iff_mem.1 hin) hadd, hph, hmem⟩
  case closes =>
    obtain rfl := job?_id hj
    exact chainCompare_one hs hcid hch he hone hl hw
  case tensor =>
    obtain rfl := job?_id hj
    intro c l o dim loc g lo n at_ coord edge inside addr reads writes goesOn hn
    refine ⟨fun hout hfound => ?_, fun hout hfound => ?_⟩
    · subst hout
      obtain ⟨t, hnext, hothers, hcount, hlast, hmore, htag, hbyte⟩ := copyBytesLand_gathers hs hj hf hc hm hcan hn (winByte_ok hfound)
      exact ⟨t, hnext, hothers, ⟨hcount, hlast, hmore⟩, htag, fun i hi => ⟨fun hin h a hr => hbyte i hi _ (winByte_within hin hr),
        fun hin h2 h a hr => hbyte i hi _ (winByte_edge hin h2 hr), fun hin h1 => hbyte i hi _ (winByte_pattern hin h1),
        fun hin h3 => hbyte i hi _ (winByte_zero hin (fun e => absurd (e.symm.trans h3) (by decide)) fun e => absurd (e.symm.trans h3) (by decide))⟩⟩
    · subst hout
      have hiff (i : Nat) (h : Home) (a : Nat) : s.stepWrite site j slice i = some (h, a) ↔ writes (lo - loc + i) h a := farWrite_iff
      obtain ⟨t, hnext, hcount, hlast, hmore, hbyte⟩ := copyBytesLand_scatters hs hj hf hc hm hcan hn fun i hi hin => by
        obtain ⟨h, a, hw, ho, ha⟩ := hfound i hi hin
        exact ⟨h, a, (hiff i h a).2 hw, ho, ha⟩
      simp only [hiff, ne_eq] at hbyte
      exact ⟨t, hnext, ⟨hcount, hlast, hmore⟩, hbyte⟩

end Sys2Proof.Machine
end

section
/-! Where an access goes and how its checks fail (R189, R205, R207, R222, R338, R339). -/

namespace Sys2Proof.Machine

/-! ## The checks of R222, in their order -/

theorem locate_misaligned {s : State} {ea : Word} {esz : Nat} (h : ea.toNat % esz ≠ 0) (sp : Space) (n : Nat) (need : Need) :
    s.locate sp ea n esz need = .error (.fault 0x0B need.detail ea) := by
  unfold State.locate
  exact if_pos (bne_iff_ne.2 h)

section aligned
variable {s : State} {ea : Word} {n esz : Nat} (need : Need) (ha : ea.toNat % esz = 0)
include ha

/-- Past the scratchpad's end (R189). -/
theorem locate_loc_past (h : s.padSize s.who.pad < localOff ea + n) :
    s.locate .loc ea n esz need = .error (.error need.detail (BitVec.ofNat 64 (localOff ea))) := by
  have hp : s.inPad (localOff ea) n = false := decide_eq_false (Nat.not_le.2 h)
  simp only [localOff] at hp ⊢
  simp only [State.locate, ha, hp, bne_self_eq_false, Bool.false_eq_true, if_false]

theorem locate_tile {site : Nat} (hs : s.siteOf (ea.extractLsb' 22 12).toNat = some site) (hz : ea.extractLsb' 34 30 = 0)
    (hn : localOff ea + n ≤ 2 ^ 22) : s.locate .tile ea n esz need
      = .ok (.away [⟨0, n, .pool site, localOff ea, false, false, ea, some (ea.extractLsb' 22 12).toNat⟩]) := by
  simp only [localOff] at hn ⊢
  simp only [State.locate, ha, hs, hz, hn, bne_self_eq_false, beq_self_eq_true, decide_true, Bool.and_self, Bool.false_eq_true, if_false, if_true]

/-- A tile number of no active site, a bit set above it, or an offset past the tile's range. -/
theorem locate_tile_fails (h : s.siteOf (ea.extractLsb' 22 12).toNat = none ∨ ea.extractLsb' 34 30 ≠ 0 ∨ 2 ^ 22 < localOff ea + n) :
    s.locate .tile ea n esz need = .error (.error need.detail ea) := by
  simp only [State.locate, ha, bne_self_eq_false, Bool.false_eq_true, if_false]
  cases hs : s.siteOf (ea.extractLsb' 22 12).toNat with
  | none => rfl
  | some site =>
    refine if_neg fun hc => ?_
    simp only [Bool.and_eq_true, beq_iff_eq, decide_eq_true_eq] at hc
    obtain ⟨hz, hn⟩ := hc
    rcases h with h | h | h
    · exact absurd (hs.symm.trans h) (Option.some_ne_none _)
    · exact h hz
    · exact Nat.not_le.2 h hn

theorem locate_slice (hz : ea.extractLsb' 28 36 = 0) (hk : (ea.extractLsb' 23 5).toNat < 24) (hn : (ea.extractLsb' 0 23).toNat + n ≤ 2 ^ 23) :
    s.locate .slice ea n esz need
      = .ok (.away [⟨0, n, .slice (ea.extractLsb' 23 5).toNat, (ea.extractLsb' 0 23).toNat, false, false, ea, none⟩]) := by
  simp only [State.locate, ha, hz, hk, hn, bne_self_eq_false, beq_self_eq_true, decide_true, Bool.and_self, Bool.false_eq_true, if_false, if_true]

/-- A bit set above the slice number, a number of no slice, or an offset past the slice. -/
theorem locate_slice_fails (h : ea.extractLsb' 28 36 ≠ 0 ∨ 24 ≤ (ea.extractLsb' 23 5).toNat ∨ 2 ^ 23 < (ea.extractLsb' 0 23).toNat + n) :
    s.locate .slice ea n esz need = .error (.error need.detail ea) := by
  simp only [State.locate, ha, bne_self_eq_false, Bool.false_eq_true, if_false]
  refine if_neg fun hc => ?_
  simp only [Bool.and_eq_true, beq_iff_eq, decide_eq_true_eq] at hc
  obtain ⟨⟨hz, hk⟩, hn⟩ := hc
  rcases h with h | h | h
  · exact h hz
  · exact Nat.not_le.2 hk h
  · exact Nat.not_le.2 h hn

theorem locate_glob_fails {e : Halt} (h : s.globalLegs ea need (unitPieces ea.toNat n) = .error e) : s.locate .glob ea n esz need = .error e := by
  simp only [State.locate, ha, h, bne_self_eq_false, Bool.false_eq_true, if_false]

end aligned

/-! ## Translations that fail (R205, R338, R339) -/

section translation
variable {s : State} {site : Nat} {pasid : BitVec 20} {p : BitVec 4} {va : Word}

/-- An address that is not in canonical form has no leaf (R205). -/
theorem leafOf_noncanonical (h : va ≠ (va.extractLsb' 0 57).signExtend 64) : s.leafOf site pasid p va = none := by
  have hc : canonical va = false := beq_eq_false_iff_ne.2 (by rwa [BitVec.setWidth_eq_extractLsb' (by decide)])
  simp only [State.leafOf, hc, Bool.false_eq_true, if_false]

theorem pteOk_invalid {e : Word} (h : e.getLsbD 0 = false) (sh : Nat) : pteOk e sh = false := by
  simp only [pteOk, pteV, h, Bool.false_and]

/-- An L5 entry that is not valid gives no leaf (R338, R339). -/
theorem leafOf_invalidL5 {root : Nat} (ht : s.tlbHit site pasid (va.extractLsb' 0 57).toNat = none) (hr : s.pasidRoot pasid p = some root)
    (hv : s.word .dram (root + 8 * (va.extractLsb' 48 9).toNat) 8 % 2 = 0) : s.leafOf site pasid p va = none := by
  rw [← BitVec.setWidth_eq_extractLsb' (by decide)] at ht
  have hi : (va.setWidth 57).toNat / 2 ^ 48 % 512 = (va.extractLsb' 48 9).toNat := by
    simp only [BitVec.toNat_setWidth, BitVec.extractLsb'_toNat, Nat.shiftRight_eq_div_pow]
    omega
  have he : (BitVec.ofNat 64 (s.word .dram (root + 8 * (va.extractLsb' 48 9).toNat) 8)).getLsbD 0 = false := by
    simp only [BitVec.getLsbD_ofNat, Nat.testBit_zero, hv]
    rfl
  simp only [State.leafOf, ht, hr, Option.bind_some, State.walk, hi, pteOk_invalid he, Bool.not_false, if_true, ite_self]

theorem translate_noPage {need : Need} (h : s.leafOf site (s.part p).pasid p va = none) : s.translate site p va need = .noPage := by
  simp only [State.translate, State.translateUnder, h]

theorem translate_denied {need : Need} {e : Word} {b : Nat} (h : s.leafOf site (s.part p).pasid p va = some (e, b)) (hn : need.allowed e = false) :
    s.translate site p va need = .denied := by
  simp only [State.translate, State.translateUnder, h, hn, Bool.false_eq_true, if_false]

end translation

/-! ## Accesses of the global space (R207) -/

/-- The first piece of an access begins where the access does. -/
theorem unitPieces_zero (a n : Nat) : ∃ len, (unitPieces a n)[0]? = some (0, len) := by
  by_cases hn : n = 0
  · exact ⟨0, by rw [unitPieces, if_pos hn]; rfl⟩
  · have hr : 0 < (a + n - 1) / 256 + 1 - a / 256 := by omega
    have hp : Max.max a (256 * (a / 256)) - a = 0 := by omega
    simp only [unitPieces, granulesOf, if_neg hn, List.getElem?_map, List.getElem?_range hr, Option.map_some, Nat.add_zero, hp]
    exact ⟨_, rfl⟩

section global
variable {s : State} {ea : Word} {need : Need}

/-- An access fails at its first piece that does not translate. -/
theorem globalLegs_fails {q : Nat × Nat} {e : Halt} (he : ∀ r, s.globalLegs ea need (q :: r) = .error e) (k : Nat) :
    ∀ ps : List (Nat × Nat), ps[k]? = some q →
      (∀ j < k, ∀ q', ps[j]? = some q' → ∃ pl, s.translate s.who.site s.ctx.part (ea + BitVec.ofNat 64 q'.1) need = .ok pl) →
      s.globalLegs ea need ps = .error e := by
  induction k with
  | zero =>
    rintro (_ | ⟨a, r⟩) hk _
    · cases hk
    · cases hk
      exact he r
  | succ k ih =>
    rintro (_ | ⟨⟨pos, len⟩, r⟩) hk hb
    · cases hk
    · obtain ⟨pl, hpl⟩ := hb 0 (Nat.succ_pos k) _ rfl
      have hr := ih r hk fun j hj => hb (j + 1) (Nat.succ_lt_succ hj)
      simp only [State.globalLegs, hpl, hr]

/-- The access fails so where that piece has no leaf, or one that does not permit it. -/
theorem locate_glob_piece {n esz k pos len : Nat} (ha : ea.toNat % esz = 0) (hk : (unitPieces ea.toNat n)[k]? = some (pos, len))
    (hb : ∀ j < k, ∀ q, (unitPieces ea.toNat n)[j]? = some q → ∃ pl, s.translate s.who.site s.ctx.part (ea + BitVec.ofNat 64 q.1) need = .ok pl) :
    (s.translate s.who.site s.ctx.part (ea + BitVec.ofNat 64 pos) need = .noPage →
      s.locate .glob ea n esz need = .error (.fault 0x08 need.detail (ea + BitVec.ofNat 64 pos)))
    ∧ (s.translate s.who.site s.ctx.part (ea + BitVec.ofNat 64 pos) need = .denied →
      s.locate .glob ea n esz need = .error (.fault 0x09 need.detail (ea + BitVec.ofNat 64 pos))) :=
  ⟨fun h => locate_glob_fails need ha (globalLegs_fails (fun r => by simp only [State.globalLegs, h]) k _ hk hb),
    fun h => locate_glob_fails need ha (globalLegs_fails (fun r => by simp only [State.globalLegs, h]) k _ hk hb)⟩

/-- The same at the access's own address, where its first piece begins. -/
theorem locate_glob_first {esz : Nat} (ha : ea.toNat % esz = 0) (n : Nat) :
    (s.translate s.who.site s.ctx.part ea need = .noPage → s.locate .glob ea n esz need = .error (.fault 0x08 need.detail ea))
    ∧ (s.translate s.who.site s.ctx.part ea need = .denied → s.locate .glob ea n esz need = .error (.fault 0x09 need.detail ea)) := by
  obtain ⟨len, hlen⟩ := unitPieces_zero ea.toNat n
  have h := locate_glob_piece (s := s) (need := need) ha hlen fun j hj => absurd hj (Nat.not_lt_zero j)
  rwa [show ea + BitVec.ofNat 64 0 = ea from BitVec.add_zero ea] at h

end global

/-! ## Loads and stores that trap (R222) -/

section traps
variable {s : State} {h : Hdr} {ty : Fmt} {sp : Space} {r : BitVec 6} {m : MemOp} {code : BitVec 8} {v : Word} (hs : s.trapsEnter)
  (hi : s.mayIssue h (MemOp.srcs m ++ [.x r]))
include hs hi

/-- An `ld` whose access fails with a fault takes it. -/
theorem ld_enters (hl : s.locate sp (m.addr s.xval) (ty.width / 8) (ty.width / 8) .read = .error (.fault code Need.read.detail v)) (ssel : BitVec 2)
    (hint : Hint) : ∃ t, exec (.ld h ty sp r m ssel hint) s = .next t ∧ s.entersHandler t code 0x01 v := by
  refine ⟨s.raise code 0x01 v false, ?_, raise_enters hs ..⟩
  simp only [exec, execLd, State.load, hl]
  exact congrArg Host.Outcome.next (issue_error _ (by simpa [Form.regs] using hi.2) hi.1)

/-- An `st` whose access fails with a fault takes it. -/
theorem st_enters (hl : s.locate sp (m.addr s.xval) (ty.width / 8) (ty.width / 8) .write = .error (.fault code Need.write.detail v)) (hint : Hint) :
    ∃ t, exec (.st h ty sp r m hint) s = .next t ∧ s.entersHandler t code 0x02 v := by
  refine ⟨s.raise code 0x02 v false, ?_, raise_enters hs ..⟩
  simp only [exec, execSt, State.store, leBytes_length, hl]
  exact congrArg Host.Outcome.next (issue_error _ (by simpa [Form.regs] using hi.2) hi.1)

end traps

/-- Settles O19: each check in its order (`State.locate`), the first piece that does not translate, and the trap of an `ld` or `st` that fails so. -/
theorem accessChecks : Obligations.AccessChecks := by
  unfold Obligations.AccessChecks
  refine ⟨⟨fun s ea n esz need => ⟨fun sp h => locate_misaligned h sp n need, fun ha => ⟨fun h => locate_loc need ⟨ha, decide_eq_true h⟩,
      locate_loc_past need ha, fun _ => locate_tile need ha, locate_tile_fails need ha, locate_slice need ha, locate_slice_fails need ha⟩⟩,
    fun h ty sp r m ssel hint s hs hi ha => ⟨ld_enters hs hi (locate_misaligned ha ..) ssel hint, st_enters hs hi (locate_misaligned ha ..) hint⟩⟩,
    fun h ty r m ssel hint s => ?_⟩
  intro pasid leaf lacks barred
  have denied {va : Word} {need : Need} : barred va need → s.translate s.who.site s.ctx.part va need = .denied := by
    rintro ⟨e, b, hl, hk⟩
    refine translate_denied hl ?_
    cases need with
    | read | write | fetch => exact hk
    | both => exact Bool.and_eq_false_iff.2 hk
  refine ⟨fun va => leafOf_noncanonical, fun va root => leafOf_invalidL5, fun ea n esz need k pos len ha hk hb => ?_, fun hs hi => ?_⟩
  · obtain ⟨hnone, hdenied⟩ := locate_glob_piece ha hk hb
    exact ⟨fun h => hnone (translate_noPage h), fun h => hdenied (denied h)⟩
  · intro ea traps ha
    have stops (need : Need) := locate_glob_first (s := s) (need := need) ha (ty.width / 8)
    exact ⟨fun hl => ⟨ld_enters hs hi ((stops .read).1 (translate_noPage hl)) ssel hint, st_enters hs hi ((stops .write).1 (translate_noPage hl)) hint⟩,
      fun hl => ld_enters hs hi ((stops .read).2 (denied hl)) ssel hint, fun hl => st_enters hs hi ((stops .write).2 (denied hl)) hint⟩

end Sys2Proof.Machine
end

section
/-! Phasers: their words after each event, the completion of a phase, and refusals (R350, R355, R356, R360). -/

namespace Sys2Proof.Machine

/-! ## One phaser written -/

/-- `t` is `s` but for the phaser that `m` names, which is `x`, and for `more` work under way; memory is as before. -/
def State.phaserAt (s t : State) (m : PhMsg) (x : Phaser) (more : List Work) : Prop :=
  t.phaser m.site m.idx = x ∧ t.work = s.work ++ more ∧ t.mem = s.mem
    ∧ ∀ site idx, phaserKey site idx ≠ phaserKey m.site m.idx → t.phaser site idx = s.phaser site idx

section written
variable {s : State} (hs : s.canonical = true)
include hs

theorem canonical_phasers : clWf Phaser.reset s.phasers = true := by
  obtain ⟨-, -, -, -, -, hp, -⟩ := (canonical_iff s).1 hs
  exact hp

/-- A read after a write, wherever the list of phasers stands. -/
theorem phaser_of_set {t : State} {site idx : Nat} {x : Phaser} (ht : t.phasers = (s.setPhaser site idx x).phasers) (site' idx' : Nat) :
    t.phaser site' idx' = if phaserKey site' idx' = phaserKey site idx then x else s.phaser site' idx' := by
  rw [State.phaser, ht]
  exact clGet_set (canonical_phasers hs) ..

theorem phaserAt_of_set {t : State} {m : PhMsg} {x : Phaser} {more : List Work} (hp : t.phasers = (s.setPhaser m.site m.idx x).phasers)
    (hw : t.work = s.work ++ more) (hm : t.mem = s.mem) : s.phaserAt t m x more :=
  ⟨(phaser_of_set hs hp ..).trans (if_pos rfl), hw, hm, fun _ _ h => (phaser_of_set hs hp ..).trans (if_neg h)⟩

theorem setPhaser_canonical (site idx : Nat) (x : Phaser) : (s.setPhaser site idx x).canonical = true := by
  obtain ⟨h1, h2, h3, h4, h5, h6, h7⟩ := (canonical_iff s).1 hs
  exact (canonical_iff _).2 ⟨h1, h2, h3, h4, h5, clSet_wf h6 _ x, h7⟩

/-- A phaser written twice. -/
theorem phaserAt_twice {t : State} {m : PhMsg} {x y : Phaser} {more : List Work} (hp : t.phasers = ((s.setPhaser m.site m.idx x).setPhaser m.site m.idx y).phasers)
    (hw : t.work = s.work ++ more) (hm : t.mem = s.mem) : s.phaserAt t m y more := by
  have h := phaser_of_set (setPhaser_canonical hs m.site m.idx x) hp
  refine ⟨(h ..).trans (if_pos rfl), hw, hm, fun site idx hk => ?_⟩
  rw [h, if_neg hk, phaser_of_set hs rfl, if_neg hk]

end written

/-! ## Completion (R355, R360) -/

/-- A wait's phase has passed. -/
def Phaser.wakes (x : Phaser) (w : PWait) : Bool := decide (1 ≤ (x.phase - w.p).toNat ∧ (x.phase - w.p).toNat ≤ 2 ^ 31)

/-- A phaser after an event that may complete its phase. -/
def Phaser.settled (x : Phaser) : Phaser :=
  if x.ready then { x.advance with waits := x.waits.filter fun w => !x.advance.wakes w } else x

/-- The waits that such an event answers. -/
def Phaser.answers (x : Phaser) : List Work := if x.ready then (x.waits.filter x.advance.wakes).map x.advance.answer else []

theorem passed_iff (x : Phaser) (q : BitVec 32) : x.passed q = true ↔ 1 ≤ (x.phase - q).toNat ∧ (x.phase - q).toNat ≤ 2 ^ 31 := by
  simp only [Phaser.passed, Bool.and_eq_true, decide_eq_true_eq]

theorem passed_eq_wakes (x : Phaser) (w : PWait) : x.passed w.p = x.wakes w := by
  rw [Bool.eq_iff_iff, passed_iff, Phaser.wakes, decide_eq_true_iff]

theorem completePhaser_eq (s : State) (site idx : Nat) (x : Phaser) :
    s.completePhaser site idx x = (s.setPhaser site idx x.settled).sendAll x.answers := by
  unfold State.completePhaser Phaser.settled Phaser.answers
  simp only [passed_eq_wakes]
  split
  · rfl
  · simp only [State.sendAll, List.append_nil]

theorem completePhaser_phaserAt {s : State} (hs : s.canonical = true) (m : PhMsg) (x : Phaser) :
    s.phaserAt (s.completePhaser m.site m.idx x) m x.settled x.answers := by
  rw [completePhaser_eq]
  exact phaserAt_of_set hs rfl rfl rfl

/-! ## Refusals (R209, R356) -/

/-- `t` is `s` after a refused message: no phaser changed, the refusal logged, acknowledged, and recorded for its sender. -/
def State.phaserRefused (s t : State) (m : PhMsg) : Prop :=
  t.phasers = s.phasers ∧ t.mem = s.mem ∧ t.work = s.work ++ [ackWork m.src]
    ∧ (t.part m.part).errlog = (s.part m.part).errlog ++ [⟨m.ref, 4⟩]
    ∧ (m.src.site < 288 → (t.getCtx m.src).refusals = (s.getCtx m.src).refusals ++ [⟨siteScope m.src m.site, m.ref⟩])

/-- A refused effect changes its sender's context and the log. -/
theorem refuse_eq (s : State) (c : Src) (p : BitVec 4) (addr : Word) (sc : Scope) (why : ErrReason) :
    ∃ y l, s.refuse c p addr sc why = { s.logError p addr why with ctx := y, parkedCtx := l } := by
  unfold State.refuse
  dsimp only
  split
  · exact ⟨s.ctx, s.parkedCtx, rfl⟩
  · exact setCtx_eq ..

section event
variable {s : State} {m : PhMsg} {f : Phaser → Option Phaser} {g : Phaser → State}

theorem phaserEvent_taken {x : Phaser} (ha : (s.logicalOf m.site).isSome = true) (hx : f (s.phaser m.site m.idx) = some x) :
    s.phaserEvent m f g = (g x).send (ackWork m.src) := by
  simp only [State.phaserEvent, ha, hx, if_true]

/-- A message that its phaser refuses, or that finds no active site. -/
theorem phaserEvent_refused (h : ¬(s.logicalOf m.site).isSome = true ∨ f (s.phaser m.site m.idx) = none) : s.phaserRefused (s.phaserEvent m f g) m := by
  have hn : (if (s.logicalOf m.site).isSome = true then f (s.phaser m.site m.idx) else none) = none := by
    rcases h with h | h
    · exact if_neg h
    · rw [h, ite_self]
  have e : s.phaserEvent m f g = (s.refuse m.src m.part m.ref (siteScope m.src m.site) 4).send (ackWork m.src) := by
    simp only [State.phaserEvent, hn]
  obtain ⟨y, l, er⟩ := refuse_eq s m.src m.part m.ref (siteScope m.src m.site) 4
  rw [e]
  refine ⟨by rw [er]; rfl, by rw [er]; rfl, by rw [er]; rfl, ?_, fun hm => (refuse_spec s hm ..).2.2⟩
  rw [er]
  exact congrArg Partition.errlog (part_logError ..)

end event

/-! ## Registration, drop and signal (R356) -/

section changes
variable {p : Phaser} {part : BitVec 4} {mode : BitVec 2}

theorem foreign_iff : p.foreign part = true ↔ p.v = true ∧ p.part ≠ part := by
  simp only [Phaser.foreign, Bool.and_eq_true, bne_iff_ne]

theorem foreign_eq_false : p.foreign part = false ↔ p.v = false ∨ p.part = part := by
  rw [← Bool.not_eq_true, foreign_iff, not_and_or, Bool.not_eq_true, not_not]

/-- Most events ask for a phaser in use by the partition itself. -/
theorem notOwn_iff : (!p.v || p.part != part) = true ↔ ¬(p.v = true ∧ p.part = part) := by
  simp only [Bool.or_eq_true, Bool.not_eq_true', bne_iff_ne, not_and_or, Bool.not_eq_true, ne_eq]

/-- A registration is refused of another partition's phaser, and where a count is full. -/
theorem registerRefused_iff : (p.foreign part || (mode.getLsbD 0 && p.smem.toNat + p.snext.toNat = 65535) || (mode.getLsbD 1 && p.wmem.toNat = 65535)) = true
    ↔ (p.v = true ∧ p.part ≠ part) ∨ (mode.getLsbD 0 = true ∧ p.smem.toNat + p.snext.toNat = 65535) ∨ (mode.getLsbD 1 = true ∧ p.wmem = 65535) := by
  have hw : p.wmem.toNat = 65535 ↔ p.wmem = 65535 := (BitVec.toNat_eq (y := 65535)).symm
  simp only [Bool.or_eq_true, Bool.and_eq_true, decide_eq_true_eq, foreign_iff, hw, or_assoc]

/-- A drop is refused of a phaser that is not the partition's own, and where a count is empty. -/
theorem dropRefused_iff : (!p.v || p.part != part || (mode.getLsbD 0 && p.smem = 0) || (mode.getLsbD 1 && p.wmem = 0)) = true
    ↔ ¬(p.v = true ∧ p.part = part) ∨ (mode.getLsbD 0 = true ∧ p.smem = 0) ∨ (mode.getLsbD 1 = true ∧ p.wmem = 0) := by
  rw [Bool.or_eq_true, Bool.or_eq_true, notOwn_iff]
  simp only [Bool.and_eq_true, decide_eq_true_eq, or_assoc]

/-- A registration counts a signal membership now, or behind the phase under way. -/
def Phaser.registered (p : Phaser) (part : BitVec 4) (mode : BitVec 2) (sc : Scope) : Phaser :=
  { p with
    v := true
    part := part
    scope := if p.v then p.scope else scopeCode sc
    smem := if mode.getLsbD 0 ∧ p.sig = 0 then p.smem + 1 else p.smem
    snext := if mode.getLsbD 0 ∧ p.sig ≠ 0 then p.snext + 1 else p.snext
    wmem := if mode.getLsbD 1 then p.wmem + 1 else p.wmem }

theorem counts_signal (q : Phaser) (b : Bool) :
    (if b then (if q.sig = 0 then { q with smem := q.smem + 1 } else { q with snext := q.snext + 1 }) else q)
      = { q with smem := if b ∧ q.sig = 0 then q.smem + 1 else q.smem, snext := if b ∧ q.sig ≠ 0 then q.snext + 1 else q.snext } := by
  cases b
  · rfl
  · by_cases h : q.sig = 0#16 <;> simp [h]

theorem register_eq_some (sc : Scope) (hp : p.v = false ∨ p.part = part) (hs : mode.getLsbD 0 = true → p.smem.toNat + p.snext.toNat ≠ 65535)
    (hw : mode.getLsbD 1 = true → p.wmem ≠ 65535) : p.register part mode sc = some (p.registered part mode sc) := by
  have hn : ¬((p.v = true ∧ p.part ≠ part) ∨ (mode.getLsbD 0 = true ∧ p.smem.toNat + p.snext.toNat = 65535) ∨ (mode.getLsbD 1 = true ∧ p.wmem = 65535)) := by
    rintro (⟨h1, h2⟩ | ⟨h1, h2⟩ | ⟨h1, h2⟩)
    · exact hp.elim (fun h => Bool.false_ne_true (h.symm.trans h1)) h2
    · exact hs h1 h2
    · exact hw h1 h2
  have hv : (if p.v = true then p else { p with v := true, part := part, scope := scopeCode sc })
      = { p with v := true, part := part, scope := if p.v then p.scope else scopeCode sc } := by
    obtain ⟨phase, pend, smem, sig, snext, wmem, v, err, lerr, scope, part', waits⟩ := p
    cases v
    · rfl
    · obtain rfl := hp.resolve_left Bool.noConfusion
      rfl
  refine (if_neg fun h => hn (registerRefused_iff.1 h)).trans (congrArg some ?_)
  rw [hv, counts_signal]
  unfold Phaser.registered
  cases mode.getLsbD 1
  · rfl
  · rfl

/-- A drop before completion and freeing. -/
def Phaser.dropped (p : Phaser) (mode : BitVec 2) : Phaser :=
  { p with
    smem := if mode.getLsbD 0 then p.smem - 1 else p.smem
    wmem := if mode.getLsbD 1 then p.wmem - 1 else p.wmem }

theorem drop_eq_some (h : p.v = true ∧ p.part = part) (hs : mode.getLsbD 0 = true → p.smem ≠ 0) (hw : mode.getLsbD 1 = true → p.wmem ≠ 0) :
    p.drop part mode = some (p.dropped mode) := by
  refine (if_neg fun hn => ?_).trans (congrArg some ?_)
  · rcases dropRefused_iff.1 hn with h1 | ⟨h1, h2⟩ | ⟨h1, h2⟩
    · exact h1 h
    · exact hs h1 h2
    · exact hw h1 h2
  · unfold Phaser.dropped
    cases mode.getLsbD 0 <;> cases mode.getLsbD 1 <;> rfl

theorem freed_eq (x : Phaser) : x.freed =
    if x.smem = 0 ∧ x.snext = 0 ∧ x.wmem = 0 ∧ x.pend = 0 then { x with v := false, err := false, lerr := false, scope := 0, part := 0 } else x := by
  simp only [Phaser.freed, Bool.and_eq_true, beq_iff_eq, and_assoc]

/-- The count of signals saturates. -/
def Phaser.signalled (p : Phaser) : Phaser := { p with sig := if p.sig = 65535 then 65535 else p.sig + 1 }

theorem signal_eq_none (h : ¬(p.v = true ∧ p.part = part)) : p.signal part = none := if_pos (notOwn_iff.2 h)

theorem signal_eq_some (h : p.v = true ∧ p.part = part) : p.signal part = some p.signalled := by
  refine (if_neg fun hn => notOwn_iff.1 hn h).trans ?_
  unfold Phaser.signalled
  split
  · next e => rw [e]
  · rfl

end changes

section messages
variable {s : State} {m : PhMsg} (hs : s.canonical = true) (ha : (s.logicalOf m.site).isSome = true)
include hs ha

theorem phaserSignal_counts (h : (s.phaser m.site m.idx).v = true ∧ (s.phaser m.site m.idx).part = m.part) : ∃ t, exec (.phaserSignal m) s = .next t
    ∧ s.phaserAt t m (s.phaser m.site m.idx).signalled.settled ((s.phaser m.site m.idx).signalled.answers ++ [ackWork m.src]) := by
  refine ⟨_, congrArg Host.Outcome.next (phaserEvent_taken ha (signal_eq_some h)), ?_⟩
  rw [completePhaser_eq]
  exact phaserAt_of_set hs rfl (List.append_assoc ..) rfl

theorem phaserRegistration_counts {mode : BitVec 2} {sc : Scope} {x : Phaser} (hx : (s.phaser m.site m.idx).register m.part mode sc = some x) :
    ∃ t, exec (.phaserRegistration m mode sc) s = .next t ∧ s.phaserAt t m x [ackWork m.src] :=
  ⟨_, congrArg Host.Outcome.next (phaserEvent_taken ha hx), phaserAt_of_set hs rfl rfl rfl⟩

/-- A drop of a signal membership may complete the phase; a phaser left without members and bytes is then freed (R355). -/
theorem phaserDrop_counts {mode : BitVec 2} {x : Phaser} (hx : (s.phaser m.site m.idx).drop m.part mode = some x) :
    ∃ t, exec (.phaserDrop m mode) s = .next t ∧ s.phaserAt t m (if mode.getLsbD 0 then x.settled else x).freed
      ((if mode.getLsbD 0 then x.answers else []) ++ [ackWork m.src]) := by
  refine ⟨_, congrArg Host.Outcome.next (phaserEvent_taken ha hx), ?_⟩
  cases mode.getLsbD 0
  · simp only [Bool.false_eq_true, if_false, phaser_of_set hs rfl, if_true]
    exact phaserAt_twice hs rfl rfl rfl
  · simp only [if_true, completePhaser_eq]
    rw [phaser_of_set (t := (s.setPhaser m.site m.idx x.settled).sendAll x.answers) hs rfl, if_pos rfl]
    exact phaserAt_twice hs rfl (List.append_assoc ..) rfl

end messages

end Sys2Proof.Machine
end

section
/-! Byte additions, error arrivals and waits at a phaser, and the statement about its events (R230, R241, R242, R350, R355, R360). -/

namespace Sys2Proof.Machine

/-! ## Additions (R239, R356) -/

/-- The bytes still to land, where they fit; else all ones, with the error noted. -/
def Phaser.added (p : Phaser) (n : Nat) : Phaser :=
  if p.pend.toNat + n < 2 ^ 32 then { p with pend := p.pend + BitVec.ofNat 32 n } else { p with pend := 0xFFFFFFFF, err := true }

theorem addBytes_eq_none {p : Phaser} {part : BitVec 4} (h : ¬(p.v = true ∧ p.part = part)) (n : Nat) : p.addBytes part n = none :=
  if_pos (notOwn_iff.2 h)

theorem addBytes_eq_some {p : Phaser} {part : BitVec 4} (h : p.v = true ∧ p.part = part) (n : Nat) : p.addBytes part n = some (p.added n) := by
  refine (if_neg fun hn => notOwn_iff.1 hn h).trans ?_
  unfold Phaser.added
  by_cases hf : p.pend.toNat + n < 2 ^ 32
  · rw [if_neg (by omega), if_pos hf]
  · rw [if_pos (by omega), if_neg hf]

/-- The phaser that a message names is in use by its partition, at an active site. -/
def State.phaserOwn (s : State) (m : PhMsg) : Prop :=
  (s.logicalOf m.site).isSome = true ∧ (s.phaser m.site m.idx).v = true ∧ (s.phaser m.site m.idx).part = m.part

section here
variable {s : State} {m : PhMsg} (hd : m.dev = Config.device)
include hd

theorem phReached_here : s.phReached m = (s.logicalOf m.site).isSome := if_pos hd

theorem addedBytes_own (h : s.phaserOwn m) (n : Nat) : s.addedBytes m n = (s.setPhaser m.site m.idx ((s.phaser m.site m.idx).added n), false) := by
  obtain ⟨ha, ho⟩ := h
  simp only [State.addedBytes, phReached_here hd, ha, hd, addBytes_eq_some ho, Bool.not_true, Bool.false_eq_true, if_false, if_true]

theorem addedBytes_refused (h : ¬s.phaserOwn m) (n : Nat) : s.addedBytes m n = (s, true) := by
  simp only [State.addedBytes, phReached_here hd, hd, if_true]
  split
  · rfl
  · next ha =>
    rw [Bool.not_eq_true', Bool.not_eq_false] at ha
    rw [addBytes_eq_none fun ho => h ⟨ha, ho⟩]

theorem phaserErrorArrival_counts (hs : s.canonical = true) (ha : (s.logicalOf m.site).isSome = true) (n : Nat) :
    ∃ t, exec (.phaserErrorArrival m n) s = .next t
      ∧ s.phaserAt t m ({ (s.phaser m.site m.idx).countDown n with err := true } : Phaser).settled
        ({ (s.phaser m.site m.idx).countDown n with err := true } : Phaser).answers := by
  refine ⟨_, ?_, completePhaser_phaserAt hs m _⟩
  simp only [exec, execPhaserErrorArrival, phReached_here hd, ha, hd, Bool.not_true, Bool.false_eq_true, if_false, if_true]

end here

theorem phaserErrorArrival_unreached {s : State} {m : PhMsg} (h : s.phReached m = false) (n : Nat) :
    exec (.phaserErrorArrival m n) s = .next (s.logError m.part m.ref 4) := by
  simp only [exec, execPhaserErrorArrival, h, Bool.not_false, if_true]

/-! ## What an addition leads to (R230, R239, R241, R242) -/

section addition
variable {s t : State} {m : PhMsg} {n : Nat}

theorem fromPeer_false (h : m.src.site < 288) : fromPeer m = false := decide_eq_false (Nat.not_le.2 h)

theorem fromPeer_true (h : 288 ≤ m.src.site) : fromPeer m = true := decide_eq_true h

/-- The copy behind an addition: none in this package for a peer's. -/
theorem additionCopy_none {id : Nat} (h : 288 ≤ m.src.site ∨ s.job? m.src.site id = none) : (if fromPeer m then none else s.job? m.src.site id) = none := by
  rcases h with h | h
  · rw [fromPeer_true h, if_pos rfl]
  · rw [h, ite_self]

section taken
variable (ht : s.addedBytes m n = (t, false))
include ht

/-- Taken, its copy's bytes may land. -/
theorem phaserByteAddition_lands {id : Nat} {j : Job} (hm : m.src.site < 288) (hj : s.job? m.src.site id = some j) : exec (.phaserByteAddition m n id) s
    = .next ((t.modJob m.src.site id fun j => { j with added := true, refused := false }).send (landWork (j.src m.src.site) id)) := by
  simp only [exec, execPhaserByteAddition, ht, fromPeer_false hm, hj, Bool.false_eq_true, if_false]

/-- A peer's stands. -/
theorem phaserByteAddition_peer (hm : 288 ≤ m.src.site) (id : Nat) : exec (.phaserByteAddition m n id) s = .next t := by
  simp only [exec, execPhaserByteAddition, ht, fromPeer_true hm, if_true]

/-- One whose copy is gone counts down at once at the own tile, and is followed by an error arrival at another. -/
theorem phaserByteAddition_orphan {id : Nat} (hm : m.src.site < 288) (hj : s.job? m.src.site id = none) : exec (.phaserByteAddition m n id) s
    = .next (if m.tile.isNone then t.countDown m n else t.depart (errorWork m n)) := by
  simp only [exec, execPhaserByteAddition, ht, fromPeer_false hm, hj, Bool.false_eq_true, if_false]

end taken

section refused
variable (ht : s.addedBytes m n = (t, true))
include ht

theorem phaserByteAddition_suspends {id : Nat} {j : Job} (hm : m.src.site < 288) (hj : s.job? m.src.site id = some j) : exec (.phaserByteAddition m n id) s
    = .next ((t.modJob m.src.site id fun j => { j with refused := true }).suspend m.src.site id 4 m.ref) := by
  simp only [exec, execPhaserByteAddition, ht, fromPeer_false hm, hj, Bool.false_eq_true, if_false]

theorem phaserByteAddition_logs {id : Nat} (h : 288 ≤ m.src.site ∨ s.job? m.src.site id = none) : exec (.phaserByteAddition m n id) s
    = .next (t.logError m.part m.ref 4) := by
  simp only [exec, execPhaserByteAddition, ht, additionCopy_none h]

end refused
end addition

/-! ## A refused copy is suspended (R242) -/

theorem work_postTrap (s : State) (c : Src) (x : ATrap) {w : Work} (h : w ∈ (s.postTrap c x).work) : w ∈ s.work ∨ w = wakeWork c := by
  unfold State.postTrap at h
  dsimp only at h
  split at h
  · rw [State.send_work, State.setCtx_work, List.mem_append, List.mem_singleton] at h
    exact h
  · rw [State.setCtx_work] at h
    exact .inl h

theorem dropFill_keeps (s : State) (site id : Nat) (j : Job) : (s.dropFill site id j).phasers = s.phasers ∧ (s.dropFill site id j).work = s.work := by
  obtain ⟨t, l, e⟩ := dropFill_eq s site id j
  rw [e]
  exact ⟨rfl, rfl⟩

/-- A copy whose addition was refused is suspended without an error arrival. -/
theorem suspend_refused {s : State} {site id : Nat} {j : Job} (hj : s.job? site id = some j) (hc : j.chained = false) (detail : BitVec 8) (addr : Word) :
    let t := (s.modJob site id fun j => { j with refused := true }).suspend site id detail addr
    t.phasers = s.phasers ∧ t.mem = s.mem ∧ t.job? site id = some { j with refused := true, suspended := true }
      ∧ (t.getCtx (j.src site)).traps = (s.getCtx (j.src site)).traps ++ [.copyFault id detail addr]
      ∧ (t.part j.ph.part).errlog = (s.part j.ph.part).errlog ++ [⟨addr, 3⟩]
      ∧ ∀ w ∈ t.work, w ∈ s.work ∨ w = wakeWork (j.src site) := by
  have hu := job?_modJob hj (fun j => { j with refused := true }) fun _ => rfl
  obtain ⟨t1, l1, eu⟩ : ∃ t l, s.modJob site id (fun j => { j with refused := true }) = { s with tile := t, parkedTile := l } := modTile_eq ..
  generalize s.modJob site id (fun j => { j with refused := true }) = u at hu eu ⊢
  obtain ⟨hjob, htraps, hlog, -, hmem, -⟩ := suspend_single_spec hu hc detail addr
  have hs := suspend_single hu hc detail addr
  have e := suspend_single hu hc detail addr
  simp only [Bool.true_or, if_true] at e
  have hph : (u.suspend site id detail addr).phasers = u.phasers := by
    rw [e]
    exact (postTrap_sameCopies ..).phasers.trans ((dropFill_keeps ..).1.trans (State.setTile_phasers ..))
  have hwork {w : Work} (h : w ∈ (u.suspend site id detail addr).work) : w ∈ u.work ∨ w = wakeWork (j.src site) := by
    rw [e] at h
    have hw := work_postTrap _ _ _ h
    rw [(dropFill_keeps ..).2, State.modJob, State.modTile, State.setTile_work] at hw
    exact hw
  subst eu
  exact ⟨hph, hmem, hjob, htraps, hlog, fun w => hwork⟩

/-- An addition that is refused where it is served, or on its way over a link. -/
theorem phaserByteAddition_refused {s t : State} {m : PhMsg} {n id : Nat} {j : Job} (ht : s.addedBytes m n = (t, true))
    (hk : ∃ l f, t = { s with links := l, fresh := f }) (hm : m.src.site < 288) (hj : s.job? m.src.site id = some j) (hc : j.chained = false) :
    ∃ u, exec (.phaserByteAddition m n id) s = .next u ∧ u.phasers = s.phasers ∧ u.mem = s.mem
      ∧ u.job? m.src.site id = some { j with refused := true, suspended := true }
      ∧ (u.getCtx (j.src m.src.site)).traps = (s.getCtx (j.src m.src.site)).traps ++ [.copyFault id 0x04 m.ref]
      ∧ (u.part j.ph.part).errlog = (s.part j.ph.part).errlog ++ [⟨m.ref, 3⟩]
      ∧ ∀ w ∈ u.work, w ∈ s.work ∨ w = wakeWork (j.src m.src.site) := by
  obtain ⟨l, f, rfl⟩ := hk
  exact ⟨_, phaserByteAddition_suspends ht hm hj, suspend_refused (s := { s with links := l, fresh := f }) hj hc 4 m.ref⟩

/-- What an addition that is taken leaves beside the phaser. -/
theorem lands_spec {s : State} {site id : Nat} {j : Job} (hj : s.job? site id = some j) (w : Work) :
    let t := (s.modJob site id fun j => { j with added := true, refused := false }).send w
    t.phasers = s.phasers ∧ t.mem = s.mem ∧ t.links = s.links ∧ t.work = s.work ++ [w] ∧ t.job? site id = some { j with added := true, refused := false } := by
  have hjob := job?_modJob hj (fun j => { j with added := true, refused := false }) fun _ => rfl
  exact ⟨State.setTile_phasers .., State.setTile_mem .., State.setTile_links .., congrArg (· ++ [w]) (State.setTile_work ..), hjob⟩

/-! ## Additions of this package (R230, R241, R242) -/

section own
variable {s : State} {m : PhMsg} (hs : s.canonical = true) (hd : m.dev = Config.device) (ho : s.phaserOwn m)
include hs hd ho

theorem phaserByteAddition_taken {id : Nat} {j : Job} (n : Nat) (hm : m.src.site < 288) (hj : s.job? m.src.site id = some j) :
    ∃ t, exec (.phaserByteAddition m n id) s = .next t
      ∧ s.phaserAt t m ((s.phaser m.site m.idx).added n) [landWork (j.src m.src.site) id]
      ∧ t.job? m.src.site id = some { j with added := true, refused := false } := by
  obtain ⟨hp, hmem, -, hw, hjob⟩ := lands_spec (s := s.setPhaser m.site m.idx ((s.phaser m.site m.idx).added n)) hj (landWork (j.src m.src.site) id)
  exact ⟨_, phaserByteAddition_lands (addedBytes_own hd ho n) hm hj, phaserAt_of_set hs hp hw hmem, hjob⟩

theorem phaserByteAddition_fromPeer (n id : Nat) (hm : 288 ≤ m.src.site) :
    ∃ t, exec (.phaserByteAddition m n id) s = .next t ∧ s.phaserAt t m ((s.phaser m.site m.idx).added n) [] :=
  ⟨_, phaserByteAddition_peer (addedBytes_own hd ho n) hm id, phaserAt_of_set hs rfl (List.append_nil _).symm rfl⟩

section orphan
variable {id : Nat} (n : Nat) (hm : m.src.site < 288) (hj : s.job? m.src.site id = none)
include hm hj

/-- Its bytes follow as an error arrival (log 60). -/
theorem phaserByteAddition_erred (htile : m.tile.isSome = true) : ∃ t, exec (.phaserByteAddition m n id) s = .next t
    ∧ s.phaserAt t m ((s.phaser m.site m.idx).added n) [s.routed (errorWork m n)] := by
  have e := phaserByteAddition_orphan (addedBytes_own hd ho n) hm hj
  rw [if_neg (by rw [Option.isNone_iff_eq_none]; exact Option.ne_none_iff_isSome.2 htile)] at e
  exact ⟨_, e, phaserAt_of_set hs rfl rfl rfl⟩

/-- Its bytes count down at once, which may complete the phase. -/
theorem phaserByteAddition_countsDown (htile : m.tile = none) : ∃ t, exec (.phaserByteAddition m n id) s = .next t
    ∧ s.phaserAt t m (((s.phaser m.site m.idx).added n).countDown n).settled (((s.phaser m.site m.idx).added n).countDown n).answers := by
  have e := phaserByteAddition_orphan (addedBytes_own hd ho n) hm hj
  have hg : (decide (m.dev = Config.device) && (s.logicalOf m.site).isSome) = true := by rw [hd, ho.1, decide_eq_true rfl, Bool.and_self]
  have hnow : (s.setPhaser m.site m.idx ((s.phaser m.site m.idx).added n)).phNow m = m := by simp only [State.phNow, htile]
  have hc : (s.setPhaser m.site m.idx ((s.phaser m.site m.idx).added n)).countDown m n
      = (s.setPhaser m.site m.idx ((s.phaser m.site m.idx).added n)).completePhaser m.site m.idx (((s.phaser m.site m.idx).added n).countDown n) := by
    simp only [State.countDown, hnow]
    refine (if_pos hg).trans ?_
    rw [phaser_of_set hs rfl, if_pos rfl]
  rw [if_pos (by rw [htile]; rfl), hc, completePhaser_eq] at e
  exact ⟨_, e, phaserAt_twice hs rfl rfl rfl⟩

end orphan
end own

/-! ## Phasers of a peer device (R350, R356) -/

section peer
variable {s : State} {m : PhMsg} (hd : m.dev ≠ Config.device)
include hd

theorem phReached_peer : s.phReached m = ((s.peerLink m.dev).st == 3) := if_neg hd

theorem addedBytes_linkUp (hu : (s.peerLink m.dev).st = 3) (n : Nat) : s.addedBytes m n
    = ({ s.carried (.peerPool m.dev (m.tile.getD 0)) with fresh := s.fresh + 1 }, Config.peerRefuses s.fresh) := by
  simp only [State.addedBytes, phReached_peer hd, hu, hd, beq_self_eq_true, Bool.not_true, Bool.false_eq_true, if_false]

theorem addedBytes_linkDown (hu : (s.peerLink m.dev).st ≠ 3) (n : Nat) : s.addedBytes m n = (s, true) := by
  simp only [State.addedBytes, phReached_peer hd, beq_eq_false_iff_ne.2 hu, Bool.not_false, if_true]

theorem phaserErrorArrival_carried (hu : (s.peerLink m.dev).st = 3) (n : Nat) :
    exec (.phaserErrorArrival m n) s = .next (s.carried (.peerPool m.dev (m.tile.getD 0))) := by
  simp only [exec, execPhaserErrorArrival, phReached_peer hd, hu, hd, beq_self_eq_true, Bool.not_true, Bool.false_eq_true, if_false]

/-- Refused by the peer, or bound for a link that is not up. -/
theorem addedBytes_peerRefuses (h : ¬(s.peerLink m.dev).st = 3 ∨ Config.peerRefuses s.fresh = true) (n : Nat) :
    ∃ t, s.addedBytes m n = (t, true) ∧ ∃ l f, t = { s with links := l, fresh := f } := by
  by_cases hu : (s.peerLink m.dev).st = 3
  · have hr := h.resolve_left (not_not.2 hu)
    exact ⟨{ s.carried (.peerPool m.dev (m.tile.getD 0)) with fresh := s.fresh + 1 }, by rw [addedBytes_linkUp hd hu, hr], _, _, rfl⟩
  · exact ⟨s, addedBytes_linkDown hd hu n, s.links, s.fresh, rfl⟩

end peer

/-! ## Waits (R360) -/

section waits
variable {s : State} {m : PhMsg} {q : BitVec 32} (id : Nat)

theorem phaserWaitArrival_answered (ha : (s.logicalOf m.site).isSome = true) (hp : (s.phaser m.site m.idx).foreign m.part = false)
    (hq : (s.phaser m.site m.idx).passed q = true) : exec (.phaserWaitArrival m q id) s
      = .next (s.send (answerWork ⟨m.src, id, [(s.phaser m.site m.idx).status true], false, 0⟩)) := by
  simp only [exec, execPhaserWaitArrival, Phaser.test, ha, hp, hq, Bool.not_true, Bool.or_self, Bool.false_eq_true, if_false, if_true]

theorem phaserWaitArrival_held (ho : s.phaserOwn m) (hq : (s.phaser m.site m.idx).passed q = false) : exec (.phaserWaitArrival m q id) s
    = .next (s.setPhaser m.site m.idx { s.phaser m.site m.idx with waits := (s.phaser m.site m.idx).waits ++ [⟨m.src, id, q⟩] }) := by
  obtain ⟨ha, hv, hp⟩ := ho
  have hf := foreign_eq_false.2 (.inr hp)
  simp only [exec, execPhaserWaitArrival, Phaser.test, ha, hf, hq, hv, Bool.not_true, Bool.or_self, Bool.false_eq_true, if_false, if_true]

theorem phaserWaitArrival_refused (h : ¬(s.logicalOf m.site).isSome = true ∨ (s.phaser m.site m.idx).foreign m.part = true
    ∨ ((s.phaser m.site m.idx).v = false ∧ (s.phaser m.site m.idx).passed q = false)) :
    exec (.phaserWaitArrival m q id) s = .next ((s.logError m.part m.ref 4).send (answerWork ⟨m.src, id, [], false, 0⟩)) := by
  have ht : (s.phaser m.site m.idx).test (s.logicalOf m.site).isSome m.part q = .refused := by
    unfold Phaser.test
    rcases h with h | h | ⟨hv, hq⟩
    · rw [if_pos (by rw [Bool.not_eq_true] at h; rw [h]; rfl)]
    · rw [if_pos (by rw [h, Bool.or_true])]
    · rw [hv, hq]
      exact ite_self _
  simp only [exec, execPhaserWaitArrival, ht]

end waits

/-! ## The obligation -/

/-- Settles O36: what each event leaves of its phaser, its refusals, and what becomes of an addition here and at a peer device. -/
theorem phaserEvents : Obligations.PhaserEvents := by
  unfold Obligations.PhaserEvents
  refine ⟨fun m mode sc n id q s hs hd => ?here, fun m n id s hd hm => ?peer⟩
  case here =>
    intro p active ok sig wt stands full next passed after answers freed refuses
    have inactive (h : ¬active) : s.phReached m = false := (phReached_here hd).trans (Bool.not_eq_true _ ▸ h)
    have notOwn (h : ¬ok) : ¬active ∨ ¬(p.v = true ∧ p.part = m.part) := not_and_or.1 h
    refine ⟨fun ho => phaserSignal_counts hs ho.1 ho.2, fun ho => ?signalRefused, fun ho hsig hwt => ?register, fun h => ?registerRefused,
      fun ho hsig hwt => ?drop, fun h => ?dropRefused, fun ha => phaserErrorArrival_counts hd hs ha n,
      fun ha => phaserErrorArrival_unreached (inactive ha) n, ⟨fun hm j hj => ⟨fun ho => phaserByteAddition_taken hs hd ho n hm hj,
        fun ho hc => phaserByteAddition_refused (addedBytes_refused hd ho n) ⟨_, _, rfl⟩ hm hj hc⟩,
      fun hm ho => phaserByteAddition_fromPeer hs hd ho n id hm, fun hgone => ?orphan⟩, ?wait⟩
    case signalRefused => exact ⟨_, rfl, phaserEvent_refused ((notOwn ho).imp_right signal_eq_none)⟩
    case register =>
      have ha : active := ho.elim (·.1) (·.1)
      have hp : p.v = false ∨ p.part = m.part := ho.elim (fun h => .inr h.2.2) (fun h => .inl h.2)
      exact phaserRegistration_counts hs ha (register_eq_some sc hp hsig hwt)
    case registerRefused => exact ⟨_, rfl, phaserEvent_refused (h.imp_right fun h => if_pos (registerRefused_iff.2 h))⟩
    case drop =>
      have h := phaserDrop_counts hs ho.1 (drop_eq_some ho.2 hsig hwt)
      rw [freed_eq] at h
      exact h
    case dropRefused =>
      have hr (h : ¬(p.v = true ∧ p.part = m.part) ∨ (sig = true ∧ p.smem = 0) ∨ (wt = true ∧ p.wmem = 0)) : p.drop m.part mode = none :=
        if_pos (dropRefused_iff.2 h)
      rcases h with ho | hc
      · exact ⟨_, rfl, phaserEvent_refused ((notOwn ho).imp_right fun ho => hr (.inl ho))⟩
      · exact ⟨_, rfl, phaserEvent_refused (.inr (hr (.inr hc)))⟩
    case orphan =>
      have gone (hm : m.src.site < 288) : s.job? m.src.site id = none := hgone.resolve_left (Nat.not_le.2 hm)
      exact ⟨fun ho hm ht => phaserByteAddition_erred hs hd ho n hm (gone hm) ht, fun ho hm ht => phaserByteAddition_countsDown hs hd ho n hm (gone hm) ht,
        fun ho => phaserByteAddition_logs (addedBytes_refused hd ho n) hgone⟩
    case wait =>
      intro d
      have hq : p.passed q = true ↔ 1 ≤ d ∧ d ≤ 2 ^ 31 := passed_iff p q
      have late (h : ¬(1 ≤ d ∧ d ≤ 2 ^ 31)) : p.passed q = false := Bool.eq_false_iff.2 (hq.not.2 h)
      exact ⟨fun ha hp h1 h2 => phaserWaitArrival_answered id ha (foreign_eq_false.2 hp) (hq.2 ⟨h1, h2⟩),
        fun ho hl => ⟨_, phaserWaitArrival_held id ho (late hl), phaserAt_of_set hs rfl (List.append_nil _).symm rfl⟩,
        fun h => phaserWaitArrival_refused id (h.imp_right (Or.imp foreign_iff.2 (And.imp_right late)))⟩
  case peer =>
    intro home up
    refine ⟨fun hu => phaserErrorArrival_carried hd hu n, fun hu => phaserErrorArrival_unreached ?_ n, fun j hj => ⟨fun hu hr => ?_, fun h hc => ?_⟩⟩
    · exact (phReached_peer hd).trans (beq_eq_false_iff_ne.2 hu)
    · have ht := addedBytes_linkUp hd hu n
      rw [hr] at ht
      obtain ⟨hp, hmem, hl, hw, hjob⟩ := lands_spec (s := { s.carried home with fresh := s.fresh + 1 }) hj (landWork (j.src m.src.site) id)
      exact ⟨_, phaserByteAddition_lands ht hm hj, hp, hmem, hw, hjob, hl⟩
    · obtain ⟨t, ht, hk⟩ := addedBytes_peerRefuses hd h n
      obtain ⟨u, e, hp, hmem, hjob, htraps, -, -⟩ := phaserByteAddition_refused ht hk hm hj hc
      exact ⟨u, e, hp, hmem, hjob, htraps⟩

end Sys2Proof.Machine
end
